-- ==== Sys2Proof/Word.lean ====
section
/-! DEFINITION. The word types of the GL1 model and the sparse map type. All multi-byte values are little-endian (R5); unsigned arithmetic wraps (R6). -/

namespace Sys2Proof

/-- One byte of device memory. -/
abbrev Byte := BitVec 8
/-- A 32-bit value of the manual's u32. -/
abbrev W32 := BitVec 32
/-- A 64-bit register, counter or u64 value. -/
abbrev W64 := BitVec 64
/-- One stored E8M39 accumulator (R91). -/
abbrev AccBits := BitVec 48

/-- Sparse data by key: strictly rising keys, no entry holding the default value. -/
abbrev SMap (β : Type) := List (Nat × β)

end Sys2Proof
end

