-- ==== Sys2Proof/Syntax.lean ====
section
/-! DEFINITION. The commands of the GL1 block: one constructor per row of the opcode table, with the row's operands. -/

namespace Sys2Proof

/-- A session of the Video Codec Cluster (R352): a live stream of a feed, or a VDEC or VENC operation in flight. -/
inductive VccSession where
  | live (c : Fin 8) (feed : Fin 4) (stream : Fin 32)
  | op (c : Fin 8) (opIndex : Nat)
  deriving DecidableEq, Repr

/-- What the Borer finds in one run of a unit (R523): whether the active image holds a stored comparison value, the logic signature and whether it differs from that value, how many words failed, and where: Quarry columns as (plane, physical column), Stockpile lines, whether Sump words failed. -/
structure BistOutcome where
  stored : Bool
  signature : BitVec 64
  logicFail : Bool
  badWords : Nat
  columns : List (Fin 8 × Fin 33)
  lines : List (Fin 4194304)
  sump : Bool
  deriving DecidableEq, Repr

/-- How a start-up goes (R477, R478), which the module's hardware decides: whether each bank of region 0 fails its checks although it holds an image, whether the booted image reaches FW_STATE 2, what the Borer finds as (unit class, instance, outcome), near-tier channels that fail training, near-tier rows that fail, each as its channel with its place in it, whether a far-tier channel fails, and whether the panel is outside 0 to 50 °C. -/
structure StartOutcome where
  badBank0 : Bool
  badBank1 : Bool
  reaches : Bool
  bist : List (Fin 17 × Fin 16 × BistOutcome)
  deadChans : List (Fin 256)
  nearRows : List (BitVec 29)
  farFail : Bool
  cold : Bool
  deriving DecidableEq, Repr

/-- A command. `c` is a context number; `aged` says that the unit's head of that context has been ready for more than 4,096 cycles (R161). Other operands are described beside the meaning of each row. -/
inductive Instr where
  /-- NOP (R155). OSQ control operation that does nothing beyond its waits and signals. -/
  | nop (c : Fin 8)
  /-- STEP_ADVANCE (R156). Waits for all earlier operations of the context, writes back its ledger entries and adds 1 to STEP. -/
  | stepAdvance (c : Fin 8)
  /-- TALLY_SET (R157). Control operation that sets each enabled tally to its VALUE in one Quarry cycle. -/
  | tallySet (c : Fin 8)
  /-- SHAPE_SET (R155). Control operation that writes each enabled shape word as one 32-bit access. -/
  | shapeSet (c : Fin 8)
  /-- QMM (R113). One matrix instruction that accumulates A times B into a Sump region, or runs on the Chisel by route. -/
  | qmm (c : Fin 8) (aged : Bool)
  /-- QMM_BATCH (R128). Runs up to 256 matrix instructions from an entry list back to back on the Quarry. -/
  | qmmBatch (c : Fin 8) (aged : Bool)
  /-- QDRAIN (R130). Narrows a Sump region into a Stockpile tensor through the narrowing stage. -/
  | qdrain (c : Fin 8) (aged : Bool)
  /-- QFILL (R131). Sets a Sump region to beta times C. -/
  | qfill (c : Fin 8) (aged : Bool)
  /-- QZERO (R131). Sets whole Sump slots to +0. -/
  | qzero (c : Fin 8) (aged : Bool)
  /-- CMV (R177). Chisel multiplies up to 8 rows by a weight matrix and writes narrowed results. -/
  | cmv (c : Fin 8) (aged : Bool)
  /-- EW (R185). Dressing element-wise function over its inputs. -/
  | ew (c : Fin 8) (face : Fin 4) (aged : Bool)
  /-- ACT (R186). Dressing activation f(x). -/
  | act (c : Fin 8) (face : Fin 4) (aged : Bool)
  /-- ACT_BWD (R186). Dressing activation gradient dy times f'(x). -/
  | actBwd (c : Fin 8) (face : Fin 4) (aged : Bool)
  /-- NORM (R188). Dressing layer, group or RMS normalisation with optional statistics. -/
  | norm (c : Fin 8) (face : Fin 4) (aged : Bool)
  /-- NORM_BWD (R189). Dressing normalisation backward pass, with gamma and beta gradients. -/
  | normBwd (c : Fin 8) (face : Fin 4) (aged : Bool)
  /-- SMX (R190). Dressing softmax of each dimension-0 row with statistics. -/
  | smx (c : Fin 8) (face : Fin 4) (aged : Bool)
  /-- SMX_BWD (R191). Dressing softmax backward pass. -/
  | smxBwd (c : Fin 8) (face : Fin 4) (aged : Bool)
  /-- SMX_MERGE (R192). Combines two partial attention outputs with their statistics. -/
  | smxMerge (c : Fin 8) (face : Fin 4) (aged : Bool)
  /-- RED (R193). Dressing reduction over the named dimensions. -/
  | red (c : Fin 8) (face : Fin 4) (aged : Bool)
  /-- CVT (R197). Dressing format conversion of each element. -/
  | cvt (c : Fin 8) (face : Fin 4) (aged : Bool)
  /-- SPLIT3 (R197). Writes the three BF16 pieces of an FP32 tensor. -/
  | split3 (c : Fin 8) (face : Fin 4) (aged : Bool)
  /-- ES_ACC (R194). Adds or sets an exact-sum i64 buffer from converted contributions. -/
  | esAcc (c : Fin 8) (face : Fin 4) (aged : Bool)
  /-- ES_FINAL (R194). Converts an exact-sum buffer back to a floating output. -/
  | esFinal (c : Fin 8) (face : Fin 4) (aged : Bool)
  /-- GATHER (R195). Copies rows of SRC named by IDX into DST. -/
  | gather (c : Fin 8) (face : Fin 4) (aged : Bool)
  /-- SCATTER (R195). Writes rows of SRC into the DST rows named by IDX. -/
  | scatter (c : Fin 8) (face : Fin 4) (aged : Bool)
  /-- SCATTER_ADD (R195). Adds rows of SRC into the DST rows named by IDX. -/
  | scatterAdd (c : Fin 8) (face : Fin 4) (aged : Bool)
  /-- ADAMW (R198). Updates weights and moments in place by the AdamW rule. -/
  | adamw (c : Fin 8) (face : Fin 4) (aged : Bool)
  /-- CGQ (R233). Crusher gradient quantization with optional error feedback. -/
  | cgq (c : Fin 8) (face : Fin 4) (aged : Bool)
  /-- CGDQ (R234). Crusher decodes a packed gradient and writes, adds or exact-sum adds it. -/
  | cgdq (c : Fin 8) (face : Fin 4) (aged : Bool)
  /-- CPROBE (R235). Crusher packs and decodes a tensor at a rate and writes error statistics. -/
  | cprobe (c : Fin 8) (face : Fin 4) (aged : Bool)
  /-- SPUT (R206). Stashes a tensor under a handle according to its policy. -/
  | sput (c : Fin 8) (aged : Bool)
  /-- SGET (R207). Restores the stash of a handle into a destination tensor. -/
  | sget (c : Fin 8) (aged : Bool)
  /-- SRAISE (R213). Copies a far or host stored form unexpanded into the near pool. -/
  | sraise (c : Fin 8) (aged : Bool)
  /-- SFREE (R207). Releases COUNT handles and their granules without restoring. -/
  | sfree (c : Fin 8) (aged : Bool)
  /-- HCOPY (R164). Hauler copies a tensor, packing or expanding through the Crusher where asked. -/
  | hcopy (c : Fin 8) (die : Fin 6) (engine : Fin 8) (aged : Bool)
  /-- HSET (R165). Hauler writes a pattern into every element of a tensor. -/
  | hset (c : Fin 8) (die : Fin 6) (engine : Fin 8) (aged : Bool)
  /-- CATTN (R254). Canopy attends queries against Ringstore pages and writes outputs and statistics. -/
  | cattn (c : Fin 8) (aged : Bool) (swapFail : Option Nat)
  /-- RAPPEND (R261). Quantizes and appends keys and values to Ringstore sequences. -/
  | rappend (c : Fin 8) (aged : Bool) (swapFail : Option Nat)
  /-- RSEQ_OPEN (R272). Opens a closed sequence as resident with length 0. -/
  | rseqOpen (c : Fin 8) (aged : Bool) (swapFail : Option Nat)
  /-- RSEQ_CLOSE (R272). Closes a sequence and frees its frames, tables and slot. -/
  | rseqClose (c : Fin 8) (aged : Bool)
  /-- RSEQ_PRIORITY (R272). Sets a sequence's priority. -/
  | rseqPriority (c : Fin 8) (aged : Bool)
  /-- RSEQ_TRUNCATE (R272). Truncates a sequence to a shorter length and frees pages beyond it. -/
  | rseqTruncate (c : Fin 8) (aged : Bool) (swapFail : Option Nat)
  /-- RSEQ_EVICT (R272). Swaps a resident sequence out to its swap image. -/
  | rseqEvict (c : Fin 8) (aged : Bool) (swapFail : Option Nat)
  /-- RSEQ_FETCH (R272). Swaps a swapped sequence back in. -/
  | rseqFetch (c : Fin 8) (aged : Bool) (swapFail : Option Nat)
  /-- EROUTE (R282). Splitter routes tokens to experts under top-k and capacity. -/
  | eroute (c : Fin 8) (face : Fin 4) (aged : Bool)
  /-- COMPACT (R286). Splitter lists the kept rows of a mask with a count. -/
  | compact (c : Fin 8) (face : Fin 4) (aged : Bool)
  /-- MGATE (R288). Splitter classifies tokens as active or static from motion words. -/
  | mgate (c : Fin 8) (face : Fin 4) (aged : Bool)
  /-- CWRITE (R416). Copies a local tensor to a remote tensor and optionally signals a remote tally. -/
  | cwrite (c : Fin 8) (half : Fin 2) (aged : Bool)
  /-- CREAD (R416). Copies a remote tensor into a local one. -/
  | cread (c : Fin 8) (half : Fin 2) (aged : Bool)
  /-- CSIGNAL (R416). Adds to a remote tally. -/
  | csignal (c : Fin 8) (half : Fin 2) (aged : Bool)
  /-- CRS (R409). Reduce-scatter over a group. -/
  | crs (c : Fin 8) (half : Fin 2) (aged : Bool)
  /-- CAG (R409). All-gather over a group. -/
  | cag (c : Fin 8) (half : Fin 2) (aged : Bool)
  /-- CAR (R409). All-reduce over a group. -/
  | car (c : Fin 8) (half : Fin 2) (aged : Bool)
  /-- CA2A_DISPATCH (R418). Sends each expert's rows to the member that holds the expert. -/
  | ca2aDispatch (c : Fin 8) (half : Fin 2) (aged : Bool)
  /-- CA2A_COMBINE (R418). Returns expert results to the ranks that sent the rows. -/
  | ca2aCombine (c : Fin 8) (half : Fin 2) (aged : Bool)
  /-- CPERMUTE (R421). Re-shards bytes across a group by a move list in rounds. -/
  | cpermute (c : Fin 8) (half : Fin 2) (aged : Bool)
  /-- CLEDGER (R420). Agrees ledger amaxes of a slot range across a group. -/
  | cledger (c : Fin 8) (half : Fin 2) (aged : Bool)
  /-- CDIGEST (R424). Computes and all-gathers tensor digests and compares them. -/
  | cdigest (c : Fin 8) (half : Fin 2) (aged : Bool)
  /-- TFEED (R320). Starts a dataset feed that publishes batches into a ring. -/
  | tfeed (c : Fin 8) (aged : Bool)
  /-- TLIVE (R341). Starts a live set that ingests sensor streams into ticks. -/
  | tlive (c : Fin 8) (aged : Bool)
  /-- TSTOP (R346). Stops a feed, after finishing its batch or at once. -/
  | tstop (c : Fin 8) (aged : Bool)
  /-- TSTATE (R347). Writes a feed's position and state. -/
  | tstate (c : Fin 8) (aged : Bool)
  /-- VDEC (R358). Decodes selected frames of a bitstream into frames and motion words. -/
  | vdec (c : Fin 8) (aged : Bool)
  /-- VENC (R364). Encodes frames into a bitstream. -/
  | venc (c : Fin 8) (aged : Bool)
  /-- BOXDEC (R247). Decodes anchor-relative box deltas. -/
  | boxdec (c : Fin 8) (face : Fin 4) (aged : Bool)
  /-- BOXSEL (R248). Selects and sorts qualifying box candidates. -/
  | boxsel (c : Fin 8) (face : Fin 4) (aged : Bool)
  /-- NMS (R249). Greedy non-maximum suppression of candidates. -/
  | nms (c : Fin 8) (face : Fin 4) (aged : Bool)
  /-- ARGMAX (R250). Takes the argmax over dimension 0 with an optional prior. -/
  | argmax (c : Fin 8) (face : Fin 4) (aged : Bool)
  /-- PACKAGE_START (R135). OSQ checks a package header when it starts to run, after the previous package ends. -/
  | packageStart (c : Fin 8)
  /-- ENVELOPE_DISPATCH (R138). OSQ checks an envelope and places it in its unit queue once a queue entry is free. -/
  | envelopeDispatch (c : Fin 8)
  /-- WAIT_TIMEOUT (R160). A queue head whose waits stay unmet for WAIT_LIMIT ends with WAIT_TIMEOUT. -/
  | waitTimeout (c : Fin 8) (cls : Fin 14) (inst : Nat)
  /-- OPERATION_COMPLETION (R143). An operation ends, signals its tallies and writes its completion record. -/
  | operationCompletion (c : Fin 8) (opIndex : Nat)
  /-- HAZARD_RANGE_RELEASE (R166). A Hauler operation waiting on a hazard conflict begins its transfer once ranges free. -/
  | hazardRangeRelease (c : Fin 8) (die : Fin 6) (engine : Fin 8)
  /-- PREFETCH_SIGNAL (R419). A collective that waits 1 microsecond on a peer adds 1 to its PF_TALLY. -/
  | prefetchSignal (c : Fin 8) (opIndex : Nat)
  /-- TAPROOT_SAMPLE (R325). The Taproot checks, decodes and transforms the next sample of a running feed. -/
  | taprootSample (c : Fin 8) (feed : Fin 4)
  /-- BATCH_PUBLISH (R320). A filled batch is published once its buffer is free and READY is signalled. -/
  | batchPublish (c : Fin 8) (feed : Fin 4)
  /-- LIVE_DATAGRAM_RECEIVE (R339). A live-sensor datagram is checked, reassembled and decoded. -/
  | liveDatagramReceive (port : Fin 2) (udpPort : BitVec 16) (len : Nat) (data : Nat)
  /-- LIVE_TICK (R341). At tick time plus HOLD the live set selects frames and publishes or skips the tick. -/
  | liveTick (c : Fin 8) (feed : Fin 4)
  /-- VCC_PICTURE (R352). A session granted cores decodes or encodes one picture. -/
  | vccPicture (session : VccSession)
  /-- IMAGE_RETIRE (R445). An old firmware image retires once nothing runs on it, and anti-rollback rises. -/
  | imageRetire (region : Fin 5)
  /-- SQ_DOORBELL (R431). Host write of MBX_SQ_TAIL announcing new submission entries. -/
  | sqDoorbell (value : BitVec 64)
  /-- CQ_DOORBELL (R431). Host write of MBX_CQ_HEAD releasing consumed completion entries. -/
  | cqDoorbell (value : BitVec 64)
  /-- RING_ENABLE (R430). Write of MBX_CTRL.ENABLE 0 to 1 sets up and checks the rings. -/
  | ringEnable (value : BitVec 64)
  /-- RING_DISABLE (R430). Write of MBX_CTRL.ENABLE 0 stops taking commands. -/
  | ringDisable (value : BitVec 64)
  /-- MBX_IRQ_CLEAR (R426). W1C write of MBX_IRQ that re-arms the MSI-X vector once every enabled cause is clear. -/
  | mbxIrqClear (value : BitVec 64)
  /-- MODULE_RESET (R470). MBX_RESET.MODULE_RESET with key starts a warm module reset after 1 ms. -/
  | moduleReset (value : BitVec 64)
  /-- FOREMAN_RESTART (R428). MBX_RESET.FOREMAN_RESTART ends contexts, abandons commands and reboots the Foreman. -/
  | foremanRestart (value : BitVec 64) (badBank0 : Bool) (badBank1 : Bool)
  /-- RECOVERY_IMAGE_LOAD (R483). Writing the recovery key into MBX_SCRATCH1 makes the boot ROM check and install an image. -/
  | recoveryImageLoad (value : BitVec 64) (outcome : StartOutcome)
  /-- EVENTS_LOST (R439). Once room permits, the Foreman posts the counts of lost events. -/
  | eventsLost
  /-- IDENTIFY (R441). Writes the identify data. -/
  | identify (place : Nat)
  /-- HEALTH (R442). Writes the health data. -/
  | health (place : Nat)
  /-- CFG_GET (R443). Returns a configuration item. -/
  | cfgGet (place : Nat)
  /-- CFG_SET (R443). Sets a configuration item. -/
  | cfgSet (place : Nat)
  /-- FW_STAGE (R445). Copies an image into a region's inactive bank and verifies it. -/
  | fwStage (place : Nat)
  /-- FW_ACTIVATE (R445). Makes the staged image active. -/
  | fwActivate (place : Nat)
  /-- FW_STATUS (R444). Returns a region's active and staged versions and state. -/
  | fwStatus (place : Nat)
  /-- CAL_READ (R447). Returns factory, offset and effective calibration values. -/
  | calRead (place : Nat)
  /-- CAL_WRITE (R488). Writes or clears calibration user offsets in flash. -/
  | calWrite (place : Nat)
  /-- BIST_RUN (R448). Runs logic or memory BIST on an idle unit and returns the result. -/
  | bistRun (place : Nat) (outcome : BistOutcome)
  /-- REPAIR_MAP_OUT (R314). Maps out a near-tier channel in service and moves its granules. -/
  | repairMapOut (place : Nat)
  /-- REPAIR_UNMAP (R449). Removes a channel from the repair record for the next start-up. -/
  | repairUnmap (place : Nat)
  /-- REPAIR_LANE_SWAP (R449). Moves a logical Jalpin lane to its spare. -/
  | repairLaneSwap (place : Nat)
  /-- LABEL_UPDATE (R450). Requests a label drawing carrying a note. -/
  | labelUpdate (place : Nat)
  /-- CTX_OPEN (R452). Checks a context configuration and opens the context. -/
  | ctxOpen (place : Nat)
  /-- CTX_CLOSE (R454). Aborts packages, stops feeds and releases a context's resources. -/
  | ctxClose (place : Nat)
  /-- CTX_QUERY (R440). Returns a context's state, Sump allocation and STEP. -/
  | ctxQuery (place : Nat)
  /-- CTX_MAP (R455). Replaces range map entries of an idle context. -/
  | ctxMap (place : Nat)
  /-- PKG_SUBMIT (R456). Submits a work package to a context. -/
  | pkgSubmit (place : Nat)
  /-- PKG_RETRY (R158). Re-fetches failed operations of a halted package and resumes. -/
  | pkgRetry (place : Nat)
  /-- PKG_SKIP (R158). Signals the failed operations' tallies without executing and resumes. -/
  | pkgSkip (place : Nat)
  /-- PKG_ABORT (R158). Withdraws frozen and undispatched operations of a halted package as CANCELLED. -/
  | pkgAbort (place : Nat)
  /-- TALLY_READ (R457). Returns tally values of a context. -/
  | tallyRead (place : Nat)
  /-- TALLY_SET_CMD (R457). Mailbox command that sets tallies of a context in ascending order. -/
  | tallySetCmd (place : Nat)
  /-- LEDGER_READ (R458). Returns Scale Ledger entries from the ledger cache. -/
  | ledgerRead (place : Nat)
  /-- LEDGER_WRITE (R458). Writes Scale Ledger entries into the cache and HBM. -/
  | ledgerWrite (place : Nat)
  /-- STASH_WRITE (R459). Writes mapper fields of free stash handle entries. -/
  | stashWrite (place : Nat)
  /-- CKPT_SAVE (R461). Writes a checkpoint image of a context to its destinations. -/
  | ckptSave (place : Nat)
  /-- CKPT_RESTORE (R462). Verifies and applies sections of a checkpoint image. -/
  | ckptRestore (place : Nat)
  /-- FAB_RECORD (R463). Writes a fabric record to flash, applying it at once on an unassigned module. -/
  | fabRecord (place : Nat)
  /-- FAB_ROUTE (R464). Writes route table entries into both live tables. -/
  | fabRoute (place : Nat)
  /-- FAB_TUNNEL_OPEN (R464). Opens a JoU tunnel from a tunnel block. -/
  | fabTunnelOpen (place : Nat)
  /-- FAB_TUNNEL_CLOSE (R464). Closes a tunnel and discards its buffers. -/
  | fabTunnelClose (place : Nat)
  /-- FAB_PORT_DISABLE (R464). Takes a Jalpin port down and keeps it down. -/
  | fabPortDisable (place : Nat)
  /-- FAB_PORT_ENABLE (R464). Enables and trains a Jalpin port. -/
  | fabPortEnable (place : Nat)
  /-- FAB_PORT_RETRAIN (R464). Retrains a Jalpin port. -/
  | fabPortRetrain (place : Nat)
  /-- TIME_READ (R465). Writes the elapsed-time counter, OFFSET and time state. -/
  | timeRead (place : Nat)
  /-- TIME_CONFIG (R465). Selects the time source and PTP domain and ports. -/
  | timeConfig (place : Nat)
  /-- TRACE_CONFIG (R528). Sets the trace buffer and source mask. -/
  | traceConfig (place : Nat)
  /-- TRACE_START (R528). Starts tracing at record 0. -/
  | traceStart (place : Nat)
  /-- TRACE_STOP (R528). Writes staged records and stops tracing. -/
  | traceStop (place : Nat)
  /-- TRACE_FLUSH (R528). Writes staged records and continues tracing. -/
  | traceFlush (place : Nat)
  /-- LOG_READ (R518). Writes error records from a sequence number onwards. -/
  | logRead (place : Nat)
  /-- PWR_CAP (R497). Sets the input power cap. -/
  | pwrCap (place : Nat)
  /-- PWR_RETAIN (R296). Sets Stockpile retention groups ON, RETAIN or OFF. -/
  | pwrRetain (place : Nat)
  /-- BAR2_ACCESS (R33). Host read or write through a BAR2 aperture to device memory. -/
  | bar2Access (write : Bool) (addr : Nat) (len : Nat) (data : Nat)
  /-- BAR2_RESIZE (R33). A change of BAR2 size resets every aperture register. -/
  | bar2Resize (size : Fin 6)
  /-- TIM_ELAPSED_READ (R513). Read of TIM_ELAPSED that latches OFFSET for the next TIM_OFFSET read. -/
  | timElapsedRead
  /-- QRY_PERF_CLEAR (R108). Write of 1 to QRY_PERF_CTL.CLEAR zeroes the Quarry counters. -/
  | qryPerfClear (freeze : Bool)
  /-- CLEAR_PEAK (R215). Write of STASH_PERF_CTL.CLEAR_PEAK sets selected PEAK counters to HELD. -/
  | clearPeak (mask : BitVec 8)
  /-- CRU_PERF_CLEAR (R237). Write of 1 to CRU_PERF_CTL.CLEAR zeroes the Crusher counters. -/
  | cruPerfClear (freeze : Bool)
  /-- RS_PERF_CLEAR (R275). Write of 1 to RS_PERF_CTL.CLEAR zeroes the Canopy and Ringstore counters. -/
  | rsPerfClear (freeze : Bool)
  /-- SPL_PERF_CLEAR (R291). Write of 1 to SPL_PERF_CTL.CLEAR zeroes the Splitter counters. -/
  | splPerfClear (freeze : Bool)
  /-- MEM_PERF_CLEAR (R317). Write of 1 to MEM_PERF_CTL.CLEAR zeroes the traffic counters. -/
  | memPerfClear (freeze : Bool)
  /-- TAP_PERF_CLEAR (R348). Write of 1 to TAP_PERF_CTL.CLEAR zeroes the Taproot counters. -/
  | tapPerfClear (freeze : Bool)
  /-- VCC_PERF_CLEAR (R370). Write of 1 to VCC_PERF_CTL.CLEAR zeroes the VCC counters. -/
  | vccPerfClear (freeze : Bool)
  /-- FAB_PERF_CLEAR (R402). Write of 1 to FAB_PERF_CTL.CLEAR zeroes the fabric counters. -/
  | fabPerfClear (freeze : Bool)
  /-- COL_PERF_CLEAR (R425). Write of 1 to COL_PERF_CTL.CLEAR zeroes the collective counters. -/
  | colPerfClear (freeze : Bool)
  /-- RAS_FIRST_CLR (R515). Write of RAS_FIRST_CLR clears the capture sets of the named classes. -/
  | rasFirstClr (value : BitVec 64)
  /-- HW_RESET (R531). Write of RAS_FIFO.HW_RESET sets HIGH_WATER to the current occupancy. -/
  | hwReset
  /-- REGISTER_WRITE (R7). Write to a register with no row of its own, under its access code. -/
  | registerWrite (offset : BitVec 24) (value : BitVec 64)
  /-- I2C_REGISTER_READ (R493). Tray reads an AOC register over the I2C bus. -/
  | i2cRegisterRead (addr : BitVec 7) (offset : BitVec 16)
  /-- MGMT_POWER_ON (R477). Management island powers on, starts the counter and holds module reset. -/
  | mgmtPowerOn (slot : BitVec 2) (slotValid : Bool)
  /-- MGMT_POWER_LOSS (R390). Management island loses power and the bypass relays close. -/
  | mgmtPowerLoss
  /-- INPUT_UNDERVOLT (R18). Input below 40 V for 1 ms puts the module in off-or-in-reset. -/
  | inputUndervolt
  /-- INPUT_LOW (R17). Input below 44 V for 1 ms is a cause of relay-only operation. -/
  | inputLow
  /-- INPUT_DIP (R541). An input interruption of 100 microseconds or less changes nothing. -/
  | inputDip
  /-- MODULE_RESET_RELEASE (R469). When every reset cause is gone and input has held 46 V for 10 ms, reset is released. -/
  | moduleResetRelease
  /-- START_UP (R477). The start-up sequence from release of reset to relay-and-report or relay-only. -/
  | startUp (outcome : StartOutcome)
  /-- TRAY_RESET_ASSERT (R472). Filtered assertion of TRAY_RESET_N holds module reset. -/
  | trayResetAssert
  /-- TRAY_RESET_DEASSERT (R472). Filtered release of TRAY_RESET_N removes its reset cause. -/
  | trayResetDeassert
  /-- PERST_ASSERT (R471). PERST_N assertion resets the host-interface island only. -/
  | perstAssert
  /-- PERST_RELEASE (R477). PERST_N release lets the PCIe link train. -/
  | perstRelease
  /-- RESET_BUTTON_CLOSE (R473). Debounced closure of the reset button asserts module reset. -/
  | resetButtonClose
  /-- RESET_BUTTON_OPEN (R473). Debounced opening of the reset button deasserts its cause. -/
  | resetButtonOpen
  /-- BUTTON_STUCK (R473). After 8 s closed the button is marked stuck and ignored. -/
  | buttonStuck
  /-- BUTTON_IGNORED_CLEAR (R473). After 200 ms open the button is armed again. -/
  | buttonIgnoredClear
  /-- INPUT_STUCK (R474). An input held at one level for its stuck timeout sets STUCK. -/
  | inputStuck (n : Fin 6)
  /-- PPS_EDGE (R475). A PPS_IN edge is used for acquisition or accepted and disciplines time. -/
  | ppsEdge
  /-- SYNC_EDGE (R474). A SYNC_IN edge latches the elapsed-time counter. -/
  | syncEdge
  /-- HEARTBEAT_TICK (R427). Each millisecond the running Foreman increments HEARTBEAT. -/
  | heartbeatTick
  /-- LABEL_DRAWING (R490). The label controller draws a pending request on the panel. -/
  | labelDrawing (cold : Bool)
  /-- FACE_JUNCTION_READING (R501). A Face junction reading acts on thresholds, trip and emergency. -/
  | faceJunctionReading (face : Fin 4) (sensors : List Int)
  /-- JUNCTION_THROTTLE_STEP (R501). While hot, a Face's demanded level rises by one per interval, and falls on release. -/
  | junctionThrottleStep (face : Fin 4)
  /-- NEIGHBOUR_THROTTLE_STEP (R502). While neighbours differ too much, the hotter Face's levels step. -/
  | neighbourThrottleStep (face : Fin 4)
  /-- HBM_TEMP_READING (R315). A stack temperature reading sets the near-tier thermal steps. -/
  | hbmTempReading (stack : Fin 8) (reading : Int)
  /-- FAR_TEMP_REPORT (R316). A far-tier package temperature report sets refresh and throttle. -/
  | farTempReport (pkg : Fin 16) (reading : Int) (mult : Nat)
  /-- THERM_ALERT_RELEASE (R503). THERM_ALERT_N is released 1 s after its last condition clears. -/
  | thermAlertRelease
  /-- POWER_SAMPLE (R496). Input power is measured against the cap in force. -/
  | powerSample (vin : BitVec 16) (pin : BitVec 16)
  /-- CAP_LEVEL_STEP (R497). The cap level rises each 1 ms over the cap or falls each 10 ms below it. -/
  | capLevelStep
  /-- DOMAIN_WAKE (R495). A switched domain that an operation needs powers up. -/
  | domainWake (d : Fin 64)
  /-- DOMAIN_IDLE_POWER_DOWN (R495). A demand domain idle for 10 ms powers down. -/
  | domainIdlePowerDown (d : Fin 64)
  /-- RETENTION_AUTO_ENTRY (R296). An ON group unaccessed for the idle interval enters RETAIN. -/
  | retentionAutoEntry (group : Fin 32)
  /-- STOCKPILE_SCRUB (R294). The patrol scrubber reads and corrects a Stockpile line. -/
  | stockpileScrub (line : Fin 16777216) (corrected : Option (Fin 576))
  /-- NEAR_SCRUB (R301). The patrol scrubber reads and corrects a near-tier line. -/
  | nearScrub (line : Fin 6442450944) (corrected : Bool)
  /-- TIME_FRAME_RECEIVE (R393). A sideband TIME frame updates CORR and yields a time estimate. -/
  | timeFrameReceive (len : Nat) (frame : Nat) (residence : BitVec 32)
  /-- TIME_FRAME_SEND (R393). The ring master sends TIME every 1 ms. -/
  | timeFrameSend
  /-- TIME_FRAME_TIMEOUT (R393). No TIME frame for 3 ms clears TIME_VALID. -/
  | timeFrameTimeout
  /-- PTP_MESSAGE_RECEIVE (R509). A PTP message yields a time estimate. -/
  | ptpMessageReceive (port : Fin 2) (domain : BitVec 8) (estimate : BitVec 64) (asymmetry : Nat)
  /-- TIME_HOLDOVER_EXPIRY (R511). 2 s after the last estimate system time becomes invalid. -/
  | timeHoldoverExpiry
  /-- RING_FRAME_RECEIVE (R391). A ring frame is forwarded cut-through or removed. -/
  | ringFrameReceive (len : Nat) (frame : Nat)
  /-- RING_INSERT (R392). After lock and a window, the module opens its relays into the ring. -/
  | ringInsert
  /-- INSERT_WINDOW (R392). The ring master broadcasts an insertion window every 100 ms. -/
  | insertWindow
  /-- DISCOVER (R391). The ring master sends DISCOVER after an insertion to number stations. -/
  | discover
  /-- LINK_FRAME_RECEIVE (R375). A link frame is checked, accepted in order or NAKed, and credits returned. -/
  | linkFrameReceive (port : Fin 16) (fec : Nat) (len : Nat) (frame : Nat)
  /-- ACK_REPORT (R375). The receiver reports ACK_SEQ at most 1 microsecond apart. -/
  | ackReport (port : Fin 16)
  /-- LANE_SWAP (R372). A failing lane moves to the spare. -/
  | laneSwap (port : Fin 16) (lane : Fin 4)
  /-- WIDTH_CHANGE (R373). A port changes width with its good lanes. -/
  | widthChange (port : Fin 16) (lanes : BitVec 5)
  /-- PORT_DOWN (R385). No valid frame for 1 microsecond declares a port down. -/
  | portDown (port : Fin 16)
  /-- PORT_INIT (R389). A port completes its INIT exchange and enters candidate sets. -/
  | portInit (port : Fin 16) (peer : BitVec 15) (peerPort : Fin 16) (recordValid : Bool) (lanes : BitVec 5)
  /-- PACKET_FORWARD (R383). A packet for another node is routed to a port or dropped. -/
  | packetForward (place : Nat)
  /-- WRITE (R379). A WRITE packet is checked, written and acknowledged. -/
  | write (place : Nat)
  /-- READ_REQ (R378). A READ_REQ is answered by READ_RSP pieces or a refusal. -/
  | readReq (place : Nat)
  /-- READ_RSP (R378). A READ_RSP piece lands for its request. -/
  | readRsp (place : Nat)
  /-- ACK (R380). An ACK completes a remote transaction. -/
  | ack (place : Nat)
  /-- SIGNAL (R379). A SIGNAL packet adds to a tally as an external signal. -/
  | signal (place : Nat)
  /-- COLL (R406). A COLL packet is delivered to its bound fabric engine half or held. -/
  | coll (place : Nat)
  /-- CTRL (R379). A CTRL packet is delivered to the Foreman. -/
  | ctrl (place : Nat)
  /-- REMOTE_TIMEOUT (R381). An unanswered transaction or silent collective ends with REMOTE_TIMEOUT. -/
  | remoteTimeout (tag : Option Nat) (c : Fin 8) (opIndex : Nat) (node : BitVec 15)
  /-- ETHERNET_FRAME_RECEIVE (R394). An Ethernet frame is delivered to its handler or discarded. -/
  | ethernetFrameReceive (port : Fin 2) (len : Nat) (frame : Nat)
  /-- JOU_DATA (R397). A JoU DATA datagram's packets are forwarded into the site. -/
  | jouData (port : Fin 2) (ce : Bool) (len : Nat) (data : Nat)
  /-- JOU_ACK (R398). A JoU ACK frees buffered datagrams and adjusts the window. -/
  | jouAck (port : Fin 2) (len : Nat) (data : Nat)
  /-- PROBE (R401). A PROBE or PROBE_RSP brings a down tunnel up. -/
  | probe (port : Fin 2) (len : Nat) (data : Nat)
  /-- JOU_ACK_TIMER (R397). 50 microseconds after an unacknowledged datagram the receiver sends an ACK. -/
  | jouAckTimer (tun : Fin 64)
  /-- JOU_RETRANSMIT (R397). A datagram is resent on SACK evidence or timeout. -/
  | jouRetransmit (tun : Fin 64) (seq : BitVec 32) (timeout : Bool)
  /-- JOU_FENCE_RELEASE (R399). The egress gateway releases a held SIGNAL once earlier packets are answered OK. -/
  | jouFenceRelease (tun : Fin 64)
  /-- TUNNEL_DOWN (R401). No ACK for DEAD_TIME takes a tunnel down. -/
  | tunnelDown (tun : Fin 64)
  /-- ERROR_EVENT (R516). A detector reports an error event for capture and coalescing. -/
  | errorEvent (cls : Fin 16) (sev : Fin 4) (src : BitVec 8) (inst : BitVec 8) (ctx : BitVec 8) (key : BitVec 64) (info : BitVec 128)
  /-- COALESCE_CLOSE (R516). A coalescing entry closes after 1 ms and enters the FIFO. -/
  | coalesceClose (entry : Fin 32)
  /-- LOG_COMMIT (R517). The logger commits one record from the FIFO every 2 microseconds. -/
  | logCommit
  /-- COMMAND_COMPLETION (R432). The Foreman posts a mailbox command's completion entry when the command's work finishes. -/
  | commandCompletion (place : Nat)
  /-- PCIE_LINK_UP (R507). The PCIe link finishes training and the host window and BAR access become available. -/
  | pcieLinkUp
  /-- PCIE_LINK_DOWN (R471). The PCIe link goes down, making the host window unreachable and ending running host-window transfers and swaps. -/
  | pcieLinkDown
  /-- RAIL_FAULT (R541). The input bus falls out of regulation before the 1 ms undervoltage filter ends, and the AOC enters off-or-in-reset recording UNDERVOLT. -/
  | railFault
  /-- LIVE_FRAME_INCOMPLETE (R340). A live frame still in reassembly whose age exceeds STALE is dropped and counted in TAP_LIVE_INCOMPLETE. -/
  | liveFrameIncomplete (c : Fin 8) (feed : Fin 4) (stream : Fin 32) (frame : BitVec 32)
  /-- RING_LOCK_LOST (R392). The sideband receiver loses lock on RING_IN, clearing LOCKED and the sideband-trained condition. -/
  | ringLockLost
  deriving DecidableEq, Repr

end Sys2Proof
end

