-- ==== Sys2Proof/Decode.lean ====
section
/-! DEFINITION. The table gives no command any bits, so no word spells one. -/

namespace Sys2Proof

/-- The command that a word spells by the table's bits: no row gives any. -/
def decodeTableWord (_nbits _w : Nat) : Option Instr := none

end Sys2Proof
end

