-- ==== Sys2Proof/Machine/Bits.lean ====
section
/-! DEFINITION. Bit fields, little-endian byte blocks held as numbers, sparse maps, and the small table helpers the whole model shares (R5, R6). -/

namespace Sys2Proof.Machine

/-- Bits `[lo + len - 1 : lo]` of a number. -/
def bits (x lo len : Nat) : Nat := (x >>> lo) % 2 ^ len

/-- One bit of a number. -/
def bit (x i : Nat) : Bool := (x >>> i) % 2 == 1

/-- The little-endian field of `len` bytes at byte offset `off` of a block held as a number (R5). -/
def fld (blk off len : Nat) : Nat := (blk >>> (8 * off)) % 2 ^ (8 * len)

/-- Replace a field of a block held as a number. -/
def setFld (blk off len v : Nat) : Nat :=
  blk % 2 ^ (8 * off) + (v % 2 ^ (8 * len)) * 2 ^ (8 * off) + (blk >>> (8 * (off + len))) * 2 ^ (8 * (off + len))

/-- A Boolean as a number. -/
def b2n (b : Bool) : Nat := if b then 1 else 0

/-- Two's complement reading of the low `w` bits. -/
def sext (x w : Nat) : Int :=
  let v := x % 2 ^ w
  if v < 2 ^ (w - 1) then (v : Int) else (v : Int) - (2 ^ w : Nat)

/-- The low `w` bits of a signed integer in two's complement. -/
def ofInt (i : Int) (w : Nat) : Nat := (i % (2 ^ w : Nat)).toNat

/-- Ceiling division; zero for a zero divisor. -/
def cdiv (a b : Nat) : Nat := (a + b - 1) / b

/-- Round up to a multiple. -/
def roundUp (a m : Nat) : Nat := cdiv a m * m

/-- Sum of a list of numbers. -/
def sumNat (l : List Nat) : Nat := l.foldl (· + ·) 0

/-- A saturating add below `2 ^ w`. -/
def satAdd (a b w : Nat) : Nat := min (a + b) (2 ^ w - 1)

/-- Concatenate fields given as (value, width in bits), lowest first. -/
def packBits : List (Nat × Nat) → Nat
  | [] => 0
  | (v, w) :: r => v % 2 ^ w + 2 ^ w * packBits r

/-- Bytes of a number, least significant first. -/
def bytesOf : Nat → Nat → List Nat
  | _, 0 => []
  | x, n + 1 => x % 256 :: bytesOf (x / 256) n

/-- The number whose little-endian bytes are given. -/
def ofBytes : List Nat → Nat
  | [] => 0
  | b :: r => b % 256 + 256 * ofBytes r

/-- The first offending offset of a check list. -/
def firstBad : List (Nat × Bool) → Option Nat
  | [] => none
  | (o, true) :: _ => some o
  | (_, false) :: r => firstBad r

/-- The first answer of a list of checks. -/
def firstSome {α : Type} : List (Option α) → Option α
  | [] => none
  | some a :: _ => some a
  | none :: r => firstSome r

/-- Wrapping 32-bit addition of numbers. -/
def add32 (a b : Nat) : Nat := (a + b) % 2 ^ 32
/-- Wrapping 64-bit addition of numbers. -/
def add64 (a b : Nat) : Nat := (a + b) % 2 ^ 64
/-- Wrapping 64-bit product. -/
def mul64 (a b : Nat) : Nat := (a * b) % 2 ^ 64
/-- rotl32 (R6). -/
def rotl32 (x n : Nat) : Nat :=
  let k := n % 32
  ((x % 2 ^ 32) <<< k) % 2 ^ 32 + (x % 2 ^ 32) >>> (32 - k)

/-- Read a sparse map with its default. -/
def smGet {β : Type} (d : β) : SMap β → Nat → β
  | [], _ => d
  | (k, v) :: r, a => if k = a then v else if a < k then d else smGet d r a

/-- Put a value without regard to the default, keeping the keys strictly rising. -/
def smPut {β : Type} : SMap β → Nat → β → SMap β
  | [], a, b => [(a, b)]
  | (k, v) :: r, a, b =>
    if a < k then (a, b) :: (k, v) :: r
    else if a = k then (a, b) :: r
    else (k, v) :: smPut r a b

/-- Remove a key. -/
def smDel {β : Type} : SMap β → Nat → SMap β
  | [], _ => []
  | (k, v) :: r, a => if k = a then r else if a < k then (k, v) :: r else (k, v) :: smDel r a

/-- Write a sparse map: the default removes the entry, so equal maps are equal data. -/
def smSet {β : Type} [DecidableEq β] (d : β) (m : SMap β) (a : Nat) (b : β) : SMap β :=
  if b = d then smDel m a else smPut m a b

/-- The canonical form of a sparse map: keys strictly rising, no default stored. -/
def smWf {β : Type} [DecidableEq β] (d : β) : SMap β → Bool
  | [] => true
  | (_, v) :: [] => v ≠ d
  | (k, v) :: (k', v') :: r => k < k' && v ≠ d && smWf d ((k', v') :: r)

/-- Element of a list table, with a default beyond its end. -/
def nth {α : Type} (d : α) (l : List α) (i : Nat) : α := l.getD i d

/-- Change one element of a list table. -/
def updAt {α : Type} : List α → Nat → (α → α) → List α
  | [], _, _ => []
  | a :: r, 0, f => f a :: r
  | a :: r, i + 1, f => a :: updAt r i f

/-- Change the first element that satisfies a test. -/
def updFirst {α : Type} (p : α → Bool) (f : α → α) : List α → List α
  | [] => []
  | a :: r => if p a then f a :: r else a :: updFirst p f r

/-- Remove the first element that satisfies a test. -/
def dropFirst {α : Type} (p : α → Bool) : List α → List α
  | [] => []
  | a :: r => if p a then r else a :: dropFirst p r

/-- Do two half-open ranges share a byte? -/
def overlaps (lo hi lo' hi' : Nat) : Bool := lo < hi' && lo' < hi

/-- All index tuples of the given extents, first index fastest. -/
def indices : List Nat → List (List Nat)
  | [] => [[]]
  | n :: r => (indices r).flatMap (fun t => (List.range n).map (· :: t))

/-- Add to a wrapping 64-bit counter. -/
def bump (c : W64) (n : Nat) : W64 := c + BitVec.ofNat 64 n

/-- The board revision that the manual describes, A, as the hardware reports it (R1, *MBX_ID*). -/
def boardRev : Nat := 0x41

/-- CRC-32C step over one byte, reflected polynomial 0x82F6_3B78. -/
def crc32cByte (crc byte : Nat) : Nat :=
  (List.range 8).foldl (fun c _ => if c % 2 = 1 then (c >>> 1) ^^^ 0x82F63B78 else c >>> 1)
    (crc ^^^ (byte % 256))

/-- CRC-32C of a list of bytes, initial value and final inversion all ones. -/
def crc32c (bs : List Nat) : Nat := (bs.foldl crc32cByte 0xFFFFFFFF) ^^^ 0xFFFFFFFF

end Sys2Proof.Machine
end

