-- ==== Sys2Proof/Machine/Num.lean ====
section
/-! DEFINITION. Exact binary values and the roundings of "Training Numerics": every value is a NaN, an infinity or a sign, a magnitude and a power of two, so sums and products are exact (R49, R58) and each rounding is one explicit step. -/

namespace Sys2Proof.Machine

/-- An exact value: `fin neg mag e` is the signed number mag times 2 to the e; a zero keeps its sign. -/
inductive FVal where
  | nan
  | inf (neg : Bool)
  | fin (neg : Bool) (mag : Nat) (exp : Int)
  deriving DecidableEq, Repr

/-- Plus zero. -/
def fzero : FVal := .fin false 0 0
/-- One. -/
def fone : FVal := .fin false 1 0
/-- A whole number. -/
def fnat (n : Nat) : FVal := .fin false n 0
/-- A signed whole number; zero is plus zero. -/
def fint (i : Int) : FVal := .fin (i < 0) i.natAbs 0

def isNan : FVal → Bool
  | .nan => true
  | _ => false
def isInf : FVal → Bool
  | .inf _ => true
  | _ => false
def isFin : FVal → Bool
  | .fin _ _ _ => true
  | _ => false
def isZero : FVal → Bool
  | .fin _ 0 _ => true
  | _ => false
/-- The sign bit. -/
def signOf : FVal → Bool
  | .nan => false
  | .inf n => n
  | .fin n _ _ => n

def fneg : FVal → FVal
  | .nan => .nan
  | .inf n => .inf (!n)
  | .fin n m e => .fin (!n) m e
def fabs : FVal → FVal
  | .nan => .nan
  | .inf _ => .inf false
  | .fin _ m e => .fin false m e

/-- Exact multiplication by a power of two. -/
def fscale (k : Int) : FVal → FVal
  | .fin n m e => .fin n m (e + k)
  | v => v

/-- The signed integer that a finite value is, in units of 2 to the e0 (e0 not above its exponent). -/
def intAt (e0 : Int) (n : Bool) (m : Nat) (e : Int) : Int :=
  let v : Int := (m <<< (e - e0).toNat : Nat)
  if n then -v else v

/-- Exact sum (R63: Inf − Inf is NaN; a zero sum is −0 only when both are negative). -/
def addX : FVal → FVal → FVal
  | .nan, _ => .nan
  | _, .nan => .nan
  | .inf a, .inf b => if a = b then .inf a else .nan
  | .inf a, _ => .inf a
  | _, .inf b => .inf b
  | .fin n m e, .fin n' m' e' =>
    let e0 := min e e'
    let s := intAt e0 n m e + intAt e0 n' m' e'
    if s = 0 then .fin (n && n') 0 0 else .fin (s < 0) s.natAbs e0

/-- Exact product (R63: 0 × Inf is NaN). -/
def mulX : FVal → FVal → FVal
  | .nan, _ => .nan
  | _, .nan => .nan
  | .inf a, .inf b => .inf (a != b)
  | .inf a, .fin n m _ => if m = 0 then .nan else .inf (a != n)
  | .fin n m _, .inf b => if m = 0 then .nan else .inf (b != n)
  | .fin n m e, .fin n' m' e' => .fin (n != n') (m * m') (e + e')

def subX (a b : FVal) : FVal := addX a (fneg b)

/-- Sum of a list, exactly. -/
def sumX (l : List FVal) : FVal := l.foldl addX fzero

/-- Order of two non-NaN values as −1, 0 or 1 (the zeros compare equal). -/
def cmpX : FVal → FVal → Int
  | .nan, _ => 0
  | _, .nan => 0
  | .inf a, .inf b => if a = b then 0 else if a then -1 else 1
  | .inf a, _ => if a then -1 else 1
  | _, .inf b => if b then 1 else -1
  | .fin n m e, .fin n' m' e' =>
    let e0 := min e e'
    (intAt e0 n m e - intAt e0 n' m' e').sign

/-- Strictly less, false with a NaN. -/
def ltX (a b : FVal) : Bool := !isNan a && !isNan b && cmpX a b < 0
/-- Less or equal, false with a NaN. -/
def leX (a b : FVal) : Bool := !isNan a && !isNan b && cmpX a b ≤ 0
/-- Equal as numbers, false with a NaN. -/
def eqX (a b : FVal) : Bool := !isNan a && !isNan b && cmpX a b == 0
/-- The larger of two non-NaN values, the first on a tie. -/
def maxX (a b : FVal) : FVal := if ltX a b then b else a
/-- The smaller of two non-NaN values, the first on a tie. -/
def minX (a b : FVal) : FVal := if ltX b a then b else a

/-- Floor of log2 of a non-zero magnitude. -/
def log2X (m : Nat) (e : Int) : Int := (Nat.log2 m : Int) + e

/-- Whole quanta and the remainder below: mag times 2^e over 2^q, as (floor, remainder, remainder bits). -/
def splitQ (m : Nat) (e q : Int) : Nat × Nat × Nat :=
  if q ≤ e then (m <<< (e - q).toNat, 0, 0)
  else
    let k := (q - e).toNat
    (m >>> k, m % 2 ^ k, k)

/-- Round-to-nearest-even to whole quanta (R58). -/
def rneQ (m : Nat) (e q : Int) : Nat :=
  match splitQ m e q with
  | (t, _, 0) => t
  | (t, r, k + 1) =>
    if 2 ^ k < r then t + 1
    else if r = 2 ^ k then t + t % 2
    else t

/-- Stochastic rounding to whole quanta with 16 random bits (R59). -/
def srQ (rnd m : Nat) (e q : Int) : Nat :=
  let (t, r, k) := splitQ m e q
  if 65536 ≤ (r * 65536) >>> k + rnd then t + 1 else t

/-- How a narrowing rounds: to nearest even, or stochastically with its 16 bits (R57). -/
inductive Rnd where
  | rne
  | sr (rnd : Nat)
  deriving DecidableEq, Repr

/-- Whole quanta under a rounding mode. -/
def roundQ (r : Rnd) (m : Nat) (e q : Int) : Nat :=
  match r with
  | .rne => rneQ m e q
  | .sr rnd => srQ rnd m e q

/-- The quantum exponent of a floating target with p mantissa bits and smallest normal exponent emin at a non-zero magnitude (R58). -/
def quantumExp (p : Nat) (emin : Int) (m : Nat) (e : Int) : Int := max (log2X m e) emin - p

/-- Rounding of a value to a floating target with unbounded exponent above (R58, R59). -/
def roundFloat (r : Rnd) (p : Nat) (emin : Int) : FVal → FVal
  | .fin n 0 _ => .fin n 0 0
  | .fin n m e =>
    let q := quantumExp p emin m e
    .fin n (roundQ r m e q) q
  | v => v

/-- Largest finite FP32. -/
def max32 : FVal := .fin false (2 ^ 24 - 1) 104
/-- Largest finite E8M39. -/
def maxE8M39 : FVal := .fin false (2 ^ 40 - 1) 88

/-- One RNE rounding to FP32, overflow to infinity (R50). -/
def rn32 (v : FVal) : FVal :=
  let w := roundFloat .rne 23 (-126) v
  if isFin w && ltX max32 (fabs w) then .inf (signOf w) else w

/-- One RNE rounding to E8M39, overflow to infinity (R52). -/
def rnAcc (v : FVal) : FVal :=
  let w := roundFloat .rne 39 (-126) v
  if isFin w && ltX maxE8M39 (fabs w) then .inf (signOf w) else w

/-- FP32 sum. -/
def add32f (a b : FVal) : FVal := rn32 (addX a b)
/-- FP32 difference. -/
def sub32f (a b : FVal) : FVal := rn32 (subX a b)
/-- FP32 product. -/
def mul32f (a b : FVal) : FVal := rn32 (mulX a b)
/-- Fused multiply-add a × b + c with one rounding. -/
def fma32f (a b c : FVal) : FVal := rn32 (addX (mulX a b) c)

/-- Quotient of two finite values with 64 guard bits and a sticky last bit: one later rounding to FP32 is the exact quotient's. -/
def divSticky (a b : FVal) : FVal :=
  match a, b with
  | .nan, _ => .nan
  | _, .nan => .nan
  | .inf _, .inf _ => .nan
  | .inf n, .fin n' _ _ => .inf (n != n')
  | .fin n _ _, .inf n' => .fin (n != n') 0 0
  | .fin n m e, .fin n' m' e' =>
    if m' = 0 then (if m = 0 then .nan else .inf (n != n'))
    else
      let k := 64 + Nat.log2 m' + 1
      let x := m <<< k
      let q := x / m'
      .fin (n != n') (2 * q + b2n (x % m' ≠ 0)) (e - e' - k - 1)

/-- FP32 quotient. -/
def div32f (a b : FVal) : FVal := rn32 (divSticky a b)

/-- Integer square root, bit by bit from bit `k` down. -/
def isqrtFrom (x : Nat) : Nat → Nat → Nat
  | 0, acc => acc
  | k + 1, acc =>
    let c := acc + 2 ^ k
    isqrtFrom x k (if c * c ≤ x then c else acc)

/-- Floor of the square root. -/
def isqrt (x : Nat) : Nat := isqrtFrom x (Nat.log2 x / 2 + 1) 0

/-- Square root with guard bits and a sticky last bit; NaN below zero, −0 for −0. -/
def sqrtSticky : FVal → FVal
  | .nan => .nan
  | .inf n => if n then .nan else .inf false
  | .fin n m e =>
    if m = 0 then .fin n 0 0
    else if n then .nan
    else
      let par := (e % 2).toNat
      let m2 := m <<< (128 + par)
      let r := isqrt m2
      .fin false (2 * r + b2n (r * r ≠ m2)) ((e - par) / 2 - 64 - 1)

/-- FP32 square root. -/
def sqrt32f (v : FVal) : FVal := rn32 (sqrtSticky v)

/-- Truncation towards zero of a finite value to an integer. -/
def truncX : FVal → Int
  | .fin n m e =>
    let (t, _, _) := splitQ m e 0
    if n then -(t : Int) else t
  | _ => 0

/-- Floor of a finite value. -/
def floorX : FVal → Int
  | .fin n m e =>
    let (t, r, _) := splitQ m e 0
    if n then (if r = 0 then -(t : Int) else -(t : Int) - 1) else t
  | _ => 0

/-- Nearest-even integer of a finite value. -/
def rintX : FVal → Int
  | .fin n m e =>
    let t := rneQ m e 0
    if n then -(t : Int) else t
  | _ => 0

/-- mix64 of R60. -/
def mix64 (z0 : Nat) : Nat :=
  let z1 := mul64 (z0 ^^^ (z0 >>> 30)) 0xBF58476D1CE4E5B9
  let z2 := mul64 (z1 ^^^ (z1 >>> 27)) 0x94D049BB133111EB
  z2 ^^^ (z2 >>> 31)

/-- sr_bits of R60: the 16 random bits of stochastic rounding. -/
def srBits (seed tensorId step idx : Nat) : Nat :=
  let key := mix64 ((seed % 2 ^ 64) ^^^ ((tensorId % 2 ^ 32) <<< 32 ||| step % 2 ^ 32))
  let h := mix64 (add64 key (mix64 ((idx % 2 ^ 64) ^^^ 0xD1B54A32D192ED03)))
  h >>> 48

/-- to_fixed of R76: the fixed-point value of a contribution, with its clamp, NaN and underflow events. -/
def toFixed (v : FVal) (f : Int) (h : Nat) : Int × Bool × Bool × Bool :=
  let lim : Int := ((1 : Int) <<< (62 - h)) - 1
  match v with
  | .nan => (0, false, true, false)
  | .inf n => (if n then -lim else lim, true, false, false)
  | .fin n m e =>
    let y : Int := rneQ m (e + f) 0
    let unf := y = 0 && m ≠ 0
    let cl := lim < y
    let y' := if cl then lim else y
    (if n then -y' else y', cl, false, unf)

/-- The exact value S × 2^−F of an exact sum (R77). -/
def ofFixed (s : Int) (f : Int) : FVal := fscale (-f) (fint s)

end Sys2Proof.Machine
end

