-- ==== Sys2Proof/Machine/Formats.lean ====
section
/-! DEFINITION. The format codes of R43: how a stored element reads as a value, how a value narrows to an element (R57 to R66), and the MX block scale (R66). -/

namespace Sys2Proof.Machine

/-- The formats of R43. -/
inductive Fmt where
  | fp32 | bf16 | fp16 | e4m3 | e5m2
  | mxE4m3 | mxE5m2 | mxE3m2 | mxE2m3 | mxE2m1
  | int8 | int4 | pixel | int32 | e8m39
  | crush (rate : Nat)
  deriving DecidableEq, Repr

/-- A format code; codes 0x0F and 0x14 to 0xFF are reserved (R43). -/
def fmtOfCode : Nat → Option Fmt
  | 0x00 => some .fp32 | 0x01 => some .bf16 | 0x02 => some .fp16
  | 0x03 => some .e4m3 | 0x04 => some .e5m2
  | 0x05 => some .mxE4m3 | 0x06 => some .mxE5m2 | 0x07 => some .mxE3m2
  | 0x08 => some .mxE2m3 | 0x09 => some .mxE2m1
  | 0x0A => some .int8 | 0x0B => some .int4 | 0x0C => some .pixel
  | 0x0D => some .int32 | 0x0E => some .e8m39
  | 0x10 => some (.crush 1) | 0x11 => some (.crush 2)
  | 0x12 => some (.crush 3) | 0x13 => some (.crush 4)
  | _ => none

/-- The code of a format. -/
def fmtCode : Fmt → Nat
  | .fp32 => 0x00 | .bf16 => 0x01 | .fp16 => 0x02 | .e4m3 => 0x03 | .e5m2 => 0x04
  | .mxE4m3 => 0x05 | .mxE5m2 => 0x06 | .mxE3m2 => 0x07 | .mxE2m3 => 0x08 | .mxE2m1 => 0x09
  | .int8 => 0x0A | .int4 => 0x0B | .pixel => 0x0C | .int32 => 0x0D | .e8m39 => 0x0E
  | .crush r => 0x0F + r

/-- Storage width in bits (R43). -/
def ebits : Fmt → Nat
  | .fp32 | .int32 => 32
  | .bf16 | .fp16 => 16
  | .e4m3 | .e5m2 | .mxE4m3 | .mxE5m2 | .int8 | .pixel => 8
  | .mxE3m2 | .mxE2m3 => 6
  | .mxE2m1 | .int4 => 4
  | .e8m39 => 64
  | .crush r => if r = 1 then 8 else if r = 2 then 6 else if r = 3 then 4 else 3

def isMx : Fmt → Bool
  | .mxE4m3 | .mxE5m2 | .mxE3m2 | .mxE2m3 | .mxE2m1 => true
  | _ => false

def isCrush : Fmt → Bool
  | .crush _ => true
  | _ => false

def isIntFmt : Fmt → Bool
  | .int8 | .int4 | .pixel | .int32 => true
  | _ => false

/-- How a floating format treats its top exponent. -/
inductive FloatKind where
  | ieee | e4m3 | plain
  deriving DecidableEq, Repr

/-- Exponent bits, mantissa bits, bias and special values of a floating format (R43). -/
structure FloatSpec where
  eb : Nat
  mb : Nat
  bias : Nat
  kind : FloatKind
  deriving DecidableEq, Repr

def floatSpec : Fmt → FloatSpec
  | .fp32 => ⟨8, 23, 127, .ieee⟩
  | .bf16 => ⟨8, 7, 127, .ieee⟩
  | .fp16 => ⟨5, 10, 15, .ieee⟩
  | .e4m3 | .mxE4m3 => ⟨4, 3, 7, .e4m3⟩
  | .e5m2 | .mxE5m2 => ⟨5, 2, 15, .ieee⟩
  | .mxE3m2 => ⟨3, 2, 3, .plain⟩
  | .mxE2m3 => ⟨2, 3, 1, .plain⟩
  | .mxE2m1 => ⟨2, 1, 1, .plain⟩
  | _ => ⟨8, 39, 127, .ieee⟩

/-- Smallest normal exponent. -/
def eminOf (f : FloatSpec) : Int := 1 - (f.bias : Int)

/-- The value of a stored floating element. -/
def decodeFloat (f : FloatSpec) (x : Nat) : FVal :=
  let neg := bit x (f.eb + f.mb)
  let e := bits x f.mb f.eb
  let m := bits x 0 f.mb
  let top := 2 ^ f.eb - 1
  let special : Bool := match f.kind with
    | .ieee => e = top
    | .e4m3 => e = top && m = 2 ^ f.mb - 1
    | .plain => false
  if special then
    (if f.kind = .ieee && m = 0 then .inf neg else .nan)
  else if e = 0 then .fin neg m (eminOf f - f.mb)
  else .fin neg (m + 2 ^ f.mb) ((e : Int) - f.bias - f.mb)

/-- The value of a stored element, before any block scale. -/
def decodeElem (f : Fmt) (x : Nat) : FVal :=
  match f with
  | .int8 => fint (sext x 8)
  | .int4 => fint (sext x 4)
  | .pixel => fnat (x % 256)
  | .int32 => fint (sext x 32)
  | .crush _ => fzero
  | _ => decodeFloat (floatSpec f) x

/-- The value of an E8M0 scale byte (R45): NaN at 0xFF. -/
def decodeScale (e : Nat) : FVal := if e % 256 = 255 then .nan else .fin false 1 ((e % 256 : Nat) - 127)

/-- Largest finite value of a format (R43). -/
def fmtMax : Fmt → FVal
  | .fp32 => max32
  | .bf16 => .fin false 255 120
  | .fp16 => .fin false 2047 5
  | .e4m3 | .mxE4m3 => .fin false 7 6
  | .e5m2 | .mxE5m2 => .fin false 7 13
  | .mxE3m2 => .fin false 7 2
  | .mxE2m3 => .fin false 15 (-1)
  | .mxE2m1 => .fin false 3 1
  | .int8 => fnat 127
  | .int4 => fnat 7
  | .pixel => fnat 255
  | .int32 => fnat (2 ^ 31 - 1)
  | .e8m39 => maxE8M39
  | .crush _ => fzero

/-- Encode a value that the format represents exactly, or an infinity of a format that has one. -/
def encodeFloat (f : FloatSpec) (v : FVal) : Nat :=
  let s (n : Bool) := b2n n <<< (f.eb + f.mb)
  let top := 2 ^ f.eb - 1
  match v with
  | .nan => (match f.kind with
      | .ieee => top <<< f.mb + 2 ^ (f.mb - 1) + (if f.mb = 2 then 1 else 0)
      | _ => 2 ^ (f.eb + f.mb) - 1)
  | .inf n => s n + top <<< f.mb
  | .fin n 0 _ => s n
  | .fin n m e =>
    let l := log2X m e
    if l < eminOf f then s n + (splitQ m e (eminOf f - f.mb)).1
    else s n + (l + f.bias).toNat <<< f.mb + (splitQ m e (l - f.mb)).1 % 2 ^ f.mb

/-- The canonical NaN of a format (R63). -/
def canonicalNan : Fmt → Nat
  | .fp32 => 0x7FC00000
  | .bf16 => 0x7FC0
  | .fp16 => 0x7E00
  | .e4m3 | .e5m2 => 0x7F
  | .e8m39 => 0x7FC000000000
  | _ => 0

/-- The numeric events of one narrowed element (R65). -/
structure NarrowEv where
  sat : Bool := false
  nanOut : Bool := false
  unf : Bool := false
  nanIn : Bool := false
  infIn : Bool := false
  deriving DecidableEq, Repr

/-- The range of an integer format. -/
def intRange : Fmt → Int × Int
  | .int8 => (-128, 127)
  | .int4 => (-8, 7)
  | .pixel => (0, 255)
  | _ => (-2147483648, 2147483647)

/-- Rounding of the sign and magnitude to an integer target with q = 1 (R58). -/
def roundInt (r : Rnd) : FVal → Int
  | .fin n m e => let t : Int := roundQ r m e 0; if n then -t else t
  | _ => 0

/-- Narrowing of one value to an element of a format that has no block scale (R58 to R65). -/
def narrowElem (f : Fmt) (r : Rnd) (ovf : Bool) (x : FVal) : Nat × NarrowEv :=
  if isIntFmt f then
    let (lo, hi) := intRange f
    match x with
    | .nan => (0, { nanOut := true, nanIn := true })
    | .inf n => (ofInt (if n then lo else hi) (ebits f), { sat := true, infIn := true })
    | .fin _ m _ =>
      let i := roundInt r x
      let c := max lo (min hi i)
      (ofInt c (ebits f), { sat := c ≠ i, unf := i = 0 && m ≠ 0 })
  else
    let fs := floatSpec f
    match x with
    | .nan => (canonicalNan f, { nanOut := true, nanIn := true })
    | .inf n =>
      if f = .e4m3 then
        (if ovf then (canonicalNan f, { nanOut := true, infIn := true })
         else (encodeFloat fs (if n then fneg (fmtMax f) else fmtMax f), { sat := true, infIn := true }))
      else (encodeFloat fs (.inf n), { infIn := true })
    | .fin n m _ =>
      let w := roundFloat r fs.mb (eminOf fs) x
      if ltX (fmtMax f) (fabs w) then
        (if f = .e4m3 && ovf then (canonicalNan f, { sat := true, nanOut := true })
         else if ovf then (encodeFloat fs (.inf n), { sat := true })
         else (encodeFloat fs (if n then fneg (fmtMax f) else fmtMax f), { sat := true }))
      else (encodeFloat fs w, { unf := isZero w && m ≠ 0 })

/-- emax of R66. -/
def mxEmax : Fmt → Int
  | .mxE4m3 => 8
  | .mxE5m2 => 15
  | .mxE3m2 => 4
  | _ => 2

/-- The largest finite magnitude of a list, +0 for none. -/
def amaxOf (l : List FVal) : FVal :=
  l.foldl (fun a v => if isFin v && ltX a (fabs v) then fabs v else a) fzero

/-- The scale byte of one MX block and whether it was capped at 254 (R66). -/
def mxScale (f : Fmt) (blk : List FVal) : Nat × Bool :=
  match amaxOf blk with
  | .fin _ 0 _ => (0x7F, false)
  | .fin _ m e =>
    let b := log2X m e - mxEmax f + 127
    if 254 < b then (254, true) else if b < 0 then (0, false) else (b.toNat, false)
  | _ => (0x7F, false)

/-- Narrowing of one element under its block scale byte: clamped to the element format's largest magnitude (R66). -/
def mxElem (f : Fmt) (r : Rnd) (scale : Nat) (capped : Bool) (x : FVal) : Nat × NarrowEv :=
  let fs := floatSpec f
  match fscale (127 - (scale : Int)) x with
  | .fin n m e =>
    let w := roundFloat r fs.mb (eminOf fs) (.fin n m e)
    if ltX (fmtMax f) (fabs w) then
      (encodeFloat fs (if n then fneg (fmtMax f) else fmtMax f), { sat := capped })
    else (encodeFloat fs w, { unf := isZero w && m ≠ 0 })
  | _ => (0, {})

/-- Narrowing of one MX block: its scale byte and elements, each with its rounding (R66). -/
def mxBlock (f : Fmt) (xs : List (FVal × Rnd)) : Nat × List (Nat × NarrowEv) :=
  if xs.any (fun p => !isFin p.1) then
    (0xFF, xs.map fun p => (0, { nanOut := !isFin p.1, nanIn := isNan p.1, infIn := isInf p.1 }))
  else
    let (sc, capped) := mxScale f (xs.map (·.1))
    (sc, xs.map fun p => mxElem f p.2 sc capped p.1)

/-- BF16_RNE of R81, as a value. -/
def bf16Rne (v : FVal) : FVal :=
  let w := roundFloat .rne 7 (-126) v
  if isFin w && ltX (fmtMax .bf16) (fabs w) then .inf (signOf w) else w

/-- FP32 bits of a value already in FP32. -/
def bits32 (v : FVal) : Nat := encodeFloat (floatSpec .fp32) v
/-- Value of FP32 bits. -/
def val32 (x : Nat) : FVal := decodeFloat (floatSpec .fp32) x
/-- E8M39 bits of a value already in E8M39. -/
def bitsAcc (v : FVal) : Nat := encodeFloat (floatSpec .e8m39) v
/-- Value of E8M39 bits. -/
def valAcc (x : Nat) : FVal := decodeFloat (floatSpec .e8m39) x

end Sys2Proof.Machine
end

