-- ==== Sys2Proof/Machine/Flags.lean ====
section
/-! DEFINITION. NUM_FLAGS (R67), the event counts and the amax of an operation's output (R65, R68). -/

namespace Sys2Proof.Machine

/-- The NUM_FLAGS byte of R67, bit by bit. -/
structure NumFlags where
  sat : Bool := false
  nanOut : Bool := false
  unf : Bool := false
  nanIn : Bool := false
  infIn : Bool := false
  accInf : Bool := false
  esClamp : Bool := false
  deriving DecidableEq, Repr

/-- The byte of a completion record (R67): bit 7 reads zero. -/
def flagByte (f : NumFlags) : Nat :=
  packBits [(b2n f.sat, 1), (b2n f.nanOut, 1), (b2n f.unf, 1), (b2n f.nanIn, 1), (b2n f.infIn, 1),
    (b2n f.accInf, 1), (b2n f.esClamp, 1)]

/-- The NUM_FLAGS of a flag byte. -/
def flagsOfByte (x : Nat) : NumFlags :=
  { sat := bit x 0, nanOut := bit x 1, unf := bit x 2, nanIn := bit x 3, infIn := bit x 4, accInf := bit x 5, esClamp := bit x 6 }

/-- Flags are sticky over an operation (R67). -/
def orFlags (a b : NumFlags) : NumFlags :=
  { sat := a.sat || b.sat, nanOut := a.nanOut || b.nanOut, unf := a.unf || b.unf,
    nanIn := a.nanIn || b.nanIn, infIn := a.infIn || b.infIn, accInf := a.accInf || b.accInf,
    esClamp := a.esClamp || b.esClamp }

/-- What reading a value raises (R65). -/
def readFlags (v : FVal) : NumFlags := { nanIn := isNan v, infIn := isInf v }

/-- What reading many values raises. -/
def readFlagsAll (l : List FVal) : NumFlags := { nanIn := l.any isNan, infIn := l.any isInf }

/-- The flags of one narrowing event (R65). -/
def evFlags (e : NarrowEv) : NumFlags :=
  { sat := e.sat, nanOut := e.nanOut, unf := e.unf, nanIn := e.nanIn, infIn := e.infIn }

/-- What one output's narrowing recorded: flags, the three counts and the largest finite magnitude before the ledger scale (R65, R68). -/
structure OutStat where
  flags : NumFlags := {}
  nSat : Nat := 0
  nNan : Nat := 0
  nUnf : Nat := 0
  amax : FVal := .fin false 0 0
  wrote : Bool := false
  deriving DecidableEq, Repr

/-- Record one narrowed value (R68: NaN and Inf do not enter the amax). -/
def statAdd (t : OutStat) (x : FVal) (e : NarrowEv) : OutStat :=
  { flags := orFlags t.flags (evFlags e)
    nSat := t.nSat + b2n e.sat
    nNan := t.nNan + b2n e.nanOut
    nUnf := t.nUnf + b2n e.unf
    amax := if isFin x && ltX t.amax (fabs x) then fabs x else t.amax
    wrote := true }

/-- Join two records of one output. -/
def statJoin (a b : OutStat) : OutStat :=
  { flags := orFlags a.flags b.flags, nSat := a.nSat + b.nSat, nNan := a.nNan + b.nNan,
    nUnf := a.nUnf + b.nUnf, amax := maxX a.amax b.amax, wrote := a.wrote || b.wrote }

/-- An amax rounded once to FP32 and held at the largest finite FP32 (R68). -/
def amax32 (a : FVal) : FVal :=
  let r := rn32 a
  if isFin r then fabs r else max32

end Sys2Proof.Machine
end

