-- ==== Sys2Proof/Machine/Operands.lean ====
section
/-! DEFINITION. The operand forms: tensor descriptors and rounding frames (R34, R140), their checks (R9, R35, R39, R45, R141, R228), element addresses (R37 to R39), footprints (R21), element reads and the logical element index (R42). -/

namespace Sys2Proof.Machine

/-- An operand record read from its 128 bytes: the descriptor of R34 and the frame of R140. -/
structure Desc where
  raw : Nat
  base : Nat
  fmtRaw : Nat
  fmt : Fmt
  expRaw : Nat
  expFmt : Fmt
  rank : Nat
  layout : Nat
  spread : Bool
  ledgerEn : Bool
  comp : Nat
  spatial : Bool
  shapeEn : Bool
  slot : Nat
  swIndex : Nat
  swDim : Nat
  tensorId : Nat
  ext : List Nat
  str : List Nat
  origin : List Nat
  lext : List Nat
  roundMode : Nat
  ovf : Bool
  deriving DecidableEq, Repr

/-- Read an operand record (R34, R140): 128 bytes as a little-endian number. -/
def parseDesc (r : Nat) : Desc :=
  let fl := fld r 0x0A 2
  let sr := fld r 0x0E 2
  let f := fld r 0x08 1
  let e := fld r 0x09 1
  { raw := r, base := bits r 0 48, fmtRaw := f, fmt := (fmtOfCode f).getD .fp32
    expRaw := e, expFmt := (fmtOfCode e).getD .fp32
    rank := bits fl 0 3, layout := bits fl 3 2, spread := bit fl 5, ledgerEn := bit fl 6
    comp := bits fl 7 2, spatial := bit fl 9, shapeEn := bit fl 10
    slot := fld r 0x0C 2, swIndex := bits sr 0 12, swDim := bits sr 12 3
    tensorId := fld r 0x10 4
    ext := (List.range 6).map fun d => fld r (0x14 + 4 * d) 4
    str := 0 :: (List.range 5).map fun d => fld r (0x2C + 4 * d) 4 * 16
    origin := (List.range 6).map fun d => fld r (0x40 + 4 * d) 4
    lext := (List.range 6).map fun d => fld r (0x58 + 4 * d) 4
    roundMode := bits r (8 * 0x70) 2, ovf := bit r (8 * 0x70 + 2) }

/-- Planned extent of a dimension; dimensions at or above RANK count as 1 (R34). -/
def extAt (d : Desc) (k : Nat) : Nat := if k < d.rank then nth 1 d.ext k else 1

/-- The six planned extents. -/
def planned (d : Desc) : List Nat := (List.range 6).map (extAt d)

/-- Stride of a dimension in bytes. -/
def strAt (d : Desc) (k : Nat) : Nat := nth 0 d.str k

/-- Offset of the first reserved value of a descriptor within its record (R9, R34). -/
def descReserved (d : Desc) : Option Nat :=
  firstBad [
    (0x06, fld d.raw 6 2 ≠ 0),
    (0x08, (fmtOfCode d.fmtRaw).isNone),
    (0x09, (fmtOfCode d.expRaw).isNone),
    (0x0A, d.layout = 3 || d.comp = 3 || bits (fld d.raw 0x0A 2) 11 5 ≠ 0),
    (0x0F, bit (fld d.raw 0x0E 2) 15)]

/-- Offset of the first reserved value of an output's frame (R57, R140). -/
def frameReserved (d : Desc) : Option Nat :=
  firstBad ((0x70, 2 ≤ d.roundMode || bits (fld d.raw 0x70 1) 3 5 ≠ 0) ::
    (List.range 15).map fun i => (0x71 + i, fld d.raw (0x71 + i) 1 ≠ 0))

/-- Offset of the first non-zero byte of an input's frame, which is reserved (R141). -/
def inFrameReserved (d : Desc) : Option Nat :=
  firstBad ((List.range 64).map fun i => (0x40 + i, fld d.raw (0x40 + i) 1 ≠ 0))

/-- How many dimensions the layout blocks (R37). A packed tensor with CRUSH_SHAPE 0 is stored in dimension-0 rows whatever its LAYOUT (R46). -/
def blockedDims (d : Desc) : Nat :=
  if isCrush d.fmt && !d.spatial then 0 else if d.layout = 1 then 2 else if d.layout = 2 then 3 else 0

/-- Bytes of one block of a blocked layout (R37). -/
def blkBytes (d : Desc) : Nat := if d.layout = 2 then 64 * ebits d.fmt else 8 * ebits d.fmt

/-- Bytes of the padded elements of an MX row (R45). -/
def mxElemBytes (f : Fmt) (e0 : Nat) : Nat := cdiv e0 32 * 32 * ebits f / 8

/-- Bytes of an MX row (R45). -/
def mxRowBytes (f : Fmt) (e0 : Nat) : Nat := roundUp (mxElemBytes f e0 + cdiv e0 32) 16

/-- Bytes of one raw row of a lossless tensor (R228). -/
def rawRowBytes (f : Fmt) (e0 : Nat) : Nat := roundUp (cdiv (e0 * ebits f) 8) 16

/-- Bytes of one dimension-0 row or block-row (R35, R37, R45, R46). -/
def rowBytes (d : Desc) (e0 : Nat) : Nat :=
  if blockedDims d ≠ 0 then cdiv e0 8 * blkBytes d
  else if isMx d.fmt then mxRowBytes d.fmt (extAt d 0)
  else if isCrush d.fmt then cdiv e0 64 * (8 * ebits d.fmt)
  else cdiv (e0 * ebits d.fmt) 8

/-- Positions of a dimension above dimension 0: blocks in a blocked dimension, else elements. -/
def dimCount (d : Desc) (k e : Nat) : Nat := if k < blockedDims d then cdiv e 8 else e

/-- The 8-row chunk that holds position `k` of dimension 1: a block-row in LAYOUT 1, else a row (R39). -/
def spreadChunk (d : Desc) (k : Nat) : Nat := if d.layout = 1 then k else k / 8

/-- The Face that stores a chunk of a plane-spread tensor (R39). -/
def spreadFace (d : Desc) (k : Nat) : Nat := (spreadChunk d k % 8) / 2

/-- The plane-spread term of dimension 1 within its Face (R39). -/
def spreadLocal (d : Desc) (k : Nat) : Nat :=
  let c := spreadChunk d k
  let j := 2 * (c / 8) + c % 2
  if d.layout = 1 then j * strAt d 1 else j * 8 * strAt d 1 + (k % 8) * strAt d 1

/-- The plane-spread term of dimension 1 (R39). -/
def spreadOff (d : Desc) (k : Nat) : Nat := 0x10000000 * spreadFace d k + spreadLocal d k

/-- Offset contributed by position `p` (a block in a blocked dimension) of dimension `k` (R37, R39). -/
def dimOff (d : Desc) (k p : Nat) : Nat :=
  if k = 1 && d.spread then spreadOff d p else p * strAt d k

/-- Positions of dimensions 1 to 5 of every dimension-0 row or block-row at the given extents. -/
def rowTuples (d : Desc) (ext : List Nat) : List (List Nat) :=
  indices ((List.range 5).map fun j => dimCount d (j + 1) (nth 1 ext (j + 1)))

/-- Start offset of a dimension-0 row or block-row. -/
def rowOff (d : Desc) (t : List Nat) : Nat := sumNat ((List.range 5).map fun j => dimOff d (j + 1) (nth 0 t j))

/-- Start offsets of every dimension-0 row or block-row at the given extents. -/
def rowOffs (d : Desc) (ext : List Nat) : List Nat := (rowTuples d ext).map (rowOff d)

/-- Segments of a lossless tensor at the given extents (R228). -/
def segCount (d : Desc) (ext : List Nat) : Nat :=
  cdiv (rawRowBytes d.fmt (nth 1 ext 0) * (List.range 5).foldl (fun a j => a * nth 1 ext (j + 1)) 1) 4096

/-- The footprint as byte intervals (first context DA, length) at planned extents (R21, R228). -/
def footprint (d : Desc) : List (Nat × Nat) :=
  let ext := planned d
  if d.comp = 2 then [(d.base, 4160 * segCount d ext)]
  else
    let len := rowBytes d (nth 1 ext 0)
    if len = 0 then [] else (rowOffs d ext).map fun o => (d.base + o, len)

/-- Do the strides of an output cover the span below each dimension (R35)? -/
def stridesCover (d : Desc) : Bool :=
  (List.range 5).all fun j =>
    let k := j + 1
    k ≥ d.rank ||
      (let span := if k = 1 then rowBytes d (extAt d 0) else strAt d (k - 1) * dimCount d (k - 1) (extAt d (k - 1))
       span ≤ strAt d k)

/-- Are the strides of a lossless tensor dense (R228)? -/
def stridesDense (d : Desc) : Bool :=
  (d.rank < 2 || strAt d 1 = rawRowBytes d.fmt (extAt d 0)) &&
  (List.range 4).all fun j => let k := j + 2; k ≥ d.rank || strAt d k = strAt d (k - 1) * extAt d (k - 1)

/-- Start offsets of the rows or block-rows of a plane-spread tensor that Face 0 stores (R39). -/
def face0Offs (d : Desc) : List Nat :=
  ((rowTuples d (planned d)).filter fun t => spreadFace d (nth 0 t 0) = 0).map (rowOff d)

/-- The plane-spread conditions of R39: the rows that Face 0 stores end below 0x1000_0000, which a row that begins at or past it does not. -/
def spreadOk (d : Desc) : Bool :=
  d.base < 0x10000000 && 2 ≤ d.rank && d.layout ≤ 1 && d.comp = 0 &&
    (rowBytes d (extAt d 0) = 0 || (face0Offs d).all fun o => d.base + o + rowBytes d (extAt d 0) ≤ 0x10000000)

/-- Is the stride of an MX tensor too short for its padded rows (R45)? -/
def mxStrideBad (d : Desc) : Bool := isMx d.fmt && 2 ≤ d.rank && strAt d 1 < mxRowBytes d.fmt (extAt d 0)

/-- Does a descriptor break R35, R39, R44, R47 or R228? `isOut` adds the output stride rule, `accOk` allows format 0x0E. -/
def descBroken (isOut accOk : Bool) (d : Desc) : Bool :=
  let align := if d.layout ≠ 0 || d.comp = 1 || d.comp = 2 then 64 else 16
  !(1 ≤ d.rank && d.rank ≤ 6) || d.swDim ≥ d.rank ||
  (List.range 6).any (fun k => k ≥ d.rank && (nth 0 d.ext k ≠ 0 || strAt d k ≠ 0)) ||
  d.base % align ≠ 0 ||
  (isMx d.fmt && d.layout ≠ 0) ||
  (isCrush d.fmt != (d.comp = 1)) ||
  (isCrush d.fmt && d.expRaw > 4) || (!isCrush d.fmt && d.expRaw ≠ 0) ||
  (d.spatial && d.layout ≠ 1) ||
  (d.comp = 2 && (d.layout ≠ 0 || isMx d.fmt || d.fmt = .e8m39 || !stridesDense d)) ||
  (d.fmt = .e8m39 && !accOk) ||
  (d.fmt = .int4 && d.layout = 0 && extAt d 0 % 2 ≠ 0) ||
  (d.spread && !spreadOk d) ||
  (isOut && !stridesCover d)

/-- The same with the stride rule of R45. -/
def descInvalid (isOut accOk : Bool) (d : Desc) : Bool := descBroken isOut accOk d || mxStrideBad d

/-- Does an output frame break R141? -/
def frameInvalid (d : Desc) : Bool :=
  d.roundMode = 1 &&
    (List.range 6).any fun k =>
      if k < d.rank then nth 0 d.lext k < 1 || nth 0 d.lext k < nth 0 d.origin k + nth 0 d.ext k
      else nth 0 d.origin k ≠ 0

/-- Byte address and bit offset of an element (R37, R39). -/
def elemAddr (d : Desc) (i : List Nat) : Nat × Nat :=
  let at_ (k : Nat) := nth 0 i k
  let hi (from_ : Nat) := sumNat ((List.range 6).map fun k => if k < from_ then 0 else dimOff d k (at_ k))
  let eb := ebits d.fmt
  if d.layout = 1 then
    let p := ((at_ 1 % 8) * 8 + at_ 0 % 8) * eb
    (d.base + (at_ 0 / 8) * blkBytes d + dimOff d 1 (at_ 1 / 8) + hi 2 + p / 8, p % 8)
  else if d.layout = 2 then
    let p := ((at_ 2 % 8) * 64 + (at_ 1 % 8) * 8 + at_ 0 % 8) * eb
    (d.base + (at_ 0 / 8) * blkBytes d + dimOff d 1 (at_ 1 / 8) + dimOff d 2 (at_ 2 / 8) + hi 3 + p / 8, p % 8)
  else (d.base + hi 1 + at_ 0 * eb / 8, at_ 0 * eb % 8)

/-- Address of the scale byte of an MX element (R45). -/
def scaleAddr (d : Desc) (i : List Nat) : Nat :=
  (elemAddr d (0 :: i.tail)).1 + mxElemBytes d.fmt (extAt d 0) + nth 0 i 0 / 32

/-- A little-endian number of `n` bytes through a byte reader. -/
def rdBytes (rd : Nat → Nat) (a n : Nat) : Nat := ofBytes ((List.range n).map fun j => rd (a + j))

/-- The stored bits of an element, through a byte reader over context DAs. -/
def elemRaw (rd : Nat → Nat) (d : Desc) (i : List Nat) : Nat :=
  let (a, b) := elemAddr d i
  bits (rdBytes rd a (cdiv (b + ebits d.fmt) 8)) b (ebits d.fmt)

/-- The value of an element, its MX block scale included (R43, R45). -/
def elemVal (rd : Nat → Nat) (d : Desc) (i : List Nat) : FVal :=
  let v := decodeElem d.fmt (elemRaw rd d i)
  if isMx d.fmt then mulX v (decodeScale (rd (scaleAddr d i))) else v

/-- The logical element index of R42. -/
def logicalIdx (d : Desc) (i : List Nat) : Nat :=
  ((List.range 6).foldl (fun (acc : Nat × Nat) k =>
    let le := nth 0 d.lext k
    let le' := if d.rank ≤ k && le = 0 then 1 else le
    (add64 acc.1 (mul64 (nth 0 d.origin k + nth 0 i k) acc.2), mul64 acc.2 le')) (0, 1)).1

/-- What a rounding draws on: the context's seed, the step and the output's ledger scale (R58, R61). -/
structure RoundEnv where
  seed : Nat
  step : Nat
  scale : Int
  /-- The output is a Quarry drain's, which produces no −0 (R53). -/
  noNegZero : Bool := false
  deriving DecidableEq, Repr

/-- The stored bits of a narrowed element: a drain's −0 is written as +0 (R53). -/
def storedZero (env : RoundEnv) (f : Fmt) (r : Nat) : Nat :=
  if env.noNegZero && !isIntFmt f && r = 2 ^ (ebits f - 1) then 0 else r

/-- The rounding of one output element (R57, R60, R61). -/
def rndAt (env : RoundEnv) (d : Desc) (i : List Nat) : Rnd :=
  if d.roundMode = 1 then .sr (srBits env.seed d.tensorId env.step (logicalIdx d i)) else .rne

/-- Extents rounded up to whole blocks in blocked dimensions, and to whole blocks of 32 in an MX row. -/
def coverExt (d : Desc) (ext : List Nat) : List Nat :=
  (List.range 6).map fun k =>
    let e := nth 1 ext k
    if k < blockedDims d then roundUp e 8 else e

/-- Is an index inside the extents? -/
def inExt (ext i : List Nat) : Bool := (List.range 6).all fun k => nth 0 i k < nth 1 ext k

/-- One stored field: byte address, bit offset, width, value. -/
abbrev Put := Nat × Nat × Nat × Nat

/-- The stores that write `ext` elements of a tensor bit for bit, with zero in the padding positions of R38. -/
def rawPuts (d : Desc) (ext : List Nat) (f : List Nat → Nat) : List Put :=
  (indices (coverExt d ext)).map fun i =>
    let (a, b) := elemAddr d i
    (a, b, ebits d.fmt, if inExt ext i then f i else 0)

/-- Narrow one MX row: stores and record (R45, R66). -/
def mxRowPuts (env : RoundEnv) (d : Desc) (ext : List Nat) (f : List Nat → FVal) (outer : List Nat) (t0 : OutStat) :
    List Put × OutStat :=
  let e0 := nth 0 ext 0
  let nblk := cdiv (extAt d 0) 32
  let rowA := (elemAddr d (0 :: outer)).1
  let eb := ebits d.fmt
  let step (acc : List Put × OutStat) (b : Nat) : List Put × OutStat :=
    let js := (List.range 32).map fun j => 32 * b + j
    let live := js.filter fun j => j < e0
    let xs := live.map fun j => f (j :: outer)
    let (sc, els) := mxBlock d.fmt ((live.zip xs).map fun p => (fscale env.scale p.2, rndAt env d (p.1 :: outer)))
    let t := (xs.zip els).foldl (fun t p => statAdd t p.1 p.2.2) acc.2
    let puts := js.map fun j => (rowA + j * eb / 8, j * eb % 8, eb, storedZero env d.fmt (nth (0, {}) els (j - 32 * b)).1)
    (acc.1 ++ puts ++ [(rowA + mxElemBytes d.fmt (extAt d 0) + b, 0, 8, sc)], t)
  let (ps, t) := (List.range nblk).foldl step ([], t0)
  let used := mxElemBytes d.fmt (extAt d 0) + nblk
  let pad := (List.range (mxRowBytes d.fmt (extAt d 0) - used)).map fun j => (rowA + used + j, 0, 8, 0)
  (ps ++ pad, t)

/-- The stores and the record of narrowing values into a tensor at run-time extents (R57 to R68, R38, R45). -/
def narrowPuts (env : RoundEnv) (d : Desc) (ext : List Nat) (f : List Nat → FVal) : List Put × OutStat :=
  if isMx d.fmt then
    (indices (ext.tail)).foldl (fun acc o =>
      let (ps, t) := mxRowPuts env d ext f o acc.2
      (acc.1 ++ ps, t)) ([], {})
  else
    (indices (coverExt d ext)).foldl (fun acc i =>
      let (a, b) := elemAddr d i
      if inExt ext i then
        let x := f i
        let (r, ev) := narrowElem d.fmt (rndAt env d i) d.ovf (fscale env.scale x)
        (acc.1 ++ [(a, b, ebits d.fmt, storedZero env d.fmt r)], statAdd acc.2 x ev)
      else (acc.1 ++ [(a, b, ebits d.fmt, 0)], acc.2)) ([], {})

end Sys2Proof.Machine
end

