-- ==== Sys2Proof/Machine/CrusherCodec.lean ====
section
/-! DEFINITION. The Crusher's bitstreams: fixed-rate blocks in linear and feature-map mode (R216 to R224), and lossless segments (R228 to R231). -/

namespace Sys2Proof.Machine

/-! ### Block exponent (R217, R218) -/

/-- The block exponent byte E over the 64 positions (R217). -/
def blockExp (xs : List FVal) : Nat :=
  if xs.any (fun x => !isFin x) then 0xFF
  else match amaxOf xs with
    | .fin _ 0 _ => 0
    | .fin _ m e => (max (log2X m e) (-127) + 127).toNat
    | _ => 0xFF

/-- Quantize one value: quotient with its sign after the clamp, and whether it was clamped (R219). -/
def quantQ (r : Rnd) (qexp : Int) (b : Nat) (x : FVal) : Int × Bool :=
  match x with
  | .fin n m e =>
    let q := if m = 0 then 0 else roundQ r m e qexp
    let lim := 2 ^ (b - 1) - 1
    let c := min q lim
    ((if n then -(c : Int) else c), lim < q)
  | _ => (0, false)

/-! ### Linear mode (R220) -/

/-- b_r of a rate (R220). -/
def rateBits (rate : Nat) : Nat := if rate = 1 then 8 else if rate = 2 then 6 else if rate = 3 then 4 else 3

/-- Width of field j (R220). -/
def linWidth (rate j : Nat) : Nat := if j % 8 = 7 then rateBits rate - 1 else rateBits rate

/-- What packing a block gives: the bit string, how many quotients were clamped, which positions became zero from a finite non-zero value, and the decoded values. -/
structure PackOut where
  bitsOut : Nat
  clamps : Nat
  zeroed : List Bool
  deriving Repr

/-- Pack one block in linear mode (R217, R219, R220). -/
def packLinear (rate : Nat) (xs : List (FVal × Rnd)) : PackOut :=
  let e := blockExp (xs.map (·.1))
  if e = 0xFF then ⟨0xFF, 0, xs.map fun _ => false⟩
  else if amaxOf (xs.map (·.1)) = fzero || isZero (amaxOf (xs.map (·.1))) then ⟨0, 0, xs.map fun _ => false⟩
  else
    let ea : Int := (e : Int) - 127
    let qs := xs.zipIdx.map fun p => (quantQ p.1.2 (ea + 2 - linWidth rate p.2) (linWidth rate p.2) p.1.1, p.2)
    { bitsOut := packBits ((e, 8) :: qs.map fun q => (ofInt q.1.1 (linWidth rate q.2), linWidth rate q.2))
      clamps := (qs.filter fun (q : (Int × Bool) × Nat) => q.1.2).length
      zeroed := (qs.zip xs).map fun p => p.1.1.1 = 0 && !isZero p.2.1 }

/-- Offsets of fields of given widths, from a start bit. -/
def fieldOffs : Nat → List Nat → List (Nat × Nat)
  | _, [] => []
  | o, w :: r => (o, w) :: fieldOffs (o + w) r

/-- Decode one linear block (R218, R220). -/
def unpackLinear (rate blk : Nat) : List FVal :=
  let e := bits blk 0 8
  if e = 0xFF then (List.range 64).map fun _ => .nan
  else
    let ea : Int := (e : Int) - 127
    (fieldOffs 8 ((List.range 64).map (linWidth rate))).map fun (o, w) =>
      let q := sext (bits blk o w) w
      if q = 0 then fzero else .fin (q < 0) q.natAbs (ea + 2 - w)

/-! ### Feature-map mode (R221 to R224) -/

/-- One forward lifting step over the first n elements (R222). -/
def haarFwd (n : Nat) (l : List Int) : List Int :=
  let h := n / 2
  let d (k : Nat) : Int := nth 0 l (2 * k + 1) - nth 0 l (2 * k)
  ((List.range h).map fun k => nth 0 l (2 * k) + d k / 2) ++ (List.range h).map d ++ l.drop n

/-- One inverse lifting step over the first n elements (R222). -/
def haarInv (n : Nat) (l : List Int) : List Int :=
  let h := n / 2
  ((List.range h).flatMap fun k =>
    let s := nth 0 l k
    let d := nth 0 l (h + k)
    let a := s - d / 2
    [a, d + a]) ++ l.drop n

/-- Transpose of an 8 × 8 block given by rows. -/
def transpose8 (b : List (List Int)) : List (List Int) := (List.range 8).map fun j => b.map fun r => nth 0 r j

/-- Apply a step to the first `n` rows. -/
def onRows (n : Nat) (f : List Int → List Int) (b : List (List Int)) : List (List Int) :=
  (b.take n).map f ++ b.drop n

/-- forward of R222. -/
def haarForward (b : List (List Int)) : List (List Int) :=
  let b1 := onRows 8 (haarFwd 8) b
  let b2 := transpose8 (onRows 8 (haarFwd 8) (transpose8 b1))
  let b3 := onRows 4 (haarFwd 4) b2
  transpose8 (onRows 4 (haarFwd 4) (transpose8 b3))

/-- inverse of R222. -/
def haarInverse (b : List (List Int)) : List (List Int) :=
  let b1 := transpose8 (onRows 4 (haarInv 4) (transpose8 b))
  let b2 := onRows 4 (haarInv 4) b1
  let b3 := transpose8 (onRows 8 (haarInv 8) (transpose8 b2))
  onRows 8 (haarInv 8) b3

/-- Subband of a coefficient: 0 LL2, 1 HL2 or LH2, 2 HH2, 3 HL1 or LH1, 4 HH1 (R223). -/
def subbandOf (i1 i0 : Nat) : Nat :=
  if i1 < 4 && i0 < 4 then (if i1 < 2 && i0 < 2 then 0 else if i1 < 2 || i0 < 2 then 1 else 2)
  else if i1 < 4 || i0 < 4 then 3 else 4

/-- Bits and shift of a subband at a rate (R224). -/
def bandAlloc (rate band : Nat) : Nat × Nat :=
  match band with
  | 0 => nth (8, 8) [(12, 4), (10, 6), (8, 8), (8, 8)] (rate - 1)
  | 1 => nth (5, 10) [(10, 5), (8, 7), (6, 9), (5, 10)] (rate - 1)
  | 2 => nth (4, 12) [(10, 6), (8, 8), (6, 10), (4, 12)] (rate - 1)
  | 3 => nth (2, 12) [(7, 7), (5, 9), (3, 11), (2, 12)] (rate - 1)
  | _ => nth (2, 13) [(7, 8), (5, 10), (3, 12), (2, 13)] (rate - 1)

/-- Positions (i1, i0) of a rectangle, i1 ascending, then i0. -/
def rectPos (r0 r1 c0 c1 : Nat) : List (Nat × Nat) :=
  (List.range (r1 - r0)).flatMap fun i => (List.range (c1 - c0)).map fun j => (r0 + i, c0 + j)

/-- Field order of a feature-map block (R223). -/
def featOrder : List (Nat × Nat) :=
  rectPos 0 2 0 2 ++ rectPos 0 2 2 4 ++ rectPos 2 4 0 2 ++ rectPos 2 4 2 4 ++
  rectPos 0 4 4 8 ++ rectPos 4 8 0 4 ++ rectPos 4 8 4 8

/-- The pre-quantized integer of a value (R221). -/
def featInt (ea : Int) (x : FVal) : Int :=
  match x with
  | .fin n m e =>
    let t : Int := min (rneQ m (e + 14 - ea) 0) 32767
    if n then -t else t
  | _ => 0

/-- Pack one block in feature-map mode; position p is i1 × 8 + i0 (R217, R221 to R224). -/
def packFeature (rate : Nat) (xs : List (FVal × Rnd)) : PackOut :=
  let vs := xs.map (·.1)
  let e := blockExp vs
  if e = 0xFF then ⟨0xFF, 0, xs.map fun _ => false⟩
  else if isZero (amaxOf vs) then ⟨0, 0, xs.map fun _ => false⟩
  else
    let ea : Int := (e : Int) - 127
    let ints := vs.map (featInt ea)
    let co := haarForward ((List.range 8).map fun i => (ints.drop (8 * i)).take 8)
    let qs := featOrder.map fun (i1, i0) =>
      let (b, sh) := bandAlloc rate (subbandOf i1 i0)
      let c := nth 0 (nth [] co i1) i0
      (quantQ (nth .rne (xs.map (·.2)) (8 * i1 + i0)) sh b (fint c), b)
    { bitsOut := packBits ((e, 8) :: qs.map fun (q : (Int × Bool) × Nat) => (ofInt q.1.1 q.2, q.2))
      clamps := (qs.filter fun (q : (Int × Bool) × Nat) => q.1.2).length
      zeroed := (ints.zip vs).map fun p => p.1 = 0 && !isZero p.2 }

/-- Decode one feature-map block (R218, R224). -/
def unpackFeature (rate blk : Nat) : List FVal :=
  let e := bits blk 0 8
  if e = 0xFF then (List.range 64).map fun _ => .nan
  else
    let ea : Int := (e : Int) - 127
    let fs := (featOrder.zip (fieldOffs 8 (featOrder.map fun (i1, i0) => (bandAlloc rate (subbandOf i1 i0)).1))).map
      fun (p, o) => (8 * p.1 + p.2, sext (bits blk o.1 o.2) o.2 * (2 ^ (bandAlloc rate (subbandOf p.1 p.2)).2 : Nat))
    let at_ (k : Nat) : Int := match fs.find? (fun f => f.1 = k) with
      | some f => f.2
      | none => 0
    let b := haarInverse ((List.range 8).map fun i => (List.range 8).map fun j => at_ (8 * i + j))
    b.flatten.map fun v => if v = 0 then fzero else .fin (v < 0) v.natAbs (ea - 14)

/-- Pack or decode under the shape of the tensor. -/
def packBlock (spatial : Bool) (rate : Nat) (xs : List (FVal × Rnd)) : PackOut :=
  if spatial then packFeature rate xs else packLinear rate xs
def unpackBlock (spatial : Bool) (rate blk : Nat) : List FVal :=
  if spatial then unpackFeature rate blk else unpackLinear rate blk

/-- Rate of a packed format. -/
def rateOf : Fmt → Nat
  | .crush r => r
  | _ => 1

/-- The blocks of a packed tensor at given extents: first context DA and the element index of each of the 64 positions (R46, R220, R221). -/
def crushBlocks (d : Desc) (ext : List Nat) : List (Nat × List (List Nat)) :=
  let bb := 8 * ebits d.fmt
  let hiOff (from_ : Nat) (o : List Nat) : Nat := sumNat ((List.range 6).map fun k => if k < from_ then 0 else dimOff d k (nth 0 o k))
  if d.spatial then
    (indices ((List.range 6).map fun k => if k < 2 then cdiv (nth 1 ext k) 8 else nth 1 ext k)).map fun b =>
      (d.base + nth 0 b 0 * bb + dimOff d 1 (nth 0 b 1) + hiOff 2 b,
        (List.range 64).map fun p => (8 * nth 0 b 0 + p % 8) :: (8 * nth 0 b 1 + p / 8) :: b.drop 2)
  else
    (indices ((List.range 6).map fun k => if k = 0 then cdiv (nth 1 ext 0) 64 else nth 1 ext k)).map fun b =>
      (d.base + hiOff 1 b + nth 0 b 0 * bb, (List.range 64).map fun j => (64 * nth 0 b 0 + j) :: b.tail)

/-- What packing a tensor gives: stores, the record of R225, blocks and clamps. -/
structure PackTensor where
  puts : List Put
  stat : OutStat
  /-- First element of each block, and its clamps. -/
  blocks : List (List Nat × Nat)

/-- Pack values into a packed tensor at run-time extents, under its frame (R225). -/
def packTensor (env : RoundEnv) (d : Desc) (ext : List Nat) (f : List Nat → FVal) : PackTensor :=
  (crushBlocks d ext).foldl (fun acc (a, ps) =>
    let live := ps.map fun i => inExt ext i
    let xs := (ps.zip live).map fun p => (if p.2 then f p.1 else fzero, rndAt env d p.1)
    let o := packBlock d.spatial (rateOf d.fmt) xs
    let whole := bits o.bitsOut 0 8 ≠ 0xFF
    let st := ((xs.zip live).zip o.zeroed).foldl (fun st p =>
      if p.1.2 then
        let x := p.1.1.1
        statAdd st x { nanOut := !whole && !isFin x, unf := p.2, nanIn := isNan x, infIn := isInf x }
      else st) acc.stat
    { puts := acc.puts ++ [(a, 0, 64 * ebits d.fmt, o.bitsOut)], stat := st
      blocks := acc.blocks ++ [(nth [] ps 0, o.clamps)] }) ⟨[], {}, []⟩

/-- Decoded values of a packed tensor as a table of (index, value), in block order (R226). -/
def unpackTensor (rd : Nat → Nat) (d : Desc) (ext : List Nat) : List (List Nat × FVal) :=
  (crushBlocks d ext).flatMap fun (a, ps) =>
    (ps.zip (unpackBlock d.spatial (rateOf d.fmt) (rdBytes rd a (8 * ebits d.fmt)))).filter fun p => inExt ext p.1

/-- Value of an element of a packed tensor. -/
def packedVal (rd : Nat → Nat) (d : Desc) (i : List Nat) : FVal :=
  let hiOff (from_ : Nat) : Nat := sumNat ((List.range 6).map fun k => if k < from_ then 0 else dimOff d k (nth 0 i k))
  let bb := 8 * ebits d.fmt
  if d.spatial then
    let a := d.base + nth 0 i 0 / 8 * bb + dimOff d 1 (nth 0 i 1 / 8) + hiOff 2
    nth fzero (unpackFeature (rateOf d.fmt) (rdBytes rd a bb)) (8 * (nth 0 i 1 % 8) + nth 0 i 0 % 8)
  else
    let a := d.base + hiOff 1 + nth 0 i 0 / 64 * bb
    nth fzero (unpackLinear (rateOf d.fmt) (rdBytes rd a bb)) (nth 0 i 0 % 64)

/-! ### Lossless segments (R228 to R231) -/

/-- Element width of a lossless transform (R229). -/
def llWidth : Fmt → Nat
  | .fp32 | .int32 => 4
  | .bf16 | .fp16 => 2
  | _ => 1

/-- The element transform and its inverse (R229). -/
def llFwd (f : Fmt) (x : Nat) : Nat :=
  match f with
  | .fp32 => rotl32 x 1
  | .bf16 | .fp16 => (x <<< 1) % 2 ^ 16 + x >>> 15
  | .e4m3 | .e5m2 => (x <<< 1) % 2 ^ 8 + x >>> 7
  | .int8 => let n := sext x 8; ofInt (if n < 0 then -2 * n - 1 else 2 * n) 8
  | .int32 => let n := sext x 32; ofInt (if n < 0 then -2 * n - 1 else 2 * n) 32
  | _ => x
def llInv (f : Fmt) (x : Nat) : Nat :=
  match f with
  | .fp32 => rotl32 x 31
  | .bf16 | .fp16 => x >>> 1 + (x % 2) <<< 15
  | .e4m3 | .e5m2 => x >>> 1 + (x % 2) <<< 7
  | .int8 => ofInt (if x % 2 = 1 then -((x / 2 : Nat) : Int) - 1 else (x / 2 : Nat)) 8
  | .int32 => ofInt (if x % 2 = 1 then -((x / 2 : Nat) : Int) - 1 else (x / 2 : Nat)) 32
  | _ => x

/-- Cut a list into groups of `n`, by fuel. -/
def chunksOf {α : Type} (n : Nat) : Nat → List α → List (List α)
  | 0, _ => []
  | k + 1, l => if l.isEmpty then [] else l.take n :: chunksOf n k (l.drop n)

/-- Bit length of a byte. -/
def bitLen (x : Nat) : Nat := if x = 0 then 0 else Nat.log2 x + 1

/-- The PLANE bit string of a segment, as fields (R229). -/
def planeFields (f : Fmt) (bs : List Nat) : List (Nat × Nat) :=
  let w := llWidth f
  let n := bs.length / w
  let ts := (chunksOf w n bs).map fun e => llFwd f (ofBytes e)
  (List.range w).flatMap fun j =>
    (chunksOf 32 (n / 32 + 1) (ts.map fun t => bits t (8 * j) 8)).flatMap fun g =>
      let lo := g.foldl min 255
      let hi := g.foldl max 0
      let wd := bitLen (hi - lo)
      [(lo, 8), (wd, 4)] ++ g.map fun x => (x - lo, wd)

/-- A coded segment: the bytes of its encoded lines and its method (R228 to R230). -/
def encodeSeg (f : Fmt) (index : Nat) (bs : List Nat) : List Nat × Nat :=
  let n := bs.length
  let head (m lines : Nat) : List Nat :=
    [m, llWidth f] ++ bytesOf n 2 ++ bytesOf lines 2 ++ bytesOf (index % 65536) 2 ++ List.replicate 8 0
  let pad (l : List Nat) (lines : Nat) : List Nat := l ++ List.replicate (64 * lines - l.length) 0
  if bs.all (· = 0) then (pad (head 1 1) 1, 1)
  else
    let fs := planeFields f bs
    let pos := 128 + sumNat (fs.map (·.2))
    let pl := cdiv (cdiv pos 8) 64
    let rawL := cdiv (16 + n) 64
    if pl < rawL then (pad (head 2 pl ++ bytesOf (packBits fs) (cdiv pos 8 - 16)) pl, 2)
    else (pad (head 0 rawL ++ bs) rawL, 0)

/-- Decode one plane's groups from a bit string: bytes, the bit position after, and whether a width exceeded 8. -/
def planeDecode (x : Nat) : Nat → Nat → Nat → List Nat × Nat × Bool
  | 0, pos, _ => ([], pos, false)
  | k + 1, pos, left =>
    if left = 0 then ([], pos, false)
    else
      let lo := bits x pos 8
      let wd := bits x (pos + 8) 4
      let cnt := min 32 left
      let vs := (List.range cnt).map fun i => (bits x (pos + 12 + i * wd) wd + lo) % 256
      let (r, p, b) := planeDecode x k (pos + 12 + cnt * wd) (left - cnt)
      (vs ++ r, p, b || 8 < wd)

/-- Decode the `w` planes of `n` elements. -/
def planesDecode (x n : Nat) : Nat → Nat → List (List Nat) × Nat × Bool
  | 0, pos => ([], pos, false)
  | j + 1, pos =>
    let (vs, p, b) := planeDecode x (n / 32 + 1) pos n
    let (r, p', b') := planesDecode x n j p
    (vs :: r, p', b || b')

/-- Decode a segment of known place; none where a check of R231 fails. -/
def decodeSeg (f : Fmt) (index rawLen slot : Nat) : Option (List Nat) :=
  let m := fld slot 0 1
  let w := llWidth f
  let lines := fld slot 4 2
  if m > 2 || fld slot 1 1 ≠ w || fld slot 2 2 ≠ rawLen || fld slot 6 2 ≠ index % 65536 || fld slot 8 8 ≠ 0 then none
  else if m = 0 then (if lines = cdiv (16 + rawLen) 64 then some (bytesOf (slot >>> 128) rawLen) else none)
  else if m = 1 then (if lines = 1 then some (List.replicate rawLen 0) else none)
  else
    let n := rawLen / w
    let (planes, pos, wide) := planesDecode slot n w 128
    if wide || lines ≠ cdiv (cdiv pos 8) 64 then none
    else some ((List.range n).flatMap fun i =>
      bytesOf (llInv f (ofBytes (planes.map fun p => nth 0 p i))) w)

/-- Bytes of one raw row at run-time extents (R228). -/
def rawRow (f : Fmt) (e0 : Nat) (el : Nat → Nat) : List Nat :=
  bytesOf (packBits ((List.range e0).map fun i => (el i, ebits f))) (rawRowBytes f e0)

/-- The raw stream of a tensor (R228). -/
def rawStream (f : Fmt) (ext : List Nat) (el : List Nat → Nat) : List Nat :=
  (indices ext.tail).flatMap fun o => rawRow f (nth 0 ext 0) fun i => el (i :: o)

end Sys2Proof.Machine
end

