-- ==== Sys2Proof/Config.lean ====
section
/-! DEFINITION. What one module fixes and the manual leaves open: the free values (opaque constants without a body), and the results of the published standards the manual refers to. No proof can see what any of them is. -/

namespace Sys2Proof.Config

/-- A byte whose content the manual leaves unpredictable: the epoch in which it became so, and its address (assumption 2). -/
opaque freeByte : Nat → Nat → BitVec 8
/-- What a read through a context DA that no map entry covers gives, by its address past the device address space (R3, assumption 3). -/
opaque voidByte : Nat → BitVec 8
/-- A 64-bit value the manual leaves open, drawn with the state's free-value counter (assumption 3). -/
opaque freeWord : Nat → BitVec 64
/-- A choice the manual leaves open, drawn with the state's free-value counter (assumption 3). -/
opaque freeBit : Nat → Bool

/-- FP32 bits of the derivative of an activation function at FP32 bits x (R186): the manual gives f(x) step by step and no steps for f′ (assumption 7). -/
opaque actDerivative : Nat → Nat → BitVec 32

/-- The instance byte of an error event of a class about an item: the manual gives it no meaning for the memory classes (R514). -/
opaque errorInstance : Nat → Nat → BitVec 8

/-- INFO of an error event whose layout the manual does not give: class, what it is about (a bank, channel or package; the JOB and DA of a refusal), and the syndrome or status (R379, R518). -/
opaque errorInfo : Nat → Nat → BitVec 64 → BitVec 128

/-- The serial number in factory one-time-programmable memory (R426). -/
opaque otpSerial : BitVec 64
/-- Factory calibration value of an item (R486), from one-time-programmable memory. -/
opaque otpCalibration : Nat → BitVec 32
/-- Factory repairs of the spare columns, one byte a plane, in QRY_COL_REPAIR's layout (R105). -/
opaque otpColRepair : BitVec 64

/-- Spare rows of a Stockpile bank (128 banks a Face) that the factory has used (R295), from one-time-programmable memory. -/
opaque otpSpareRows : Nat → Nat

/-- Rows of a stack (0 to 7) that hard post-package repair can replace: the stack's repair resources (R302). -/
opaque stackRepairs : Nat → Nat

/-- SHA-384 hashes of the four firmware keys, and their revocation bits, in one-time-programmable memory (R480). -/
opaque otpKeyHash : Nat → Nat
opaque otpRevoked : BitVec 4
/-- ECDSA P-384 verification (R479, R480): public key, SHA-384 of the signed bytes, signature. The published standard's result. -/
opaque signatureGood : Nat → Nat → Nat → Bool
/-- SHA-384 of a number of bytes held as a little-endian number (R479, R480): the published standard's result. -/
opaque sha384 : Nat → Nat → Nat

/-- What the container and stream headers of a sample say (R324, R325, R349, R350): container code, bytes as a number, length, item. The items are named where they are read (StreamHead). The published standards' result. -/
opaque streamHead : Nat → Nat → Nat → Nat → Nat
/-- How the decoding of a range of display indices ends (R361): container, bytes, length, first and last index, item. Items: 0 damage code (0 none), 1 display index of the damaged picture, 2 pictures decoded. -/
opaque decodeRun : Nat → Nat → Nat → Nat → Nat → Nat → Nat
/-- Pictures decoded before a display index when decoding begins at the latest random access point at or before another (R328, R358): container, bytes, length, the display index decoding begins for, the index. -/
opaque leadPictures : Nat → Nat → Nat → Nat → Nat → Nat
/-- Was a display index fully decoded before the damage of such a range: container, bytes, length, first and last index, index. -/
opaque frameWhole : Nat → Nat → Nat → Nat → Nat → Nat → Bool
/-- The code of one sample of one decoded picture (R351): container, bytes, length, film grain (0 or 1), display index, and [plane, x, y]. -/
opaque decodedSample : Nat → Nat → Nat → Nat → Nat → List Nat → Nat
/-- What a decoded picture's syntax says of the coded unit that covers a luma sample (R356): container, bytes, length, display index, x, y, item. The items are named where they are read (CodedUnit). -/
opaque decodedUnit : Nat → Nat → Nat → Nat → Nat → Nat → Nat → Nat

/-- The bytes of one coded picture of an encode session, as a number (R364 to R366): firmware version, parameter block, codes of every input frame as a list, and [display index, type, QP] followed by the display indices it may refer to. -/
opaque encodedPicture : Nat → Nat → List Nat → List Nat → Nat
/-- How many bytes that picture takes. -/
opaque encodedLength : Nat → Nat → List Nat → List Nat → Nat
/-- The parameter sets or sequence header that precede a random access picture (R364): firmware version, and [codec, width, height, depth, matrix, full range, tile columns, tile rows, wavefront]. -/
opaque encodedSets : Nat → List Nat → Nat
/-- How many bytes they take. -/
opaque encodedSetsLength : Nat → List Nat → Nat
/-- The bytes of an IVF file header but for its frame count: firmware version, parameter block. -/
opaque encodedHeader : Nat → Nat → Nat
/-- What an encode session chose for the unit that covers a luma sample of a picture (R356, R365): as encodedPicture, then x, y, item; the items of CodedUnit, and 20 to 23 the partition's x, y, width and height, 24 its reference's display index. -/
opaque encodedUnit : Nat → Nat → List Nat → List Nat → Nat → Nat → Nat → Nat
/-- The reference luma that an encode session searches, at a quarter-sample position (R365): firmware version, parameter block, codes, the reference's display index, x and y in quarter samples. The standard's interpolation of its reconstruction. -/
opaque encodedReference : Nat → Nat → List Nat → Nat → Int → Int → Nat
/-- The estimated bits of a vector in quarter samples at a QP (R365): firmware version, codec, QP, x, y. -/
opaque vectorBits : Nat → Nat → Nat → Int → Int → Nat
/-- The standard's predicted vectors of a partition, in quarter samples (R365): as encodedPicture, then the partition's x and y. -/
opaque predictedVectors : Nat → Nat → List Nat → List Nat → Nat → Nat → List (Int × Int)

/-- Does a temperature in m°C between two whole degrees read as the higher one (R315, R513)? -/
opaque celsiusUp : Int → Bool

end Sys2Proof.Config
end

