-- ==== Sys2Proof/Machine/Memory.lean ====
section
/-! DEFINITION. Device memory: a canonical sparse list of bytes over the device address map of R20, with the ranges whose content is open or zeroed, and the byte operations on it. -/

namespace Sys2Proof.Machine

/-- What a range that lost or was given new contents reads as: zeros, bytes the manual leaves open (assumption 2), or the numbers 0, 1, 2, ... as u32 from an address on (R256). -/
inductive Fill where
  | zeros
  | openBytes (epoch : Nat)
  | indices (base : Nat)
  deriving DecidableEq, Repr

/-- A half-open range of device addresses with one content. -/
structure FillRange where
  lo : Nat
  hi : Nat
  fill : Fill
  deriving DecidableEq, Repr

/-- Device memory. `cells` lists the bytes that differ from what an unlisted address reads as, addresses strictly rising; `fills` lists the ranges filled since reset, newest first. -/
structure Memory where
  cells : SMap Byte
  fills : List FillRange
  deriving DecidableEq, Repr

/-- What an unlisted address reads as: the newest fill that covers it, else zero (assumption 1). -/
def unlistedIn (fs : List FillRange) (a : Nat) : Byte :=
  match fs with
  | [] => 0
  | r :: t =>
    if r.lo ≤ a && a < r.hi then
      match r.fill with
      | .zeros => 0
      | .openBytes e => Config.freeByte e a
      | .indices base => BitVec.ofNat 8 ((a - base) / 4 / 256 ^ ((a - base) % 4))
    else unlistedIn t a

/-- What an unlisted address reads as. -/
def unlisted (m : Memory) (a : Nat) : Byte := unlistedIn m.fills a

/-- Look an address up in the cells. -/
def cellAt : SMap Byte → Nat → Option Byte
  | [], _ => none
  | (k, v) :: r, a => if k = a then some v else if a < k then none else cellAt r a

/-- Read one byte. -/
def memGet (m : Memory) (a : Nat) : Byte := (cellAt m.cells a).getD (unlisted m a)

/-- Write one byte: writing what an unlisted address reads as removes the entry. -/
def memSet (m : Memory) (a : Nat) (b : Byte) : Memory :=
  { m with cells := if b = unlisted m a then smDel m.cells a else smPut m.cells a b }

/-- The canonical form of the cells: strictly rising addresses. -/
def cellsRising : SMap Byte → Bool
  | [] => true
  | [_] => true
  | (k, _) :: (k', v') :: r => k < k' && cellsRising ((k', v') :: r)

/-- The canonical form: strictly rising, and no entry equal to what its address reads as when unlisted. -/
def memWf (m : Memory) : Bool := cellsRising m.cells && m.cells.all fun p => p.2 ≠ unlisted m p.1

/-- Give a whole range new contents. -/
def memFill (m : Memory) (lo hi : Nat) (f : Fill) : Memory :=
  let fs := m.fills.filter fun r => !(lo ≤ r.lo && r.hi ≤ hi)
  { cells := m.cells.filter fun p => !(lo ≤ p.1 && p.1 < hi)
    fills := ⟨lo, hi, f⟩ :: fs }

/-- A little-endian number of `n` bytes. -/
def memRd (m : Memory) (a : Nat) : Nat → Nat
  | 0 => 0
  | n + 1 => (memGet m a).toNat + 256 * memRd m (a + 1) n

/-- Store the `n` low bytes of a number, little-endian. -/
def memWr (m : Memory) (a v : Nat) : Nat → Memory
  | 0 => m
  | n + 1 => memWr (memSet m a (BitVec.ofNat 8 v)) (a + 1) (v / 256) n

/-- Store a bit field that begins `b` bits into byte `a` and is `w` bits wide, leaving the other bits. -/
def memWrBits (m : Memory) (a b w v : Nat) : Memory :=
  if b = 0 && w % 8 = 0 then memWr m a v (w / 8)
  else
    let n := cdiv (b + w) 8
    let old := memRd m a n
    memWr m a (bits old 0 b + (v % 2 ^ w) <<< b + ((old >>> (b + w)) <<< (b + w))) n

/-- Store a list of bytes. -/
def memWrList (m : Memory) (a : Nat) : List Nat → Memory
  | [] => m
  | b :: r => memWrList (memSet m a (BitVec.ofNat 8 b)) (a + 1) r

/-- Bytes of a range as a list. -/
def memList (m : Memory) (a n : Nat) : List Nat := (List.range n).map fun j => (memGet m (a + j)).toNat

end Sys2Proof.Machine
end

