-- ==== Sys2Proof/Machine/State.lean ====
section
/-! DEFINITION. The state of the GL1 block: plain data, one field for every piece of state the manual gives the module, the waiting commands, the reasons a step can stop, and the state after a cold reset. -/

namespace Sys2Proof.Machine

/-- Why the machine stops with a fault. It has no constructor: every error the manual describes has a status, an event or a log record of its own, which is a next state. -/
inductive Fault where
  deriving DecidableEq, Repr

/-- Why a command is refused. -/
inductive Refusal where
  /-- Raised by the dispatcher for a command that has no meaning yet; safe. -/
  | notModelled (mnemonic : String)
  deriving DecidableEq, Repr

/-- The operating modes of R15. -/
inductive Mode where
  | offOrReset | startUp | relayAndReport | serving | relayOnly
  deriving DecidableEq, Repr

/-- One range map entry (R30). -/
structure MapEntry where
  cda : Nat
  pda : Nat
  len : Nat
  r : Bool
  w : Bool
  deriving DecidableEq, Repr

/-- An operation in a unit queue: its place in the package, the unit instance that owns it, its opcode, the bytes of its envelope and records as a number, and its byte offset in the package (R137, R139). -/
structure QOp where
  opIndex : Nat
  cls : Nat
  inst : Nat
  opcode : Nat
  env : Nat
  off : Nat
  deriving DecidableEq, Repr

/-- A tracked hazard range of a Hauler operation, in context DAs (R166). -/
structure Hazard where
  lo : Nat
  hi : Nat
  write : Bool
  deriving DecidableEq, Repr

/-- A rectangle of Sump accumulators as an operation of the array names it (R91): first row counted from slot 0, rows, first column, columns. -/
structure SumpRegion where
  row : Nat
  rows : Nat
  col : Nat
  cols : Nat
  deriving DecidableEq, Repr

/-- What an operation reads and writes, as its issue found it (R147, R148): physical ranges of memory as (first DA, length), regions of the Sump, what its tables held before it changed them, as (DA, length, value), for an end that takes the change back (R210, R262), and whether an operation that no tally orders with it met its bytes (R154). -/
structure Access where
  rd : List (Nat × Nat) := []
  wr : List (Nat × Nat) := []
  sumpRd : List SumpRegion := []
  sumpWr : List SumpRegion := []
  undo : List (Nat × Nat × Nat) := []
  raced : Bool := false
  deriving DecidableEq, Repr

/-- An operation that has issued and not completed (R142, R147): its status so far, who executes it and when it issued. `ended` is false while its work still runs; `held` while a Hauler or stash operation waits on a hazard (R166, R209); `aux` holds the unit's progress, `acc` what it reads and writes, and `old` says that it runs on an old codec image (R369). -/
structure Flight where
  op : QOp
  status : Nat
  flags : NumFlags
  detail : Nat
  tIssue : W64
  cls : Nat
  ended : Bool
  held : Bool
  ranges : List Hazard
  aux : List Nat
  acc : Access
  old : Bool
  deriving DecidableEq, Repr

/-- A submitted work package (R134, R135, R456). -/
structure Pkg where
  da : Nat
  started : Bool
  opCount : Nat
  bytes : Nat
  compBase : Nat
  gen : Nat
  waitLimit : Nat
  aborted : Bool
  deriving DecidableEq, Repr

/-- A failed operation of a halted package (R158). -/
structure FailedOp where
  op : QOp
  status : Nat
  deriving DecidableEq, Repr

/-- A ledger entry held in the ledger cache, newer than memory (R75): 64 bytes as a number. -/
structure LedgerLine where
  slot : Nat
  entry : Nat
  deriving DecidableEq, Repr

/-- Context states (R171). -/
inductive CtxSt where
  | closed | idle | running | halted | aborting
  deriving DecidableEq, Repr

/-- The stash configuration of a context (R201); STASH_HANDLES is 0 where STASH_EN is 0 (R451). -/
structure StashCfg where
  base : Nat
  handles : Nat
  ownBase : Nat
  nearPool : Nat
  nearSize : Nat
  farPool : Nat
  farSize : Nat
  hostPool : Nat
  hostSize : Nat
  nearRate : Nat
  farRate : Nat
  hostRate : Nat
  deriving DecidableEq, Repr

/-- The stash registers (R215): counter k of context n at 8n + k, and CTX_MASK. -/
structure StashS where
  cnt : List W64
  mask : Nat
  deriving DecidableEq, Repr

/-- The Ringstore configuration of a context (R256); `enabled` is RING_EN (R451). -/
structure RingCfg where
  enabled : Bool
  fmt : Nat
  d : Nat
  hg : Nat
  kvh : Nat
  margin : Nat
  slots : Nat
  maxPages : Nat
  dirEntries : Nat
  dirBase : Nat
  l1Base : Nat
  l2Base : Nat
  l2Count : Nat
  frameCount : Nat
  frameBase : Nat
  freeBase : Nat
  swapBase : Nat
  swapStride : Nat
  deriving DecidableEq, Repr

/-- What a context's Ringstore has in use (R256, R258): the free stacks, as the indices pushed since open on top of the untouched ones from `nextFrame` and `nextTable` on, and the resident slots taken. -/
structure RingUse where
  frames : List Nat
  nextFrame : Nat
  tables : List Nat
  nextTable : Nat
  slots : List Nat
  deriving DecidableEq, Repr

/-- One of the eight contexts (R168). -/
structure Ctx where
  st : CtxSt
  maps : List MapEntry
  tallies : SMap W32
  swBase : Nat
  ledgerBase : Nat
  jobSeed : W64
  esHeadroom : Nat
  step : W32
  ledger : List LedgerLine
  sumpFirst : Nat
  sumpCount : Nat
  stash : StashCfg
  ring : RingCfg
  ringUse : RingUse
  fabricJob : Nat
  pkgs : List Pkg
  nextIndex : Nat
  nextOff : Nat
  queued : List QOp
  flight : List Flight
  halt : Option Nat
  haltStatus : Nat
  failed : List FailedOp
  deriving DecidableEq, Repr

/-- A stationary tile (R83): for each column and lattice row the retained (K position, value) pairs, and the groups with an invalid pattern code as (column, group). -/
structure Tile where
  cols : List (List (List (Nat × FVal)))
  invalidGroups : List (Nat × Nat)
  deriving DecidableEq, Repr

/-- What the lattice holds (R83, R86): the tile of each Face, and the record, format, mode and context that it was loaded for. -/
structure Lattice where
  valid : Bool
  fmt : Nat
  sparse : Bool
  ctx : Nat
  record : Nat
  tiles : List Tile
  deriving DecidableEq, Repr

/-- The Quarry block (R108), and the planes whose spare column failed while it was free (R105). -/
structure QuarryS where
  lattice : Lattice
  lastCtx : Nat
  lastMatrix : Option Nat
  freeze : Bool
  loadCyc : W64
  streamCyc : W64
  stallCyc : W64
  idleCyc : W64
  gatedCubes : W64
  keepHit : W64
  keepMiss : W64
  sumpCe : W64
  drainCyc : W64
  colRepair : W64
  spareBad : List Nat
  deriving DecidableEq, Repr

/-- A range of physical bytes whose check bits report an uncorrectable error: a word of the Stockpile, a line of a tier, or a poisoned line (R294, R301, R305). -/
structure BadRange where
  addr : Nat
  len : Nat
  deriving DecidableEq, Repr

/-- A block of wrapping 64-bit event counters with its FREEZE bit. -/
structure Perf where
  freeze : Bool
  cnt : List W64
  deriving DecidableEq, Repr

/-- The memory block (R317), the retention groups, the map-out and the errors that memory holds. -/
structure MemS where
  globalMode : Bool
  mapped : List Nat
  nextMapped : List Nat
  farWithdrawn : Bool
  ret : List Nat
  bad : List BadRange
  stackStep : List Nat
  stackTemp : List Nat
  farHot : List Bool
  farMult : List Nat
  freeze : Bool
  spCe : W64
  spUe : W64
  nearCe : W64
  nearUe : W64
  farCe : W64
  farUe : W64
  nearRd : W64
  nearWr : W64
  farRd : W64
  farWr : W64
  agedGrants : W64
  spFaultOnce : List Nat
  rowsRecorded : List Nat
  suspects : List Nat
  ueRows : List Nat
  ceLines : List (Nat × Nat)
  selfRef : Bool
  deriving DecidableEq, Repr

/-- A live frame (R339, R340): in reassembly while fragments are missing, then complete; `got` holds (fragment, bytes), and a decoded picture is named by its session's bytes, their length and its place among the session's pictures. -/
structure LiveFrame where
  num : Nat
  capture : Nat
  rap : Bool
  frags : Nat
  bytes : Nat
  got : List (Nat × Nat)
  decoded : Bool
  hist : Nat
  histLen : Nat
  pic : Nat
  deriving DecidableEq, Repr

/-- One stream of a live set (R339, R340): frames in reassembly, complete frames, the frame numbers completed, whether it discards until a random access point, and its decode session since the last one. -/
structure LiveStream where
  source : Nat
  kind : Nat
  codec : Nat
  maxBytes : Nat
  parts : List LiveFrame
  ready : List LiveFrame
  done : List Nat
  discard : Bool
  hist : Nat
  histLen : Nat
  pics : Nat
  deriving DecidableEq, Repr

/-- A feed (R318): the feed block and live block as read at issue, its templates, its state (0 idle, 1 running, 2 stopping, 3 stopped after a fault), the tallies at its start, batches published, the slots of the batch being filled as (valid, SLOT_INFO), alarm state, reject records, for a live set the next tick and its streams, and whether it runs on old microcode or its streams on an old codec image (R369, R444). -/
structure Feed where
  ctx : Nat
  id : Nat
  live : Bool
  cfg : Nat
  liveCfg : Nat
  tmpl : List Nat
  st : Nat
  r0 : W32
  f0 : W32
  published : Nat
  slots : List (Bool × Nat)
  low : Bool
  armed : Bool
  rejects : Nat
  tick : Nat
  streams : List LiveStream
  oldTap : Bool
  oldVcc : Bool
  deriving DecidableEq, Repr

/-- The Taproot (R318, R348): its feeds, and the dataset feed served last, as 4 × context + FEED ID. -/
structure TapS where
  feeds : List Feed
  served : Nat
  perf : Perf
  deriving DecidableEq, Repr

/-- A boundary between two cores of one picture (R354): its generations, the counts the producer has written and the consumer has read, and the generations in its two slots. -/
structure PicBound where
  gens : Nat
  ready : Nat
  ack : Nat
  slot0 : Option Nat
  slot1 : Option Nat
  deriving DecidableEq, Repr

/-- An entry of the codec's session table (R352): its number, its session, the cores granted to the session's current picture, and that picture's boundaries. -/
structure VccEntry where
  slot : Nat
  who : VccSession
  cores : List Nat
  bounds : List PicBound
  deriving DecidableEq, Repr

/-- The Video Codec Cluster (R352, R369, R370): counters, cycles in which each core held a grant, the firmware version that new sessions use, the old image still held, the session table, and the entries last served by the decode and by the encode cores. -/
structure VccS where
  perf : Perf
  busy : List W64
  version : Nat
  oldImage : Option Nat
  sess : List VccEntry
  lastDec : Nat
  lastEnc : Nat
  deriving DecidableEq, Repr

/-- A packet (R377): its 32-byte header and its payload, as numbers. -/
structure Pkt where
  hdr : Nat
  pay : Nat
  deriving DecidableEq, Repr

/-- A packet in a receive buffer (R376): where it came from (0 to 15 a port, 16 this module itself, 17 + t tunnel t) and its virtual channel. -/
structure RxPkt where
  src : Nat
  vc : Nat
  pkt : Pkt
  deriving DecidableEq, Repr

/-- A packet routed to a port and not yet framed: as it was before this hop, whether this module sourced it, and as it leaves. -/
structure EgPkt where
  pre : Pkt
  own : Bool
  pkt : Pkt
  deriving DecidableEq, Repr

/-- A Jalpin port (R371 to R376, R385, R402): FAB_PORTn_STATUS's fields (`st` 0 down, 1 training, 2 up, 3 disabled), the next SEQ sent and expected, the replay buffer as (SEQ, packet), packets waiting for credits, credits held and credits to return per VC, and the header of the last frame sent. -/
structure Port where
  st : Nat
  width : Nat
  laneOk : Nat
  spareFor : Nat
  retrains : Nat
  peerNode : Nat
  peerPort : Nat
  peerUnassigned : Bool
  cfg : Nat
  next : Nat
  expect : Nat
  replay : List (Nat × Pkt)
  egress : List EgPkt
  credits : List Nat
  owed : List Nat
  lastTx : Nat
  deriving DecidableEq, Repr

/-- A REQ transaction (R381): waiting to be sent, or outstanding. `half` is 2 for a gateway's own (R399), which keeps its tunnel, datagram and the original source and TAG. -/
structure Txn where
  tag : Nat
  half : Nat
  ctx : Nat
  opIndex : Nat
  pkt : Pkt
  sent : Bool
  waited : Bool
  got : Nat
  tun : Nat
  dg : Nat
  origSrc : Nat
  origTag : Nat
  deriving DecidableEq, Repr

/-- Bytes that a CREAD has received (R378): remote context DA, length, data. -/
structure ReadPiece where
  ctx : Nat
  opIndex : Nat
  da : Nat
  len : Nat
  data : Nat
  deriving DecidableEq, Repr

/-- Bytes of a step's wire vector received from a member (R412). -/
structure Frag where
  rank : Nat
  dim : Nat
  step : Nat
  off : Nat
  len : Nat
  data : Nat
  deriving DecidableEq, Repr

/-- A piece number of a step between this member and another: a LIMIT, or pieces sent (R412, R413). -/
structure Mark where
  rank : Nat
  dim : Nat
  step : Nat
  n : Nat
  deriving DecidableEq, Repr

/-- A move list entry (R421); `bad` says that it carries a reserved bit or a length that R421 does not allow. -/
structure Move where
  src : Nat
  dst : Nat
  round : Nat
  srcDa : Nat
  dstDa : Nat
  bytes : Nat
  bad : Bool
  deriving DecidableEq, Repr

/-- An instance of a collective (R405 to R414, R420, R421, R424): its group descriptor and members as read at issue, its sequence number and signature, the run-time extents of its records, a CA2A's fill counts and a CPERMUTE's moves as read at issue (R40, R418, R421), the run-time element counts of IN and OUT, F of an exact sum, whether it has begun, what it received and sent, the LIMITs it holds and gave, summaries and counts by rank, a CAR's narrowed shard, and a CPERMUTE's barrier, staged packets and tokens. -/
structure CollInst where
  ctx : Nat
  opIndex : Nat
  half : Nat
  group : Nat
  members : List Nat
  cseq : Nat
  sig : Nat
  opcode : Nat
  env : Nat
  exts : List (List Nat)
  fills : List Nat
  moves : List Move
  eIn : Nat
  eOut : Nat
  f : Int
  begun : Bool
  frags : List Frag
  limits : List Mark
  given : List Mark
  sent : List Mark
  flags : NumFlags
  ownSum : Nat
  sums : List Frag
  sumSent : List Mark
  counts : List (Nat × Nat)
  countSent : List Nat
  mid : Option Nat
  barrier : Nat
  reached : Bool
  staged : List Pkt
  tokens : List Nat
  tokensSent : List Nat
  deriving DecidableEq, Repr

/-- A COLL packet held for a collective not yet issued (R406, R413, R414). -/
structure HeldColl where
  ctx : Nat
  group : Nat
  pkt : Pkt
  deriving DecidableEq, Repr

/-- A datagram in a tunnel's retransmit buffer, with how many later ones have arrived while it is missing (R397). -/
structure Dgram where
  seq : Nat
  pkt : Pkt
  later : Nat
  sentAt : Nat
  deriving DecidableEq, Repr

/-- A Jalpin-over-UDP tunnel (R395 to R401): its tunnel block, packets waiting to enter the buffer, the retransmit buffer, the receiver's next expected and early datagrams, datagrams and marks since the last ACK, held SIGNAL packets with their datagram numbers, the congestion window with its round-trip estimates in nanoseconds, and the last ACK or probe sent. -/
structure Tunnel where
  opened : Bool
  up : Bool
  blk : Nat
  txq : List Pkt
  next : Nat
  buf : List Dgram
  expect : Nat
  early : List Nat
  unacked : Nat
  ece : Bool
  tsval : Nat
  held : List (Nat × Pkt)
  window : Nat
  lossSeen : Bool
  cut : Bool
  roundEnd : Nat
  srtt : Nat
  rttvar : Nat
  minRtt : Nat
  backoff : Nat
  lastSent : Nat
  deriving DecidableEq, Repr

/-- The sideband ring (R390 to R393): SBR_STATUS's fields, CABLE_NS, and the last frame that left on RING_OUT with its length. -/
structure SbrS where
  relayOpen : Bool
  locked : Bool
  inserted : Bool
  master : Bool
  timeValid : Bool
  station : Nat
  timeSeq : Nat
  moves : Nat
  cableNs : Nat
  outFrame : Nat
  outLen : Nat
  deriving DecidableEq, Repr

/-- The fabric (R371 to R425): node and record state, routing settings and table, ports, receive buffers, transactions, collectives, tunnels, Ethernet frame counts per port (discarded, tunnels, Taproot, time, Foreman), the sideband ring, and the two counter blocks. -/
structure FabS where
  node : Nat
  recValid : Bool
  hopLimit : Nat
  timeoutUs : Nat
  torus : Bool
  ext : List Nat
  routes : SMap Nat
  ports : List Port
  rx : List RxPkt
  txns : List Txn
  nextTag : Nat
  reads : List ReadPiece
  insts : List CollInst
  held : List HeldColl
  cseq : SMap Nat
  bound : SMap Nat
  tunnels : List Tunnel
  eth : List (List Nat)
  sbr : SbrS
  perf : Perf
  col : Perf
  deriving DecidableEq, Repr

/-- The module's time (R508 to R513), beyond the elapsed-time counter: validity and source in use, OFFSET, TIME_CONFIG's SOURCE, domain and ports, the counter at the last estimate and at the last PTP estimate, the error bound of the last estimate, what is still to be slewed and when it was last slewed, and the latched OFFSET. -/
structure TimeS where
  valid : Bool
  source : Nat
  offset : W64
  config : Nat
  domain : Nat
  ports : Nat
  lastEst : Option Nat
  lastPtp : Option Nat
  errNs : Nat
  slew : Int
  slewAt : Nat
  latch : W64
  deriving DecidableEq, Repr

/-- A firmware bank (R445, R479): the image's bytes as a number, its length (0: empty), version and security version. -/
structure Bank where
  img : Nat
  len : Nat
  version : Nat
  svn : Nat
  deriving DecidableEq, Repr

/-- A firmware region (R444 to R446, R481): its two banks, the active one, whether the other holds a staged image or an old one not yet retired, and the anti-rollback counter. -/
structure FwRegion where
  banks : List Bank
  active : Nat
  staged : Bool
  old : Bool
  counter : Nat
  deriving DecidableEq, Repr

/-- A copy of the calibration user page (R488): whether its MAGIC and DIGEST are valid, SEQ, and offsets by item. -/
structure CalPage where
  valid : Bool
  seq : W32
  ents : SMap W32
  deriving DecidableEq, Repr

/-- Flash and one-time-programmable counters (R445, R463, R481, R482, R488, R312, R295): firmware regions, the bank booted, consecutive start-ups in which the active bank did not reach FW_STATE 2, the fabric record with its length (0: none), the repair record's channels, Stockpile rows and near-tier rows, the near-tier rows that hard post-package repair has replaced in the stacks (R302), and the two user pages. -/
structure FlashS where
  regions : List FwRegion
  bootBank : Nat
  failedBoots : Nat
  fabRec : Nat
  fabLen : Nat
  outChans : List Nat
  rows : List Nat
  nearRows : List Nat
  rowRepairs : List Nat
  cal : List CalPage
  deriving DecidableEq, Repr

/-- The label (R450, R489 to R491): the label state record's STATE, generation and fields last drawn, a drawing in progress with the fields it draws, a pending request, the note's characters, and whether the panel must first be cleared. -/
structure LabelS where
  updating : Bool
  gen : W32
  drawn : List Nat
  busy : Bool
  drawing : List Nat
  pend : Bool
  note : List Nat
  clearFirst : Bool
  deriving DecidableEq, Repr

/-- The Always-On Controller (R469 to R476, R493): island power, reset causes asserted now, those of the reset in progress and of the last one (bits as AOC_RESET_CAUSE), inputs by number with their levels, stuck flags, counts and last events, the edges of PPS acquisition, and the stamp of SYNC_IN. -/
structure AocS where
  on : Bool
  causes : Nat
  seen : Nat
  cause : Nat
  perstSeen : Bool
  lastStep : Nat
  slot : Nat
  slotValid : Bool
  ppsLocked : Bool
  buttonIgnored : Bool
  buttonStuck : Bool
  level : List Bool
  stuck : List Bool
  events : List Nat
  dropped : List Nat
  lastEvent : List (Option Nat)
  ppsEdges : List Nat
  syncStamp : W64
  label : LabelS
  deriving DecidableEq, Repr

/-- Power, clocks and heat (R496 to R503, R513): the cap set, input voltage in 10 mV and 10 ms average power, the cap level, per Face the junction temperature in m°C, sensor failure, since when it is above 105 °C, the row of *Face junction thresholds* in force, the levels of causes 2 and 3, the applied calibration, the emergency, trip and alert flags, level changes, Faces in service, and when each domain fell. -/
structure PwrS where
  cap : Nat
  vin : Nat
  vinHigh : Option (Nat × Bool)
  pin : Nat
  capLevel : Nat
  tj : List Int
  sensorFail : List Bool
  hotSince : List (Option Nat)
  jRow : List Nat
  jLevel : List Nat
  nLf : List Nat
  nLq : List Nat
  vcore : List Nat
  qMax : Nat
  fMax : List Nat
  emergency : Bool
  tripped : Bool
  alert : Bool
  steps : W64
  faces : List Bool
  domAt : List Nat
  deriving DecidableEq, Repr

/-- The host interface (R32, R33, R471): whether its island is powered and PERST_N asserted, BAR2's size as a power of two and its apertures as (TARGET, ENABLE), what the last read over PCIe and over I2C returned: a completion status (0 successful, 1 Unsupported Request, 2 poisoned) with data, and a register value, and the PCIe memory ranges of the last posted write to the host (R29). -/
structure HifS where
  on : Bool
  perst : Bool
  bar2Log2 : Nat
  aps : List (Nat × Bool)
  rdStatus : Nat
  rdData : Nat
  i2c : Nat
  posted : List (Nat × Nat)
  deriving DecidableEq, Repr

/-- An error event as a detector reports it (R514, R518). -/
structure ErrEvent where
  cls : Nat
  sev : Nat
  src : Nat
  inst : Nat
  ctx : Nat
  key : Nat
  info : Nat
  deriving DecidableEq, Repr

/-- A coalescing entry, and the event it becomes in the FIFO (R516). -/
structure Coal where
  ev : ErrEvent
  count : Nat
  tFirst : W64
  tLast : W64
  boot : Nat
  first : Bool
  deriving DecidableEq, Repr

/-- A first-error capture set (R515). -/
structure Capture where
  valid : Bool
  ev : ErrEvent
  time : W64
  boot : Nat
  deriving DecidableEq, Repr

/-- Error collection, logging and the persisted log (R515 to R522, R531). -/
structure RasS where
  first : List Capture
  table : List Coal
  fifo : List Coal
  dropped : List Nat
  overflowed : List Nat
  ring : SMap Nat
  n : Nat
  highRead : Nat
  persisted : List Nat
  lastFault : Nat
  records : W64
  droppedEvents : W64
  overflowLost : W64
  highWater : Nat
  sevSeen : Bool
  lastEvent : List (Option Nat)
  persistAt : List Nat
  sumDue : Bool
  deriving DecidableEq, Repr

/-- A command taken from the submission ring (R432): its 64 bytes, whether it has begun, whether its completion is discarded (R430), its STATUS, DETAIL and RESULT once its work is done, and what it waits for. -/
structure Cmd where
  raw : Nat
  begun : Bool
  discard : Bool
  ready : Option (Nat × Nat × Nat)
  aux : List Nat
  deriving DecidableEq, Repr

/-- The Foreman mailbox (R426 to R439): registers, rings, events lost, scratch registers, the MSI-X vector, the interface version shown, whether the rings passed their check, and contexts whose CTX_ENDED waits for the rings. -/
structure MbxS where
  heartbeat : W32
  fwState : Nat
  ringLost : Bool
  cqLog2 : Nat
  sqLog2 : Nat
  enable : Bool
  sqBase : Nat
  cqBase : Nat
  sqTail : Nat
  sqHead : Nat
  cqTail : Nat
  cqHead : Nat
  irq : W64
  irqEn : W64
  scratch : List W64
  armed : Bool
  vectors : Nat
  phase : Bool
  taken : List Cmd
  lost : List Nat
  eventMask : Nat
  autoRetainUs : Nat
  iface : Nat
  checked : Bool
  ended : List Nat
  deriving DecidableEq, Repr

/-- The trace unit (R528 to R531): state 0 stopped, 1 running, 2 suspended; staged records wait while suspended. -/
structure TrcS where
  configured : Bool
  base : Nat
  bytes : Nat
  sources : Nat
  st : Nat
  n : Nat
  staged : List Nat
  lost : W64
  written : W64
  suspDomain : Nat
  suspAt : W64
  suspLost : Nat
  deriving DecidableEq, Repr

/-- The state of the block. -/
structure State where
  mode : Mode
  relayCause : Nat
  mem : Memory
  sump : SMap AccBits
  sumpBad : List Nat
  ctxs : List Ctx
  quarry : QuarryS
  memS : MemS
  cru : Perf
  stash : StashS
  rs : Perf
  spl : Perf
  tap : TapS
  vcc : VccS
  fab : FabS
  time : TimeS
  rlb : List (List (Nat × Nat × Nat))
  ras : RasS
  mbx : MbxS
  trc : TrcS
  aoc : AocS
  pwr : PwrS
  hif : HifS
  flash : FlashS
  fenced : List (Nat × Nat)
  coresOff : List (Nat × Nat)
  domOn : List Bool
  wakes : W64
  elapsed : W64
  boot : Nat
  hostUp : Bool
  lastServed : SMap Nat
  chiselCmv : Bool
  free : Nat
  pending : List Instr
  deriving DecidableEq, Repr

/-! ### The state after a cold reset of the management island (R468) -/

/-- A closed context. -/
def resetCtx : Ctx :=
  { st := .closed, maps := [], tallies := [], swBase := 0, ledgerBase := 0, jobSeed := 0, esHeadroom := 16
    step := 0, ledger := [], sumpFirst := 0, sumpCount := 0
    stash := { base := 0, handles := 0, ownBase := 0, nearPool := 0, nearSize := 0, farPool := 0, farSize := 0
               hostPool := 0, hostSize := 0, nearRate := 0, farRate := 0, hostRate := 0 }
    ring := { enabled := false, fmt := 0, d := 0, hg := 0, kvh := 0, margin := 0, slots := 0, maxPages := 0, dirEntries := 0
              dirBase := 0, l1Base := 0, l2Base := 0, l2Count := 0, frameCount := 0, frameBase := 0, freeBase := 0
              swapBase := 0, swapStride := 0 }
    ringUse := ⟨[], 0, [], 0, []⟩, fabricJob := 0, pkgs := [], nextIndex := 0, nextOff := 0
    queued := [], flight := [], halt := none, haltStatus := 0, failed := [] }

/-- The Quarry after reset (R108). -/
def resetQuarry : QuarryS :=
  { lattice := { valid := false, fmt := 0, sparse := false, ctx := 0, record := 0, tiles := [] }
    lastCtx := 0, lastMatrix := none, freeze := false, loadCyc := 0, streamCyc := 0, stallCyc := 0, idleCyc := 0
    gatedCubes := 0, keepHit := 0, keepMiss := 0, sumpCe := 0, drainCyc := 0, colRepair := 0, spareBad := [] }

/-- The memory block after reset (R317): temperatures read 0xFF, every Stockpile group ON. -/
def resetMem : MemS :=
  { globalMode := false, mapped := [], nextMapped := [], farWithdrawn := false, ret := List.replicate 32 0, bad := []
    stackStep := List.replicate 8 0, stackTemp := List.replicate 8 0xFF, farHot := List.replicate 16 false
    farMult := List.replicate 16 1, freeze := false, spCe := 0, spUe := 0, nearCe := 0, nearUe := 0, farCe := 0, farUe := 0
    nearRd := 0, nearWr := 0, farRd := 0, farWr := 0, agedGrants := 0, spFaultOnce := [], rowsRecorded := [], suspects := []
    ueRows := [], ceLines := [], selfRef := false }

/-- A block of counters at 0. -/
def resetPerf (n : Nat) : Perf := ⟨false, List.replicate n 0⟩

/-- A port that is down (R402). -/
def resetPort : Port :=
  { st := 0, width := 0, laneOk := 0, spareFor := 7, retrains := 0, peerNode := 0, peerPort := 0, peerUnassigned := false
    cfg := 0, next := 0, expect := 0, replay := [], egress := [], credits := [], owed := [], lastTx := 0 }

/-- A tunnel that is not open. -/
def resetTunnel : Tunnel :=
  { opened := false, up := false, blk := 0, txq := [], next := 0, buf := [], expect := 0, early := [], unacked := 0, ece := false
    tsval := 0, held := [], window := 0x100000, lossSeen := false, cut := false, roundEnd := 0, srtt := 0, rttvar := 0
    minRtt := 0, backoff := 0, lastSent := 0 }

/-- The fabric after reset: node 0x7FFF and no record (R388, R402). -/
def resetFab : FabS :=
  { node := 0x7FFF, recValid := false, hopLimit := 64, timeoutUs := 10000, torus := false, ext := [], routes := []
    ports := List.replicate 16 resetPort, rx := [], txns := [], nextTag := 0, reads := [], insts := [], held := [], cseq := []
    bound := [], tunnels := List.replicate 64 resetTunnel, eth := List.replicate 2 (List.replicate 5 0)
    sbr := { relayOpen := false, locked := false, inserted := false, master := false, timeValid := false, station := 0
             timeSeq := 0, moves := 0, cableNs := 5, outFrame := 0, outLen := 0 }
    perf := resetPerf 12, col := resetPerf 7 }

/-- Time after reset (R513). -/
def resetTime : TimeS :=
  { valid := false, source := 0, offset := 0, config := 3, domain := 0, ports := 3, lastEst := none, lastPtp := none
    errNs := 0, slew := 0, slewAt := 0, latch := 0 }

/-- The error path after reset (R531). -/
def resetRas : RasS :=
  { first := List.replicate 16 ⟨false, ⟨0, 0, 0, 0, 0xFF, 0, 0⟩, 0, 0⟩, table := [], fifo := [], dropped := List.replicate 16 0
    overflowed := List.replicate 16 0, ring := [], n := 0, highRead := 0, persisted := [], lastFault := 0, records := 0
    droppedEvents := 0, overflowLost := 0, highWater := 0, sevSeen := false, lastEvent := List.replicate 16 none
    persistAt := [], sumDue := false }

/-- The mailbox after reset (R426, R443). -/
def resetMbx : MbxS :=
  { heartbeat := 0, fwState := 0, ringLost := false, cqLog2 := 4, sqLog2 := 4, enable := false, sqBase := 0, cqBase := 0
    sqTail := 0, sqHead := 0, cqTail := 0, cqHead := 0, irq := 0, irqEn := 0, scratch := List.replicate 4 0, armed := true
    vectors := 0, phase := true, taken := [], lost := List.replicate 12 0, eventMask := 0xFFF, autoRetainUs := 0, iface := 0
    checked := false, ended := [] }

/-- The trace unit after reset (R531). -/
def resetTrc : TrcS :=
  { configured := false, base := 0, bytes := 0, sources := 0, st := 0, n := 0, staged := [], lost := 0, written := 0
    suspDomain := 0, suspAt := 0, suspLost := 0 }

/-- The label at the first power-on (R490). -/
def resetLabel : LabelS :=
  { updating := false, gen := 0, drawn := [], busy := false, drawing := [], pend := false, note := [], clearFirst := false }

/-- The AOC after a cold reset (R493): COLD is the cause, step 1 is reached. -/
def resetAoc : AocS :=
  { on := true, causes := 0, seen := 1, cause := 1, perstSeen := false, lastStep := 1, slot := 0, slotValid := true
    ppsLocked := false, buttonIgnored := false, buttonStuck := false, level := List.replicate 6 false
    stuck := List.replicate 6 false, events := List.replicate 6 0, dropped := List.replicate 6 0
    lastEvent := List.replicate 6 none, ppsEdges := [], syncStamp := 0, label := resetLabel }

/-- Power and heat after reset (R513). -/
def resetPwr : PwrS :=
  { cap := 2750, vin := 5400, vinHigh := none, pin := 0, capLevel := 0, tj := List.replicate 4 0, sensorFail := List.replicate 4 false
    hotSince := List.replicate 4 none, jRow := List.replicate 4 0, jLevel := List.replicate 4 0, nLf := List.replicate 4 0, nLq := List.replicate 4 0
    vcore := List.replicate 4 580, qMax := 1600, fMax := List.replicate 4 1800
    emergency := false, tripped := false, alert := false, steps := 0, faces := List.replicate 4 true
    domAt := List.replicate 64 0 }

/-- The host interface after reset (R33): BAR2 of 64 GiB, apertures one after another from the near tier's start. -/
def resetHif : HifS :=
  { on := false, perst := false, bar2Log2 := 36
    aps := (List.range 16).map fun n => (0x008000000000 + n * 0x100000000, true)
    rdStatus := 0, rdData := 0, i2c := 0, posted := [] }

/-- A region as shipped: version 1.0 in bank 0 (the model's own, assumption 9). -/
def resetRegion : FwRegion :=
  { banks := [⟨0, 512, 0x10000, 0⟩, ⟨0, 0, 0, 0⟩], active := 0, staged := false, old := false, counter := 0 }

/-- Flash as shipped: one image per region, no fabric record, an empty repair record, no user offsets (assumption 9). -/
def resetFlash : FlashS :=
  { regions := List.replicate 5 resetRegion, bootBank := 0, failedBoots := 0, fabRec := 0, fabLen := 0, outChans := [], rows := []
    nearRows := [], rowRepairs := []
    cal := [⟨true, 0, []⟩, ⟨false, 0, []⟩] }

/-- The machine right after a cold reset of the management island: off or in reset, the counter at 0, nothing powered but the management island. -/
def State.reset : State :=
  { mode := .offOrReset, relayCause := 0, mem := ⟨[], []⟩, sump := [], sumpBad := [], ctxs := List.replicate 8 resetCtx
    quarry := resetQuarry, memS := resetMem, cru := resetPerf 28, stash := ⟨List.replicate 64 0, 0⟩, rs := resetPerf 8
    spl := resetPerf 8, tap := ⟨[], 31, resetPerf 14⟩, vcc := ⟨resetPerf 6, List.replicate 16 0, 0x10000, none, [], 71, 71⟩, fab := resetFab
    time := resetTime, rlb := List.replicate 64 [], ras := resetRas, mbx := resetMbx, trc := resetTrc, aoc := resetAoc
    pwr := resetPwr, hif := resetHif, flash := resetFlash, fenced := [], coresOff := []
    domOn := List.replicate 64 false, wakes := 0, elapsed := 0, boot := 0, hostUp := false, lastServed := [], chiselCmv := true, free := 0
    pending := [] }

end Sys2Proof.Machine
end

