-- ==== Sys2Proof/Machine/Places.lean ====
section
/-! DEFINITION. Where the address maps lead: the bases and sizes of R20, the PCIe address of a host-window DA (R29), a Stockpile line's bank (R292), a near-tier DA's channel and cell (R25, R299, R313), a far-tier DA's package and cell (R28, R304). -/

namespace Sys2Proof.Machine

def nearBase : Nat := 0x008000000000
def nearSize : Nat := 0x006000000000
def faceSpan : Nat := 0x001800000000
def farBase : Nat := 0x010000000000
def farSize : Nat := 0x010000000000
def hostBase : Nat := 0x400000000000

/-- The PCIe memory address that a host-window DA is sent to (R29). -/
def pcieAddr (da : Nat) : Nat := da - hostBase

/-! ### The Stockpile (R292) -/

/-- The Face that owns a Stockpile DA. -/
def spFace (da : Nat) : Nat := bits da 28 2

/-- The bank of its Face that holds a Stockpile DA. -/
def spBank (da : Nat) : Nat := (bits da 0 28 >>> 6 ^^^ bits da 0 28 >>> 13) % 128

/-- The line of its bank that holds a Stockpile DA. -/
def spLine (da : Nat) : Nat := bits da 0 28 >>> 13

/-- The DA of a byte of a line of a bank of a Face: the inverse mapping of R292. -/
def spDa (face bank line byte : Nat) : Nat := face * 2 ^ 28 + line * 2 ^ 13 + (bank ^^^ line % 128) * 64 + byte

/-- The bank over all four Faces, 128 a Face. -/
def spBankAll (da : Nat) : Nat := 128 * spFace da + spBank da

/-! ### The near tier (R25, R299, R313) -/

/-- Is a channel mapped out? -/
def chanDead (s : State) (ch : Nat) : Bool := s.memS.mapped.contains ch

/-- Channel and channel address of a near-tier DA before map-out (R25). -/
def nearRaw (s : State) (da : Nat) : Nat × Nat :=
  let o := da - nearBase
  if s.memS.globalMode then
    let g := ((o >>> 8) ^^^ (o >>> 16)) % 256
    (g, (o / 65536) * 256 + o % 256)
  else
    let f := o / faceSpan
    let r := o % faceSpan
    let ch := ((r >>> 8) ^^^ (r >>> 14)) % 64
    (64 * f + ch, (r / 16384) * 256 + r % 256)

/-- Channel and channel address that serve a near-tier DA, moved off a dead channel (R313). -/
def nearPlace (s : State) (da : Nat) : Nat × Nat :=
  let (ch, ca) := nearRaw s da
  if !chanDead s ch then (ch, ca)
  else
    let set := if s.memS.globalMode then List.range 256 else (List.range 64).map (64 * (ch / 64) + ·)
    let dead := set.filter (chanDead s)
    let live := set.filter fun c => !chanDead s c
    let n := dead.length
    let w := 6291456 / set.length
    let gtop := (set.length - n) * w
    let q := (dead.filter (· < ch)).length * gtop + ca / 256
    (nth 0 live (q % live.length), (gtop + q / live.length) * 256 + ca % 256)

/-- A cell of the near tier (R299): its global channel, pseudo-channel, bank group, bank, stack ID, row, column in lines, and byte of the line. -/
structure NearCell where
  channel : Nat
  pseudo : Nat
  group : Nat
  bank : Nat
  stackId : Nat
  row : Nat
  column : Nat
  byte : Nat
  deriving DecidableEq, Repr

/-- The cell of a channel address (*Channel address fields*). -/
def nearCell (p : Nat × Nat) : NearCell :=
  { channel := p.1, pseudo := bits p.2 6 1, group := bits p.2 8 2, bank := bits p.2 10 2, stackId := bits p.2 12 2
    row := bits p.2 17 14, column := bits p.2 7 1 + 2 * bits p.2 14 3, byte := bits p.2 0 6 }

/-- A row of a channel as one number: channel, pseudo-channel, bank group, bank, stack ID and row. -/
def nearRow (p : Nat × Nat) : Nat :=
  let k := nearCell p
  packBits [(k.channel, 8), (k.pseudo, 1), (k.group, 2), (k.bank, 2), (k.stackId, 2), (k.row, 14)]

/-- The stack of a channel. -/
def stackOf (ch : Nat) : Nat := ch / 32

/-! ### The far tier (R28, R304) -/

/-- Package and package address of a far-tier DA (R28). -/
def farPlace (da : Nat) : Nat × Nat :=
  let o := da - farBase
  (((o >>> 11) ^^^ (o >>> 15)) % 16, (o >>> 15) * 2048 + o % 2048)

/-- The IOD that holds a package: 0 or 1 (R28). -/
def farIod (pkg : Nat) : Nat := pkg / 8

/-- A cell of the far tier (R304): package, channel, rank, bank group, bank, row, column in lines, and byte of the line. -/
structure FarCell where
  package : Nat
  channel : Nat
  rank : Nat
  group : Nat
  bank : Nat
  row : Nat
  column : Nat
  byte : Nat
  deriving DecidableEq, Repr

/-- The cell of a package address (*Package address fields*). -/
def farCell (p : Nat × Nat) : FarCell :=
  { package := p.1, channel := bits p.2 6 2, rank := bits p.2 17 1, group := bits p.2 11 2, bank := bits p.2 13 2
    row := bits p.2 18 18, column := bits p.2 8 3 + 8 * bits p.2 15 2, byte := bits p.2 0 6 }

/-! ### Where an error lies (R518) -/

/-- What INFO of a memory class names: the bank of a Stockpile line, the channel of a near-tier line, the package of a far-tier line. -/
def errorPlace (s : State) (cls line : Nat) : Nat :=
  if cls = 0 then spBankAll line else if cls = 1 then (nearPlace s line).1 else (farPlace line).1

end Sys2Proof.Machine
end

