-- ==== Sys2Proof/Machine/Ops.lean ====
section
/-! DEFINITION. The named operations over the state: contexts and tallies, free values, address regions and translation (R20, R21, R27, R30), footprints, byte access through a context, memory errors, power domains, error reporting (R515 to R517) and event posting (R432, R433, R438, R439). -/

namespace Sys2Proof.Machine

/-! ### Contexts, tallies, free values -/

/-- No stash configuration. -/
def noStash : StashCfg := resetCtx.stash

/-- No Ringstore. -/
def noRing : RingCfg := resetCtx.ring

/-- A Ringstore with nothing in use. -/
def emptyUse : RingUse := ⟨[], 0, [], 0, []⟩

/-- A closed context. -/
def closedCtx : Ctx := resetCtx

/-- The state of a context. -/
def ctxOf (s : State) (c : Nat) : Ctx := nth closedCtx s.ctxs c

/-- Change one context and nothing else. -/
def updCtx (s : State) (c : Nat) (f : Ctx → Ctx) : State := { s with ctxs := updAt s.ctxs c f }

/-- Draw a fresh index for a free value (assumption 3). -/
def drawFree (s : State) : Nat × State := (s.free, { s with free := s.free + 1 })

/-- Value of a tally (R149). -/
def tallyOf (s : State) (c t : Nat) : W32 := smGet 0 (ctxOf s c).tallies t

/-- Set one tally. -/
def setTally (s : State) (c t : Nat) (v : W32) : State :=
  updCtx s c fun x => { x with tallies := smSet 0 x.tallies t v }

/-- Add to one tally, wrapping modulo 2^32 (R149). -/
def addTally (s : State) (c t : Nat) (n : Nat) : State := setTally s c t (tallyOf s c t + BitVec.ofNat 32 n)

/-- The met test of R149. -/
def waitMet (tally value : W32) : Bool := decide (0 ≤ (tally - value).toInt)

/-- The elapsed-time counter as a number. -/
def nowNs (s : State) : Nat := s.elapsed.toNat

/-- A context that is open (R168, R171). -/
def isOpen (s : State) (c : Nat) : Bool := (ctxOf s c).st ≠ .closed

/-- Is any context open? -/
def anyOpen (s : State) : Bool := (List.range 8).any fun c => isOpen s c

/-! ### Address regions (R20, R21, R27) -/

/-- The regions of the device address map (R20). -/
inductive Region where
  | stockpile | sump | csr | near | far | host
  deriving DecidableEq, Repr

/-- Mapped-out channels in the interleave set that serves Face `f` (R27, R313). -/
def mappedInFace (s : State) (f : Nat) : Nat := (s.memS.mapped.filter fun ch => ch / 64 = f).length

/-- Is a near-tier offset below the usable top of its range (R27)? -/
def nearUsable (s : State) (o : Nat) : Bool :=
  if s.memS.globalMode then o + 0x60000000 * s.memS.mapped.length < nearSize
  else o % faceSpan + 0x60000000 * mappedInFace s (o / faceSpan) < faceSpan

/-- State of the retention group that holds a Stockpile address: 0 ON, 1 RETAIN, 2 OFF (R296). -/
def retOf (s : State) (da : Nat) : Nat := nth 0 s.memS.ret (8 * (da / 0x10000000) + da % 0x10000000 / 0x2000000)

/-- The region of a physical DA; none for reserved space, withdrawn addresses included (R20, R27, R306). -/
def regionOf (s : State) (da : Nat) : Option Region :=
  if da < 0x40000000 then some .stockpile
  else if da < 0x42000000 then some .sump
  else if da < 0x80000000 then none
  else if da < 0x90000000 then some .csr
  else if da < nearBase then none
  else if da < nearBase + nearSize then (if nearUsable s (da - nearBase) then some .near else none)
  else if da < farBase then none
  else if da < farBase + farSize then (if s.memS.farWithdrawn then none else some .far)
  else if da < hostBase then none
  else if da < 2 ^ 47 then some .host
  else none

/-- The granule of translation and of usable tops. -/
def pageSize : Nat := 0x200000

/-- An interval cut at 2 MiB boundaries: range map entries and usable tops are multiples of 2 MiB (R30, R27). -/
def pagePieces : Nat → Nat → Nat → List (Nat × Nat)
  | 0, _, _ => []
  | k + 1, a, n =>
    if n = 0 then []
    else
      let m := min n (pageSize - a % pageSize)
      (a, m) :: pagePieces k (a + m) (n - m)

/-- Pieces of one interval. -/
def pieces (a n : Nat) : List (Nat × Nat) := pagePieces (n / pageSize + 2) a n

/-- The range map entry that covers a context DA (R30). -/
def mapOf (maps : List MapEntry) (da : Nat) : Option MapEntry :=
  maps.find? fun e => e.cda ≤ da && da < e.cda + e.len

/-- The first address past the 48-bit device address space. -/
def spaceTop : Nat := 2 ^ 48

/-- Physical DA of a context DA. A DA that no entry covers is reserved for the context (R30) and reaches nothing: it becomes an address past the device address space, where no byte is stored (R3). -/
def xlate (maps : List MapEntry) (da : Nat) : Nat :=
  match mapOf maps da with
  | some e => e.pda + (da - e.cda)
  | none => spaceTop + da

/-- Physical DA of a context's DA. -/
def physOf (s : State) (c da : Nat) : Nat := xlate (ctxOf s c).maps da

/-- Check of one operand footprint: every byte is covered with the permissions needed, lies in a region the unit reaches, and in one region only (R21, R30); the host window is reached only while the PCIe link is up (R471). -/
def rangeOk (s : State) (maps : List MapEntry) (reach : List Region) (needR needW : Bool) (ivs : List (Nat × Nat)) : Bool :=
  let ps := ivs.flatMap fun (a, n) => pieces a n
  let regs := ps.map fun (a, n) =>
    match mapOf maps a with
    | none => none
    | some e =>
      if (needR && !e.r) || (needW && !e.w) then none
      else
        let p := e.pda + (a - e.cda)
        match regionOf s p, regionOf s (p + n - 1) with
        | some r, some r' => if r = r' && reach.contains r && !(r = .stockpile && retOf s p = 2) && !(r = .host && !s.hostUp) then some r else none
        | _, _ => none
  match regs with
  | [] => true
  | none :: _ => false
  | some r :: t => t.all (· = some r)

/-- The footprint check of a context's operand. -/
def footOk (s : State) (c : Nat) (reach : List Region) (needR needW : Bool) (ivs : List (Nat × Nat)) : Bool :=
  rangeOk s (ctxOf s c).maps reach needR needW ivs

/-- The regions every compute unit reaches. -/
def deviceRegions : List Region := [.stockpile, .near, .far]
/-- The regions a Hauler reaches (R20). -/
def haulerRegions : List Region := [.stockpile, .near, .far, .host]

/-! ### Bytes through a context -/

/-- A byte of physical memory; past the device address space, where a context DA without a map entry leads, a value that nothing fixes (R3). -/
def byteAt (s : State) (pa : Nat) : Nat := if pa < spaceTop then (memGet s.mem pa).toNat else (Config.voidByte pa).toNat

/-- Store one byte; past the device address space nothing is stored (R3). -/
def putByte (m : Memory) (pa : Nat) (b : Byte) : Memory := if pa < spaceTop then memSet m pa b else m

/-- A byte reader over a context's DAs. -/
def rdCtx (s : State) (c : Nat) : Nat → Nat :=
  let maps := (ctxOf s c).maps
  fun da => byteAt s (xlate maps da)

/-- A little-endian number of `n` bytes at a context DA. -/
def rdNum (s : State) (c da n : Nat) : Nat := rdBytes (rdCtx s c) da n

/-- Store `n` bytes of a number at a context DA. -/
def wrNum (s : State) (c da v n : Nat) : State :=
  let maps := (ctxOf s c).maps
  { s with mem := (bytesOf v n).zipIdx.foldl (fun m p => putByte m (xlate maps (da + p.2)) (BitVec.ofNat 8 p.1)) s.mem }

/-- Store a bit field at a context DA, every byte of it translated by itself (R30), leaving the other bits of its bytes. -/
def putField (tr : Nat → Nat) (m : Memory) (p : Put) : Memory :=
  let (a, b, w, v) := p
  let n := cdiv (b + w) 8
  let old := ofBytes ((List.range n).map fun j => (memGet m (tr (a + j))).toNat)
  let new := bits old 0 b + (v % 2 ^ w) <<< b + ((old >>> (b + w)) <<< (b + w))
  (bytesOf new n).zipIdx.foldl (fun m q => putByte m (tr (a + q.2)) (BitVec.ofNat 8 q.1)) m

/-- Apply an operation's stores at context DAs. -/
def applyPuts (s : State) (c : Nat) (ps : List Put) : State :=
  { s with mem := ps.foldl (putField (xlate (ctxOf s c).maps)) s.mem }

/-- Store at a physical address. -/
def wrPhys (s : State) (pa v n : Nat) : State := { s with mem := memWr s.mem pa v n }
/-- Read at a physical address. -/
def rdPhys (s : State) (pa n : Nat) : Nat := memRd s.mem pa n

/-- Give a physical range contents the manual leaves open (assumption 2). -/
def loseRange (s : State) (lo hi : Nat) : State :=
  if lo < hi && hi ≤ spaceTop then { s with mem := memFill s.mem lo hi (.openBytes s.free), free := s.free + 1 } else s

/-- Give physical ranges contents the manual leaves open. -/
def losePieces (s : State) (ps : List (Nat × Nat)) : State := ps.foldl (fun s p => loseRange s p.1 (p.1 + p.2)) s

/-- Set a physical range to zero. -/
def zeroRange (s : State) (lo hi : Nat) : State := { s with mem := memFill s.mem lo hi .zeros }

/-- A shape word (R41): one 32-bit access. -/
def shapeWord (s : State) (c i : Nat) : Nat := rdNum s c ((ctxOf s c).swBase + 4 * i) 4
/-- Write a shape word. -/
def setShapeWord (s : State) (c i v : Nat) : State := wrNum s c ((ctxOf s c).swBase + 4 * i) v 4

/-- Run-time extents of a descriptor (R40). -/
def runExt (s : State) (c : Nat) (d : Desc) : List Nat :=
  if d.shapeEn then (planned d).set d.swDim (shapeWord s c d.swIndex) else planned d

/-! ### Memory errors (R294, R301, R305) -/

/-- Physical pieces of a context's intervals. -/
def physPieces (s : State) (c : Nat) (ivs : List (Nat × Nat)) : List (Nat × Nat) :=
  (ivs.flatMap fun (a, n) => pieces a n).map fun (a, n) => (physOf s c a, n)

/-- Give a context's intervals open contents. -/
def loseCtx (s : State) (c : Nat) (ivs : List (Nat × Nat)) : State := losePieces s (physPieces s c ivs)

/-- What a range leaves of a piece. -/
def cutOut (h p : Nat × Nat) : List (Nat × Nat) :=
  if overlaps p.1 (p.1 + p.2) h.1 (h.1 + h.2) then
    ([(p.1, h.1 - p.1), (max p.1 (h.1 + h.2), p.1 + p.2 - (h.1 + h.2))]).filter fun q => 0 < q.2
  else [p]

/-- Pieces without the ranges. -/
def cutAll (hs ps : List (Nat × Nat)) : List (Nat × Nat) := hs.foldl (fun ps h => ps.flatMap (cutOut h)) ps

/-- The line of the first uncorrectable word or line that the pieces touch. -/
def badTouched (s : State) (ps : List (Nat × Nat)) : Option Nat :=
  (s.memS.bad.find? fun b => ps.any fun (a, n) => overlaps a (a + n) b.addr (b.addr + b.len)).map
    fun b => b.addr / 64 * 64

/-- Is a bad word or line written whole by the pieces? -/
def coversBad (ps : List (Nat × Nat)) (b : BadRange) : Bool :=
  (List.range b.len).all fun j => ps.any fun (a, n) => a ≤ b.addr + j && b.addr + j < a + n

/-- The line of the first bad word or line that the pieces write only in part (R294, R301, R305). -/
def badPartly (s : State) (ps : List (Nat × Nat)) : Option Nat :=
  (s.memS.bad.find? fun b => (ps.any fun (a, n) => overlaps a (a + n) b.addr (b.addr + b.len)) && !coversBad ps b).map
    fun b => b.addr / 64 * 64

/-- A write of a whole bad word or line clears it. -/
def clearBad (s : State) (ps : List (Nat × Nat)) : State :=
  { s with memS := { s.memS with bad := s.memS.bad.filter fun b => !coversBad ps b } }

/-- An access wakes a Stockpile group in RETAIN: it is then ON (R296, R297). -/
def wakeGroups (s : State) (ps : List (Nat × Nat)) : State :=
  let hit (g : Nat) : Bool := ps.any fun (a, n) => overlaps a (a + n) (g * 0x2000000) ((g + 1) * 0x2000000)
  { s with memS := { s.memS with ret := s.memS.ret.zipIdx.map fun p => if p.1 = 1 && hit p.2 then 0 else p.1 } }

/-- An access to the near tier takes its stacks out of self-refresh (R298, R485). -/
def wakeStacks (s : State) (ps : List (Nat × Nat)) : State :=
  if ps.any fun p => nearBase ≤ p.1 && p.1 < farBase then { s with memS := { s.memS with selfRef := false } } else s

/-- A posted write to the host leaves the module under its PCIe addresses (R29). -/
def postHost (s : State) (wr : List (Nat × Nat)) : State :=
  let out := wr.filter fun p => hostBase ≤ p.1 && p.1 < 2 ^ 47
  if out = [] then s else { s with hif := { s.hif with posted := out.map fun p => (pcieAddr p.1, p.2) } }

/-- Note traffic: groups in RETAIN and stacks in self-refresh wake, writes to the host leave the module, and the tiers' counters and the count of aged grants advance; how many bytes a read or write moves and how many of its grants were aged are the controllers' own (assumption 6). -/
def noteTraffic (s0 : State) (rd wr : List (Nat × Nat)) : State :=
  let s := postHost (wakeStacks (wakeGroups s0 (rd ++ wr)) (rd ++ wr)) wr
  let inNear (p : Nat × Nat) := nearBase ≤ p.1 && p.1 < farBase
  let inFar (p : Nat × Nat) := farBase ≤ p.1 && p.1 < hostBase
  let m := s.memS
  if m.freeze then s
  else
    let add (c : W64) (b : Bool) (k : Nat) : W64 := if b then c + Config.freeWord (s.free + k) else c
    { s with
      memS := { m with
        nearRd := add m.nearRd (rd.any inNear) 0, nearWr := add m.nearWr (wr.any inNear) 1
        farRd := add m.farRd (rd.any inFar) 2, farWr := add m.farWr (wr.any inFar) 3
        agedGrants := add m.agedGrants (rd ++ wr ≠ []) 4 }
      free := if rd ++ wr = [] then s.free else s.free + 5 }

/-! ### Power domains of the units (R494, R495) -/

/-- Unit classes of R142. -/
def ucOsq : Nat := 0
def ucQuarry : Nat := 1
def ucDrain : Nat := 2
def ucChisel : Nat := 3
def ucDressing : Nat := 4
def ucCrusher : Nat := 5
def ucStash : Nat := 6
def ucHauler : Nat := 7
def ucCanopy : Nat := 8
def ucSplitter : Nat := 9
def ucFabric : Nat := 10
def ucTaproot : Nat := 11
def ucVcc : Nat := 12
def ucBds : Nat := 13

/-- The switched domains a unit instance needs (R494). -/
def unitDomains (cls inst opcode : Nat) : List Nat :=
  let die := inst % 8
  if cls = 1 then [0, 1, 2, 10, 11, 12, 20, 21, 22, 30, 31, 32]
  else if cls = 2 then [0, 1, 2, 10, 11, 12, 20, 21, 22, 30, 31, 32]
  else if cls = 3 then [3, 13, 23, 33]
  else if cls = 4 || cls = 9 || cls = 13 then [10 * die + 4]
  else if cls = 5 then [10 * die + 5]
  else if cls = 6 then [44]
  else if cls = 7 then (if die < 4 then [10 * die + 5] else if die = 4 then [48] else [61])
  else if cls = 8 then [56, 57, 58]
  else if cls = 10 then (if die = 4 then [49] else [62])
  else if cls = 11 then [45]
  else if cls = 12 then (if opcode = 0xD1 then [47] else [46])
  else [44]

/-- Is a switched domain on? -/
def domIsOn (s : State) (d : Nat) : Bool := nth false s.domOn d

/-- Are the domains of a unit instance on (R495)? -/
def unitOn (s : State) (cls inst opcode : Nat) : Bool := (unitDomains cls inst opcode).all (domIsOn s)

/-! ### Registers and event counters -/

/-- Does BAR0 answer: the host-interface island is powered, PERST_N released and the link up? -/
def barOn (s : State) : Bool := s.hif.on && !s.hif.perst && s.hostUp

/-- Add to a counter of a block unless it is frozen. -/
def perfAdd (p : Perf) (i n : Nat) : Perf := if p.freeze then p else { p with cnt := updAt p.cnt i fun c => bump c n }

/-- Set every counter of a block to 0. -/
def perfClear (p : Perf) : Perf := { p with cnt := p.cnt.map fun _ => 0 }

/-! ### Error reporting (R515 to R517) -/

/-- No error. -/
def noEvent : ErrEvent := ⟨0, 0, 0, 0, 0xFF, 0, 0⟩
/-- An empty capture set. -/
def noCapture : Capture := ⟨false, noEvent, 0, 0⟩

/-- Identity of events (R514). -/
def sameEvent (a b : ErrEvent) : Bool := a.cls = b.cls && a.src = b.src && a.inst = b.inst && a.key = b.key

/-- Push one event into the FIFO, or lose and count it (R517). -/
def fifoPush (r : RasS) (e : Coal) : RasS :=
  if 64 ≤ r.fifo.length then
    { r with dropped := updAt r.dropped e.ev.cls (· + e.count), droppedEvents := bump r.droppedEvents e.count }
  else
    { r with fifo := r.fifo ++ [e], highWater := max r.highWater (r.fifo.length + 1) }

/-- The open entry with the earliest T_FIRST, the lowest number on a tie (R516). -/
def oldestIdx (t : List Coal) : Nat :=
  (t.zipIdx.foldl (fun (best : Nat × Nat) p => if p.1.tFirst.toNat < best.1 then (p.1.tFirst.toNat, p.2) else best)
    (2 ^ 64, 0)).2

/-- Close one coalescing entry: it enters the FIFO as one event (R516). -/
def closeCoal (r : RasS) (i : Nat) : RasS :=
  match r.table[i]? with
  | none => r
  | some e => fifoPush { r with table := r.table.eraseIdx i } e

/-- Close every coalescing entry, oldest first (R516). -/
def closeAllCoal : Nat → RasS → RasS
  | 0, r => r
  | k + 1, r => if r.table = [] then r else closeAllCoal k (closeCoal r (oldestIdx r.table))

/-- A detector's event reaches the collector: capture, then coalescing or the FIFO (R515, R516). -/
def rasEvent (r : RasS) (t : W64) (boot : Nat) (e : ErrEvent) : RasS :=
  let cap := nth noCapture r.first e.cls
  let fresh := !cap.valid
  let r := if fresh then { r with first := r.first.set e.cls ⟨true, e, t, boot⟩ } else r
  if e.sev = 3 then fifoPush r ⟨e, 1, t, t, boot, fresh⟩
  else if r.table.any (fun c => sameEvent c.ev e) then
    let upd (c : Coal) : Coal := { c with count := satAdd c.count 1 32, tLast := t, first := c.first || fresh }
    { r with table := updFirst (fun c => sameEvent c.ev e) upd r.table }
  else
    let r := if 32 ≤ r.table.length then closeCoal r (oldestIdx r.table) else r
    { r with table := r.table ++ [⟨e, 1, t, t, boot, fresh⟩] }

/-- Report one error event. -/
def reportError (s : State) (e : ErrEvent) : State := { s with ras := rasEvent s.ras s.elapsed s.boot e }

/-- INFO of an error of a memory class: the bank, channel or package and the syndrome, in a layout that the manual does not give (R518, assumption 106). -/
def memInfo (s : State) (cls line : Nat) (syndrome : W64) : Nat := (Config.errorInfo cls (errorPlace s cls line) syndrome).toNat

/-- An uncorrectable error at an address: it is counted in its region's counter and reported as an event of severity 1 in its class (R294, R301, R305, R514). What the instance byte means for a memory class, and the syndrome, the manual leaves open. -/
def countUe (s : State) (pa : Nat) (ctx : Nat := 0xFF) : State :=
  let m := s.memS
  let cls := if pa < 0x40000000 then 0 else if pa < farBase then 1 else 2
  let m' := if cls = 0 then { m with spUe := m.spUe + 1 }
      else if cls = 1 then { m with nearUe := m.nearUe + 1 }
      else { m with farUe := m.farUe + 1 }
  let line := pa / 64 * 64
  reportError { s with memS := m', free := s.free + 1 }
    ⟨cls, 1, 0x10 + cls, (Config.errorInstance cls line).toNat, ctx, line, memInfo s cls line (Config.freeWord s.free)⟩

/-! ### Events to the host (R432, R433, R437 to R439) -/

/-- Free completion entries: C of R433. -/
def cqFree (m : MbxS) : Nat :=
  let n := 2 ^ m.cqLog2
  n - 1 - (m.cqTail + n - m.cqHead) % n

/-- Commands taken and not yet completed: O of R433. -/
def outstanding (m : MbxS) : Nat := m.taken.length

/-- Set interrupt causes; an enabled cause sends MSI-X vector 0 when it is armed (R426). -/
def raiseIrq (s : State) (b : Nat) : State :=
  let m := s.mbx
  let irq := m.irq ||| BitVec.ofNat 64 (2 ^ b)
  let en := m.irqEn.getLsbD b
  let v := if en && m.armed then m.vectors + 1 else m.vectors
  { s with mbx := { m with irq := irq, vectors := v, armed := if en then false else m.armed } }

/-- The rings are lost (R430): disabled, RING_LOST and its cause set, completions of commands already taken discarded. -/
def loseRings (s : State) : State :=
  let m := s.mbx
  if m.enable then
    raiseIrq { s with mbx := { m with enable := false, checked := false, ringLost := true
                                      taken := m.taken.map fun t => { t with discard := true } } } 2
  else s

/-- Write one completion entry at the tail and advance it, the phase turning over at the wrap (R432); an uncorrectable error there loses the rings (R430). The entry's bytes 0x00 to 0x1B are given; SQ_HEAD and PHASE are filled in. -/
def postEntry (s : State) (tag status code ctx detail result : Nat) : State :=
  let m := s.mbx
  let e := packBits [(tag, 16), (status, 8), (code, 8), (ctx, 8), (0, 8), (m.sqHead, 16), (detail, 64), (result, 96),
    (0, 24), (b2n m.phase, 8)]
  let da := m.cqBase + 32 * m.cqTail
  if (badPartly s [(da, 32)]).isSome then loseRings s else
  let s := wrPhys (noteTraffic s [] [(da, 32)]) da e 32
  let t := (m.cqTail + 1) % 2 ^ m.cqLog2
  { s with mbx := { m with cqTail := t, phase := if t = 0 then !m.phase else m.phase } }

/-- Post an event of code 0x80 to 0x8B, or count it lost; masked events do neither (R433, R437 to R439). -/
def postEvent (s : State) (code ctx detail result : Nat) : State :=
  let m := s.mbx
  if !bit m.eventMask (code - 0x80) then s
  else if m.enable && m.checked && m.fwState = 2 && outstanding m + 2 ≤ cqFree m then
    let s' := postEntry s 0 0 code ctx detail result
    if s'.mbx.enable then raiseIrq s' 1 else { s' with mbx := { s'.mbx with lost := updAt s'.mbx.lost (code - 0x80) (· + 1) } }
  else { s with mbx := { m with lost := updAt m.lost (code - 0x80) (· + 1) } }

/-! ### Trace (R528 to R530) -/

/-- Write one trace record at the next place of the buffer, TSEQ last (R528). -/
def traceWrite (s : State) (rec : Nat) : State :=
  let t := s.trc
  let slot := t.base + 32 * (t.n % (t.bytes / 32))
  let s := wrPhys (noteTraffic s [] [(slot, 32)]) slot (rec % 2 ^ 224 + ((t.n + 1) % 2 ^ 32) * 2 ^ 224) 32
  { s with trc := { t with n := t.n + 1, written := t.written + 1 } }

/-- A trace record without its TSEQ (R528). -/
def traceRec (time src type ctx payload : Nat) : Nat :=
  packBits [(time, 64), (src, 8), (type, 8), (ctx, 8), (0, 8), (payload, 128)]

/-- A record enters the buffer while tracing runs, and staging while it is suspended; beyond 2,048 staged records it is lost and counted (R528, R530). -/
def tracePut (s : State) (rec : Nat) : State :=
  let t := s.trc
  if t.st = 1 then traceWrite s rec
  else if t.st = 2 then
    (if t.staged.length < 2048 then { s with trc := { t with staged := t.staged ++ [rec] } }
     else { s with trc := { t with lost := t.lost + 1, suspLost := t.suspLost + 1 } })
  else s

/-- An event of an enabled source is traced. -/
def traceEvent (s : State) (src type ctx payload : Nat) : State :=
  if s.trc.st ≠ 0 && bit s.trc.sources src then tracePut s (traceRec (nowNs s) src type ctx payload) else s

/-- A STATE record, whose word is the source's own (free value). -/
def traceState (s : State) (src ctx : Nat) : State :=
  if s.trc.st ≠ 0 && bit s.trc.sources src then
    let (k, s) := drawFree s
    traceEvent s src 5 ctx (Config.freeWord k).toNat
  else s

/-- The trace source of a unit instance (R528). -/
def traceSource (cls inst : Nat) : Nat :=
  let die := inst % 8
  if cls ≤ 3 then cls
  else if cls = 4 then 4 + die % 4
  else if cls = 5 then 8 + die % 4
  else if cls = 6 then 12
  else if cls = 7 then 13 + die % 6
  else if cls = 8 then 19
  else if cls = 9 then 21 + die % 4
  else if cls = 10 then 25 + die % 2
  else if cls = 11 then 27
  else if cls = 12 then 28
  else 29 + die % 4

end Sys2Proof.Machine
end

