-- ==== Sys2Proof/Machine/Sump.lean ====
section
/-! DEFINITION. The Sump (R22, R91 to R94): where an accumulator lies, regions of accumulators, their loss, and the accumulators that hold a double-bit error. -/

namespace Sys2Proof.Machine

/-- Key of an accumulator: plane, local row, column (R22, R91). -/
def accKey (plane row n : Nat) : Nat := (plane * 2048 + row) * 256 + n

/-- Key of instruction row `m`, column `n`, with absolute base slot `b` (R91). -/
def accAt (b m n : Nat) : Nat := accKey (m / 8 % 8) (8 * (b + m / 64) + m % 8) n

/-- The accumulator's value. -/
def sumpVal (s : State) (k : Nat) : FVal := valAcc (smGet 0 s.sump k).toNat

/-- Store an accumulator. -/
def sumpPut (m : SMap AccBits) (k : Nat) (v : FVal) : SMap AccBits := smSet 0 m k (BitVec.ofNat 48 (bitsAcc v))

/-- Absolute base slot of an operation's SLOT field (R92). -/
def absSlot (s : State) (c slot : Nat) : Nat := (ctxOf s c).sumpFirst + slot

/-- Planned slots within the allocation (R92). -/
def slotsOk (s : State) (c slot rows : Nat) : Bool := slot + cdiv rows 64 ≤ (ctxOf s c).sumpCount

/-- Keys of the accumulators of a region. -/
def regionKeys (r : SumpRegion) : List Nat :=
  (List.range r.rows).flatMap fun m => (List.range r.cols).map fun n => accAt 0 (r.row + m) (r.col + n)

/-- The accumulator's row counted from slot 0, as R91 places instruction rows. -/
def keyRow (k : Nat) : Nat :=
  let row := k / 256 % 2048
  64 * (row / 8) + 8 * (k / 256 / 2048) + row % 8

/-- The accumulator's column. -/
def keyCol (k : Nat) : Nat := k % 256

/-- Is an accumulator one of a region's? -/
def inRegion (r : SumpRegion) (k : Nat) : Bool :=
  r.col ≤ keyCol k && keyCol k < r.col + r.cols && r.row ≤ keyRow k && keyRow k < r.row + r.rows

/-- Do two regions share an accumulator? -/
def regionsMeet (a b : SumpRegion) : Bool :=
  overlaps a.row (a.row + a.rows) b.row (b.row + b.rows) && overlaps a.col (a.col + a.cols) b.col (b.col + b.cols)

/-- Does a read of a region meet an accumulator that holds a double-bit error (R94)? -/
def sumpFaulty (s : State) (r : SumpRegion) : Bool := s.sumpBad.any (inRegion r)

/-- A write of accumulators renews their check bits (R94). -/
def renewSump (s : State) (hit : Nat → Bool) : State := { s with sumpBad := s.sumpBad.filter fun k => !hit k }

/-- Give accumulators unpredictable values. -/
def loseKeys (s : State) (ks : List Nat) : State :=
  let (m, f) := ks.foldl (fun (acc : SMap AccBits × Nat) k =>
    (smSet 0 acc.1 k (BitVec.ofNat 48 (Config.freeWord acc.2).toNat), acc.2 + 1)) (s.sump, s.free)
  renewSump { s with sump := m, free := f } ks.contains

/-- Give a region's accumulators unpredictable values (R94, R98, R106). -/
def loseSump (s : State) (r : SumpRegion) : State := loseKeys s (regionKeys r)

/-- The same for several regions. -/
def loseSumps (s : State) (rs : List SumpRegion) : State := rs.foldl loseSump s

/-- Set whole slots to +0: absolute first slot and count (R92, R131). -/
def zeroSlots (s : State) (first count : Nat) : State :=
  let inside (k : Nat) : Bool := 8 * first ≤ k / 256 % 2048 && k / 256 % 2048 < 8 * (first + count)
  renewSump { s with sump := s.sump.filter fun p => !inside p.1 } inside

end Sys2Proof.Machine
end

