-- ==== Sys2Proof/Machine/Ledger.lean ====
section
/-! DEFINITION. The Scale Ledger: entries in the ledger cache (R70, R75), their checks (R71), the commit on first touch (R72) and the fold of an output's counts and amax (R68, R74). -/

namespace Sys2Proof.Machine

/-- Context DA of a ledger entry (R69). -/
def entryDa (s : State) (c slot : Nat) : Nat := (ctxOf s c).ledgerBase + 64 * slot

/-- The value of an entry: the cache's where it holds the entry, else memory's (R75). -/
def ledgerGet (s : State) (c slot : Nat) : Nat :=
  match (ctxOf s c).ledger.find? (fun l => l.slot = slot) with
  | some l => l.entry
  | none => rdNum s c (entryDa s c slot) 64

/-- Entries that the ledger cache holds for all contexts together (R75). -/
def ledgerCacheSize : Nat := 8192

/-- Every cached entry with its context. -/
def cachedLines (s : State) : List (Nat × LedgerLine) := (List.range 8).flatMap fun c => (ctxOf s c).ledger.map fun l => (c, l)

/-- Take one entry out of the cache and write it back (R75). -/
def ledgerDrop (s : State) (p : Nat × LedgerLine) : State :=
  let a := entryDa s p.1 p.2.slot
  let s := noteTraffic s [] (physPieces s p.1 [(a, 64)])
  updCtx (wrNum s p.1 a p.2.entry 64) p.1 fun x => { x with ledger := x.ledger.filter fun l => l.slot ≠ p.2.slot }

/-- Room for one more entry: a full cache evicts one, which the manual does not name (R75, assumption 183). -/
def ledgerEvict (s : State) : State :=
  let l := cachedLines s
  if l.length < ledgerCacheSize then s
  else
    let (k, s) := drawFree s
    match l[(Config.freeWord k).toNat % l.length]? with
    | some p => ledgerDrop s p
    | none => s

/-- Put an entry into the cache (R74, R75). -/
def ledgerPut (s : State) (c slot e : Nat) : State :=
  let s := if (ctxOf s c).ledger.any fun l => l.slot = slot then s else ledgerEvict s
  updCtx s c fun x => { x with ledger := ⟨slot, e⟩ :: x.ledger.filter fun l => l.slot ≠ slot }

/-- A host write reaches the entries that the cache holds (R71; DEDUCED, assumption 183): the written bytes that lie in them change there too. -/
def ledgerHostWrite (s : State) (da n data : Nat) : State :=
  { s with ctxs := s.ctxs.zipIdx.map fun p =>
      { p.1 with ledger := p.1.ledger.map fun l =>
          let a := xlate p.1.maps (p.1.ledgerBase + 64 * l.slot)
          { l with entry := (List.range 64).foldl (fun e j =>
              if da ≤ a + j && a + j < da + n then setFld e j 1 (fld data (a + j - da) 1) else e) l.entry } } }

/-- Write every cached entry of a context back to memory (R73, R75). -/
def ledgerWriteBack (s : State) (c : Nat) : State :=
  let s := noteTraffic s [] (physPieces s c ((ctxOf s c).ledger.map fun l => (entryDa s c l.slot, 64)))
  let s' := (ctxOf s c).ledger.foldl (fun s l => wrNum s c (entryDa s c l.slot) l.entry 64) s
  updCtx s' c fun x => { x with ledger := [] }

/-- Fields of an entry (R70). -/
def leFmt (e : Nat) : Nat := fld e 0 1
def leMargin (e : Nat) : Nat := fld e 1 1
def leDepth (e : Nat) : Nat := fld e 2 2
def leHead (e : Nat) : Nat := fld e 4 2
def leCount (e : Nat) : Nat := fld e 6 2
def leScale (e : Nat) : Int := sext (fld e 8 1) 8
def leValid (e : Nat) : Bool := bit (fld e 9 1) 0
def leFrozen (e : Nat) : Bool := bit (fld e 9 1) 1
def leEs (e : Nat) : Bool := bit (fld e 9 1) 2
def leAmaxValid (e : Nat) : Bool := bit (fld e 9 1) 3
def leStepLast (e : Nat) : Nat := fld e 0x0C 4
def leHist (e : Nat) : Nat := bits (fld e 0x10 8) 0 48
def leAmax (e : Nat) : FVal := val32 (fld e 0x18 4)

/-- Is a format code an MX code? -/
def mxCode (f : Nat) : Bool := 5 ≤ f && f ≤ 9

/-- Does an entry break R70 (R71)? -/
def entryBroken (e : Nat) : Bool :=
  !leValid e ||
  (!leEs e && !(leFmt e ≤ 9 || (0x0A ≤ leFmt e && leFmt e ≤ 0x0C))) ||
  (!leEs e && mxCode (leFmt e) && leScale e ≠ 0) ||
  leMargin e > 31 || leDepth e < 1 || leDepth e > 1024 || leHead e ≥ leDepth e || leCount e > leDepth e ||
  leScale e < -126 || leScale e > 126 ||
  bits (fld e 9 1) 4 4 ≠ 0 || fld e 0x0A 2 ≠ 0 || leHist e % 4 ≠ 0 || fld e 0x16 2 ≠ 0 ||
  fld e 0x1C 4 ≠ 0 || fld e 0x38 8 ≠ 0

/-- Offset of the first byte of an entry that breaks R70, for the ledger commands; none where it holds. -/
def entryBadField (e : Nat) : Option Nat :=
  firstBad [
    (0x00, !leEs e && leFmt e > 0x0C),
    (0x01, leMargin e > 31), (0x02, leDepth e < 1 || leDepth e > 1024), (0x04, leHead e ≥ leDepth e),
    (0x06, leCount e > leDepth e),
    (0x08, leScale e < -126 || leScale e > 126 || (!leEs e && mxCode (leFmt e) && leScale e ≠ 0)),
    (0x09, bits (fld e 9 1) 4 4 ≠ 0), (0x0A, fld e 0x0A 2 ≠ 0), (0x10, leHist e % 4 ≠ 0), (0x16, fld e 0x16 2 ≠ 0),
    (0x1C, fld e 0x1C 4 ≠ 0), (0x38, fld e 0x38 8 ≠ 0)]

/-- The history ring as an interval of context DAs (R71). -/
def ringRange (e : Nat) : Nat × Nat := (leHist e, 4 * leDepth e)

/-- Largest k with m × 2^k at most top: floor_log2_ratio of R72. -/
def floorLog2Ratio (top m : FVal) : Int :=
  match top, m with
  | .fin _ tm te, .fin _ mm me =>
    let k := log2X tm te - log2X mm me
    if leX (fscale k m) top then k else k - 1
  | _, _ => 0

/-- new_exp of R72: the exponent that the history of an entry gives. An MX code in FMT gives 0 in an ES entry too, as the pseudocode has it, though R70 has FMT ignored there (DESIGN CHOICE, assumption 185). -/
def newExp (h : Nat) (hist : Nat → FVal) (e : Nat) : Int :=
  if mxCode (leFmt e) then 0
  else
    let m := (List.range (leCount e)).foldl (fun m j =>
      let v := hist ((leHead e + leDepth e - leCount e + j) % leDepth e)
      if isFin v && ltX fzero v && ltX m v then v else m) fzero
    if isZero m then leScale e
    else
      let top := if leEs e then .fin false 1 (62 - (h : Int)) else fmtMax ((fmtOfCode (leFmt e)).getD .fp32)
      max (-126) (min 126 (floorLog2Ratio top m - leMargin e))

/-- The commit of R72 as a function of an entry: the entry after, and the history slot to store where one is. -/
def commitEntry (h : Nat) (hist : Nat → FVal) (stepNow e : Nat) : Nat × Option (Nat × Nat) :=
  if leStepLast e = stepNow then (e, none)
  else if leAmaxValid e then
    let slot := leHead e
    let bitsA := fld e 0x18 4
    let hist' (j : Nat) : FVal := if j = slot then val32 bitsA else hist j
    let e1 := setFld e 4 2 ((slot + 1) % leDepth e)
    let e2 := if leCount e < leDepth e then setFld e1 6 2 (leCount e + 1) else e1
    let e3 := setFld (setFld e2 0x18 4 0) 9 1 (fld e 9 1 % 8)
    let e4 := if leFrozen e then e3 else setFld e3 8 1 (ofInt (newExp h hist' e3) 8)
    (setFld e4 0x0C 4 stepNow, some (leHist e + 4 * slot, bitsA))
  else (setFld e 0x0C 4 stepNow, none)

/-- First touch of an entry by an operation of the current step (R72). -/
def ledgerTouch (s : State) (c slot : Nat) : State :=
  let e := ledgerGet s c slot
  let hist (j : Nat) : FVal := val32 (rdNum s c (leHist e + 4 * j) 4)
  let x := ctxOf s c
  let (e', w) := commitEntry x.esHeadroom hist x.step.toNat e
  let s := noteTraffic s (physPieces s c [(entryDa s c slot, 64), (leHist e, 4 * leDepth e)]) []
  let s := match w with
    | some (a, v) => wrNum (noteTraffic s [] (physPieces s c [(a, 4)])) c a v 4
    | none => s
  ledgerPut s c slot e'

/-- Fold an amax into the entry's AMAX_CUR and add its counts (R68). -/
def foldEntry (e : Nat) (amax : FVal) (nSat nNan nUnf : Nat) : Nat :=
  let a := amax32 amax
  let cur := if leAmaxValid e then leAmax e else fzero
  let e1 := setFld e 0x18 4 (bits32 (maxX cur a))
  let e2 := setFld e1 9 1 (fld e 9 1 ||| 8)
  let e3 := setFld e2 0x20 8 (satAdd (fld e 0x20 8) nSat 64)
  let e4 := setFld e3 0x28 8 (satAdd (fld e 0x28 8) nNan 64)
  setFld e4 0x30 8 (satAdd (fld e 0x30 8) nUnf 64)

/-- Fold an output's record into its entry; an operation that wrote no element folds nothing (R67, R68). -/
def ledgerFold (s : State) (c : Nat) (d : Desc) (t : OutStat) : State :=
  if d.ledgerEn && t.wrote then
    ledgerPut s c d.slot (foldEntry (ledgerGet s c d.slot) t.amax t.nSat t.nNan t.nUnf)
  else s

/-- The scale exponent that an output narrows under: none for an ES entry (R58). -/
def outScale (s : State) (c : Nat) (d : Desc) : Int :=
  if d.ledgerEn then (let e := ledgerGet s c d.slot; if leEs e then 0 else leScale e) else 0

/-- The scale exponent of an input operand; zero without LEDGER_EN (R52). -/
def inScale (s : State) (c : Nat) (d : Desc) : Int := if d.ledgerEn then leScale (ledgerGet s c d.slot) else 0

/-- The rounding environment of an output at issue (R58, R61). -/
def roundEnv (s : State) (c : Nat) (d : Desc) : RoundEnv :=
  { seed := (ctxOf s c).jobSeed.toNat, step := (ctxOf s c).step.toNat, scale := outScale s c d }

/-- Narrow values into an output tensor in a given rounding environment, fold its ledger entry, and answer the flags raised (R57 to R68). -/
def narrowWith (s : State) (c : Nat) (env : RoundEnv) (d : Desc) (ext : List Nat) (f : List Nat → FVal) : State × NumFlags :=
  let (ps, t) := narrowPuts env d ext f
  (ledgerFold (applyPuts s c ps) c d t, t.flags)

/-- Narrow values into an output tensor at run-time extents (R57 to R68). -/
def narrowOut (s : State) (c : Nat) (d : Desc) (ext : List Nat) (f : List Nat → FVal) : State × NumFlags :=
  narrowWith s c (roundEnv s c d) d ext f

end Sys2Proof.Machine
end

