-- ==== Sys2Proof/Machine/Osq.lean ====
section
/-! DEFINITION. The Operation Sequencer: envelopes and their checks (R137, R138), unit queues and issue (R146, R147, R161), completion (R142, R143), halting and resumption (R158, R159), packages (R134, R135). -/

namespace Sys2Proof.Machine

/-! ### Statuses (R144, R145) -/

def stOk : Nat := 0x00
def stZeroExtent : Nat := 0x01
def stReserved : Nat := 0x02
def stOverPlan : Nat := 0x03
def stEnvelope : Nat := 0x04
def stWaitTimeout : Nat := 0x05
def stCancelled : Nat := 0x06
def stMemFault : Nat := 0x07
def stControl : Nat := 0x08
def stAddress : Nat := 0x0C
def stTensor : Nat := 0x0D

/-- The completing statuses of R145 and of the unit chapters (R102, R124, R195, R250, R289, R361, R367, R424). -/
def completing (st : Nat) : Bool := [0x00, 0x01, 0x12, 0x1E, 0x40, 0xA1, 0xB5, 0xD1, 0xD4, 0xE1].contains st

/-- A halting status: neither completing nor CANCELLED (R145). -/
def halting (st : Nat) : Bool := !completing st && st ≠ stCancelled

/-! ### Envelopes (R137 to R139) -/

/-- Operand records an opcode defines; none for a reserved opcode (R109, R155, R163, R176, R181, R205, R232, R245, R269, R276, R343, R356, R404). -/
def nrecOf : Nat → Option Nat
  | 0x00 | 0x01 | 0x02 | 0x03 => some 0
  | 0x10 | 0x11 => some 2
  | 0x12 | 0x13 => some 1
  | 0x14 => some 0
  | 0x30 => some 6
  | 0x40 => some 4 | 0x41 => some 2 | 0x42 => some 3 | 0x43 => some 5 | 0x44 => some 6
  | 0x45 => some 4 | 0x46 => some 3 | 0x47 => some 6 | 0x48 => some 2 | 0x49 => some 2
  | 0x4A => some 4 | 0x4B => some 2 | 0x4C => some 2
  | 0x4D | 0x4E | 0x4F => some 3
  | 0x50 => some 5
  | 0x70 => some 3 | 0x71 => some 2 | 0x72 => some 2
  | 0x78 | 0x79 => some 1
  | 0x7A | 0x7B => some 0
  | 0x80 => some 2 | 0x81 => some 1
  | 0x90 => some 4 | 0x91 => some 3 | 0x92 => some 0
  | 0xA0 => some 6 | 0xA1 | 0xA2 => some 3
  | 0xB0 | 0xB1 => some 2 | 0xB2 => some 0
  | 0xB3 | 0xB4 | 0xB5 => some 2 | 0xB6 => some 4 | 0xB7 => some 1 | 0xB8 => some 0 | 0xB9 => some 2
  | 0xC0 | 0xC1 => some 6 | 0xC2 | 0xC3 => some 0
  | 0xD0 | 0xD1 => some 6
  | 0xE0 => some 3 | 0xE1 | 0xE2 => some 4 | 0xE3 => some 5
  | _ => none

/-- The unit class that owns an opcode (R139, R142). -/
def unitOf (op : Nat) : Nat :=
  if op < 0x10 then 0
  else if op < 0x12 then 1
  else if op < 0x30 then 2
  else if op < 0x40 then 3
  else if op < 0x70 then 4
  else if op < 0x78 then 5
  else if op < 0x80 then 6
  else if op < 0x90 then 7
  else if op < 0xA0 then 8
  else if op < 0xB0 then 9
  else if op < 0xC0 then 10
  else if op < 0xD0 then 11
  else if op < 0xE0 then 12
  else 13

/-- Queue entries per instance per context (R139). -/
def queueDepth (cls : Nat) : Nat :=
  if cls = 4 || cls = 7 || cls = 10 then 32 else if cls = 11 || cls = 13 then 8 else 16

/-- Does UNIT_SEL name an instance of the unit (R137, R139)? -/
def instOk (cls sel : Nat) : Bool :=
  let die := sel % 8
  let eng := sel / 8 % 8
  if cls = 4 || cls = 5 || cls = 9 || cls = 13 then die ≤ 3 && eng = 0
  else if cls = 7 then die ≤ 5
  else if cls = 10 then (die = 4 || die = 5) && eng = 0
  else sel = 0

/-- Field readers of an envelope (R137). -/
def envOpcode (e : Nat) : Nat := fld e 0 1
def envNrec (e : Nat) : Nat := fld e 1 1
def envSel (e : Nat) : Nat := fld e 2 1
def envRecord (e : Nat) : Bool := bit (fld e 3 1) 0
def envNotify (e : Nat) : Bool := bit (fld e 3 1) 1
def envIndex (e : Nat) : Nat := fld e 4 4
def envWait (e w : Nat) : Nat := fld e (0x08 + 8 * w) 8
def envSignal (e k : Nat) : Nat := fld e (0x28 + 8 * k) 8
/-- The parameter block as a number. -/
def envParam (e : Nat) : Nat := fld e 0x40 64
/-- A parameter block field. -/
def par (e off len : Nat) : Nat := fld e (0x40 + off) len
/-- Operand record `r` of an envelope. -/
def envRec (e r : Nat) : Desc := parseDesc (fld e (0x80 + 128 * r) 128)

/-- Bytes of an envelope with its records. -/
def envBytes (e : Nat) : Nat := 128 + 128 * envNrec e

/-- A wait or signal entry that carries a reserved bit, or is disabled and not all zeros (R137). -/
def entryReserved (x : Nat) : Bool := bits x 12 3 ≠ 0 || bits x 16 16 ≠ 0 || (!bit x 15 && x ≠ 0)

/-- Offset of the first reserved value of the first 64 bytes (R138). -/
def envReserved (e : Nat) : Option Nat :=
  firstBad ([(0x00, (nrecOf (envOpcode e)).isNone), (0x02, bits (envSel e) 6 2 ≠ 0), (0x03, bits (fld e 3 1) 2 6 ≠ 0)] ++
    ((List.range 4).map fun w => (0x08 + 8 * w, entryReserved (envWait e w))) ++
    ((List.range 2).map fun k => (0x28 + 8 * k, entryReserved (envSignal e k))) ++
    ((List.range 8).map fun k => (0x38 + k, decide (fld e (0x38 + k) 1 ≠ 0))))

/-- The dispatch check of R138: status and DETAIL of an envelope that fails. An envelope whose first 128 bytes do not lie whole below BYTES is judged by that alone; otherwise a reserved value comes before the breaks that give ENVELOPE_INVALID, and these in the order of their offsets (DESIGN CHOICE, assumption 176: the manual does not say which of several breaks counts). -/
def envCheck (p : Pkg) (index off e : Nat) : Option (Nat × Nat) :=
  if p.bytes < off + 128 then some (stEnvelope, p.bytes - off) else
  match envReserved e with
  | some o => some (stReserved, o)
  | none =>
    let len := envBytes e
    if nrecOf (envOpcode e) ≠ some (envNrec e) then some (stEnvelope, 0x01)
    else if !instOk (unitOf (envOpcode e)) (envSel e) then some (stEnvelope, 0x02)
    else if envIndex e ≠ index then some (stEnvelope, 0x04)
    else if p.bytes < off + len then some (stEnvelope, p.bytes - off)
    else if index + 1 = p.opCount && off + len < p.bytes then some (stEnvelope, 0x04)
    else if index + 1 < p.opCount && off + len = p.bytes then some (stEnvelope, 0x04)
    else none

/-- The envelope with its records at an offset of the package, read through the context's range map. -/
def fetchEnv (s : State) (c : Nat) (p : Pkg) (off : Nat) : Nat :=
  let n := min 128 (p.bytes - off)
  let head := rdNum s c (p.da + off) n
  rdNum s c (p.da + off) (min (128 + 128 * min 6 (envNrec head)) (p.bytes - off))

/-! ### Waits and signals (R149, R150) -/

/-- Is one wait entry met or disabled? -/
def waitEntryMet (s : State) (c x : Nat) : Bool :=
  !bit x 15 || waitMet (tallyOf s c (bits x 0 12)) (BitVec.ofNat 32 (bits x 32 32))

/-- Are all enabled waits met? -/
def waitsMet (s : State) (c e : Nat) : Bool := (List.range 4).all fun w => waitEntryMet s c (envWait e w)

/-- DETAIL of WAIT_TIMEOUT (R143). -/
def timeoutDetail (s : State) (c e : Nat) : Nat :=
  match (List.range 4).find? fun w => !waitEntryMet s c (envWait e w) with
  | some w => w + (tallyOf s c (bits (envWait e w) 0 12)).toNat * 2 ^ 32
  | none => 0

/-- One signal entry takes effect. -/
def applySignal (s : State) (c x : Nat) : State := if bit x 15 then addTally s c (bits x 0 12) (bits x 32 32) else s

/-- Both signals of an envelope (R149). -/
def applySignals (s : State) (c e : Nat) : State := applySignal (applySignal s c (envSignal e 0)) c (envSignal e 1)

/-! ### The unit that executes a head (R119, R175) -/

/-- Fields of a QMM parameter block (R112). -/
structure QmmPar where
  accumulate : Bool
  keep : Bool
  sparse : Bool
  repl : Bool
  route : Nat
  rowMaskEn : Bool
  colMaskEn : Bool
  gatherEn : Bool
  slot : Nat
  gatherCount : Nat
  rowMask : Nat
  gatherList : Nat
  gatherSw : Nat
  colMask : Nat

/-- Read a QMM parameter block. -/
def qmmPar (e : Nat) : QmmPar :=
  let f := par e 0 2
  { accumulate := bit f 0, keep := bit f 1, sparse := bit f 2, repl := bit f 3, route := bits f 4 2
    rowMaskEn := bit f 6, colMaskEn := bit f 7, gatherEn := bit f 8
    slot := par e 2 1, gatherCount := par e 4 4, rowMask := bits (par e 8 8) 0 48
    gatherList := bits (par e 0x10 8) 0 48, gatherSw := par e 0x18 2, colMask := par e 0x20 32 }

/-- Run-time gather count. -/
def gatherRun (s : State) (c : Nat) (p : QmmPar) : Nat :=
  if bit p.gatherSw 15 then shapeWord s c (bits p.gatherSw 0 12) else p.gatherCount

/-- Run-time rows M of a QMM (R113). -/
def qmmRunM (s : State) (c e : Nat) : Nat :=
  let p := qmmPar e
  if p.gatherEn then gatherRun s c p else nth 0 (runExt s c (envRec e 0)) 1

/-- Run-time columns N (R113). -/
def qmmRunN (s : State) (c e : Nat) : Nat := nth 0 (runExt s c (envRec e 1)) 1

/-- Does ROUTE send a QMM to the Chisel (R119)? -/
def routesToChisel (s : State) (c : Nat) (q : QOp) : Bool :=
  let r := (qmmPar q.env).route
  r = 2 || (r = 0 && (qmmRunM s c q.env ≤ 8 || qmmRunN s c q.env = 1))

/-- Does a head leave its queue for the Chisel (R120)? -/
def routed (s : State) (c : Nat) (q : QOp) : Bool := q.cls = ucQuarry && q.opcode = 0x10 && routesToChisel s c q

/-- Key of a unit instance. -/
def unitKey (cls inst : Nat) : Nat := 64 * cls + inst

/-- The unit instance that executes a head. -/
def serverOf (s : State) (c : Nat) (q : QOp) : Nat := if routed s c q then unitKey ucChisel 0 else unitKey q.cls q.inst

/-- Have the domains that execute a head power (R495)? A routed QMM needs the Chisel's beside those of the Sump. -/
def headPowered (s : State) (c : Nat) (q : QOp) : Bool := unitOn s q.cls q.inst q.opcode && (!routed s c q || unitOn s ucChisel 0 0x30)

/-! ### Queues and issue (R146, R147, R158, R161) -/

/-- The halt index: of the recorded halt and of operations in flight that ended with a halting status (R158). -/
def haltIdx (x : Ctx) : Option Nat :=
  let fs := (x.flight.filter fun f => f.ended && halting f.status).map fun f => f.op.opIndex
  match x.halt, fs with
  | none, [] => none
  | some h, l => some (l.foldl min h)
  | none, a :: l => some (l.foldl min a)

/-- Is an operation frozen (R158)? -/
def frozen (x : Ctx) (q : QOp) : Bool :=
  match haltIdx x with
  | none => false
  | some h => h < q.opIndex

/-- The head of a unit instance's queue. -/
def headOf (x : Ctx) (cls inst : Nat) : Option QOp := x.queued.find? fun q => q.cls = cls && q.inst = inst

/-- A head ready to issue: not frozen, its waits met and its domain on (R147, R158, R495). -/
def readyHead (s : State) (c cls inst : Nat) : Bool :=
  match headOf (ctxOf s c) cls inst with
  | none => false
  | some q => !frozen (ctxOf s c) q && waitsMet s c q.env && headPowered s c q

/-- Is a queue's head ready for the unit instance of a key? -/
def readyFor (s : State) (c cls inst key : Nat) : Bool :=
  readyHead s c cls inst && (match headOf (ctxOf s c) cls inst with
    | none => false
    | some q => serverOf s c q = key)

/-- Has a context a head ready for a unit instance? The Chisel takes heads of its own queue and routed ones of the matrix queue (R175). -/
def contends (s : State) (c key : Nat) : Bool :=
  readyFor s c (key / 64) (key % 64) key || (key = unitKey ucChisel 0 && readyFor s c ucQuarry 0 key)

/-- Is it a head's turn at the Chisel among its context's own: where a routed QMM and a CMV are both ready, the kind that did not run last; at first the routed QMM (R175, assumption 45). -/
def kindTurn (s : State) (c : Nat) (q : QOp) : Bool :=
  let key := unitKey ucChisel 0
  !(serverOf s c q = key && readyFor s c ucChisel 0 key && readyFor s c ucQuarry 0 key) ||
    (if q.cls = ucChisel then !s.chiselCmv else s.chiselCmv)

/-- Does the arbitration select this head: an aged one, or the one whose turn it is in the first ready context after the one served last (R161, R175)? -/
def selected (s : State) (c : Nat) (q : QOp) (aged : Bool) : Bool :=
  let key := serverOf s c q
  let next := (smGet 7 s.lastServed key + 1) % 8
  aged || (kindTurn s c q && (List.range ((c + 8 - next) % 8)).all fun k => !contends s ((next + k) % 8) key)

/-- What a unit answers for an operation it issues. -/
structure Result where
  st : State
  status : Nat := 0
  flags : NumFlags := {}
  detail : Nat := 0
  ucls : Option Nat := none
  ended : Bool := true
  held : Bool := false
  ranges : List Hazard := []
  aux : List Nat := []
  acc : Access := {}

/-- A unit's execution of an operation of a context. -/
abbrev Body := State → Nat → QOp → Result

/-- Reject at issue: no writes (R9, R21, R35). -/
def reject (s : State) (status detail : Nat) : Result := { st := s, status := status, detail := detail }

/-- Take the head off its queue and remember who was served. -/
def takeHead (s0 : State) (c : Nat) (q : QOp) : State :=
  let s := updCtx s0 c fun x => { x with queued := dropFirst (fun r => r.cls = q.cls && r.inst = q.inst) x.queued }
  { s with lastServed := smPut s.lastServed (serverOf s0 c q) c
           chiselCmv := if serverOf s0 c q = unitKey ucChisel 0 then decide (q.cls = ucChisel) else s0.chiselCmv }

/-- The record of an operation in flight. -/
def flightOf (s : State) (q : QOp) (r : Result) : Flight :=
  { op := q, status := r.status, flags := r.flags, detail := r.detail, tIssue := s.elapsed
    cls := r.ucls.getD q.cls, ended := r.ended, held := r.held, ranges := r.ranges, aux := r.aux, acc := r.acc, old := false }

/-! ### Operations that no tally orders (R98, R154) -/

/-- Do two lists of ranges share a byte? -/
def rangesMeet (a b : List (Nat × Nat)) : Bool := a.any fun x => b.any fun y => overlaps x.1 (x.1 + x.2) y.1 (y.1 + y.2)

/-- Do two lists of Sump regions share an accumulator? -/
def sumpsMeet (a b : List SumpRegion) : Bool := a.any fun x => b.any fun y => regionsMeet x y

/-- Does one operation write what another reads? -/
def writesInto (a b : Access) : Bool := rangesMeet a.wr b.rd || sumpsMeet a.sumpWr b.sumpRd

/-- Does their unit keep the order of two operations: they lie in one queue and the same unit runs them (R120, R154)? -/
def sameQueue (f g : Flight) : Bool := f.op.cls = g.op.cls && f.op.inst = g.op.inst && f.cls = g.cls

/-- What an operation wrote becomes unpredictable. -/
def loseOutputs (s : State) (a : Access) : State := loseSumps (losePieces s a.wr) a.sumpWr

/-- The bytes that two lists of pieces share, as (first, length). -/
def sharedPieces (a b : List (Nat × Nat)) : List (Nat × Nat) :=
  a.flatMap fun x => (b.filter fun y => overlaps x.1 (x.1 + x.2) y.1 (y.1 + y.2)).map fun y =>
    (max x.1 y.1, min (x.1 + x.2) (y.1 + y.2) - max x.1 y.1)

/-- An operation `f` issues while `g` of another queue is in flight: no tally that it waited on orders them. What either read while the other wrote it, and what both wrote, is unpredictable, and so is what they made of it (R98, R154). -/
def race (s : State) (f g : Access) : State :=
  let s := if writesInto g f then loseOutputs s f else s
  let s := if writesInto f g then loseOutputs s g else s
  loseSumps (losePieces s (sharedPieces f.wr g.wr)) (f.sumpWr.filter fun x => g.sumpWr.any (regionsMeet x))

/-- The races of an operation that issues with those of its context in flight. -/
def settleRaces (s : State) (c : Nat) (f : Flight) : State :=
  ((ctxOf s c).flight.filter fun g => !sameQueue f g).foldl (fun s g => race s f.acc g.acc) s

/-- Does a race touch what an operation writes: it reads what the other writes, or both write it? -/
def racedBy (f g : Access) : Bool := writesInto g f || rangesMeet f.wr g.wr || sumpsMeet f.sumpWr g.sumpWr

/-- Mark an operation whose outputs a race with one of a list makes unpredictable: one that writes them only at its end writes open values there (R154). -/
def markRaced (f : Flight) (gs : List Flight) : Flight :=
  if gs.any fun g => !sameQueue f g && racedBy f.acc g.acc then { f with acc := { f.acc with raced := true } } else f

/-- An operation that has issued is in flight (R147). -/
def putFlight (s : State) (c : Nat) (f : Flight) : State :=
  updCtx (settleRaces s c f) c fun x => { x with flight := (x.flight.map fun g => markRaced g [f]) ++ [markRaced f x.flight] }

/-- Issue one operation: its unit runs it and it is in flight (R147). -/
def issueWith (body : Body) (s : State) (c : Nat) (q : QOp) : State :=
  let s1 := takeHead s c q
  let s2 := traceEvent s1 (traceSource q.cls q.inst) 1 c (packBits [(q.opIndex, 32), (q.opcode, 8), (q.inst, 8)])
  let r := body s2 c q
  putFlight r.st c (flightOf s q r)

/-- Can the head of this unit instance issue as the given kind of operation? -/
def canIssue (s : State) (c cls inst : Nat) (aged : Bool) (kind : QOp → Bool) : Bool :=
  match headOf (ctxOf s c) cls inst with
  | none => false
  | some q => kind q && readyHead s c cls inst && selected s c q aged

/-- The shared meaning of every operation row: issue the head of the unit instance's queue when it is of the row's kind, its waits are met and it is selected; otherwise nothing issues (R147). -/
def issueOp (s : State) (c cls inst : Nat) (aged : Bool) (kind : QOp → Bool) (body : Body) : State :=
  if canIssue s c cls inst aged kind then
    match headOf (ctxOf s c) cls inst with
    | some q => issueWith body s c q
    | none => s
  else s

/-- The kind test by opcode. -/
def isOp (opcode : Nat) (q : QOp) : Bool := q.opcode = opcode

/-! ### Completion (R142, R143) -/

/-- The package that runs. -/
def runningPkg (x : Ctx) : Option Pkg := x.pkgs.head?

/-- Write a completion record, GEN last (R142, R143); while the PCIe link is down a record in the host window goes nowhere (R471). -/
def writeRecord (s : State) (c : Nat) (p : Pkg) (q : QOp) (cls status : Nat) (flags : NumFlags) (detail : Nat) (tIssue : W64) : State :=
  let run := min (nowNs s - tIssue.toNat) 0xFFFFFFFF
  let da := p.compBase + 32 * q.opIndex
  if hostBase ≤ physOf s c da && !s.hostUp then s
  else wrNum (noteTraffic s [] (physPieces s c [(da, 32)])) c da
    (packBits [(status, 8), (flagByte flags, 8), (cls, 8), (if q.cls = 0 then 0 else q.inst, 8), (q.opIndex, 32), (detail, 64),
      (tIssue.toNat, 64), (run, 32), (p.gen, 32)]) 32

/-- End of a package: its report, and the next pending one comes to the front (R135, R437). -/
def endPkg (s : State) (c : Nat) (p : Pkg) (outcome st : Nat) : State :=
  let s := updCtx s c fun x =>
    { x with pkgs := x.pkgs.tail, st := if x.st = .closed then .closed else .idle, nextIndex := 0, nextOff := 0
             halt := none, haltStatus := 0, failed := [] }
  postEvent s 0x80 c 0 (packBits [(p.gen, 32), (outcome, 8), (st, 8)])

/-- Has every operation of the running package completed or been cancelled (R135)? -/
def pkgDone (x : Ctx) : Bool :=
  match x.pkgs with
  | [] => false
  | p :: _ =>
    p.started && x.queued = [] && x.flight = [] &&
      (p.aborted || (x.halt = none && p.opCount ≤ x.nextIndex))

/-- End the running package when it is done. -/
def tryEndPkg (s : State) (c : Nat) : State :=
  match (ctxOf s c).pkgs with
  | [] => s
  | p :: _ => if pkgDone (ctxOf s c) then endPkg s c p (b2n p.aborted) 0 else s

/-- The halt of R158: the context halts at the lowest failed index, and the Foreman reports it. -/
def haltPkg (s : State) (c : Nat) (q : QOp) (status : Nat) : State :=
  let x := ctxOf s c
  let lower := match x.halt with
    | none => true
    | some h => q.opIndex < h
  let s := updCtx s c fun x =>
    { x with st := if x.st = .aborting then .aborting else .halted
             halt := if lower then some q.opIndex else x.halt
             haltStatus := if lower then status else x.haltStatus
             failed := x.failed ++ [⟨q, status⟩] }
  let s := traceState s 0 c
  if lower && x.st ≠ .aborting then postEvent s 0x81 c 0 (packBits [(q.opIndex, 32), (status, 8)]) else s

/-- ABORT: the frozen operations and every operation not yet dispatched are withdrawn as CANCELLED; `all` withdraws every operation not issued (R158, R454). -/
def pkgAbort (s : State) (c : Nat) (all : Bool) : State :=
  match runningPkg (ctxOf s c) with
  | none => s
  | some p =>
    let x := ctxOf s c
    let gone := x.queued.filter fun q => all || frozen x q
    let s := gone.foldl (fun s q => writeRecord s c p q q.cls stCancelled {} 0 s.elapsed) s
    let s := updCtx s c fun x =>
      { x with queued := x.queued.filter (fun q => !(all || frozen x q)), st := .aborting, failed := []
               halt := none, haltStatus := 0
               pkgs := { p with aborted := true } :: x.pkgs.tail }
    tryEndPkg s c

/-- The completion of an operation in flight: signals, record, notification, halt and package end (R143, R145, R149, R158). -/
def completeOp (s : State) (c : Nat) (f : Flight) (afterSignal : State → State) : State :=
  match runningPkg (ctxOf s c) with
  | none => updCtx s c fun x => { x with flight := dropFirst (fun g => g.op.opIndex = f.op.opIndex) x.flight }
  | some p =>
    let s := if completing f.status then afterSignal (applySignals s c f.op.env) else s
    let s := if !completing f.status || envRecord f.op.env then
        writeRecord s c p f.op f.cls f.status f.flags f.detail f.tIssue else s
    let s := updCtx s c fun x => { x with flight := dropFirst (fun g => g.op.opIndex = f.op.opIndex) x.flight }
    let run := min (nowNs s - f.tIssue.toNat) 0xFFFFFFFF
    let s := traceEvent s (traceSource f.op.cls f.op.inst) 2 c
      (packBits [(f.op.opIndex, 32), (f.status, 8), (flagByte f.flags, 8), (0, 16), (run, 32)])
    let s := if envNotify f.op.env then
        postEvent s 0x82 c 0 (packBits [(f.op.opIndex, 32), (f.status, 8), (p.gen, 32)]) else s
    let s := if halting f.status then haltPkg s c f.op f.status else s
    if halting f.status && (ctxOf s c).st = .aborting then pkgAbort s c false else tryEndPkg s c

/-! ### Dispatch -/

/-- May the OSQ dispatch for this context: running, not halted, and no STEP_ADVANCE in flight (R146, R156, R158)? -/
def mayDispatch (x : Ctx) : Bool :=
  x.st = .running && (haltIdx x).isNone && !x.flight.any fun f => f.op.opcode = 0x01

/-- The next envelope not yet dispatched, with its package. -/
def nextEnv (s : State) (c : Nat) : Option (Pkg × Nat) :=
  let x := ctxOf s c
  match runningPkg x with
  | none => none
  | some p =>
    if mayDispatch x && p.started && x.nextIndex < p.opCount then some (p, fetchEnv s c p x.nextOff) else none

/-- The operation an envelope at the dispatch point becomes. -/
def mkOp (x : Ctx) (e : Nat) : QOp :=
  { opIndex := x.nextIndex, cls := unitOf (envOpcode e), inst := envSel e, opcode := envOpcode e, env := e, off := x.nextOff }

/-- The envelope at the dispatch point has been read from memory. -/
def noteFetch (s : State) (c e : Nat) : State :=
  match runningPkg (ctxOf s c) with
  | none => s
  | some p => noteTraffic s (physPieces s c [(p.da + (ctxOf s c).nextOff, envBytes e)]) []

/-- Step the dispatch point past an envelope. -/
def advanceDispatch (s : State) (c e : Nat) : State :=
  updCtx (noteFetch s c e) c fun x => { x with nextIndex := x.nextIndex + 1, nextOff := x.nextOff + envBytes e }

/-- An operation that ends without running, under the OSQ or its unit. It never issued, so that its T_ISSUE is the elapsed time at its end and its T_RUN counts from there (DESIGN CHOICE, assumption 177). -/
def endAtOnce (s : State) (c : Nat) (q : QOp) (cls status detail : Nat) : State :=
  updCtx s c fun x => { x with flight := x.flight ++
    [{ op := q, status := status, flags := {}, detail := detail, tIssue := s.elapsed, cls := cls, ended := true
       held := false, ranges := [], aux := [], acc := {}, old := false }] }

/-- The line of the first uncorrectable byte of an envelope of the package or of its operand records (R144). -/
def envFault (s : State) (c : Nat) (p : Pkg) (off : Nat) : Option Nat :=
  badTouched s (physPieces s c [(p.da + off, min (128 + 128 * min 6 (envNrec (fetchEnv s c p off))) (p.bytes - off))])

/-- The DETAIL-carrying rejection of an envelope at dispatch: ended by the OSQ itself, nothing dispatched after it (R138). The operation keeps the opcode and the instance that this first dispatch named, by which a RETRY judges it (R159). -/
def rejectEnv (s : State) (c e status detail : Nat) : State :=
  endAtOnce (advanceDispatch s c e) c { mkOp (ctxOf s c) e with cls := 0 } 0 status detail

/-- PACKAGE_START (R135): the header checks, when the context has no package running. -/
def headerOk (s : State) (c : Nat) (da : Nat) : Bool :=
  let h := rdNum s c da 64
  let ops := fld h 0x08 4
  let bytes := fld h 0x0C 4
  let comp := bits (fld h 0x10 8) 0 48
  da % 64 = 0 &&
  fld h 0 4 = 0x4B574C47 && fld h 0x05 1 = 1 && fld h 0x06 2 = 0 && 1 ≤ ops && ops ≤ 16777216 &&
  192 ≤ bytes && bytes ≤ 0x10000000 && fld h 0x16 2 = 0 && comp % 32 = 0 && fld h 0x20 32 = 0 &&
  footOk s c deviceRegions true false [(da, bytes)] &&
  footOk s c haulerRegions false true [(comp, 32 * ops)]

/-! ### Resumption (R158, R159) -/

/-- SKIP: the failed operations signal without executing, the queues unfreeze. -/
def pkgSkip (s : State) (c : Nat) (afterSignal : State → State) : State :=
  let s := (ctxOf s c).failed.foldl (fun s f => afterSignal (applySignals s c f.op.env)) s
  tryEndPkg (updCtx s c fun x => { x with st := .running, halt := none, haltStatus := 0, failed := [] }) c

/-- Insert failed operations in package order (R158). -/
def sortOps (l : List FailedOp) : List FailedOp := l.mergeSort fun a b => a.op.opIndex ≤ b.op.opIndex

/-- Does a re-fetched envelope name the unit and the instance of the operation's first dispatch (R159)? -/
def sameUnit (f : FailedOp) (e : Nat) : Bool := unitOf (envOpcode e) = unitOf f.op.opcode && envSel e = f.op.inst

/-- How the re-fetch of a failed operation ends at once: the status and DETAIL of an uncorrectable error, of another unit or instance, or, for a unit's operation, of the check of R138 (R144, R159). An operation that failed under the OSQ is checked when it is dispatched again. -/
def retryBad (s : State) (c : Nat) (p : Pkg) (f : FailedOp) : Option (Nat × Nat) :=
  let e := fetchEnv s c p f.op.off
  match envFault s c p f.op.off with
  | some l => some (stMemFault, l)
  | none =>
    if !sameUnit f e then some (stEnvelope, 0)
    else if f.op.cls = 0 then none
    else envCheck p f.op.opIndex f.op.off e

/-- The envelopes that RETRY reads again are read from memory. -/
def noteRefetch (s : State) (c : Nat) (p : Pkg) (fs : List FailedOp) : State :=
  noteTraffic s (physPieces s c (fs.map fun f => (p.da + f.op.off, envBytes (fetchEnv s c p f.op.off)))) []

/-- A failed operation that its re-fetch ends. -/
def retryEnd (s : State) (c : Nat) (p : Pkg) (f : FailedOp) : State :=
  match retryBad s c p f with
  | none => s
  | some (st, d) =>
    let s := if st = stMemFault then countUe s d c else s
    endAtOnce s c { f.op with env := fetchEnv s c p f.op.off } f.op.cls st d

/-- A re-fetched operation at the head of its queue. -/
def refetched (s : State) (c : Nat) (p : Pkg) (f : FailedOp) : QOp :=
  let e := fetchEnv s c p f.op.off
  { f.op with env := e, opcode := envOpcode e }

/-- RETRY: every failed operation is fetched again, in package order, to the head of its queue; one of the OSQ's own is dispatched again at its place; one whose re-fetch fails ends at once (R158, R159). -/
def pkgRetry (s : State) (c : Nat) : State :=
  let fs := sortOps (ctxOf s c).failed
  let s := updCtx s c fun x => { x with st := .running, halt := none, haltStatus := 0, failed := [] }
  match runningPkg (ctxOf s c) with
  | none => s
  | some p =>
    let good := fs.filter fun f => (retryBad s c p f).isNone
    let units := (good.filter fun f => f.op.cls ≠ 0).map (refetched s c p)
    let s := noteRefetch s c p fs
    let s := updCtx s c fun x => { x with queued := units ++ x.queued }
    let s := fs.foldl (fun s f => retryEnd s c p f) s
    match good.find? fun f => f.op.cls = 0 with
    | some f => updCtx s c fun x => { x with nextIndex := f.op.opIndex, nextOff := f.op.off }
    | none => s

end Sys2Proof.Machine
end

