-- ==== Sys2Proof/Machine/Plan.lean ====
section
/-! DEFINITION. The issue checks every unit makes in the order of R114, and what surrounds an operation's effect: the commit of the ledger entries it names (R72), memory faults (R144), whole writes of faulty words (R294, R301) and overlapping operands (R36). -/

namespace Sys2Proof.Machine

/-- One operand record as a unit uses it. -/
structure Rec where
  /-- Index of the record in the envelope. -/
  idx : Nat
  d : Desc
  isIn : Bool
  isOut : Bool
  reach : List Region
  /-- Format 0x0E is allowed (R47). -/
  accOk : Bool := false
  /-- The owning chapter gives the input's frame a use (R141). -/
  frameUsed : Bool := false
  /-- The frame of this output is reserved: its unit narrows nothing (R276). -/
  frameless : Bool := false
  /-- Input records that the output may equal (R36, R181). -/
  inPlace : List Nat := []
  /-- The output may equal one of them in another format of the same width (R181, CVT). -/
  widthOnly : Bool := false
  /-- Rows in the packed 2:4 layout, to which R45 does not apply (R125). -/
  packed : Bool := false
  /-- The footprint, where it is not the descriptor's own. -/
  foot : Option (List (Nat × Nat)) := none

/-- An address in the parameter block: its intervals, where they may lie, and the permissions needed. -/
structure ParFoot where
  ivs : List (Nat × Nat)
  reach : List Region
  needR : Bool
  needW : Bool

/-- A rule that relates extents: whether a shape word supplies one of them, and whether it holds of planned and of run-time extents (R114). -/
structure Rel where
  dyn : Bool
  plan : Bool
  run : Bool

/-- What a unit checks at issue and what it reads and writes. -/
structure Plan where
  /-- Reserved parameter fields: envelope offset, and whether the field is non-zero or reserved. -/
  reserved : List (Nat × Bool)
  recs : List Rec
  parFoots : List ParFoot := []
  /-- A record that fails an address rule of its unit (check 3). -/
  addrBad : Option Nat := none
  /-- The unit's own invalid status, in the place of MATRIX_INVALID. -/
  invalid : Nat
  /-- A rule on planned values is broken. -/
  broken : Bool := false
  rels : List Rel := []
  /-- A TENSOR_INVALID rule of the unit, by record. -/
  tensorBad : Option Nat := none
  /-- Checks between the unit's rules and the run-time extents. -/
  between : Option (Nat × Nat) := none
  /-- Parameter-block counts supplied by a shape word: planned and run-time. -/
  counts : List (Nat × Nat) := []
  /-- A run-time count or extent of zero beyond the records' own. -/
  zero : Bool := false
  /-- Whether the records' run-time zero extents complete the operation as ZERO_EXTENT. -/
  zeroExt : List (List Nat) := []

/-- Footprint of a record. -/
def recFoot (r : Rec) : List (Nat × Nat) := r.foot.getD (footprint r.d)

/-- Offset in the envelope of a record's first reserved value. -/
def recReserved (r : Rec) : Option Nat :=
  let o := match descReserved r.d with
    | some o => some o
    | none => if r.isOut && !r.frameless then frameReserved r.d else if r.frameUsed then none else inFrameReserved r.d
  o.map fun o => 0x80 + 128 * r.idx + o

/-- Does a record fail check 2: its descriptor, its frame or its ledger entry (R35, R71, R141)? -/
def recInvalid (s : State) (c : Nat) (r : Rec) : Bool :=
  descBroken r.isOut r.accOk r.d || (!r.packed && mxStrideBad r.d) || (r.isOut && frameInvalid r.d) ||
  (r.d.ledgerEn && (let e := ledgerGet s c r.d.slot
    entryBroken e || (isCrush r.d.fmt && leFmt e ≠ r.d.expRaw)))

/-- Does a record fail check 3: its footprint and its history ring (R21, R30, R71)? -/
def recAddrBad (s : State) (c : Nat) (r : Rec) : Bool :=
  !footOk s c r.reach r.isIn r.isOut (recFoot r) ||
  (r.d.ledgerEn && !footOk s c [.near] true true [ringRange (ledgerGet s c r.d.slot)])

/-- DETAIL of EXTENT_OVER_PLAN for a record (R143). -/
def overPlan (s : State) (c : Nat) (r : Rec) : Option Nat :=
  let v := nth 0 (runExt s c r.d) r.d.swDim
  if r.d.shapeEn && extAt r.d r.d.swDim < v then some (packBits [(r.idx, 8), (r.d.swDim, 8), (0, 16), (v, 32)]) else none

/-- The checks of R114 in their order: status and DETAIL of the first that fails, ZERO_EXTENT included. -/
def issueChecks (s : State) (c : Nat) (p : Plan) : Option (Nat × Nat) :=
  firstSome [
    (match firstBad p.reserved with
      | some o => some (stReserved, o)
      | none => (firstSome (p.recs.map recReserved)).map fun o => (stReserved, o)),
    ((p.recs.find? fun r => recInvalid s c r).map fun r => (stTensor, r.idx)),
    (p.tensorBad.map fun i => (stTensor, i)),
    (p.addrBad.map fun i => (stAddress, i)),
    ((p.recs.find? fun r => recAddrBad s c r).map fun r => (stAddress, r.idx)),
    (if p.parFoots.all (fun f => footOk s c f.reach f.needR f.needW f.ivs) then none else some (stAddress, 0xFF)),
    (if p.broken || p.rels.any (fun r => !r.dyn && !r.plan) then some (p.invalid, 0) else none),
    p.between,
    (firstSome (p.recs.map fun r => overPlan s c r)).map (fun d => (stOverPlan, d)),
    ((p.counts.find? fun x => x.1 < x.2).map fun x => (stOverPlan, packBits [(0xFF, 8), (0, 24), (x.2, 32)])),
    (if p.rels.any (fun r => r.dyn && !r.run) then some (p.invalid, 0) else none),
    (if p.zero || p.zeroExt.any (fun e => e.contains 0) then some (stZeroExtent, 0) else none)]

/-- Footprint of a descriptor at run-time extents. -/
def footAt (d : Desc) (ext : List Nat) : List (Nat × Nat) :=
  if d.comp = 2 then [(d.base, 4160 * segCount d ext)]
  else
    let len := rowBytes d (nth 1 ext 0)
    if len = 0 then [] else (rowOffs d ext).map fun o => (d.base + o, len)

/-- Do two records name the same tensor place, as an operation run in place needs (R181)? -/
def sameOperand (widthOnly : Bool) (a b : Desc) : Bool :=
  (a.fmt = b.fmt || (widthOnly && ebits a.fmt = ebits b.fmt && isMx a.fmt = isMx b.fmt)) && a.base = b.base && a.layout = b.layout && a.spread = b.spread && a.str = b.str && footprint a = footprint b

/-- What an operation reads at planned extents besides one of its records: its other inputs that the record may not equal, and what its parameter block addresses. -/
def otherInputs (p : Plan) (o : Rec) : List (Nat × Nat) :=
  ((p.recs.filter fun i => i.isIn && i.idx ≠ o.idx && !(o.inPlace.contains i.idx && sameOperand o.widthOnly o.d i.d)).flatMap recFoot) ++
    (p.parFoots.filter (·.needR)).flatMap (·.ivs)

/-- The physical pieces where an output overlaps an input footprint (R36): of a record with other records and the parameter block, and of a place that the parameter block alone writes with the records. -/
def overlapsOf (s : State) (c : Nat) (p : Plan) : List (Nat × Nat) :=
  (p.recs.filter (·.isOut)).flatMap (fun o => sharedPieces (physPieces s c (recFoot o)) (physPieces s c (otherInputs p o))) ++
  (p.parFoots.filter fun f => f.needW && !f.needR).flatMap fun f =>
    sharedPieces (physPieces s c f.ivs) (physPieces s c ((p.recs.filter (·.isIn)).flatMap recFoot))

/-- Give the overlap of outputs and inputs unpredictable contents (R36). -/
def scrambleOverlap (s : State) (c : Nat) (p : Plan) : State := losePieces s (overlapsOf s c p)

/-- The commit of every ledger entry an operation names, in record order (R72). -/
def touchAll (s : State) (c : Nat) (recs : List Rec) : State :=
  recs.foldl (fun s r => if r.d.ledgerEn then ledgerTouch s c r.d.slot else s) s

/-- The words and lines with an uncorrectable error that pieces write only in part: they keep their contents (R294, R301, R305). -/
def keptBad (s : State) (wp : List (Nat × Nat)) : List (Nat × Nat) :=
  (s.memS.bad.filter fun b => !coversBad wp b).map fun b => (b.addr, b.len)

/-- An operation that met an uncorrectable error: its traffic is noted, and its outputs hold unpredictable values, but for words and lines that it would have written only in part (R144, R294, R301, R305). -/
def memFault (s : State) (c : Nat) (line : Nat) (outs rp wp : List (Nat × Nat)) : Result :=
  { st := countUe (losePieces (noteTraffic s rp wp) (cutAll (keptBad s wp) (physPieces s c outs))) line c
    status := stMemFault, detail := line, acc := { rd := rp, wr := wp } }

/-- Run an operation whose checks pass: the errors of the lines it reads or writes in part, the ledger commits, its effect, and the overlap rule. -/
def runAfter (s : State) (c : Nat) (p : Plan) (reads : List (Nat × Nat)) (writes : List (Nat × Nat)) (eff : State → Result) : Result :=
  let outs := (p.recs.filter (·.isOut)).flatMap recFoot ++ (p.parFoots.filter fun f => f.needW && !f.needR).flatMap (·.ivs)
  let rp := physPieces s c reads
  let wp := physPieces s c writes
  match badTouched s rp with
  | some l => memFault s c l outs rp wp
  | none =>
    match badPartly s wp with
    | some l => memFault s c l outs rp wp
    | none =>
      let r := eff (touchAll s c p.recs)
      { r with st := scrambleOverlap (noteTraffic (clearBad r.st wp) rp wp) c p
               acc := { r.acc with rd := r.acc.rd ++ rp, wr := r.acc.wr ++ wp } }

/-- Run an operation: its checks, then its effect. -/
def runPlan (s : State) (c : Nat) (p : Plan) (reads : List (Nat × Nat)) (writes : List (Nat × Nat)) (eff : State → Result) : Result :=
  match issueChecks s c p with
  | some (st, d) => reject s st d
  | none => runAfter s c p reads writes eff

/-- Reads and writes of records at run-time extents. -/
def readsOf (s : State) (c : Nat) (recs : List Rec) : List (Nat × Nat) :=
  (recs.filter (·.isIn)).flatMap fun r => footAt r.d (runExt s c r.d)
def writesOf (s : State) (c : Nat) (recs : List Rec) : List (Nat × Nat) :=
  (recs.filter (·.isOut)).flatMap fun r => footAt r.d (runExt s c r.d)

/-- The common case: the records alone say what is read and written. -/
def runRecs (s : State) (c : Nat) (p : Plan) (eff : State → Result) : Result :=
  runPlan s c p (readsOf s c p.recs) (writesOf s c p.recs) eff

/-- A relation between one dimension of two records. -/
def relEq (s : State) (c : Nat) (a b : Desc) (ka kb : Nat) : Rel :=
  { dyn := (a.shapeEn && a.swDim = ka) || (b.shapeEn && b.swDim = kb)
    plan := extAt a ka = extAt b kb
    run := nth 1 (runExt s c a) ka = nth 1 (runExt s c b) kb }

/-- Equal extents in every dimension. -/
def relsSame (s : State) (c : Nat) (a b : Desc) : List Rel := (List.range 6).map fun k => relEq s c a b k k

/-- A relation on one dimension of a record. -/
def relDim (s : State) (c : Nat) (a : Desc) (k : Nat) (ok : Nat → Bool) : Rel :=
  { dyn := a.shapeEn && a.swDim = k, plan := ok (extAt a k), run := ok (nth 1 (runExt s c a) k) }

/-- The unused bytes of a parameter block must be zero (R9): offsets from `from_` to `to_` (exclusive). -/
def parZero (e from_ to_ : Nat) : List (Nat × Bool) :=
  (List.range (to_ - from_)).map fun k => (0x40 + from_ + k, decide (par e (from_ + k) 1 ≠ 0))

/-- An input record. -/
def inRec (e i : Nat) (reach : List Region) : Rec := { idx := i, d := envRec e i, isIn := true, isOut := false, reach := reach }
/-- An output record. -/
def outRec (e i : Nat) (reach : List Region) : Rec := { idx := i, d := envRec e i, isIn := false, isOut := true, reach := reach }
/-- A record read and written. -/
def ioRec (e i : Nat) (reach : List Region) : Rec := { idx := i, d := envRec e i, isIn := true, isOut := true, reach := reach }

end Sys2Proof.Machine
end

