-- ==== Sys2Proof/Machine/SpecFn.lean ====
section
/-! DEFINITION. The special functions of R187, each the exact real value at its input rounded once to FP32, the activation functions of R186, and the sums and maxima of R183 and R185. -/

namespace Sys2Proof.Machine

/-! ### Special functions (R187) -/

/-- Fraction bits of the working precision: far beyond what one rounding to FP32 can distinguish. -/
def fnBits : Nat := 272

/-- ⌊ln 2 × 2^272⌋. -/
def ln2Fixed : Nat := 0xb17217f7d1cf79abc9e3b39803f2f6af40f343267298b62d8a0d175b8baafa2be7b8
/-- ⌊2/√π × 2^272⌋. -/
def twoOverSqrtPi : Nat := 0x120dd750429b6d11ae3a914fed7fd8688281341d7587cea2e7342b06199cc416180eb

/-- Taylor sum of e^r by Horner's rule, r in fixed point below ln 2: the n terms from 1 up. -/
def expTaylor (r : Nat) : Nat → Nat → Nat
  | 0, acc => acc
  | n + 1, acc => expTaylor r n (2 ^ fnBits + ((r * acc) >>> fnBits) / (n + 1))

/-- e^x for x in fixed point: a fixed-point value from 1 to 2 and a power of two. -/
def expFixed (x : Int) : Nat × Int :=
  (expTaylor (x % ln2Fixed).toNat 72 (2 ^ fnBits), x / ln2Fixed)

/-- A finite value in fixed point with the working precision. -/
def toWork (n : Bool) (m : Nat) (e : Int) : Int :=
  let v : Nat := if -(fnBits : Int) ≤ e then m <<< (e + fnBits).toNat else m >>> (-(e + fnBits)).toNat
  if n then -(v : Int) else v

/-- exp (R187). -/
def exp32 : FVal → FVal
  | .nan => .nan
  | .inf n => if n then fzero else .inf false
  | .fin _ 0 _ => fone
  | .fin n m e =>
    if 7 ≤ log2X m e then (if n then fzero else .inf false)
    else
      let (r, k) := expFixed (toWork n m e)
      rn32 (.fin false (2 * r + 1) (k - fnBits - 1))

/-- rcp (R187). -/
def rcp32 (v : FVal) : FVal := div32f fone v

/-- rsqrt (R187): the root of the reciprocal, with a sticky last bit. -/
def rsqrt32 : FVal → FVal
  | .nan => .nan
  | .inf n => if n then .nan else fzero
  | .fin n m e =>
    if m = 0 then .inf n
    else if n then .nan
    else
      let par := (e % 2).toNat
      let m' := m <<< par
      let k := 128 + Nat.log2 m'
      let q := 2 ^ (2 * k) / m'
      let r := isqrt q
      rn32 (.fin false (2 * r + b2n (r * r * m' ≠ 2 ^ (2 * k))) (-((e - par) / 2) - k - 1))

/-- tanh (R187). -/
def tanh32 : FVal → FVal
  | .nan => .nan
  | .inf n => .fin n 1 0
  | .fin n m e =>
    if m = 0 then .fin n 0 0
    else if log2X m e < -40 then rn32 (.fin n m e)
    else if 5 ≤ log2X m e then .fin n 1 0
    else
      let (r, k) := expFixed (toWork false m (e + 1))
      let big := r <<< k.toNat
      let q := divSticky (.fin false (big - 2 ^ fnBits) 0) (.fin false (big + 2 ^ fnBits) 0)
      rn32 (if n then fneg q else q)

/-- Alternating series of erf in fixed point: sums of the even and of the odd terms. -/
def erfTerms (x2 bits_ : Nat) : Nat → Nat → Nat → Nat → Nat → Nat × Nat
  | 0, _, _, a, b => (a, b)
  | k + 1, n, t, a, b =>
    let u := t / (2 * n + 1)
    let t' := ((t * x2) >>> bits_) / (n + 1)
    if n % 2 = 0 then erfTerms x2 bits_ k (n + 1) t' (a + u) b else erfTerms x2 bits_ k (n + 1) t' a (b + u)

/-- erf (R187). -/
def erf32 : FVal → FVal
  | .nan => .nan
  | .inf n => .fin n 1 0
  | .fin n m e =>
    if m = 0 then .fin n 0 0
    else if log2X m e < -40 then rn32 (.fin n (m * twoOverSqrtPi) (e - fnBits))
    else if 3 ≤ log2X m e then .fin n 1 0
    else
      let w : Nat := 640
      let x := if -(w : Int) ≤ e then m <<< (e + w).toNat else m >>> (-(e + w)).toNat
      let (a, b) := erfTerms ((x * x) >>> w) w 360 0 x 0 0
      rn32 (.fin n ((a - b) * twoOverSqrtPi) (-(w : Int) - fnBits))

/-! ### Maximum, minimum and trees (R183, R185) -/

/-- max of R185: NaN where either is NaN, +0 for the two zeros. -/
def maxN (a b : FVal) : FVal :=
  if isNan a || isNan b then .nan
  else if isZero a && isZero b then .fin (signOf a && signOf b) 0 0
  else maxX a b

/-- min of R185: NaN where either is NaN, −0 for the two zeros. -/
def minN (a b : FVal) : FVal :=
  if isNan a || isNan b then .nan
  else if isZero a && isZero b then .fin (signOf a || signOf b) 0 0
  else minX a b

/-- One level of a tree: adjacent pairs. -/
def pairUp {α : Type} (op : α → α → α) : List α → List α
  | a :: b :: r => op a b :: pairUp op r
  | l => l

/-- Levels of the tree over n elements: the power of two at or above n. -/
def treeLevels (n : Nat) : Nat := if n ≤ 1 then 0 else Nat.log2 (n - 1) + 1

/-- Reduce a power of two elements. -/
def reduceLevels {α : Type} (op : α → α → α) : Nat → List α → List α
  | 0, l => l
  | k + 1, l => reduceLevels op k (pairUp op l)

/-- The tree of R183 over a list, padded with a neutral value. -/
def treeOf {α : Type} (op : α → α → α) (pad : α) (l : List α) : α :=
  let k := treeLevels l.length
  nth pad (reduceLevels op k (l ++ List.replicate (2 ^ k - l.length) pad)) 0

/-- rsum (R183). -/
def rsum (l : List FVal) : FVal := treeOf add32f fzero l
/-- Maximum in the tree of R183. -/
def treeMax (l : List FVal) : FVal := treeOf maxN (.inf true) l
/-- Minimum in the tree of R183. -/
def treeMin (l : List FVal) : FVal := treeOf minN (.inf false) l

/-! ### Activations (R186) -/

/-- A decimal constant as FP32. -/
def dec32 (num den : Nat) : FVal := rn32 (divSticky (fnat num) (fnat den))

def fhalf : FVal := .fin false 1 (-1)

/-- sigmoid(x) = rcp(1 + exp(−x)). -/
def sigmoid32 (x : FVal) : FVal := rcp32 (add32f fone (exp32 (fneg x)))

/-- FUNC 1: x above zero, else +0; NaN gives NaN. -/
def relu32 (x : FVal) : FVal := if isNan x then .nan else if ltX fzero x then x else fzero

/-- The argument of tanh in FUNC 3. -/
def geluArg (x : FVal) : FVal :=
  mul32f (dec32 79788456 100000000) (add32f x (mul32f (dec32 44715 1000000) (mul32f (mul32f x x) x)))

/-- f(x) of R186. -/
def actFn (f : Nat) (x : FVal) : FVal :=
  match f with
  | 0 => x
  | 1 => relu32 x
  | 2 => mul32f (mul32f fhalf x) (add32f fone (erf32 (mul32f x (dec32 70710678 100000000))))
  | 3 => mul32f (mul32f fhalf x) (add32f fone (tanh32 (geluArg x)))
  | 4 => mul32f x (sigmoid32 x)
  | 5 => sigmoid32 x
  | 6 => tanh32 x
  | 7 => exp32 x
  | _ => mul32f (relu32 x) (relu32 x)

end Sys2Proof.Machine
end

