-- ==== Sys2Proof/Machine/Dressing.lean ====
section
/-! DEFINITION. The Dressing units: parameter block, issue rules and the seventeen operations (R179 to R198), with exact-sum conversion (R76, R77). -/

namespace Sys2Proof.Machine

/-! ### Parameter block and issue rules (R181, R184) -/

def drFunc (e : Nat) : Nat := par e 0 1
def drDims (e : Nat) : Nat := par e 1 1
def drGroups (e : Nat) : Nat := par e 2 2
def drOptf (e : Nat) : Nat := par e 4 1
def drOpt1 (e : Nat) : Bool := bit (drOptf e) 0
def drOpt2 (e : Nat) : Bool := bit (drOptf e) 1
def drAux (e : Nat) : Bool := bit (drOptf e) 2
/-- P[i] as an FP32 value. -/
def drP (e i : Nat) : FVal := val32 (par e (8 + 4 * i) 4)

/-- What an operation uses of the parameter block. -/
structure DrUse where
  maxFunc : Nat
  nP : Nat := 0
  dims : Bool := false
  groups : Bool := false
  optMask : Nat := 0

/-- Reserved fields of the parameter block (R181). -/
def drReserved (e : Nat) (u : DrUse) : List (Nat × Bool) :=
  ([(0x40, u.maxFunc < drFunc e), (0x41, bits (drDims e) 6 2 ≠ 0 || (!u.dims && drDims e ≠ 0)),
    (0x42, !u.groups && drGroups e ≠ 0), (0x44, drOptf e &&& (255 - u.optMask) ≠ 0)] : List (Nat × Bool)) ++
  parZero e 5 8 ++
  (((List.range 8).filter fun i => u.nP ≤ i).map fun i => (0x48 + 4 * i, decide (par e (8 + 4 * i) 4 ≠ 0))) ++
  parZero e 0x28 0x40

/-- A record that is present only with its use bit (R181). -/
def optRec (present : Bool) (r : Rec) : List Rec := if present then [r] else []

/-- An input of a Dressing operation. -/
def drIn (e i : Nat) : Rec := inRec e i deviceRegions
/-- An output, with the inputs it may run over in place. -/
def drOut (e i : Nat) (ins : List Nat) : Rec := { outRec e i deviceRegions with inPlace := ins }
/-- A record updated in place. -/
def drIo (e i : Nat) : Rec := ioRec e i deviceRegions

/-- Formats and packing that no Dressing operand has (R181). -/
def drFmtBad (recs : List Rec) : Bool := recs.any fun r => r.d.fmtRaw > 0x0D || r.d.comp ≠ 0

/-- The issue plan of a Dressing operation. -/
def drPlan (s : State) (c : Nat) (e : Nat) (u : DrUse) (recs : List Rec) (broken : Bool) (rels : List Rel) : Plan :=
  { reserved := drReserved e u, recs := recs, invalid := 0x41, broken := drFmtBad recs || broken, rels := rels
    zeroExt := recs.map fun r => runExt s c r.d }

/-! ### Values, tables, outputs -/

/-- Number of an index in index order. -/
def linIdx (ext i : List Nat) : Nat :=
  ((ext.zip i).foldl (fun (a : Nat × Nat) p => (a.1 + p.2 * a.2, a.2 * p.1)) (0, 1)).1

/-- Product of extents. -/
def prodNat (l : List Nat) : Nat := l.foldl (· * ·) 1

/-- Elements of a tensor as values. A ledger entry that an input names scales nothing here: section 07 asks for the exact widening of R182 alone, where R52 and R97 divide by the scale (DESIGN CHOICE, assumption 192). -/
def valsOf (s : State) (c : Nat) (d : Desc) : List Nat → FVal := elemVal (rdCtx s c) d

/-- What reading a whole operand raises (R65). -/
def readAll (s : State) (c : Nat) (d : Desc) : NumFlags := readFlagsAll ((indices (runExt s c d)).map (valsOf s c d))

/-- Flags of reading several operands. -/
def readMany (s : State) (c : Nat) (ds : List Desc) : NumFlags := ds.foldl (fun f d => orFlags f (readAll s c d)) {}

/-- An output to be written: its record and its values. -/
abbrev OutVal := Desc × (List Nat → FVal)

/-- Narrow every output in record order (R182). -/
def emitOuts (s : State) (c : Nat) (fl : NumFlags) (outs : List OutVal) : Result :=
  let (t, f) := outs.foldl (fun (a : State × NumFlags) o =>
    let (t, f) := narrowOut a.1 c o.1 (runExt s c o.1) o.2
    (t, orFlags a.2 f)) (s, fl)
  { st := t, flags := f }

/-- The shared form of the element operations: issue checks, then outputs from values. -/
def drBody (mk : State → Nat → Nat → Plan) (eff : State → Nat → Nat → Result) : Body := fun s c q =>
  runRecs s c (mk s c q.env) (fun s => eff s c q.env)

/-- Issue the head of a Face's Dressing queue. -/
def dressOp (c face : Nat) (aged : Bool) (opcode : Nat) (body : Body) (s : State) : State :=
  issueOp s c ucDressing face aged (isOp opcode) body

/-! ### EW (R185) -/

/-- The inputs that an EW function uses, as OPTF bits. -/
def ewOpts (f : Nat) : Nat := if f = 5 then 3 else if f = 7 then 0 else 1

/-- The result of an EW function (R185). -/
def ewFn (f : Nat) (p0 p1 a b c : FVal) : FVal :=
  match f with
  | 0 => add32f a b
  | 1 => sub32f a b
  | 2 => mul32f a b
  | 3 => maxN a b
  | 4 => minN a b
  | 5 => fma32f a b c
  | 6 => fma32f p0 a (mul32f p1 b)
  | _ => fma32f p0 a p1

def ewPlan (s : State) (c e : Nat) : Plan :=
  let y := envRec e 3
  let f := drFunc e
  let ins := [drIn e 0] ++ optRec (drOpt1 e) (drIn e 1) ++ optRec (drOpt2 e) (drIn e 2)
  drPlan s c e { maxFunc := 7, nP := if f = 6 || f = 7 then 2 else 0, optMask := 3 } (ins ++ [drOut e 3 [0, 1, 2]])
    (drOptf e &&& 3 ≠ ewOpts f) (ins.flatMap fun r => relsSame s c r.d y)

def ewEff (s : State) (c e : Nat) : Result :=
  let v (k : Nat) : List Nat → FVal := valsOf s c (envRec e k)
  let ds := [envRec e 0] ++ (if drOpt1 e then [envRec e 1] else []) ++ (if drOpt2 e then [envRec e 2] else [])
  emitOuts s c (readMany s c ds) [(envRec e 3, fun i =>
    ewFn (drFunc e) (drP e 0) (drP e 1) (v 0 i) (if drOpt1 e then v 1 i else fzero) (if drOpt2 e then v 2 i else fzero))]

/-- EW at its unit. -/
def bodyEw : Body := drBody ewPlan ewEff
/-- EW (R185). -/
def execEw (c : Fin 8) (face : Fin 4) (aged : Bool) (s : State) : Host.Outcome State Fault Refusal :=
  .next (dressOp c face aged 0x40 bodyEw s)

/-! ### ACT and ACT_BWD (R186) -/

def actPlan (s : State) (c e : Nat) : Plan :=
  drPlan s c e { maxFunc := 8 } [drIn e 0, drOut e 1 [0]] false (relsSame s c (envRec e 0) (envRec e 1))

def actEff (s : State) (c e : Nat) : Result :=
  let x := valsOf s c (envRec e 0)
  emitOuts s c (readAll s c (envRec e 0)) [(envRec e 1, fun i => actFn (drFunc e) (x i))]

/-- ACT at its unit. -/
def bodyAct : Body := drBody actPlan actEff
/-- ACT (R186). -/
def execAct (c : Fin 8) (face : Fin 4) (aged : Bool) (s : State) : Host.Outcome State Fault Refusal :=
  .next (dressOp c face aged 0x41 bodyAct s)

/-- f′(x) of R186: exact where it is one step, a free function of x where the manual states no steps (assumption 7); NaN for NaN (R63). -/
def actDeriv (f : Nat) (x : FVal) : FVal :=
  if isNan x then .nan
  else match f with
    | 0 => fone
    | 1 => if ltX fzero x then fone else fzero
    | 7 => exp32 x
    | 8 => mul32f (fnat 2) (relu32 x)
    | _ => val32 (Config.actDerivative f (bits32 (rn32 x))).toNat

def actBwdPlan (s : State) (c e : Nat) : Plan :=
  drPlan s c e { maxFunc := 8 } [drIn e 0, drIn e 1, drOut e 2 [1]] false
    (relsSame s c (envRec e 0) (envRec e 2) ++ relsSame s c (envRec e 1) (envRec e 2))

def actBwdEff (s : State) (c e : Nat) : Result :=
  let x := valsOf s c (envRec e 0)
  let dy := valsOf s c (envRec e 1)
  emitOuts s c (readMany s c [envRec e 0, envRec e 1])
    [(envRec e 2, fun i => mul32f (dy i) (actDeriv (drFunc e) (x i)))]

/-- ACT_BWD at its unit. -/
def bodyActBwd : Body := drBody actBwdPlan actBwdEff
/-- ACT_BWD (R186). -/
def execActBwd (c : Fin 8) (face : Fin 4) (aged : Bool) (s : State) : Host.Outcome State Fault Refusal :=
  .next (dressOp c face aged 0x42 bodyActBwd s)

/-! ### NORM and NORM_BWD (R188, R189) -/

/-- Is dimension `k` reduced? -/
def reduced (dims k : Nat) : Bool := bit dims k

/-- Extents of the grid of sets: the group first where dimension 0 is reduced (R188). -/
def setGrid (dims groups : Nat) (ext : List Nat) : List Nat :=
  (List.range 6).map fun k =>
    if k = 0 then (if reduced dims 0 then groups else nth 1 ext 0)
    else if reduced dims k then 1 else nth 1 ext k

/-- Extents inside one set. -/
def setInner (dims groups : Nat) (ext : List Nat) : List Nat :=
  (List.range 6).map fun k =>
    if reduced dims k then (if k = 0 then nth 1 ext 0 / groups else nth 1 ext k) else 1

/-- Elements of one set, the lowest reduced dimension fastest (R183, R188). -/
def setElems (dims groups : Nat) (ext g : List Nat) : List (List Nat) :=
  (indices (setInner dims groups ext)).map fun j =>
    (List.range 6).map fun k =>
      if !reduced dims k then nth 0 g k
      else if k = 0 then nth 0 g 0 * (nth 1 ext 0 / groups) + nth 0 j 0
      else nth 0 j k

/-- The set that holds an element. -/
def setOf (dims groups : Nat) (ext i : List Nat) : List Nat :=
  (List.range 6).map fun k =>
    if !reduced dims k then nth 0 i k else if k = 0 then nth 0 i 0 / (nth 1 ext 0 / groups) else 0

/-- μ and rstd of one set (R188). -/
def normStats (rms : Bool) (eps : FVal) (xs : List FVal) : FVal × FVal :=
  let r := rn32 (divSticky fone (fnat xs.length))
  let mu := if rms then fzero else mul32f (rsum xs) r
  let var := mul32f (rsum (xs.map fun x => let d := sub32f x mu; mul32f d d)) r
  (mu, rsqrt32 (add32f var eps))

/-- A statistics record is FP32 of rank 2 (R188, R190). -/
def statShapeBad (d : Desc) : Bool := d.fmtRaw ≠ 0 || d.rank ≠ 2

/-- Dimension 0 of a statistics record has extent 2, planned and at run time (R188). SMX's [2][rows] is taken the same way (DEDUCED, assumption 8). -/
def statRel (s : State) (c : Nat) (d : Desc) : Rel := relDim s c d 0 (· = 2)

/-- The relation of a statistics record's second dimension with a count of planned and run-time extents. -/
def relCount (s : State) (c : Nat) (x : Desc) (d : Desc) (k : Nat) (cnt : List Nat → Nat) : Rel :=
  { dyn := x.shapeEn || (d.shapeEn && d.swDim = k)
    plan := extAt d k = cnt (planned x)
    run := nth 1 (runExt s c d) k = cnt (runExt s c x) }

/-- The rules on GROUPS (R181, R188). -/
def groupRel (s : State) (c : Nat) (x : Desc) (dims groups : Nat) : Rel :=
  relDim s c x 0 fun e0 => 1 ≤ groups && groups ≤ e0 && (!reduced dims 0 || e0 % groups = 0)

/-- The number of sets. -/
def setCount (dims groups : Nat) (ext : List Nat) : Nat := prodNat (setGrid dims groups ext)

def normPlan (s : State) (c e : Nat) : Plan :=
  let x := envRec e 0
  let dims := drDims e
  let groups := drGroups e
  let vecs := optRec (drOpt1 e) (drIn e 1) ++ optRec (drOpt2 e) (drIn e 2)
  let st := envRec e 4
  drPlan s c e { maxFunc := 1, nP := 1, dims := true, groups := true, optMask := 7 }
    ([drIn e 0] ++ vecs ++ [drOut e 3 [0]] ++ optRec (drAux e) (drOut e 4 []))
    (vecs.any (fun r => r.d.rank ≠ 1) || (drAux e && statShapeBad st))
    (relsSame s c x (envRec e 3) ++ vecs.map (fun r => relEq s c r.d x 0 0) ++ [groupRel s c x dims groups] ++
      (if drAux e then [statRel s c st, relCount s c x st 1 (setCount dims groups)] else []))

def normEff (s : State) (c e : Nat) : Result :=
  let dx := envRec e 0
  let ext := runExt s c dx
  let dims := drDims e
  let groups := drGroups e
  let x := valsOf s c dx
  let grid := setGrid dims groups ext
  let stats := (indices grid).map fun g => normStats (drFunc e = 1) (drP e 0) ((setElems dims groups ext g).map x)
  let at_ (i : List Nat) : FVal × FVal := nth (fzero, fzero) stats (linIdx grid (setOf dims groups ext i))
  let gam (k : Nat) : FVal := if drOpt1 e then valsOf s c (envRec e 1) [k, 0, 0, 0, 0, 0] else fone
  let bet (k : Nat) : FVal := if drOpt2 e then valsOf s c (envRec e 2) [k, 0, 0, 0, 0, 0] else fzero
  let y (i : List Nat) : FVal :=
    let (mu, rstd) := at_ i
    fma32f (mul32f (sub32f (x i) mu) rstd) (gam (nth 0 i 0)) (bet (nth 0 i 0))
  let st (i : List Nat) : FVal :=
    let p := nth (fzero, fzero) stats (nth 0 i 1)
    if nth 0 i 0 = 0 then p.1 else p.2
  let ds := [dx] ++ (if drOpt1 e then [envRec e 1] else []) ++ (if drOpt2 e then [envRec e 2] else [])
  emitOuts s c (readMany s c ds) ([(envRec e 3, y)] ++ (if drAux e then [(envRec e 4, st)] else []))

/-- NORM at its unit. -/
def bodyNorm : Body := drBody normPlan normEff
/-- NORM (R188). -/
def execNorm (c : Fin 8) (face : Fin 4) (aged : Bool) (s : State) : Host.Outcome State Fault Refusal :=
  .next (dressOp c face aged 0x43 bodyNorm s)

/-- DGB is FP32 of rank 2: one row of EXTENT[0] elements for dγ and one for dβ along dimension 1 (R189, assumption 8). -/
def dgbBad (d : Desc) : Bool := d.fmtRaw ≠ 0 || d.rank ≠ 2

def normBwdPlan (s : State) (c e : Nat) : Plan :=
  let x := envRec e 0
  let dims := drDims e
  let groups := drGroups e
  let gam := optRec (drOpt1 e) (drIn e 1)
  let dgb := optRec (drOpt2 e) (drOut e 5 [])
  drPlan s c e { maxFunc := 1, dims := true, groups := true, optMask := 3 }
    ([drIn e 0] ++ gam ++ [drIn e 2, drIn e 3, drOut e 4 [3]] ++ dgb)
    (gam.any (fun r => r.d.rank ≠ 1) || statShapeBad (envRec e 2) || dgb.any (fun r => dgbBad r.d))
    (relsSame s c x (envRec e 4) ++ relsSame s c (envRec e 3) (envRec e 4) ++
      gam.map (fun r => relEq s c r.d x 0 0) ++ [groupRel s c x dims groups, statRel s c (envRec e 2), relCount s c x (envRec e 2) 1 (setCount dims groups)] ++
      dgb.flatMap (fun r => [relEq s c r.d x 0 0, relDim s c r.d 1 (· = 2)]))

def normBwdEff (s : State) (c e : Nat) : Result :=
  let dx := envRec e 0
  let ext := runExt s c dx
  let dims := drDims e
  let groups := drGroups e
  let x := valsOf s c dx
  let dy := valsOf s c (envRec e 3)
  let grid := setGrid dims groups ext
  let sv (g k : Nat) : FVal := valsOf s c (envRec e 2) [k, g, 0, 0, 0, 0]
  let gam (k : Nat) : FVal := if drOpt1 e then valsOf s c (envRec e 1) [k, 0, 0, 0, 0, 0] else fone
  let num (i : List Nat) : Nat := linIdx grid (setOf dims groups ext i)
  let yh (i : List Nat) : FVal := mul32f (sub32f (x i) (sv (num i) 0)) (sv (num i) 1)
  let g (i : List Nat) : FVal := mul32f (dy i) (gam (nth 0 i 0))
  let sums := (indices grid).map fun t =>
    let es := setElems dims groups ext t
    let r := rn32 (divSticky fone (fnat es.length))
    (mul32f (rsum (es.map g)) r, mul32f (rsum (es.map fun i => mul32f (g i) (yh i))) r)
  let out (i : List Nat) : FVal :=
    let (a, b) := nth (fzero, fzero) sums (num i)
    let t := if drFunc e = 1 then g i else sub32f (g i) a
    mul32f (sv (num i) 1) (sub32f t (mul32f (yh i) b))
  let chan (k : Nat) : List (List Nat) := (indices ext.tail).map fun o => k :: o
  let dgb (i : List Nat) : FVal :=
    let es := chan (nth 0 i 0)
    if nth 0 i 1 = 0 then rsum (es.map fun j => mul32f (dy j) (yh j)) else rsum (es.map dy)
  let ds := [dx, envRec e 2, envRec e 3] ++ (if drOpt1 e then [envRec e 1] else [])
  emitOuts s c (readMany s c ds) ([(envRec e 4, out)] ++ (if drOpt2 e then [(envRec e 5, dgb)] else []))

/-- NORM_BWD at its unit. -/
def bodyNormBwd : Body := drBody normBwdPlan normBwdEff
/-- NORM_BWD (R189). -/
def execNormBwd (c : Fin 8) (face : Fin 4) (aged : Bool) (s : State) : Host.Outcome State Fault Refusal :=
  .next (dressOp c face aged 0x44 bodyNormBwd s)

/-! ### Softmax (R190 to R192) -/

/-- Statistics of softmax: maximum and sum. -/
abbrev SmSt := FVal × FVal

/-- The neutral statistics. -/
def smNone : SmSt := (.inf true, fzero)

/-- block of R190 over 64 positions. -/
def smBlock (xs : List FVal) : SmSt :=
  let m := treeMax xs
  if m = .inf true then smNone else (m, rsum (xs.map fun x => exp32 (sub32f x m)))

/-- merge of R190. -/
def smMerge (a b : SmSt) : SmSt :=
  let m := maxN a.1 b.1
  if m = .inf true then smNone
  else (m, fma32f a.2 (exp32 (sub32f a.1 m)) (mul32f b.2 (exp32 (sub32f b.1 m))))

/-- Blocks of 64 of a row, padded with −Inf. -/
def smBlocks (xs : List FVal) : List SmSt :=
  (List.range (cdiv xs.length 64)).map fun b =>
    let l := (xs.drop (64 * b)).take 64
    smBlock (l ++ List.replicate (64 - l.length) (.inf true))

/-- Row statistics (R190). -/
def smRow (xs : List FVal) : SmSt := treeOf smMerge smNone (smBlocks xs)

/-- One softmax output. -/
def smOut (st : SmSt) (x : FVal) : FVal :=
  if isZero st.2 then fzero else mul32f (exp32 (sub32f x st.1)) (rcp32 st.2)

/-- Number of dimension-0 rows. -/
def rowCount (ext : List Nat) : Nat := prodNat ext.tail

def smxPlan (s : State) (c e : Nat) : Plan :=
  let x := envRec e 0
  let mask := optRec (drOpt1 e) (drIn e 1)
  drPlan s c e { maxFunc := 0, nP := 1, optMask := 5 }
    ([drIn e 0] ++ mask ++ [drOut e 2 [0]] ++ optRec (drAux e) (drOut e 3 []))
    (mask.any (fun r => r.d.fmtRaw ≠ 0x0C) || (drAux e && statShapeBad (envRec e 3)))
    (relsSame s c x (envRec e 2) ++ mask.flatMap (fun r => relsSame s c r.d x) ++
      (if drAux e then [statRel s c (envRec e 3), relCount s c x (envRec e 3) 1 rowCount] else []))

/-- What SMX writes (R190). A value that the mask replaces enters no computation and raises no NAN_IN or INF_IN, in a row masked in part too (DEDUCED, assumption 31). -/
def smxEff (s : State) (c e : Nat) : Result :=
  let dx := envRec e 0
  let ext := runExt s c dx
  let masked (i : List Nat) : Bool := drOpt1 e && isZero (valsOf s c (envRec e 1) i)
  let x' (i : List Nat) : FVal := if masked i then .inf true else mul32f (drP e 0) (valsOf s c dx i)
  let rows := indices ext.tail
  let row (o : List Nat) : List (List Nat) := (List.range (nth 0 ext 0)).map fun k => k :: o
  let stats := rows.map fun o => smRow ((row o).map x')
  let at_ (o : List Nat) : SmSt := nth smNone stats (linIdx ext.tail o)
  let y (i : List Nat) : FVal := smOut (at_ i.tail) (x' i)
  let allMasked := rows.map fun o => (row o).all masked
  let rd := readFlagsAll ((rows.flatMap fun o => (row o).filter fun i => !masked i).map (valsOf s c dx))
  let r := emitOuts s c rd [(envRec e 2, y)]
  if drAux e then
    let (t, f) := narrowOut r.st c (envRec e 3) (runExt s c (envRec e 3))
      (fun i => let p := nth smNone stats (nth 0 i 1); if nth 0 i 0 = 0 then p.1 else p.2)
    let seen := (stats.zip allMasked).any fun p => isInf p.1.1 && !p.2
    { r with st := t, flags := orFlags r.flags { f with infIn := f.infIn && seen } }
  else r

/-- SMX at its unit. -/
def bodySmx : Body := drBody smxPlan smxEff
/-- SMX (R190). -/
def execSmx (c : Fin 8) (face : Fin 4) (aged : Bool) (s : State) : Host.Outcome State Fault Refusal :=
  .next (dressOp c face aged 0x45 bodySmx s)

def smxBwdPlan (s : State) (c e : Nat) : Plan :=
  drPlan s c e { maxFunc := 0, nP := 1 } [drIn e 0, drIn e 1, drOut e 2 [1]] false
    (relsSame s c (envRec e 0) (envRec e 2) ++ relsSame s c (envRec e 1) (envRec e 2))

def smxBwdEff (s : State) (c e : Nat) : Result :=
  let ext := runExt s c (envRec e 0)
  let y := valsOf s c (envRec e 0)
  let dy := valsOf s c (envRec e 1)
  let dots := (indices ext.tail).map fun o =>
    rsum ((List.range (nth 0 ext 0)).map fun k => mul32f (dy (k :: o)) (y (k :: o)))
  emitOuts s c (readMany s c [envRec e 0, envRec e 1]) [(envRec e 2, fun i =>
    mul32f (mul32f (drP e 0) (y i)) (sub32f (dy i) (nth fzero dots (linIdx ext.tail i.tail))))]

/-- SMX_BWD at its unit. -/
def bodySmxBwd : Body := drBody smxBwdPlan smxBwdEff
/-- SMX_BWD (R191). -/
def execSmxBwd (c : Fin 8) (face : Fin 4) (aged : Bool) (s : State) : Host.Outcome State Fault Refusal :=
  .next (dressOp c face aged 0x46 bodySmxBwd s)

/-- One element of a merged output (R192). -/
def mergeOut (a b : SmSt) (oa ob : FVal) : FVal :=
  let m := smMerge a b
  if isZero m.2 then fzero
  else
    let r := rcp32 m.2
    fma32f oa (mul32f (mul32f a.2 (exp32 (sub32f a.1 m.1))) r)
      (mul32f ob (mul32f (mul32f b.2 (exp32 (sub32f b.1 m.1))) r))

def smxMergePlan (s : State) (c e : Nat) : Plan :=
  let o := envRec e 4
  let sts := [envRec e 1, envRec e 3, envRec e 5]
  drPlan s c e { maxFunc := 0 } [drIn e 0, drIn e 1, drIn e 2, drIn e 3, drOut e 4 [0], drOut e 5 []]
    (sts.any statShapeBad)
    (relsSame s c (envRec e 0) o ++ relsSame s c (envRec e 2) o ++ sts.flatMap fun d => [statRel s c d, relCount s c o d 1 rowCount])

def smxMergeEff (s : State) (c e : Nat) : Result :=
  let ext := runExt s c (envRec e 4)
  let st (k r : Nat) : SmSt := (valsOf s c (envRec e k) [0, r, 0, 0, 0, 0], valsOf s c (envRec e k) [1, r, 0, 0, 0, 0])
  let oa := valsOf s c (envRec e 0)
  let ob := valsOf s c (envRec e 2)
  let o (i : List Nat) : FVal := let r := linIdx ext.tail i.tail; mergeOut (st 1 r) (st 3 r) (oa i) (ob i)
  let t (i : List Nat) : FVal :=
    let m := smMerge (st 1 (nth 0 i 1)) (st 3 (nth 0 i 1))
    if nth 0 i 0 = 0 then m.1 else m.2
  emitOuts s c (readMany s c [envRec e 0, envRec e 1, envRec e 2, envRec e 3]) [(envRec e 4, o), (envRec e 5, t)]

/-- SMX_MERGE at its unit. -/
def bodySmxMerge : Body := drBody smxMergePlan smxMergeEff
/-- SMX_MERGE (R192). -/
def execSmxMerge (c : Fin 8) (face : Fin 4) (aged : Bool) (s : State) : Host.Outcome State Fault Refusal :=
  .next (dressOp c face aged 0x47 bodySmxMerge s)

/-! ### RED (R193) -/

/-- The reduction of one set (R193). -/
def redFn (f : Nat) (xs : List FVal) : FVal :=
  match f with
  | 0 => rsum xs
  | 1 => treeMax xs
  | 2 => treeMin xs
  | 3 => treeMax (xs.map fabs)
  | _ => rsum (xs.map fun x => mul32f x x)

def redPlan (s : State) (c e : Nat) : Plan :=
  let x := envRec e 0
  let y := envRec e 1
  drPlan s c e { maxFunc := 4, dims := true } [drIn e 0, drOut e 1 []] false
    ((List.range 6).map fun k => if reduced (drDims e) k then relDim s c y k (· == 1) else relEq s c x y k k)

def redEff (s : State) (c e : Nat) : Result :=
  let ext := runExt s c (envRec e 0)
  let x := valsOf s c (envRec e 0)
  emitOuts s c (readAll s c (envRec e 0)) [(envRec e 1, fun i => redFn (drFunc e) ((setElems (drDims e) 1 ext i).map x))]

/-- RED at its unit. -/
def bodyRed : Body := drBody redPlan redEff
/-- RED (R193). -/
def execRed (c : Fin 8) (face : Fin 4) (aged : Bool) (s : State) : Host.Outcome State Fault Refusal :=
  .next (dressOp c face aged 0x48 bodyRed s)

/-! ### CVT and SPLIT3 (R197, R81) -/

def cvtPlan (s : State) (c e : Nat) : Plan :=
  drPlan s c e { maxFunc := 0 } [drIn e 0, { drOut e 1 [0] with widthOnly := true }] false
    (relsSame s c (envRec e 0) (envRec e 1))

def cvtEff (s : State) (c e : Nat) : Result :=
  emitOuts s c (readAll s c (envRec e 0)) [(envRec e 1, valsOf s c (envRec e 0))]

/-- CVT at its unit. -/
def bodyCvt : Body := drBody cvtPlan cvtEff
/-- CVT (R197). -/
def execCvt (c : Fin 8) (face : Fin 4) (aged : Bool) (s : State) : Host.Outcome State Fault Refusal :=
  .next (dressOp c face aged 0x49 bodyCvt s)

/-- The three pieces of R81. -/
def split3 (x : FVal) : FVal × FVal × FVal :=
  match x with
  | .nan => (.nan, .nan, .nan)
  | .inf n => (.inf n, fzero, fzero)
  | .fin n _ _ =>
    let r := bf16Rne x
    let x1 := if isInf r then (if n then fneg (fmtMax .bf16) else fmtMax .bf16) else r
    let d1 := subX x x1
    let x2 := bf16Rne d1
    (x1, x2, bf16Rne (subX d1 x2))

def split3Plan (s : State) (c e : Nat) : Plan :=
  let ys := [envRec e 1, envRec e 2, envRec e 3]
  drPlan s c e { maxFunc := 0 } [drIn e 0, drOut e 1 [], drOut e 2 [], drOut e 3 []]
    ((envRec e 0).fmtRaw ≠ 0 || ys.any fun d => d.fmtRaw ≠ 1) (ys.flatMap fun d => relsSame s c (envRec e 0) d)

def split3Eff (s : State) (c e : Nat) : Result :=
  let x := valsOf s c (envRec e 0)
  emitOuts s c (readAll s c (envRec e 0))
    [(envRec e 1, fun i => (split3 (x i)).1), (envRec e 2, fun i => (split3 (x i)).2.1), (envRec e 3, fun i => (split3 (x i)).2.2)]

/-- SPLIT3 at its unit. -/
def bodySplit3 : Body := drBody split3Plan split3Eff
/-- SPLIT3 (R197). -/
def execSplit3 (c : Fin 8) (face : Fin 4) (aged : Bool) (s : State) : Host.Outcome State Fault Refusal :=
  .next (dressOp c face aged 0x4A bodySplit3 s)

/-! ### Exact sums (R76, R77, R194) -/

/-- Is a record an exact-sum buffer: FORMAT 0x0D with an entry whose ES bit is 1 (R194)? -/
def isEsBuf (s : State) (c : Nat) (d : Desc) : Bool := d.fmtRaw = 0x0D && d.ledgerEn && leEs (ledgerGet s c d.slot)

/-- Fraction bits of an exact-sum buffer (R76). -/
def esF (s : State) (c : Nat) (d : Desc) : Int := leScale (ledgerGet s c d.slot)

/-- The i64 of element `i`: words 2i and 2i + 1 (R194). -/
def esGet (rd : Nat → Nat) (d : Desc) (i : List Nat) : Int :=
  let k := 2 * nth 0 i 0
  sext (elemRaw rd d (k :: i.tail) + 2 ^ 32 * elemRaw rd d ((k + 1) :: i.tail)) 64

/-- The stores of a whole exact-sum buffer at run-time extents. -/
def esPuts (d : Desc) (ext : List Nat) (f : List Nat → Int) : List Put :=
  rawPuts d ext fun i =>
    let v := ofInt (f (nth 0 i 0 / 2 :: i.tail)) 64
    if nth 0 i 0 % 2 = 0 then v % 2 ^ 32 else v / 2 ^ 32

/-- Record one conversion of R76. -/
def statFixed (t : OutStat) (v : FVal) (f : Int) (h : Nat) : OutStat :=
  let (_, cl, nan, unf) := toFixed v f h
  { flags := orFlags t.flags { sat := cl, nanOut := nan, unf := unf, esClamp := cl }
    nSat := t.nSat + b2n cl, nNan := t.nNan + b2n nan, nUnf := t.nUnf + b2n unf
    amax := if isFin v && ltX t.amax (fabs v) then fabs v else t.amax, wrote := true }

/-- Extents of an exact-sum buffer against its values: dimension 0 doubled, the rest equal (R194). -/
def esRels (s : State) (c : Nat) (g acc : Desc) : List Rel :=
  { dyn := (g.shapeEn && g.swDim = 0) || (acc.shapeEn && acc.swDim = 0)
    plan := extAt acc 0 = 2 * extAt g 0
    run := nth 1 (runExt s c acc) 0 = 2 * nth 1 (runExt s c g) 0 } ::
  (List.range 5).map fun k => relEq s c g acc (k + 1) (k + 1)

def esAccPlan (s : State) (c e : Nat) : Plan :=
  let g := envRec e 0
  let acc := envRec e 1
  drPlan s c e { maxFunc := 1 } [drIn e 0, drIo e 1] (g.fmtRaw > 1 || !isEsBuf s c acc) (esRels s c g acc)

/-- Add or set converted values in an exact-sum buffer, and fold its entry (R68, R194). -/
def esAccumulate (s : State) (c : Nat) (acc : Desc) (gext : List Nat) (set : Bool) (g : List Nat → FVal) : State × NumFlags :=
  let f := esF s c acc
  let h := (ctxOf s c).esHeadroom
  let rd := rdCtx s c
  let t := (indices gext).foldl (fun t i => statFixed t (g i) f h) {}
  let ps := esPuts acc (runExt s c acc) fun i => (if set then 0 else esGet rd acc i) + (toFixed (g i) f h).1
  (ledgerFold (applyPuts s c ps) c acc t, t.flags)

def esAccEff (s : State) (c e : Nat) : Result :=
  let g := envRec e 0
  let (t, f) := esAccumulate s c (envRec e 1) (runExt s c g) (drFunc e = 1) (valsOf s c g)
  { st := t, flags := orFlags (readAll s c g) f }

/-- ES_ACC at its unit. -/
def bodyEsAcc : Body := drBody esAccPlan esAccEff
/-- ES_ACC (R194). -/
def execEsAcc (c : Fin 8) (face : Fin 4) (aged : Bool) (s : State) : Host.Outcome State Fault Refusal :=
  .next (dressOp c face aged 0x4B bodyEsAcc s)

def esFinalPlan (s : State) (c e : Nat) : Plan :=
  drPlan s c e { maxFunc := 0 } [drIn e 0, drOut e 1 []] (!isEsBuf s c (envRec e 0)) (esRels s c (envRec e 1) (envRec e 0))

/-- What ES_FINAL writes: S × 2^-F narrowed under the output's record (R77). Where that record names an entry that is no ES entry, its scale applies as R58 says (DESIGN CHOICE, assumption 186). -/
def esFinalEff (s : State) (c e : Nat) : Result :=
  let acc := envRec e 0
  let rd := rdCtx s c
  emitOuts s c {} [(envRec e 1, fun i => ofFixed (esGet rd acc i) (esF s c acc))]

/-- ES_FINAL at its unit. -/
def bodyEsFinal : Body := drBody esFinalPlan esFinalEff
/-- ES_FINAL (R194, R77). -/
def execEsFinal (c : Fin 8) (face : Fin 4) (aged : Bool) (s : State) : Host.Outcome State Fault Refusal :=
  .next (dressOp c face aged 0x4C bodyEsFinal s)

/-! ### Moving rows (R195) -/

/-- A row's stored form: its elements' bits and, for MX, its scale bytes. -/
structure RawRow where
  elems : Nat → Nat
  scales : Nat → Nat

/-- A row of +0, with the scale byte of an all-zero MX block (R66). -/
def zeroRow : RawRow := ⟨fun _ => 0, fun _ => 0x7F⟩

/-- The row of a tensor at outer index `o`. -/
def rawRowAt (rd : Nat → Nat) (d : Desc) (o : List Nat) : RawRow :=
  ⟨fun k => elemRaw rd d (k :: o), fun b => rd (scaleAddr d ((32 * b) :: o))⟩

/-- The stores of one MX row copied bit for bit: zero in the padding, and 0x7F as the scale of a block that lies wholly at or beyond the run-time extent (R45). -/
def mxCopyRow (d : Desc) (e0 : Nat) (o : List Nat) (r : RawRow) : List Put :=
  let a := (elemAddr d (0 :: o)).1
  let nblk := cdiv (extAt d 0) 32
  let eb := ebits d.fmt
  let used := mxElemBytes d.fmt (extAt d 0) + nblk
  ((List.range (32 * nblk)).map fun j => (a + j * eb / 8, j * eb % 8, eb, if j < e0 then r.elems j else 0)) ++
  ((List.range nblk).map fun b => (a + mxElemBytes d.fmt (extAt d 0) + b, 0, 8, if 32 * b < e0 then r.scales b else 0x7F)) ++
  ((List.range (mxRowBytes d.fmt (extAt d 0) - used)).map fun j => (a + used + j, 0, 8, 0))

/-- The stores that give every row of a tensor its stored form, with zero padding (R38, R45). -/
def copyRows (d : Desc) (ext : List Nat) (row : List Nat → RawRow) : List Put :=
  if isMx d.fmt then (indices ext.tail).flatMap fun o => mxCopyRow d (nth 0 ext 0) o (row o)
  else rawPuts d ext fun i => (row i.tail).elems (nth 0 i 0)

/-- Index entries in index order (R195). -/
def idxList (s : State) (c : Nat) (d : Desc) : List Nat := (indices (runExt s c d)).map (elemRaw (rdCtx s c) d)

/-- The entry for moved row `i`: none where it is null or out of range. -/
def idxAt (l : List Nat) (rows i : Nat) : Option Nat :=
  let v := nth 0xFFFFFFFF l i
  if v < rows then some v else none

/-- The first position whose index is out of range (R184, R195). -/
def idxBad (l : List Nat) (rows : Nat) : Option Nat := l.findIdx? fun v => v ≠ 0xFFFFFFFF && rows ≤ v

/-- The completing status INDEX_RANGE (R184). -/
def idxStatus (bad : Option Nat) (r : Result) : Result :=
  match bad with
  | some i => { r with status := 0x40, detail := i % 2 ^ 32 }
  | none => r

/-- Outer index of row number `n`. -/
def outerOf (ext : List Nat) (n : Nat) : List Nat :=
  (ext.tail.foldl (fun (a : List Nat × Nat) e => (a.1 ++ [a.2 % e], a.2 / e)) ([], n)).1

/-- The rules of the three row operations; `moved` is the tensor whose rows are counted. -/
def movePlan (s : State) (c e : Nat) (dst : Rec) (moved : Desc) (broken : Bool) (rels : List Rel) : Plan :=
  let idx := envRec e 1
  drPlan s c e { maxFunc := 0 } [drIn e 0, drIn e 1, dst]
    (idx.fmtRaw ≠ 0x0D || idx.rank > 2 || broken)
    ({ dyn := idx.shapeEn || (moved.shapeEn && moved.swDim ≠ 0)
       plan := prodNat (planned idx) = rowCount (planned moved)
       run := prodNat (runExt s c idx) = rowCount (runExt s c moved) } :: rels)

def gatherPlan (s : State) (c e : Nat) : Plan :=
  movePlan s c e (drOut e 2 []) (envRec e 2) ((envRec e 0).fmtRaw ≠ (envRec e 2).fmtRaw)
    [relEq s c (envRec e 0) (envRec e 2) 0 0]

def gatherEff (s : State) (c e : Nat) : Result :=
  let src := envRec e 0
  let dst := envRec e 2
  let ext := runExt s c dst
  let sext_ := runExt s c src
  let l := idxList s c (envRec e 1)
  let rd := rdCtx s c
  let row (o : List Nat) : RawRow :=
    match idxAt l (rowCount sext_) (linIdx ext.tail o) with
    | some v => rawRowAt rd src (outerOf sext_ v)
    | none => zeroRow
  idxStatus (idxBad l (rowCount sext_)) { st := applyPuts s c (copyRows dst ext row) }

/-- GATHER at its unit. -/
def bodyGather : Body := drBody gatherPlan gatherEff
/-- GATHER (R195). -/
def execGather (c : Fin 8) (face : Fin 4) (aged : Bool) (s : State) : Host.Outcome State Fault Refusal :=
  .next (dressOp c face aged 0x4D bodyGather s)

def scatterPlan (s : State) (c e : Nat) : Plan :=
  movePlan s c e (drIo e 2) (envRec e 0) ((envRec e 0).fmtRaw ≠ (envRec e 2).fmtRaw)
    [relEq s c (envRec e 0) (envRec e 2) 0 0]

/-- The moved rows that name row `n`, ascending. -/
def namedBy (l : List Nat) (n : Nat) : List Nat := (List.range l.length).filter fun i => nth 0xFFFFFFFF l i = n

/-- The rows of a tensor that an index list names, as positions of dimensions 1 to 5. -/
def namedRows (l ext : List Nat) : List (List Nat) := (indices ext.tail).filter fun o => namedBy l (linIdx ext.tail o) ≠ []

/-- The row or block-row that holds a row (R37). -/
def rowKey (d : Desc) (o : List Nat) : List Nat :=
  (List.range 5).map fun k => if k + 1 < blockedDims d then nth 0 o k / 8 else nth 0 o k

/-- The rows or block-rows that hold some rows, as byte intervals. -/
def rowSpans (d : Desc) (ext : List Nat) (rows : List (List Nat)) : List (Nat × Nat) :=
  ((rows.map (rowKey d)).dedup).map fun t => (d.base + rowOff d t, rowBytes d (nth 1 ext 0))

/-- Zero in the padding positions of the blocks that hold some rows (R38); other blocks stay untouched (R195). -/
def padPuts (d : Desc) (ext : List Nat) (rows : List (List Nat)) : List Put :=
  let keys := rows.map (rowKey d)
  ((indices (coverExt d ext)).filter fun i => !inExt ext i && keys.contains (rowKey d i.tail)).map fun i =>
    let (a, b) := elemAddr d i
    (a, b, ebits d.fmt, 0)

/-- The stores of some rows bit for bit. -/
def rowsPuts (d : Desc) (ext : List Nat) (rows : List (List Nat)) (row : List Nat → RawRow) : List Put :=
  if isMx d.fmt then rows.flatMap fun o => mxCopyRow d (nth 0 ext 0) o (row o)
  else
    (rows.flatMap fun o => (List.range (nth 0 ext 0)).map fun k =>
      let (a, b) := elemAddr d (k :: o)
      (a, b, ebits d.fmt, (row o).elems k)) ++ padPuts d ext rows

def scatterEff (s : State) (c e : Nat) : Result :=
  let src := envRec e 0
  let dst := envRec e 2
  let ext := runExt s c dst
  let sext_ := runExt s c src
  let l := idxList s c (envRec e 1)
  let rd := rdCtx s c
  let row (o : List Nat) : RawRow := rawRowAt rd src (outerOf sext_ ((namedBy l (linIdx ext.tail o)).getLastD 0))
  idxStatus (idxBad l (rowCount ext)) { st := applyPuts s c (rowsPuts dst ext (namedRows l ext) row) }

/-- Run a scatter: of DST it writes, and where `reads` reads, the named rows only (R195). -/
def scatterBody (mk : State → Nat → Nat → Plan) (reads : Bool) (eff : State → Nat → Nat → Result) : Body := fun s c q =>
  let e := q.env
  let dst := envRec e 2
  let ext := runExt s c dst
  let named := rowSpans dst ext (namedRows (idxList s c (envRec e 1)) ext)
  runPlan s c (mk s c e) (readsOf s c [drIn e 0, drIn e 1] ++ if reads then named else []) named (fun s => eff s c e)

/-- SCATTER at its unit. -/
def bodyScatter : Body := scatterBody scatterPlan false scatterEff
/-- SCATTER (R195). -/
def execScatter (c : Fin 8) (face : Fin 4) (aged : Bool) (s : State) : Host.Outcome State Fault Refusal :=
  .next (dressOp c face aged 0x4E bodyScatter s)

/-- SCATTER_ADD (R195): an exact-sum DST takes FP32 or BF16, or an exact-sum buffer of equal width. -/
def scatterAddPlan (s : State) (c e : Nat) : Plan :=
  let src := envRec e 0
  let dst := envRec e 2
  let es := isEsBuf s c dst
  let wide := es && src.fmtRaw ≤ 1
  movePlan s c e (drIo e 2) src (es && src.fmtRaw > 1 && !isEsBuf s c src)
    [if wide then
      { dyn := (src.shapeEn && src.swDim = 0) || (dst.shapeEn && dst.swDim = 0)
        plan := extAt dst 0 = 2 * extAt src 0
        run := nth 1 (runExt s c dst) 0 = 2 * nth 1 (runExt s c src) 0 }
     else relEq s c src dst 0 0]

/-- One row narrowed, joined to a record. -/
def narrowRow (env : RoundEnv) (d : Desc) (ext : List Nat) (f : List Nat → FVal) (o : List Nat) (t : OutStat) : List Put × OutStat :=
  if isMx d.fmt then mxRowPuts env d ext f o t
  else
    (List.range (nth 0 ext 0)).foldl (fun acc k =>
      let i := k :: o
      let (a, b) := elemAddr d i
      let x := f i
      let (r, ev) := narrowElem d.fmt (rndAt env d i) d.ovf (fscale env.scale x)
      (acc.1 ++ [(a, b, ebits d.fmt, r)], statAdd acc.2 x ev)) ([], t)

def scatterAddEff (s : State) (c e : Nat) : Result :=
  let src := envRec e 0
  let dst := envRec e 2
  let ext := runExt s c dst
  let sx := runExt s c src
  let l := idxList s c (envRec e 1)
  let rd := rdCtx s c
  let x := valsOf s c src
  let rows := rowCount ext
  let srcRow (i k : Nat) : List Nat := k :: outerOf sx i
  let moved := (List.range l.length).filter fun i => nth 0xFFFFFFFF l i < rows
  let bad := idxBad l rows
  if isEsBuf s c dst then
    let f := esF s c dst
    let h := (ctxOf s c).esHeadroom
    let fixed := src.fmtRaw = 0x0D
    let term (i k : Nat) : Int := if fixed then esGet rd src (srcRow i k) else (toFixed (x (srcRow i k)) f h).1
    let t : OutStat := if fixed then {} else
      (moved.flatMap fun i => (List.range (nth 0 sx 0)).map (srcRow i)).foldl (fun t j => statFixed t (x j) f h) {}
    let sum (o : List Nat) (k : Nat) : Int := (namedBy l (linIdx ext.tail o)).foldl (fun a j => a + term j k) (esGet rd dst (k :: o))
    let ps := rowsPuts dst ext (namedRows l ext) fun o =>
      ⟨fun k => let v := ofInt (sum o (k / 2)) 64; if k % 2 = 0 then v % 2 ^ 32 else v / 2 ^ 32, fun _ => 0⟩
    let fl := if fixed then {} else readFlagsAll (moved.flatMap fun i => (List.range (nth 0 sx 0)).map fun k => x (srcRow i k))
    idxStatus bad { st := ledgerFold (applyPuts s c ps) c dst t, flags := orFlags fl t.flags }
  else
    let named := namedRows l ext
    let env := roundEnv s c dst
    let f (i : List Nat) : FVal :=
      (namedBy l (linIdx ext.tail i.tail)).foldl (fun a j => add32f a (x (srcRow j (nth 0 i 0)))) (valsOf s c dst i)
    let (ps, t) := named.foldl (fun (a : List Put × OutStat) o =>
      let (p, t) := narrowRow env dst ext f o a.2
      (a.1 ++ p, t)) (if isMx dst.fmt then [] else padPuts dst ext named, {})
    let fl := readFlagsAll ((moved.flatMap fun i => (List.range (nth 0 sx 0)).map fun k => x (srcRow i k)) ++
      named.flatMap fun o => (List.range (nth 0 ext 0)).map fun k => valsOf s c dst (k :: o))
    idxStatus bad { st := ledgerFold (applyPuts s c ps) c dst t, flags := orFlags fl t.flags }

/-- SCATTER_ADD at its unit. -/
def bodyScatterAdd : Body := scatterBody scatterAddPlan true scatterAddEff
/-- SCATTER_ADD (R195). -/
def execScatterAdd (c : Fin 8) (face : Fin 4) (aged : Bool) (s : State) : Host.Outcome State Fault Refusal :=
  .next (dressOp c face aged 0x4F bodyScatterAdd s)

/-! ### ADAMW (R198) -/

def adamwPlan (s : State) (c e : Nat) : Plan :=
  let g := envRec e 0
  let wmv := [envRec e 1, envRec e 2, envRec e 3]
  let wout := optRec (drOpt1 e) (drOut e 4 [])
  drPlan s c e { maxFunc := 0, nP := 7, optMask := 1 } ([drIn e 0, drIo e 1, drIo e 2, drIo e 3] ++ wout)
    (g.fmtRaw > 1 || wmv.any fun d => d.fmtRaw ≠ 0)
    ((wmv ++ wout.map (·.d)).flatMap fun d => relsSame s c g d)

def adamwEff (s : State) (c e : Nat) : Result :=
  let v (k : Nat) : List Nat → FVal := valsOf s c (envRec e k)
  let p := drP e
  let c1 := sub32f fone (p 1)
  let c2 := sub32f fone (p 2)
  let m (i : List Nat) : FVal := fma32f (p 1) (v 2 i) (mul32f c1 (v 0 i))
  let vv (i : List Nat) : FVal := fma32f (p 2) (v 3 i) (mul32f c2 (mul32f (v 0 i) (v 0 i)))
  let w (i : List Nat) : FVal :=
    let u := mul32f (mul32f (m i) (p 5)) (rcp32 (add32f (sqrt32f (mul32f (vv i) (p 6))) (p 3)))
    sub32f (v 1 i) (mul32f (p 0) (fma32f (p 4) (v 1 i) u))
  emitOuts s c (readMany s c [envRec e 0, envRec e 1, envRec e 2, envRec e 3])
    ([(envRec e 1, w), (envRec e 2, m), (envRec e 3, vv)] ++ (if drOpt1 e then [(envRec e 4, w)] else []))

/-- ADAMW at its unit. -/
def bodyAdamw : Body := drBody adamwPlan adamwEff
/-- ADAMW (R198). -/
def execAdamw (c : Fin 8) (face : Fin 4) (aged : Bool) (s : State) : Host.Outcome State Fault Refusal :=
  .next (dressOp c face aged 0x50 bodyAdamw s)

end Sys2Proof.Machine
end

