-- ==== Sys2Proof/Machine/Crusher.lean ====
section
/-! DEFINITION. The Crusher's own operations CGQ, CGDQ and CPROBE (R232 to R236), its counters (R237), and packing and expansion as narrowing conversions (R225, R226). -/

namespace Sys2Proof.Machine

/-! ### Counters (R237) -/

def cruPack : Nat := 0
def cruExp : Nat := 1
def cruClamps : Nat := 2
def cruSegs : Nat := 3
def cruRaw : Nat := 4
def cruZero : Nat := 5
def cruCorrupt : Nat := 6

/-- Add to a Face's Crusher counter; only a Face has a Crusher. -/
def cruAdd (s : State) (face k n : Nat) : State := if face < 4 then { s with cru := perfAdd s.cru (7 * face + k) n } else s

/-- CRU_PERF_CLEAR (R237): CRU_PERF_CTL is written with CLEAR 1 and the given FREEZE. -/
def execCruPerfClear (freeze : Bool) (s : State) : Host.Outcome State Fault Refusal :=
  if barOn s then .next { s with cru := { perfClear s.cru with freeze := freeze } } else .next s

/-! ### Packing and expansion (R225, R226) -/

/-- Which Face's Crusher works on the block or segment that begins with an element. -/
abbrev FaceOf := List Nat → Nat

/-- Pack values into a packed tensor: stores, ledger fold, counts, flags (R225). -/
def packOut (s : State) (c : Nat) (face : FaceOf) (d : Desc) (ext : List Nat) (f : List Nat → FVal) : State × NumFlags :=
  let p := packTensor (roundEnv s c d) d ext f
  let s1 := ledgerFold (applyPuts s c p.puts) c d p.stat
  (p.blocks.foldl (fun s b => cruAdd (cruAdd s (face b.1) cruPack 1) (face b.1) cruClamps b.2) s1, p.stat.flags)

/-- Count the blocks of a packed tensor as expanded. -/
def countExpand (s : State) (face : FaceOf) (d : Desc) (ext : List Nat) : State :=
  (crushBlocks d ext).foldl (fun s b => cruAdd s (face (nth [] b.2 0)) cruExp 1) s

/-- Expand a packed tensor into a destination (R226). -/
def expandOut (s : State) (c : Nat) (face : FaceOf) (src dst : Desc) (ext : List Nat) : State × NumFlags :=
  let (t, f) := narrowOut s c dst ext (packedVal (rdCtx s c) src)
  (countExpand t face src ext, f)

/-! ### CGQ (R233) -/

def cgqEf (e : Nat) : Bool := bit (par e 0 1) 0

/-- Does an operand record hold anything but zeros? -/
def recNonZero (e i : Nat) : Bool := (envRec e i).raw ≠ 0

def cgqPlan (s : State) (c e : Nat) : Plan :=
  let g := envRec e 0
  let r := envRec e 1
  let q := envRec e 2
  { reserved := ([(0x40, bits (par e 0 1) 1 7 ≠ 0)] : List (Nat × Bool)) ++ parZero e 1 0x40
    recs := [inRec e 0 deviceRegions] ++ optRec (cgqEf e) (ioRec e 1 deviceRegions) ++ [outRec e 2 deviceRegions]
    invalid := 0x70
    broken := g.fmtRaw > 1 || g.layout ≠ 0 || g.comp ≠ 0 || !isCrush q.fmt || q.spatial || q.expRaw ≠ 0 ||
      (if cgqEf e then r.fmtRaw ≠ 0 || r.layout ≠ 0 || r.comp ≠ 0 else recNonZero e 1)
    rels := relsSame s c g q ++ (if cgqEf e then relsSame s c g r else [])
    zeroExt := [runExt s c g, runExt s c q] ++ (if cgqEf e then [runExt s c r] else []) }

/-- The residual after a block is quantized: the part of each element that the block lost (R233). -/
def cgqResidual (rd : Nat → Nat) (q : Desc) (sum : List Nat → FVal) (i : List Nat) : FVal :=
  let x := packedVal rd q i
  if isNan x then fzero else sub32f (sum i) x

def cgqEff (s : State) (c face e : Nat) : Result :=
  let dg := envRec e 0
  let ext := runExt s c dg
  let g := valsOf s c dg
  let r := valsOf s c (envRec e 1)
  let sum (i : List Nat) : FVal := if cgqEf e then add32f (g i) (r i) else g i
  let (t, f) := packOut s c (fun _ => face) (envRec e 2) ext sum
  let fl := orFlags f (readMany s c (dg :: if cgqEf e then [envRec e 1] else []))
  if cgqEf e then
    let rd := rdCtx t c
    let (t2, f2) := narrowOut t c (envRec e 1) ext (cgqResidual rd (envRec e 2) sum)
    { st := t2, flags := orFlags fl f2 }
  else { st := t, flags := fl }

/-- CGQ at its unit. -/
def bodyCgq : Body := fun s c q => runRecs s c (cgqPlan s c q.env) (fun s => cgqEff s c q.inst q.env)

/-- CGQ (R233): packs a gradient with error feedback. -/
def execCgq (c : Fin 8) (face : Fin 4) (aged : Bool) (s : State) : Host.Outcome State Fault Refusal :=
  .next (issueOp s c ucCrusher face aged (isOp 0x70) bodyCgq)

/-! ### CGDQ (R234) -/

def cgdqPlan (s : State) (c e : Nat) : Plan :=
  let f := par e 0 1
  let q := envRec e 0
  let acc := envRec e 1
  { reserved := ([(0x40, f > 2)] : List (Nat × Bool)) ++ parZero e 1 0x40
    recs := [inRec e 0 deviceRegions, if f = 0 then outRec e 1 deviceRegions else ioRec e 1 deviceRegions]
    invalid := 0x70
    broken := !isCrush q.fmt || q.spatial || q.expRaw ≠ 0 || acc.comp ≠ 0 || (if f = 2 then !isEsBuf s c acc else acc.fmtRaw ≠ 0)
    rels := if f = 2 then esRels s c q acc else relsSame s c q acc
    zeroExt := [runExt s c q, runExt s c acc] }

def cgdqEff (s : State) (c face e : Nat) : Result :=
  let q := envRec e 0
  let acc := envRec e 1
  let ext := runExt s c q
  let x := packedVal (rdCtx s c) q
  let s1 := countExpand s (fun _ => face) q ext
  let rf := readFlagsAll ((indices ext).map x)
  match par e 0 1 with
  | 0 => let (t, f) := narrowOut s1 c acc ext x; { st := t, flags := orFlags rf f }
  | 1 =>
    let a := valsOf s c acc
    let (t, f) := narrowOut s1 c acc ext (fun i => addX (a i) (x i))
    { st := t, flags := orFlags (orFlags rf (readAll s c acc)) f }
  | _ => let (t, f) := esAccumulate s1 c acc ext false x; { st := t, flags := orFlags rf f }

/-- CGDQ at its unit. -/
def bodyCgdq : Body := fun s c q => runRecs s c (cgdqPlan s c q.env) (fun s => cgdqEff s c q.inst q.env)

/-- CGDQ (R234): decodes a packed gradient into an FP32 tensor or an exact-sum buffer. -/
def execCgdq (c : Fin 8) (face : Fin 4) (aged : Bool) (s : State) : Host.Outcome State Fault Refusal :=
  .next (issueOp s c ucCrusher face aged (isOp 0x71) bodyCgdq)

/-! ### CPROBE (R235) -/

/-- CPROBE touches no ledger entry. -/
def noLedger (d : Desc) : Desc := { d with ledgerEn := false }

/-- X as the packed tensor that CPROBE measures: its blocks, rate and shape. -/
def probeDesc (x : Desc) (rate : Nat) (shape : Bool) : Desc := { x with fmt := .crush rate, spatial := shape, layout := if shape then 1 else 0 }

def cprobePlan (s : State) (c e : Nat) : Plan :=
  let x := envRec e 0
  let st := envRec e 1
  let shape := bit (par e 1 1) 0
  { reserved := ([(0x41, bits (par e 1 1) 1 7 ≠ 0)] : List (Nat × Bool)) ++ parZero e 2 0x40
    recs := [{ inRec e 0 deviceRegions with d := noLedger x }, { outRec e 1 deviceRegions with d := noLedger st }]
    invalid := 0x70
    broken := par e 0 1 < 1 || par e 0 1 > 4 || x.fmtRaw > 4 || x.comp ≠ 0 || (shape && x.layout ≠ 1) ||
      st.fmtRaw ≠ 0 || st.rank ≠ 1 || st.comp ≠ 0
    rels := [relDim s c st 0 (· == 8)]
    zeroExt := [runExt s c x, runExt s c st] }

/-- What CPROBE measures (R235). -/
def cprobeEff (s : State) (c face e : Nat) : Result :=
  let dx := noLedger (envRec e 0)
  let ext := runExt s c dx
  let rate := par e 0 1
  let shape := bit (par e 1 1) 0
  let x := valsOf s c dx
  let pd := probeDesc dx rate shape
  let blocks := (crushBlocks pd ext).map (·.2)
  let coded := blocks.map fun ps =>
    let xs := ps.map fun i => ((if inExt ext i then x i else fzero), Rnd.rne)
    let o := packBlock shape rate xs
    (ps, o, unpackBlock shape rate o.bitsOut)
  let table := coded.flatMap fun t => (t.1.zip t.2.2).filter fun p => inExt ext p.1
  let dec (i : List Nat) : FVal := match table.find? (fun p => p.1 = i) with
    | some p => p.2
    | none => fzero
  let idx := indices ext
  let diff := idx.map fun i => sub32f (dec i) (x i)
  let unf := sumNat (coded.map fun t => ((t.1.zip t.2.1.zeroed).filter fun p => p.2 && inExt ext p.1).length)
  let clamps := sumNat (coded.map fun t => t.2.1.clamps)
  let vals := [rn32 (amaxOf (idx.map x)), treeMax (diff.map fabs), rsum (diff.map fun d => mul32f d d),
    rsum (idx.map fun i => mul32f (x i) (x i)), rn32 (fnat unf), rn32 (fnat clamps), fzero, fzero]
  let st := { noLedger (envRec e 1) with roundMode := 0 }
  let s1 := cruAdd (cruAdd (cruAdd s face cruPack blocks.length) face cruExp blocks.length) face cruClamps clamps
  let (t, _) := narrowOut s1 c st (runExt s c st) (fun i => nth fzero vals (nth 0 i 0))
  { st := t, flags := readFlagsAll (idx.map x) }

/-- CPROBE at its unit. -/
def bodyCprobe : Body := fun s c q => runRecs s c (cprobePlan s c q.env) (fun s => cprobeEff s c q.inst q.env)

/-- CPROBE (R235): measures what packing at a rate and shape would lose. -/
def execCprobe (c : Fin 8) (face : Fin 4) (aged : Bool) (s : State) : Host.Outcome State Fault Refusal :=
  .next (issueOp s c ucCrusher face aged (isOp 0x72) bodyCprobe)

end Sys2Proof.Machine
end

