-- ==== Sys2Proof/Machine/Quarry.lean ====
section
/-! DEFINITION. The Quarry, its drain engine and the Sump: QMM, QMM_BATCH, QDRAIN, QFILL, QZERO (R84 to R133, R548), with the numerics of R49 to R54. -/

namespace Sys2Proof.Machine

/-! ### Format pairs and lattice slices (R83, R111) -/

/-- K slice per cube, dense (R83). -/
def kSlice : Fmt → Nat
  | .bf16 | .fp16 => 4
  | .mxE2m1 => 16
  | _ => 8

/-- Pair group of a Quarry format; none for a format that is never a Quarry operand (R111). -/
def pairGroup : Fmt → Option Nat
  | .e4m3 | .e5m2 => some 0
  | .bf16 => some 1
  | .fp16 => some 2
  | .mxE4m3 | .mxE5m2 | .mxE3m2 | .mxE2m3 => some 3
  | .mxE2m1 => some 4
  | _ => none

/-- Do the formats of A and B pair (R111)? -/
def pairOk (a b : Fmt) : Bool := (pairGroup a).isSome && pairGroup a = pairGroup b

/-- K_i of a pair and sparse mode (R111). -/
def kMax (b : Fmt) (sparse : Bool) : Nat := 32 * kSlice b * (if sparse then 2 else 1)

/-! ### Packed 2:4 rows (R101, R125) -/

/-- Retained positions of a pattern code (R101). -/
def patternPos : Nat → Option (Nat × Nat)
  | 0 => some (0, 1) | 1 => some (0, 2) | 2 => some (0, 3)
  | 3 => some (1, 2) | 4 => some (1, 3) | 5 => some (2, 3)
  | _ => none

/-- Bytes of the values, the scales and the codes of a packed row of logical K (R125). -/
def packValBytes (f : Fmt) (k : Nat) : Nat := cdiv (k / 2 * ebits f) 8
def packScaleBytes (f : Fmt) (k : Nat) : Nat := if isMx f then cdiv k 32 else 0
def packCodeBytes (k : Nat) : Nat := cdiv (3 * cdiv k 4) 8
/-- Padded length of a packed row (R125). -/
def packRowBytes (f : Fmt) (k : Nat) : Nat := roundUp (packValBytes f k + packScaleBytes f k + packCodeBytes k) 16

/-- The packed row's retained (position, value) pairs of group `g`, or none for an invalid code (R101, R102). -/
def packGroup (rd : Nat → Nat) (f : Fmt) (row k g : Nat) : Option (List (Nat × FVal)) :=
  let codes := row + packValBytes f k + packScaleBytes f k
  let code := bits (rdBytes rd (codes + 3 * g / 8) 2) (3 * g % 8) 3
  let val (j : Nat) : FVal :=
    let p := (2 * g + j) * ebits f
    decodeElem f (bits (rdBytes rd (row + p / 8) 3) (p % 8) (ebits f))
  let scale : FVal := if isMx f then decodeScale (rd (row + packValBytes f k + 4 * g / 32)) else fone
  match patternPos code with
  | none => none
  | some (i, j) => some [(4 * g + i, mulX (val 0) scale), (4 * g + j, mulX (val 1) scale)]

/-! ### Loading the stationary tile (R83, R85, R122) -/

/-- Replace the BASE of an operand record (R126). -/
def withBase (d : Desc) (base : Nat) : Desc := { d with base := base }

/-- Identity of a stationary operand: its record with the BASE it was read from (R86). -/
def statKey (d : Desc) : Nat := d.raw / 2 ^ 48 * 2 ^ 48 + d.base

/-- One output column of the tile: for each lattice row its (K position, value) pairs; masked columns load as zeros (R83, R122). -/
def loadColumn (rd : Nat → Nat) (d : Desc) (sparse masked : Bool) (n : Nat) : List (List (Nat × FVal)) × List (Nat × Nat) :=
  let k := extAt d 0
  let kc := kSlice d.fmt * (if sparse then 2 else 1)
  let row := (elemAddr d [0, n, 0, 0, 0, 0]).1
  if masked then
    ((List.range 32).map fun r => ((List.range kc).map fun j => (r * kc + j, fzero)).filter fun p => p.1 < k, [])
  else if sparse then
    let groups := (List.range (cdiv k 4)).map fun g => packGroup rd d.fmt row k g
    let pairs (r : Nat) : List (Nat × FVal) :=
      (List.range (kc / 4)).flatMap fun j => (nth none groups (r * (kc / 4) + j)).getD []
    let bad := (groups.zipIdx.filter fun p => p.1.isNone).map fun p => (n, p.2)
    ((List.range 32).map pairs, bad)
  else
    ((List.range 32).map fun r =>
      (((List.range kc).map fun j => r * kc + j).filter (· < k)).map fun i => (i, elemVal rd d [i, n, 0, 0, 0, 0]), [])

/-- The tile as a record places it (R83). -/
def readTile (rd : Nat → Nat) (d : Desc) (sparse : Bool) (colMasked : Nat → Bool) : Tile :=
  let cols := (List.range (extAt d 1)).map fun n => loadColumn rd d sparse (colMasked n) n
  ⟨cols.map (·.1), cols.flatMap (·.2)⟩

/-- The record of Face `f`'s own copy: the source DA plus 0x1000_0000 for each Face from the one that BASE names (R85). -/
def faceCopy (d : Desc) (f : Nat) : Desc := withBase d (d.base + 0x10000000 * f - 0x10000000 * (d.base / 0x10000000 % 4))

/-- What a load leaves in the lattice: every Face the broadcast tile, or its own copy (R83, R85). -/
def loadTile (s : State) (c : Nat) (d : Desc) (sparse repl : Bool) (colMasked : Nat → Bool) : Lattice :=
  let rd := rdCtx s c
  { valid := true, fmt := d.fmtRaw, sparse := sparse, ctx := c, record := statKey d
    tiles := if repl then (List.range 4).map fun f => readTile rd (faceCopy d f) sparse colMasked else [readTile rd d sparse colMasked] }

/-- The tile of a Face. -/
def tileOf (l : Lattice) (f : Nat) : Tile := nth (nth ⟨[], []⟩ l.tiles 0) l.tiles f

/-! ### Products, cube sums and the Trunk (R49 to R52) -/

/-- Cube sum: the exact sum of the products of one cube, rounded once to FP32; an exactly zero sum is +0 (R50). Answers whether it became infinite from finite products. -/
def cubeSum (a : Nat → FVal) (ws : List (Nat × FVal)) : FVal × Bool :=
  let ps := ws.map fun w => mulX (a w.1) w.2
  let x := sumX ps
  if isZero x then (fzero, false) else
  let r := rn32 x
  (r, isInf r && ps.all isFin)

/-- One level of the Trunk: adjacent pairs added in FP32 (R51). -/
def trunkLevel : List FVal → List FVal × Bool
  | a :: b :: r =>
    let x := add32f a b
    let (t, f) := trunkLevel r
    (x :: t, f || (isInf x && isFin a && isFin b))
  | l => (l, false)

/-- The Trunk: five levels over 32 cube sums (R51). -/
def trunk : Nat → List FVal → FVal × Bool
  | 0, l => (nth fzero l 0, false)
  | k + 1, l =>
    let (l', f) := trunkLevel l
    let (v, f') := trunk k l'
    (v, f || f')

/-- One output element before the Sump: cube sums over the lattice rows and the Trunk (R50, R51). -/
def dotTile (a : Nat → FVal) (col : List (List (Nat × FVal))) : FVal × Bool :=
  let cs := col.map fun ws => cubeSum a ws
  let (v, f) := trunk 5 (cs.map (·.1))
  (v, f || cs.any (·.2))

/-- Addition into an accumulator at E8M39, with the ACC_INF event (R52). -/
def accAdd (acc t : FVal) : FVal × Bool :=
  let r := rnAcc (addX acc t)
  (r, isInf r && isFin acc && isFin t)

/-! ### One matrix instruction (R88, R91, R93, R121 to R124) -/

/-- What one matrix instruction works on, its run-time extents known. -/
structure MatArgs where
  c : Nat
  dA : Desc
  dB : Desc
  m : Nat
  n : Nat
  k : Nat
  slot : Nat
  accumulate : Bool
  keep : Bool
  sparse : Bool
  repl : Bool
  chisel : Bool
  scale : Int
  rowMasked : Nat → Bool
  colMasked : Nat → Bool
  srcRow : Nat → Nat

/-- What one matrix instruction leaves. -/
structure MatOut where
  st : State
  flags : NumFlags
  patternBad : Bool

/-- The accumulators that an instruction covers, masked or not (R91). -/
def coverOf (a : MatArgs) : SumpRegion := ⟨64 * a.slot, a.m, 0, a.n⟩

/-- What an instruction does to the Sump: ACCUMULATE reads what it covers, and both modes write it (R93). -/
def matAccess (a : MatArgs) : Access := { sumpRd := if a.accumulate then [coverOf a] else [], sumpWr := [coverOf a] }

/-- An instruction with K = 0 (R117): CLEAR sets every covered accumulator to +0, ACCUMULATE changes nothing. -/
def zeroK (s : State) (a : MatArgs) : State :=
  if a.accumulate then s
  else
    let ks := regionKeys (coverOf a)
    renewSump { s with sump := ks.foldl (fun m k => smDel m k) s.sump } (inRegion (coverOf a))

/-- Does an instruction in ACCUMULATE mode read an accumulator with a double-bit error (R94)? Masked ones keep their values and are not read. -/
def matFaulty (s : State) (a : MatArgs) : Bool :=
  a.accumulate && s.sumpBad.any fun k => inRegion (coverOf a) k && !a.rowMasked (keyRow k - 64 * a.slot) && !a.colMasked (keyCol k)

/-- The Face whose copy of the tile serves row `m` and column `n`: of the row's plane in the Quarry, of the column's slice in the Chisel (R83, R85, R173, R174). -/
def faceFor (a : MatArgs) (m n : Nat) : Nat := if a.chisel then n / 64 else m / 8 % 8 / 2

/-- Is a cube gated in the stream cycle of one chunk (R104)? Rows of the chunk and columns of the cube as value lists. -/
def cubeGated (rowsVals : List FVal) (subtile : List FVal) : Bool :=
  (subtile.all isZero && rowsVals.all isFin) || (rowsVals.all isZero && subtile.all isFin)

/-- Cube-cycles gated during an instruction's stream cycles, over the eight planes (R104). -/
def gatedCount (a : MatArgs) (lat : Lattice) (aVal : Nat → Nat → FVal) : Nat :=
  let kc := kSlice a.dB.fmt * (if a.sparse then 2 else 1)
  let chunks := 8 * cdiv a.m 64
  sumNat ((List.range chunks).map fun ch =>
    let cols := (tileOf lat (ch % 8 / 2)).cols
    sumNat ((List.range 32).map fun r =>
      sumNat ((List.range 32).map fun j =>
        let block := (List.range 8).flatMap fun i => (List.range kc).map fun t =>
          if 8 * ch + i < a.m && r * kc + t < a.k then aVal (8 * ch + i) (r * kc + t) else fzero
        let sub := (List.range 8).flatMap fun i => (nth [] (nth [] cols (8 * j + i)) r).map (·.2)
        b2n (r * kc ≥ a.k || 8 * j ≥ a.n || cubeGated block sub))))

/-- The rows of an instruction that it does not mask. -/
def liveRows (a : MatArgs) : List Nat := (List.range a.m).filter fun m => !a.rowMasked m

/-- The columns of an instruction that it does not mask. -/
def liveCols (a : MatArgs) : List Nat := (List.range a.n).filter fun n => !a.colMasked n

/-- The Faces whose tiles an instruction uses for a column. -/
def facesUsed (a : MatArgs) (n : Nat) : List Nat :=
  if a.chisel then [n / 64] else (List.range 4).filter fun f => (liveRows a).any fun m => faceFor a m n = f

/-- The lattice values of a column below the instruction's K. -/
def columnBelow (a : MatArgs) (lat : Lattice) (f n : Nat) : List (List (Nat × FVal)) :=
  (nth [] (tileOf lat f).cols n).map fun ws => ws.filter fun w => w.1 < a.k

/-- The NUM_FLAGS of what an instruction reads (R65); an instruction that writes no element raises none (R67). -/
def matReadFlags (a : MatArgs) (lat : Lattice) (aVal : Nat → Nat → FVal) : NumFlags :=
  let readA := (liveRows a).flatMap fun m => (List.range a.k).map (aVal m)
  let usedB := (liveCols a).flatMap fun n => (facesUsed a n).flatMap fun f => (columnBelow a lat f n).flatMap fun ws => ws.map (·.2)
  if a.accumulate && (liveRows a = [] || liveCols a = []) then {} else readFlagsAll (readA ++ usedB)

/-- Does an instruction use a group with an invalid pattern code (R102)? -/
def patternBad (a : MatArgs) (lat : Lattice) : Bool :=
  (List.range 4).any fun f => (tileOf lat f).invalidGroups.any fun g =>
    g.1 < a.n && !a.colMasked g.1 && 4 * g.2 < a.k && (!a.chisel || g.1 / 64 = f)

/-- The counters and the lattice that a load and its stream leave (R86, R108). -/
def streamed (s : State) (a : MatArgs) (lat : Lattice) (aVal : Nat → Nat → FVal) : State :=
  let q := s.quarry
  let q1 := { q with lattice := lat, lastMatrix := some a.c }
  let q2 := if q.freeze then q1 else
    { q1 with
      loadCyc := if a.keep then q.loadCyc else q.loadCyc + 32
      streamCyc := bump q.streamCyc (cdiv a.m 64)
      stallCyc := q.stallCyc + Config.freeWord s.free
      gatedCubes := bump q.gatedCubes (gatedCount a lat aVal) }
  { s with quarry := q2, free := s.free + 1 }

/-- One matrix instruction with K above zero: the tile loads or is kept, every covered accumulator takes its product. -/
def matrixRun (s : State) (a : MatArgs) : MatOut :=
  let rd := rdCtx s a.c
  let lat := if a.keep && !a.chisel then s.quarry.lattice else loadTile s a.c a.dB a.sparse a.repl a.colMasked
  let aVal (m k : Nat) : FVal := if a.rowMasked m then fzero else elemVal rd a.dA [k, a.srcRow m, 0, 0, 0, 0]
  let step (acc : SMap AccBits × Bool) (p : Nat × Nat) : SMap AccBits × Bool :=
    let key := accAt a.slot p.1 p.2
    if a.rowMasked p.1 || a.colMasked p.2 then
      (if a.accumulate then acc else (smDel acc.1 key, acc.2))
    else
      let (t, f) := dotTile (aVal p.1) (columnBelow a lat (faceFor a p.1 p.2) p.2)
      let old := if a.accumulate then valAcc (smGet 0 acc.1 key).toNat else fzero
      let (v, g) := accAdd old (fscale (-a.scale) t)
      (sumpPut acc.1 key v, acc.2 || f || g)
  let (sump, accInf) := ((List.range a.m).flatMap fun m => (List.range a.n).map fun n => (m, n)).foldl step (s.sump, false)
  let s1 := { s with sump := sump }
  let s2 := if a.accumulate then s1 else renewSump s1 (inRegion (coverOf a))
  ⟨if a.chisel then s2 else streamed s2 a lat aVal, orFlags (matReadFlags a lat aVal) { accInf := accInf }, patternBad a lat⟩

/-- One matrix instruction with K above zero: where it reads an accumulator with a double-bit error, its covered region is unpredictable; it has loaded and streamed all the same (R94, R86). Answers whether it met one. -/
def matrixStep (s : State) (a : MatArgs) : MatOut × Bool :=
  let o := matrixRun s a
  if matFaulty s a then ({ o with st := loseSump o.st (coverOf a) }, true) else (o, false)

/-- A matrix instruction enters the array: QRY_STATUS names its context (R108). -/
def enterArray (s : State) (c : Nat) : State := { s with quarry := { s.quarry with lastCtx := c } }

/-- Count a kept or refused skip of a KEEP_STATIONARY instruction (R86). -/
def countKeep (s : State) (flag kept : Bool) : State :=
  let q := s.quarry
  if !flag || q.freeze then s
  else if kept then { s with quarry := { q with keepHit := q.keepHit + 1 } }
  else { s with quarry := { q with keepMiss := q.keepMiss + 1 } }

/-- May KEEP_STATIONARY skip the load (R86)? -/
def keepOk (s : State) (c : Nat) (d : Desc) (sparse : Bool) : Bool :=
  let l := s.quarry.lattice
  l.valid && s.quarry.lastMatrix = some c && l.ctx = c && l.record = statKey d && l.fmt = d.fmtRaw && l.sparse = sparse

/-! ### QMM (R112 to R124) -/

/-- The bytes of one output column of B: a packed 2:4 row, or its elements and block scales as the descriptor places them (R37, R45, R125). -/
def lineBytes (d : Desc) (k n : Nat) : List (Nat × Nat) :=
  let at_ (i : Nat) := (elemAddr d [i, n, 0, 0, 0, 0]).1
  if d.layout = 1 then (List.range (cdiv k 8)).map fun j => (at_ (8 * j), cdiv (min 8 (k - 8 * j) * ebits d.fmt) 8)
  else (at_ 0, cdiv (k * ebits d.fmt) 8) :: (if isMx d.fmt then [(scaleAddr d [0, n, 0, 0, 0, 0], cdiv k 32)] else [])

/-- One packed row (R125). -/
def packedRow (d : Desc) (n : Nat) : Nat × Nat := (d.base + dimOff d 1 n, packRowBytes d.fmt (extAt d 0))

/-- Footprint of B: packed 2:4 rows, or as the descriptor places it (R125). -/
def copyFoot (d : Desc) (sparse : Bool) : List (Nat × Nat) :=
  if sparse then (List.range (extAt d 1)).map (packedRow d) else footprint d

/-- The copies of B: its own place, and where replicated every Face's (R85). -/
def copiesOf (d : Desc) (repl : Bool) : List Desc := if repl then (List.range 4).map (faceCopy d) else [d]

/-- Footprint of B with its copies. -/
def statFoot (d : Desc) (sparse repl : Bool) : List (Nat × Nat) := (copiesOf d repl).flatMap fun x => copyFoot x sparse

/-- The bytes of B that a load reads: the columns that are not masked, in every copy (R85, R122). -/
def statReads (d : Desc) (sparse repl : Bool) (colMasked : Nat → Bool) : List (Nat × Nat) :=
  (copiesOf d repl).flatMap fun x => ((List.range (extAt d 1)).filter fun n => !colMasked n).flatMap fun n =>
    if sparse then [packedRow x n] else lineBytes x (extAt x 0) n

/-- The matrix rules on A and B that do not depend on the opcode (R110, R111, R113, R125). -/
def matBroken (dA dB : Desc) (sparse : Bool) : Bool :=
  dA.rank ≠ 2 || dB.rank ≠ 2 || dA.comp ≠ 0 || dB.comp ≠ 0 || dA.layout > 1 || dB.layout > 1 || dB.spread ||
  !pairOk dA.fmt dB.fmt || extAt dA 0 ≠ extAt dB 0 || kMax dB.fmt sparse < extAt dA 0 ||
  (dB.shapeEn && dB.swDim = 0) || extAt dB 1 > 256 ||
  (sparse && (extAt dB 0 % 4 ≠ 0 || dB.layout ≠ 0 || strAt dB 1 < packRowBytes dB.fmt (extAt dB 0)))

/-- The record of B for the checks: R45 does not apply to a sparse B (R125). -/
def statRec (e : Nat) (sparse repl : Bool) : Rec :=
  let d := envRec e 1
  { idx := 1, d := d, isIn := true, isOut := false, reach := [.stockpile], packed := sparse, foot := some (statFoot d sparse repl) }

/-- A broadcast source that exceeds the tree: a 2:4 tile in MXFP8 or MXFP4 (R85). -/
def broadcastTooWide (d : Desc) (sparse repl : Bool) : Bool :=
  sparse && !repl && (d.fmt = .mxE4m3 || d.fmt = .mxE5m2 || d.fmt = .mxE2m1)

/-- Reserved fields of a QMM parameter block (R112). -/
def qmmReserved (e : Nat) : List (Nat × Bool) :=
  let p := qmmPar e
  ([(0x40, p.route = 3), (0x41, bits (par e 0 2) 9 7 ≠ 0), (0x43, par e 3 1 ≠ 0),
   (0x44, !p.gatherEn && p.gatherCount ≠ 0), (0x48, !p.rowMaskEn && par e 8 6 ≠ 0), (0x4E, par e 0xE 2 ≠ 0),
   (0x50, !p.gatherEn && par e 0x10 6 ≠ 0), (0x56, par e 0x16 2 ≠ 0),
   (0x58, !p.gatherEn && p.gatherSw ≠ 0), (0x59, bits p.gatherSw 12 3 ≠ 0)] : List (Nat × Bool)) ++ parZero e 0x1A 0x20 ++
   ([(0x60, !p.colMaskEn && p.colMask ≠ 0)] : List (Nat × Bool))

/-- Planned rows M of a QMM (R113). -/
def qmmPlanM (e : Nat) : Nat :=
  let p := qmmPar e
  if p.gatherEn then p.gatherCount else extAt (envRec e 0) 1

/-- The issue plan of a QMM (R114). -/
def qmmPlan (s : State) (c : Nat) (q : QOp) : Plan :=
  let e := q.env
  let p := qmmPar e
  let dA := envRec e 0
  let dB := envRec e 1
  let mP := qmmPlanM e
  { reserved := qmmReserved e
    recs := [inRec e 0 [.stockpile], statRec e p.sparse p.repl]
    parFoots :=
      (if p.rowMaskEn then [⟨[(p.rowMask, cdiv mP 8)], [.stockpile], true, false⟩] else []) ++
      (if p.gatherEn then [⟨[(p.gatherList, 4 * p.gatherCount)], [.stockpile], true, false⟩] else [])
    invalid := 0x10
    tensorBad := if broadcastTooWide dB p.sparse p.repl then some 1 else none
    broken := matBroken dA dB p.sparse || mP > 16384 ||
      (p.gatherEn && (p.gatherCount < 1 || p.gatherList % 4 ≠ 0))
    between := if slotsOk s c p.slot mP then none else some (0x1D, 0)
    counts := if p.gatherEn then [(p.gatherCount, gatherRun s c p)] else []
    zero := qmmRunM s c e = 0 || qmmRunN s c e = 0 || (p.gatherEn && nth 0 (runExt s c dA) 1 = 0) }

/-- Gather entry of an instruction row. -/
def gatherEntry (s : State) (c : Nat) (p : QmmPar) (m : Nat) : Nat := rdNum s c (p.gatherList + 4 * m) 4

/-- The first row whose gather entry lies beyond A's rows (R124). -/
def gatherBad (s : State) (c : Nat) (p : QmmPar) (m rowsA : Nat) : Option Nat :=
  if p.gatherEn then
    (List.range m).find? fun i => let g := gatherEntry s c p i; g ≠ 0xFFFFFFFF && rowsA ≤ g
  else none

/-- Arguments of the matrix instruction that a QMM is (R113, R119, R121 to R123). -/
def qmmArgs (s : State) (c : Nat) (q : QOp) : MatArgs :=
  let e := q.env
  let p := qmmPar e
  let dA := envRec e 0
  let dB := envRec e 1
  let rowsA := nth 0 (runExt s c dA) 1
  let masked (m : Nat) : Bool :=
    (p.rowMaskEn && !bit (rdNum s c (p.rowMask + m / 8) 1) (m % 8)) ||
    (p.gatherEn && rowsA ≤ gatherEntry s c p m)
  { c := c, dA := dA, dB := dB, m := qmmRunM s c e, n := qmmRunN s c e, k := nth 0 (runExt s c dA) 0
    slot := absSlot s c p.slot, accumulate := p.accumulate
    keep := p.keep && keepOk s c dB p.sparse, sparse := p.sparse, repl := p.repl, chisel := routesToChisel s c q
    scale := inScale s c dA + inScale s c dB
    rowMasked := masked
    colMasked := fun n => p.colMaskEn && !bit p.colMask n
    srcRow := fun m => if p.gatherEn then gatherEntry s c p m else m }

/-- The completing status of a QMM (R102, R124). -/
def qmmStatus (s : State) (c : Nat) (p : QmmPar) (a : MatArgs) (bad : Bool) : Nat × Nat :=
  match gatherBad s c p a.m (nth 0 (runExt s c a.dA) 1) with
  | some m => (0x12, m)
  | none => (if bad then 0x1E else 0, 0)

/-- The effect of a QMM whose checks pass. -/
def qmmEffect (s : State) (c : Nat) (q : QOp) : Result :=
  let p := qmmPar q.env
  let a := qmmArgs s c q
  let s0 := if a.chisel then s else enterArray s c
  if a.k = 0 then { st := zeroK s0 a, acc := if a.accumulate then {} else matAccess a }
  else
    let (o, fault) := matrixStep (if a.chisel then s0 else countKeep s0 p.keep a.keep) a
    let (st, d) := qmmStatus s c p a o.patternBad
    { st := o.st, flags := o.flags, status := if fault then 0x1F else st, detail := if fault then 0 else d, acc := matAccess a }

/-- Bytes a QMM reads: its unmasked rows, the unmasked columns of its tile where it loads, mask and list; nothing with K = 0 (R117, R121, R122). -/
def qmmReads (s : State) (c : Nat) (q : QOp) : List (Nat × Nat) :=
  let p := qmmPar q.env
  let a := qmmArgs s c q
  if a.k = 0 || a.m = 0 || a.n = 0 then []
  else
    (liveRows a).flatMap (fun m => lineBytes a.dA a.k (a.srcRow m)) ++
    (if a.keep && !a.chisel then [] else statReads a.dB p.sparse p.repl a.colMasked) ++
    (if p.rowMaskEn then [(p.rowMask, cdiv a.m 8)] else []) ++ (if p.gatherEn then [(p.gatherList, 4 * a.m)] else [])

/-- QMM at its unit: the record of one that ran, a fault included, names the unit that ROUTE gives; one that completes as ZERO_EXTENT or is turned away names the Quarry (R119; DESIGN CHOICE, assumption 179). -/
def bodyQmm : Body := fun s c q =>
  let ucls := some (if routesToChisel s c q then ucChisel else ucQuarry)
  match issueChecks s c (qmmPlan s c q) with
  | some (st, d) => reject s st d
  | none => { runAfter s c (qmmPlan s c q) (qmmReads s c q) [] (fun s => qmmEffect s c q) with ucls := ucls }

/-- QMM (R113): issue the head of the matrix queue of context `c`. -/
def execQmm (c : Fin 8) (aged : Bool) (s : State) : Host.Outcome State Fault Refusal :=
  .next (issueOp s c ucQuarry 0 aged (isOp 0x10) bodyQmm)

/-! ### QMM_BATCH (R126 to R128) -/

/-- One list entry. -/
structure BatchEntry where
  aBase : Nat
  bBase : Nat
  m : Nat
  slot : Nat
  accumulate : Bool
  keep : Bool
  reserved : Bool

def batchEntry (s : State) (c list i : Nat) : BatchEntry :=
  let x := rdNum s c (list + 32 * i) 32
  { aBase := bits x 0 48, bBase := bits x 64 48, m := fld x 0x10 4, slot := fld x 0x14 1
    accumulate := bit (fld x 0x15 1) 0, keep := bit (fld x 0x15 1) 1
    reserved := fld x 6 2 ≠ 0 || fld x 0xE 2 ≠ 0 || bits (fld x 0x15 1) 2 6 ≠ 0 || fld x 0x16 10 ≠ 0 }

def batchSparse (e : Nat) : Bool := bit (par e 0 2) 2
def batchRepl (e : Nat) : Bool := bit (par e 0 2) 3
def batchList (e : Nat) : Nat := bits (par e 8 8) 0 48
def batchRun (s : State) (c e : Nat) : Nat :=
  if bit (par e 4 2) 15 then shapeWord s c (bits (par e 4 2) 0 12) else par e 2 2

/-- Does an entry break R127? The slots are the entry's own: with M = 0 it covers none, and its SLOT itself must not lie above the allocation's count (DESIGN CHOICE, assumption 180). -/
def batchEntryBad (s : State) (c e : Nat) (b : BatchEntry) : Bool :=
  let dA := withBase (envRec e 0) b.aBase
  let dB := withBase (envRec e 1) b.bBase
  let al (d : Desc) (a : Nat) : Bool := a % (if d.layout = 0 then 16 else 64) ≠ 0
  b.reserved || al dA b.aBase || al dB b.bBase || (dA.spread && !spreadOk dA) ||
  !footOk s c [.stockpile] true false (footprint dA) ||
  !footOk s c [.stockpile] true false (statFoot dB (batchSparse e) (batchRepl e)) ||
  b.m > extAt dA 1 || !slotsOk s c b.slot b.m

/-- The issue plan of a QMM_BATCH (R114, R126, R127). -/
def batchPlan (s : State) (c : Nat) (q : QOp) : Plan :=
  let e := q.env
  let cnt := par e 2 2
  let dA := envRec e 0
  let dB := envRec e 1
  { reserved := ([(0x40, bits (par e 0 2) 0 2 ≠ 0 || bits (par e 0 2) 4 4 ≠ 0), (0x41, par e 1 1 ≠ 0),
      (0x45, bits (par e 4 2) 12 3 ≠ 0)] : List (Nat × Bool)) ++ parZero e 6 8 ++
      ([(0x4E, par e 0xE 2 ≠ 0)] : List (Nat × Bool)) ++ parZero e 0x10 0x40
    recs := [{ inRec e 0 [.stockpile] with d := withBase dA 0, foot := some [] },
             { statRec e (batchSparse e) (batchRepl e) with
               d := withBase (statRec e (batchSparse e) (batchRepl e)).d 0, foot := some [] }]
    parFoots := [⟨[(batchList e, 32 * cnt)], [.stockpile], true, false⟩]
    invalid := 0x10
    tensorBad := if broadcastTooWide dB (batchSparse e) (batchRepl e) then some 1 else none
    broken := matBroken dA dB (batchSparse e) || extAt dA 1 > 16384 || cnt < 1 || cnt > 256 || batchList e % 32 ≠ 0
    between := ((List.range (min cnt (batchRun s c e))).find? fun i =>
      batchEntryBad s c e (batchEntry s c (batchList e) i)).map fun i => (0x11, i)
    counts := [(cnt, batchRun s c e)]
    zero := batchRun s c e = 0 || qmmRunN s c e = 0 }

/-- Do the entries of a batch, in list order, skip their loads (R128)? Entry 0 is judged under R86; a later one keeps the tile of the entry before it that last loaded or kept. -/
def batchKeeps (s : State) (c e : Nat) : List Bool :=
  ((List.range (batchRun s c e)).foldl (fun (acc : List Bool × Option Nat) i =>
    let b := batchEntry s c (batchList e) i
    let keep := b.keep && (if i = 0 then keepOk s c (withBase (envRec e 1) b.bBase) (batchSparse e) else acc.2 = some b.bBase)
    (acc.1 ++ [keep], if b.m = 0 then acc.2 else some b.bBase)) ([], none)).1

/-- Run-time K of a batch. -/
def batchK (s : State) (c e : Nat) : Nat := nth 0 (runExt s c (envRec e 0)) 0

/-- The matrix instruction that an entry is (R126). -/
def batchArgs (s : State) (c e : Nat) (b : BatchEntry) (keep : Bool) : MatArgs :=
  { c := c, dA := withBase (envRec e 0) b.aBase, dB := withBase (envRec e 1) b.bBase, m := b.m, n := qmmRunN s c e, k := batchK s c e
    slot := absSlot s c b.slot, accumulate := b.accumulate, keep := keep, sparse := batchSparse e, repl := batchRepl e, chisel := false
    scale := inScale s c (envRec e 0) + inScale s c (envRec e 1)
    rowMasked := fun _ => false, colMasked := fun _ => false, srcRow := id }

/-- Progress through a batch. -/
structure BatchAcc where
  st : State
  flags : NumFlags
  patternBad : Bool
  acc : Access
  fault : Bool

/-- One entry of a batch as a matrix instruction (R127, R128). -/
def batchStep (c : Nat) (acc : BatchAcc) (x : BatchEntry × MatArgs) : BatchAcc :=
  let (b, a) := x
  if acc.fault || a.m = 0 then acc
  else if a.k = 0 then
    { acc with st := zeroK (enterArray acc.st c) a, acc := if a.accumulate then acc.acc else { acc.acc with sumpWr := acc.acc.sumpWr ++ [coverOf a] } }
  else
    let (o, fault) := matrixStep (countKeep (enterArray acc.st c) b.keep a.keep) a
    { st := o.st, flags := orFlags acc.flags o.flags, patternBad := acc.patternBad || o.patternBad
      acc := { sumpRd := acc.acc.sumpRd ++ (matAccess a).sumpRd, sumpWr := acc.acc.sumpWr ++ (matAccess a).sumpWr }, fault := fault }

/-- The entries of a batch with the instructions that they are, read at issue (R127). -/
def batchEntries (s : State) (c e : Nat) : List (BatchEntry × MatArgs) :=
  (batchKeeps s c e).zipIdx.map fun p => let b := batchEntry s c (batchList e) p.2; (b, batchArgs s c e b p.1)

/-- The effect of a QMM_BATCH whose checks pass (R128). -/
def batchEffect (s : State) (c : Nat) (q : QOp) : Result :=
  let r := (batchEntries s c q.env).foldl (batchStep c) ⟨s, {}, false, {}, false⟩
  { st := r.st, flags := r.flags, status := if r.fault then 0x1F else if r.patternBad then 0x1E else 0, acc := r.acc }

/-- Bytes a batch reads: its list, and of each entry that works the rows of A and, where it loads, the tile. -/
def batchReads (s : State) (c : Nat) (q : QOp) : List (Nat × Nat) :=
  (batchList q.env, 32 * batchRun s c q.env) ::
  (batchEntries s c q.env).flatMap fun x =>
    let a := x.2
    if a.m = 0 || a.k = 0 then []
    else (List.range a.m).flatMap (fun m => lineBytes a.dA a.k m) ++ (if a.keep then [] else statReads a.dB a.sparse a.repl a.colMasked)

/-- QMM_BATCH at its unit. -/
def bodyQmmBatch : Body := fun s c q => runPlan s c (batchPlan s c q) (batchReads s c q) [] (fun s => batchEffect s c q)

/-- QMM_BATCH (R126 to R128): up to 256 matrix instructions from one envelope. -/
def execQmmBatch (c : Fin 8) (aged : Bool) (s : State) : Host.Outcome State Fault Refusal :=
  .next (issueOp s c ucQuarry 0 aged (isOp 0x11) bodyQmmBatch)

/-! ### The drain engine (R95 to R97, R129 to R131) -/

/-- The rules on D and C (R110, R129). -/
def drainBroken (d : Desc) (colFirst : Nat) : Bool :=
  d.rank ≠ 2 || d.comp ≠ 0 || d.layout > 1 || d.fmtRaw > 0x0D || colFirst + extAt d 0 > 256 || extAt d 1 > 16384

/-- Count the cycles of a drain or fill (R95, R108). -/
def countDrain (s : State) (d : Desc) (rows : Nat) : State :=
  let q := s.quarry
  if q.freeze then s
  else { s with quarry := { q with drainCyc := bump q.drainCyc (cdiv rows 64 * (if ebits d.fmt ≤ 16 then 2 else 4)) } }

/-- The issue plan of QDRAIN (`isFill` false) or QFILL (R114, R129). -/
def drainPlan (s : State) (c : Nat) (q : QOp) (isFill : Bool) : Plan :=
  let e := q.env
  let d := envRec e 0
  { reserved := parZero e 2 4 ++ (if isFill then parZero e 8 0x40 else parZero e 4 0x40)
    recs := [if isFill then inRec e 0 [.stockpile] else outRec e 0 [.stockpile]]
    invalid := 0x10
    broken := drainBroken d (par e 1 1)
    between := if slotsOk s c (par e 0 1) (extAt d 1) then none else some (0x1D, 0)
    zeroExt := [runExt s c d] }

/-- The region of a drain or fill: the tensor's run-time rows and columns from COL_FIRST (R129). -/
def drainRegion (s : State) (c : Nat) (q : QOp) : SumpRegion :=
  let ext := runExt s c (envRec q.env 0)
  ⟨64 * absSlot s c (par q.env 0 1), nth 0 ext 1, par q.env 1 1, nth 0 ext 0⟩

/-- The effect of QDRAIN (R96, R130): no −0 is produced (R53); a drain that reads a double-bit error leaves the region and its output unpredictable (R94). -/
def drainEffect (s : State) (c : Nat) (q : QOp) : Result :=
  let d := envRec q.env 0
  let r := drainRegion s c q
  if sumpFaulty s r then { st := loseSump (loseCtx s c (footprint d)) r, status := 0x1F, acc := { sumpRd := [r], sumpWr := [r] } }
  else
    let f (i : List Nat) : FVal :=
      let v := sumpVal s (accAt 0 (r.row + nth 0 i 1) (r.col + nth 0 i 0))
      if isZero v then fzero else v
    let (s1, fl) := narrowWith s c { roundEnv s c d with noNegZero := true } d (runExt s c d) f
    { st := countDrain s1 d r.rows, flags := fl, acc := { sumpRd := [r] } }

/-- QDRAIN at its unit. -/
def bodyQdrain : Body := fun s c q => runRecs s c (drainPlan s c q false) (fun s => drainEffect s c q)

/-- QDRAIN (R130): narrows a Sump region into a Stockpile tensor. -/
def execQdrain (c : Fin 8) (aged : Bool) (s : State) : Host.Outcome State Fault Refusal :=
  .next (issueOp s c ucDrain 0 aged (isOp 0x12) bodyQdrain)

/-- The effect of QFILL (R97, R131). -/
def fillEffect (s : State) (c : Nat) (q : QOp) : Result :=
  let d := envRec q.env 0
  let r := drainRegion s c q
  let beta := val32 (par q.env 4 4)
  let se : Int := if d.ledgerEn then (let e := ledgerGet s c d.slot; if leEs e then 0 else leScale e) else 0
  let rd := rdCtx s c
  let step (acc : SMap AccBits × NumFlags) (i : List Nat) : SMap AccBits × NumFlags :=
    let v := fscale (-se) (elemVal rd d i)
    let x := rnAcc (mulX beta v)
    (sumpPut acc.1 (accAt 0 (r.row + nth 0 i 1) (r.col + nth 0 i 0)) x,
      orFlags acc.2 (orFlags (readFlags v) { accInf := isInf x && isFin beta && isFin v }))
  let (sump, fl) := (indices (runExt s c d)).foldl step (s.sump, {})
  { st := renewSump (countDrain { s with sump := sump } d r.rows) (inRegion r), flags := fl, acc := { sumpWr := [r] } }

/-- QFILL at its unit. -/
def bodyQfill : Body := fun s c q => runRecs s c (drainPlan s c q true) (fun s => fillEffect s c q)

/-- QFILL (R131): sets a Sump region to beta times a tensor. -/
def execQfill (c : Fin 8) (aged : Bool) (s : State) : Host.Outcome State Fault Refusal :=
  .next (issueOp s c ucDrain 0 aged (isOp 0x13) bodyQfill)

/-- The issue plan of QZERO (R129). -/
def zeroPlan (s : State) (c : Nat) (q : QOp) : Plan :=
  let e := q.env
  { reserved := parZero e 1 2 ++ parZero e 4 0x40
    recs := []
    invalid := 0x10
    broken := par e 2 2 = 0 || par e 0 1 + par e 2 2 > 256
    between := if par e 0 1 + par e 2 2 ≤ (ctxOf s c).sumpCount then none else some (0x1D, 0) }

/-- QZERO at its unit. -/
def bodyQzero : Body := fun s c q =>
  runRecs s c (zeroPlan s c q) (fun s =>
    let slot := absSlot s c (par q.env 0 1)
    { st := zeroSlots s slot (par q.env 2 2), acc := { sumpWr := [⟨64 * slot, 64 * par q.env 2 2, 0, 256⟩] } })

/-- QZERO (R131): sets every accumulator of SLOT_COUNT whole slots to +0. -/
def execQzero (c : Fin 8) (aged : Bool) (s : State) : Host.Outcome State Fault Refusal :=
  .next (issueOp s c ucDrain 0 aged (isOp 0x14) bodyQzero)

end Sys2Proof.Machine
end

