-- ==== Sys2Proof/Machine/Hauler.lean ====
section
/-! DEFINITION. The Haulers: HCOPY with its packing, expansion, lossless and Sump-window forms (R164, R47, R228 to R231), HSET (R165), and hazard ranges (R166, R167). -/

namespace Sys2Proof.Machine

/-! ### The Sump window (R22, R23, R47) -/

def sumpBase : Nat := 0x40000000

/-- Does an HCOPY source name the Sump diagnostic window, its reserved addresses included (R20, R22)? -/
def isWindow (d : Desc) : Bool := d.fmt = .e8m39 && sumpBase ≤ d.base && d.base < 0x50000000

/-- Does a unit work on an operation in flight: one that was turned away, covers no element or has failed it does not? -/
def executing (f : Flight) : Bool := completing f.status && f.status ≠ stZeroExtent

/-- Is the window open: does the Quarry execute no operation, from its issue to its completion (R23)? -/
def windowOpen (s : State) : Bool := s.ctxs.all fun x => x.flight.all fun f => !(f.cls = ucQuarry && executing f)

/-- Do the bytes lie in the local rows of the context's own allocation, in one plane or over whole planes (R47)? -/
def windowOk (s : State) (c : Nat) (a n : Nat) : Bool :=
  let x := ctxOf s c
  let o := a - sumpBase
  let lo := 0x4000 * x.sumpFirst
  let hi := 0x4000 * (x.sumpFirst + x.sumpCount)
  sumpBase ≤ a && a + n ≤ 0x42000000 &&
    ((lo = 0 && hi = 0x400000) ||
      (o / 0x400000 = (o + n - 1) / 0x400000 && lo ≤ o % 0x400000 && o % 0x400000 + n ≤ hi))

/-- The accumulator slot at a window address, as 8 bytes (R22). -/
def windowSlot (s : State) (a : Nat) : Nat := (smGet 0 s.sump ((a - sumpBase) / 8)).toNat

/-- The accumulators that a window copy reads (R94). -/
def windowKeys (d : Desc) (ext : List Nat) : List Nat := (indices ext).map fun i => ((elemAddr d i).1 - sumpBase) / 8

/-- The same as regions of the Sump. -/
def windowRegions (ks : List Nat) : List SumpRegion := ks.map fun k => ⟨keyRow k, 1, keyCol k, 1⟩

/-! ### Kinds of copy (R164) -/

/-- The action of an HCOPY by its format pair. -/
inductive CopyKind where
  | plain | expand | pack | unlossless | lossless | blocks
  deriving DecidableEq, Repr

/-- The permitted format pairs (R164). Packed tensors are copied unchanged where their planned extents are identical; the manual does not say which extents it means (DESIGN CHOICE, assumption 188). -/
def copyKind (a b : Desc) : Option CopyKind :=
  if a.comp = 0 && b.comp = 0 then (if a.fmt = b.fmt then some .plain else none)
  else if a.comp = 1 && b.comp = 0 then (if a.expFmt = b.fmt then some .expand else none)
  else if a.comp = 0 && b.comp = 1 then (if a.fmt = b.expFmt then some .pack else none)
  else if a.comp = 2 && b.comp = 0 then (if a.fmt = b.fmt then some .unlossless else none)
  else if a.comp = 0 && b.comp = 2 then (if a.fmt = b.fmt then some .lossless else none)
  else if a.comp = 1 && b.comp = 1 then
    (if a.fmt = b.fmt && a.expRaw = b.expRaw && a.spatial = b.spatial && planned a = planned b then some .blocks else none)
  else none

/-- Does a copy need the Crusher? -/
def usesCrusher : CopyKind → Bool
  | .plain | .blocks => false
  | _ => true

/-! ### Lossless segments in memory (R228 to R231) -/

/-- Bytes of the raw stream at run-time extents (R228). -/
def rawStreamLen (f : Fmt) (ext : List Nat) : Nat := rawRowBytes f (nth 0 ext 0) * prodNat ext.tail

/-- Raw length of segment `i` of a stream. -/
def segLen (total i : Nat) : Nat := min 4096 (total - 4096 * i)

/-- The segments of a raw stream, each with its number. -/
def segsOf (bs : List Nat) : List (List Nat × Nat) := (chunksOf 4096 (bs.length / 4096 + 1) bs).zipIdx

/-- The raw stream of a stored tensor. -/
def streamOf (s : State) (c : Nat) (d : Desc) (ext : List Nat) : List Nat := rawStream d.fmt ext (elemRaw (rdCtx s c) d)

/-- Store bytes at a context DA. -/
def wrBytes (s : State) (c da : Nat) (bs : List Nat) : State :=
  applyPuts s c (bs.zipIdx.map fun p => (da + p.2, 0, 8, p.1))

/-- What encoding a tensor leaves: the state and the stored bytes. -/
def encodeTensor (s : State) (c : Nat) (face : Nat → Nat) (f : Fmt) (base : Nat) (bs : List Nat) : State × Nat :=
  (segsOf bs).foldl (fun (a : State × Nat) g =>
    let (enc, m) := encodeSeg f g.2 g.1
    let t := wrBytes a.1 c (base + 4160 * g.2) enc
    let t := cruAdd t (face g.2) cruSegs 1
    let t := if m = 0 then cruAdd t (face g.2) cruRaw 1 else if m = 1 then cruAdd t (face g.2) cruZero 1 else t
    (t, a.2 + enc.length)) (s, 0)

/-- Decode a stored stream: its bytes, or the number of the first segment that fails a check (R231). -/
def decodeTensor (s : State) (c : Nat) (f : Fmt) (base total : Nat) : List Nat × Option Nat :=
  let n := cdiv total 4096
  (List.range n).foldl (fun (a : List Nat × Option Nat) i =>
    match a.2 with
    | some _ => a
    | none =>
      match decodeSeg f i (segLen total i) (rdNum s c (base + 4160 * i) 4160) with
      | some bs => (a.1 ++ bs, none)
      | none => (a.1, some i)) ([], none)

/-- Raw element bits from a raw stream. -/
def streamElem (f : Fmt) (ext : List Nat) (bs : List Nat) (i : List Nat) : Nat :=
  let p := 8 * rawRowBytes f (nth 0 ext 0) * linIdx ext.tail i.tail + nth 0 i 0 * ebits f
  bits (ofBytes ((bs.drop (p / 8)).take 5)) (p % 8) (ebits f)

/-- Encoded bytes that the encoder writes of a raw stream (R230). -/
def encodedWrites (f : Fmt) (base : Nat) (bs : List Nat) : List (Nat × Nat) :=
  (segsOf bs).map fun g => (base + 4160 * g.2, (encodeSeg f g.2 g.1).1.length)

/-- Encoded bytes the decoder reads of a stored stream (R230). -/
def encodedReads (s : State) (c base total : Nat) : List (Nat × Nat) :=
  (List.range (cdiv total 4096)).map fun i =>
    (base + 4160 * i, 64 * max 1 (min 65 (rdNum s c (base + 4160 * i + 4) 2)))

/-- Restore a lossless stream into a tensor: LOSSLESS_CORRUPT where a segment fails (R231). -/
def unlosslessOut (s : State) (c : Nat) (face : Nat → Nat) (base : Nat) (d : Desc) (ext : List Nat) (out : List (Nat × Nat)) : Result :=
  match decodeTensor s c d.fmt base (rawStreamLen d.fmt ext) with
  | (_, some i) => { st := cruAdd (loseCtx s c out) (face i) cruCorrupt 1, status := 0x71, detail := base + 4160 * i }
  | (bs, none) => { st := applyPuts s c (rawPuts d ext (streamElem d.fmt ext bs)) }

/-! ### HCOPY (R164) -/

/-- Copy the blocks of a packed tensor unchanged. -/
def blockPuts (rd : Nat → Nat) (a b : Desc) (ext : List Nat) : List Put :=
  let n := 8 * ebits a.fmt
  ((crushBlocks a ext).zip (crushBlocks b ext)).map fun p => (p.2.1, 0, 8 * n, rdBytes rd p.1.1 n)

/-- The source record for the checks: a window source is named by its physical DA (R47). -/
def copySrc (e : Nat) : Rec :=
  if isWindow (envRec e 0) then { inRec e 0 haulerRegions with accOk := true, foot := some [] } else inRec e 0 haulerRegions

/-- The window rules of R23 and R47, as a failed address check of record 0. -/
def windowBad (s : State) (c e : Nat) : Bool :=
  let d := envRec e 0
  isWindow d && !(windowOpen s && (footprint d).all fun (a, n) => windowOk s c a n)

/-- The issue plan of an HCOPY on a Hauler of die `die` (R164). -/
def copyPlan (s : State) (c die e : Nat) : Plan :=
  let a := envRec e 0
  let b := envRec e 1
  let win := isWindow a
  { reserved := parZero e 0 0x40
    recs := [copySrc e, { outRec e 1 haulerRegions with accOk := win }]
    invalid := 0x80
    addrBad := if windowBad s c e then some 0 else none
    broken := a.rank ≠ b.rank || (match copyKind a b with
      | none => true
      | some k => usesCrusher k && 4 ≤ die)
    rels := (List.range 6).map fun k =>
      { dyn := true, plan := true, run := nth 1 (runExt s c a) k = nth 1 (runExt s c b) k }
    zeroExt := [runExt s c b] }

/-- The effect of an HCOPY at given run-time extents. -/
def copyEff (s : State) (c die e : Nat) (ext : List Nat) : Result :=
  let a := envRec e 0
  let b := envRec e 1
  let rd := rdCtx s c
  if isWindow a then
    let ks := windowKeys a ext
    if s.sumpBad.any ks.contains then
      { st := loseKeys (loseCtx s c (footprint b)) ks, status := 0x1F, acc := { sumpRd := windowRegions ks, sumpWr := windowRegions ks } }
    else { st := applyPuts s c (rawPuts b ext fun i => windowSlot s (elemAddr a i).1), acc := { sumpRd := windowRegions ks } }
  else
    match copyKind a b with
    | some .expand => let (t, f) := expandOut s c (fun _ => die) a b ext; { st := t, flags := f }
    | some .pack => let (t, f) := packOut s c (fun _ => die) b ext (valsOf s c a); { st := t, flags := f }
    | some .unlossless => unlosslessOut s c (fun _ => die) a.base b ext (footprint b)
    | some .lossless => { st := (encodeTensor s c (fun _ => die) b.fmt b.base (streamOf s c a ext)).1 }
    | some .blocks => { st := applyPuts s c (blockPuts rd a b ext) }
    | _ => { st := applyPuts s c (copyRows b ext (rawRowAt rd a)) }

/-- Bytes that an HCOPY reads. -/
def copyReads (s : State) (c e : Nat) (ext : List Nat) : List (Nat × Nat) :=
  let a := envRec e 0
  if isWindow a then []
  else if a.comp = 2 then encodedReads s c a.base (rawStreamLen a.fmt ext)
  else footAt a ext

/-- Bytes that an HCOPY writes; a lossless tensor's slots are written only as far as their encoded lines (R230). -/
def copyWrites (s : State) (c e : Nat) (ext : List Nat) : List (Nat × Nat) :=
  let b := envRec e 1
  if b.comp = 2 then encodedWrites b.fmt b.base (streamOf s c (envRec e 0) ext) else footAt b ext

/-- Begin the transfer of an HCOPY whose checks passed. -/
def copyBegin (s : State) (c die e : Nat) (ext : List Nat) : Result :=
  runAfter s c (copyPlan s c die e) (copyReads s c e ext) (copyWrites s c e ext) (fun s => copyEff s c die e ext)

/-! ### HSET (R165) -/

def setPlan (s : State) (c e : Nat) : Plan :=
  let d := envRec e 0
  { reserved := parZero e 4 0x40
    recs := [outRec e 0 haulerRegions]
    invalid := 0x80
    broken := d.comp ≠ 0 || isMx d.fmt
    zeroExt := [runExt s c d] }

/-- Begin an HSET: the low bits of PATTERN in every element, zero in the padding (R165). -/
def setBegin (s : State) (c e : Nat) (ext : List Nat) : Result :=
  let d := envRec e 0
  runAfter s c (setPlan s c e) [] (footAt d ext) (fun s => { st := applyPuts s c (rawPuts d ext fun _ => par e 0 4) })

/-! ### Hazard ranges (R166, R167) -/

/-- The lines from the lowest to the highest byte of a footprint (R166). -/
def hazardOf (ivs : List (Nat × Nat)) (write : Bool) : List Hazard :=
  match ivs with
  | [] => []
  | (a, n) :: r =>
    let lo := r.foldl (fun m p => min m p.1) a
    let hi := r.foldl (fun m p => max m (p.1 + p.2)) (a + n)
    [⟨lo / 64 * 64, cdiv hi 64 * 64, write⟩]

/-- The ranges an operation needs. -/
def needRanges (opcode e : Nat) : List Hazard :=
  if opcode = 0x80 then
    hazardOf (footprint (envRec e 1)) true ++
      (let a := envRec e 0; hazardOf (footprint a) false)
  else hazardOf (footprint (envRec e 0)) true

/-- Does a needed range conflict with a tracked one? -/
def rangesClash (need tracked : List Hazard) : Bool :=
  need.any fun a => tracked.any fun b => overlaps a.lo a.hi b.lo b.hi && (a.write || b.write)

/-- Faces whose engine 7 carries a stash operation's segments (R208): in its progress they follow the handle's entry and the six extents that its issue found. -/
def stashFaces (f : Flight) : List Nat := f.aux.drop 7

/-- Does an operation in flight use this Hauler: its own, or a stash segment on engine 7 of this Face (R208)? -/
def onEngine (inst : Nat) (f : Flight) : Bool :=
  (f.cls = ucHauler && f.op.inst = inst) || (f.cls = ucStash && inst / 8 = 7 && (stashFaces f).contains (inst % 8))

/-- The ranges that a Hauler tracks, of one context. -/
def trackedOf (x : Ctx) (inst : Nat) : List Hazard :=
  (x.flight.filter fun f => onEngine inst f && !f.held).flatMap (·.ranges)

/-- How many ranges a Hauler tracks for all contexts. -/
def trackedCount (s : State) (inst : Nat) : Nat := sumNat (s.ctxs.map fun x => (trackedOf x inst).length)

/-- Have an operation's ranges room on a Hauler (R167)? -/
def haveRoom (s : State) (inst : Nat) (need : List Hazard) : Bool := trackedCount s inst + need.length ≤ 64

/-- The first operation of a context that waits on a Hauler. -/
def firstHeld (x : Ctx) (inst : Nat) : Option Flight := x.flight.find? fun f => onEngine inst f && f.held

/-- Does an operation of another context stall the Hauler: it waits for more ranges than are free (R167)? -/
def stalledBy (s : State) (c inst : Nat) : Bool :=
  (List.range 8).any fun d => d ≠ c && (match firstHeld (ctxOf s d) inst with
    | some f => !haveRoom s inst f.ranges
    | none => false)

/-- May a transfer begin: no conflict within its context, room for its ranges, and no other context's operation that stalls the Hauler (R166, R167)? -/
def mayBegin (s : State) (c inst : Nat) (need : List Hazard) : Bool :=
  !rangesClash need (trackedOf (ctxOf s c) inst) && haveRoom s inst need && !stalledBy s c inst

/-- Is an earlier operation of the context's queue still waiting on this Hauler? -/
def anyHeld (s : State) (c inst : Nat) : Bool := (ctxOf s c).flight.any fun f => f.cls = ucHauler && f.op.inst = inst && f.held

/-- Issue on a Hauler: the operation begins, or waits with its run-time extents (R166). -/
def haulOrHold (s : State) (c : Nat) (q : QOp) (ext : List Nat) (acc : Access) (begin_ : State → List Nat → Result) : Result :=
  let need := needRanges q.opcode q.env
  if anyHeld s c q.inst || !mayBegin s c q.inst need then
    { st := s, ended := false, held := true, ranges := need, aux := ext, acc := acc }
  else { begin_ s ext with ranges := need }

/-- What an HCOPY reads and writes, for the races of one that waits (R154). -/
def copyAccess (s : State) (c e : Nat) (ext : List Nat) : Access :=
  let a := envRec e 0
  { rd := physPieces s c (copyReads s c e ext), wr := physPieces s c (footAt (envRec e 1) ext)
    sumpRd := if isWindow a then windowRegions (windowKeys a ext) else [] }

/-- HCOPY at its unit. -/
def bodyHcopy : Body := fun s c q =>
  match issueChecks s c (copyPlan s c (q.inst % 8) q.env) with
  | some (st, d) => reject s st d
  | none =>
    let ext := runExt s c (envRec q.env 1)
    haulOrHold s c q ext (copyAccess s c q.env ext) fun s x => copyBegin s c (q.inst % 8) q.env x

/-- HCOPY (R164): the head of a Hauler's queue; `die` and `engine` name the Hauler. -/
def execHcopy (c : Fin 8) (die : Fin 6) (engine : Fin 8) (aged : Bool) (s : State) : Host.Outcome State Fault Refusal :=
  .next (issueOp s c ucHauler (die + 8 * engine) aged (isOp 0x80) bodyHcopy)

/-- HSET at its unit. -/
def bodyHset : Body := fun s c q =>
  match issueChecks s c (setPlan s c q.env) with
  | some (st, d) => reject s st d
  | none =>
    let ext := runExt s c (envRec q.env 0)
    haulOrHold s c q ext { wr := physPieces s c (footAt (envRec q.env 0) ext) } fun s x => setBegin s c q.env x

/-- HSET (R165). -/
def execHset (c : Fin 8) (die : Fin 6) (engine : Fin 8) (aged : Bool) (s : State) : Host.Outcome State Fault Refusal :=
  .next (issueOp s c ucHauler (die + 8 * engine) aged (isOp 0x81) bodyHset)

/-- Begin the transfer of a waiting operation; where a race made its outputs unpredictable, it writes open values there (R154). -/
def beginHeld (s : State) (c : Nat) (f : Flight) : State :=
  let r := if f.op.opcode = 0x80 then copyBegin s c (f.op.inst % 8) f.op.env f.aux else setBegin s c f.op.env f.aux
  let done (g : Flight) : Flight := { g with status := r.status, flags := r.flags, detail := r.detail, ended := true, held := false }
  let t := if f.acc.raced then loseOutputs r.st f.acc else r.st
  updCtx t c fun x => { x with flight := updFirst (fun g => g.op.opIndex = f.op.opIndex) done x.flight }

end Sys2Proof.Machine
end

