-- ==== Sys2Proof/Machine/Levels.lean ====
section
/-! DEFINITION. Operating levels (R496 to R500): the cap in force, the level that each cause demands, clocks and rails, and what a change of levels does. -/

namespace Sys2Proof.Machine

/-! ### The table of levels (R498) -/

/-- QCLK of a level, MHz. -/
def levelQclk (l : Nat) : Nat := 1600 - 100 * min l 8
/-- FCLK of a level, MHz. -/
def levelFclk (l : Nat) : Nat := nth 900 [1800, 1700, 1600, 1450, 1350, 1250, 1100, 1000, 900] (min l 8)
/-- Rail offset of a level, mV. -/
def levelOffset (l : Nat) : Nat := 15 * min l 8
/-- Stream duty of a level, in sixteenths. -/
def levelDuty (l : Nat) : Nat := nth 16 [16, 16, 16, 16, 16, 16, 16, 16, 16, 12, 8, 6, 4] l
/-- The slowest level. -/
def levelTop : Nat := 12

/-- The fastest level whose clock does not exceed a limit (R499, cause 6). -/
def levelFor (clk : Nat → Nat) (limit : Nat) : Nat := ((List.range 9).find? fun l => clk l ≤ limit).getD 8

/-! ### The cap (R496) -/

/-- The cap in force in W: 57.3 A times the input voltage while that is below 48 V, if lower than the cap set. -/
def capInForce (s : State) : Nat := if s.pwr.vin < 4800 then min s.pwr.cap (573 * s.pwr.vin / 1000) else s.pwr.cap

/-! ### Levels (R499, R500) -/

/-- Level that the stacks of a Face demand: cause 4 (R315). -/
def stackLevel (s : State) (f : Nat) : Nat :=
  let t := max (nth 0 s.memS.stackStep (2 * f)) (nth 0 s.memS.stackStep (2 * f + 1))
  if t = 0 then 0 else if t = 1 then 2 else 5

/-- Level that a Face without a usable sensor is held at. -/
def sensorLevel (s : State) (f : Nat) : Nat := if nth false s.pwr.sensorFail f then levelTop else 0

/-- The Quarry level of a Face. -/
def lqOf (s : State) (f : Nat) : Nat :=
  [s.pwr.capLevel, nth 0 s.pwr.jLevel f, nth 0 s.pwr.nLq f, stackLevel s f, sensorLevel s f, levelFor levelQclk s.pwr.qMax].foldl max 0

/-- The vector level of a Face before cause 5. -/
def lfBase (s : State) (f : Nat) : Nat :=
  [s.pwr.capLevel, nth 0 s.pwr.jLevel f, nth 0 s.pwr.nLf f, stackLevel s f, sensorLevel s f,
    levelFor levelFclk (nth 1800 s.pwr.fMax f)].foldl max 0

/-- The global level G. -/
def globalLevel (s : State) : Nat := ((List.range 4).map (lqOf s)).foldl max 0

/-- Neighbouring Faces (R500). -/
def neighbours : List (Nat × Nat) := [(0, 1), (2, 3), (0, 2), (1, 3)]

/-- A Face's core rail under given vector levels: VCORE less the offset of min(G, L_F). -/
def railWith (s : State) (g : Nat) (lf : List Nat) (f : Nat) : Nat := nth 580 s.pwr.vcore f - levelOffset (min g (nth 0 lf f))

/-- Cause 5: while a neighbouring pair differs by more than 120 mV, the higher Face's L_F rises. -/
def railFix (s : State) (g : Nat) : Nat → List Nat → List Nat
  | 0, lf => lf
  | k + 1, lf =>
    match (neighbours ++ neighbours.map fun p => (p.2, p.1)).find? fun p => railWith s g lf p.2 + 120 < railWith s g lf p.1 with
    | some p => railFix s g k (updAt lf p.1 (· + 1))
    | none => lf

/-- The vector levels. -/
def lfList (s : State) : List Nat := railFix s (globalLevel s) 32 ((List.range 4).map (lfBase s))

/-- The vector level of a Face. -/
def lfOf (s : State) (f : Nat) : Nat := nth 0 (lfList s) f

/-- QCLK in MHz. -/
def qclkOf (s : State) : Nat := levelQclk (globalLevel s)
/-- FCLK of a Face in MHz. -/
def fclkOf (s : State) (f : Nat) : Nat := levelFclk (lfOf s f)
/-- VCLK in MHz (R505). -/
def vclkOf (s : State) : Nat := 1200 * qclkOf s / 1600
/-- The core rail set-point of a Face, mV. -/
def railOf (s : State) (f : Nat) : Nat := railWith s (globalLevel s) (lfList s) f

/-- The causes that demand a level above L0 of a Face: bit k − 1 for cause k. -/
def causesOf (s : State) (f : Nat) : Nat :=
  packBits [(b2n (0 < s.pwr.capLevel), 1), (b2n (0 < nth 0 s.pwr.jLevel f || nth false s.pwr.sensorFail f), 1),
    (b2n (0 < nth 0 s.pwr.nLf f || 0 < nth 0 s.pwr.nLq f), 1), (b2n (0 < stackLevel s f), 1),
    (b2n (lfBase s f < lfOf s f), 1),
    (b2n (0 < levelFor levelQclk s.pwr.qMax || 0 < levelFor levelFclk (nth 1800 s.pwr.fMax f)), 1)]

/-- What follows a change of the demands: level changes are counted and traced, and a THROTTLE event names the Faces and the cause (R437, R500, R513). -/
def levelChange (before : State) (cause : Nat) (s : State) : State :=
  let moved := (List.range 4).filter fun f => lqOf before f ≠ lqOf s f || lfOf before f ≠ lfOf s f
  if moved = [] then s
  else
    let s := { s with pwr := { s.pwr with steps := bump s.pwr.steps moved.length } }
    postEvent (traceState s 37 0xFF) 0x8A 0xFF 0 (sumNat (moved.map (2 ^ ·)) + cause * 256)

/-- Change the power registers. -/
def updPwr (s : State) (f : PwrS → PwrS) : State := { s with pwr := f s.pwr }

/-- A temperature in m°C as whole degrees: exact where it is whole, otherwise one of its neighbours. -/
def wholeCelsius (t : Int) : Int := t / 1000 + (if t % 1000 ≠ 0 && Config.celsiusUp t then 1 else 0)

/-! ### THERM_ALERT_N (R503) -/

/-- Does a condition of R503 hold? -/
def alertCond (s : State) : Bool :=
  s.pwr.jRow.any (fun t => 2 ≤ t) || s.memS.stackStep.any (fun t => 2 ≤ t) || s.pwr.emergency

/-- The pin is driven low under any condition; it is released by its own command. -/
def driveAlert (s : State) : State := if alertCond s then updPwr s fun p => { p with alert := true } else s

/-! ### LEDs (R545) -/

/-- State of an LED. -/
inductive Led where
  | off | on | blink1 | blink4
  deriving DecidableEq, Repr

/-- The PWR and ATTN LEDs. -/
def leds (s : State) : Led × Led :=
  if !s.aoc.on then (.off, .off)
  else
    let base : Led × Led := match s.mode with
      | .offOrReset => (.blink1, .off)
      | .startUp => (.blink1, if s.mbx.fwState = 3 then .blink4 else .off)
      | .relayAndReport => (.on, .off)
      | .serving => (.on, .off)
      | .relayOnly => (.on, .on)
    if s.pwr.emergency || s.pwr.tripped then (base.1, .blink4) else base

end Sys2Proof.Machine
end

