-- ==== Sys2Proof/Machine/Mailbox.lean ====
section
/-! DEFINITION. The Foreman mailbox: hardware registers and rings (R426 to R433), the order and checks of commands (R434 to R436, R440), and the rows that move commands and completions. -/

namespace Sys2Proof.Machine

/-! ### The host's way in (R426, R471) -/

/-- Change the mailbox. -/
def updMbx (s : State) (f : MbxS → MbxS) : State := { s with mbx := f s.mbx }

/-- A cause of MBX_IRQ that is set while enabled sends vector 0 when it is armed; when no enabled cause is left the vector is armed again (R426). -/
def irqUpdate (s : State) : State :=
  let m := s.mbx
  if m.irq &&& m.irqEn = 0 then updMbx s fun m => { m with armed := true }
  else if m.armed then updMbx s fun m => { m with armed := false, vectors := m.vectors + 1 }
  else s

/-- A change of FW_STATE or MODE (R426). -/
def fwStateChg (s : State) : State := raiseIrq s 3

/-- Set FW_STATE. -/
def setFwState (s : State) (v : Nat) : State :=
  if s.mbx.fwState = v then s else fwStateChg (updMbx s fun m => { m with fwState := v })

/-- MODE as MBX_STATUS shows it. -/
def modeCode : Mode → Nat
  | .offOrReset => 0
  | .startUp => 1
  | .relayAndReport => 2
  | .serving => 3
  | .relayOnly => 4

/-! ### Statuses (R436) -/

def msOk : Nat := 0x00
def msReserved : Nat := 0x02
def msAddress : Nat := 0x0C
def msBusy : Nat := 0xF0
def msCtxLimit : Nat := 0xF1
def msInvalid : Nat := 0xF2
def msConflict : Nat := 0xF3
def msResource : Nat := 0xF4
def msRejected : Nat := 0xF5
def msLocked : Nat := 0xF6
def msMode : Nat := 0xF7
def msFault : Nat := 0xF8
def msSuperseded : Nat := 0xF9

/-- Opcode of a command (R432). -/
def cmdOp (raw : Nat) : Nat := fld raw 0 1
/-- The context that a command names, 0xFF for none (R432). -/
def cmdCtx (raw : Nat) : Nat := fld raw 4 1

/-! ### Label requests (R450) -/

/-- Change the label. -/
def updLabel (s : State) (f : LabelS → LabelS) : State := { s with aoc := { s.aoc with label := f s.aoc.label } }

/-- A LABEL_UPDATE that waits for its drawing to begin. -/
def labelWaits (t : Cmd) : Bool := cmdOp t.raw = 0x14 && t.begun && t.ready.isNone && t.aux = []

/-- A request for a redraw replaces the pending one: a replaced LABEL_UPDATE completes with SUPERSEDED. -/
def requestLabel (s : State) : State :=
  let s := updMbx s fun m => { m with taken := m.taken.map fun t => if labelWaits t then { t with ready := some (msSuperseded, 0, 0) } else t }
  updLabel s fun l => { l with pend := true }

/-! ### Health (R522) -/

/-- The health code. -/
def healthCode (s : State) : Nat :=
  if s.mode = .startUp && s.mbx.fwState = 3 then 0x1F00
  else
    packBits [(b2n (s.quarry.colRepair ≠ 0), 1), (b2n (s.memS.rowsRecorded ≠ []), 1),
      (b2n (s.memS.mapped ≠ [] || s.flash.outChans ≠ []), 1),
      (b2n (s.fab.ports.any fun p => p.spareFor < 4 || (p.st = 2 && p.width = 2)), 1),
      (b2n s.memS.farWithdrawn, 1), (b2n (s.fenced ≠ [] || s.coresOff ≠ []), 1), (b2n s.ras.sevSeen, 1),
      (b2n (s.aoc.stuck.any id || s.aoc.buttonStuck), 1), (s.relayCause, 4), (modeCode s.mode, 4)]

/-- A change of the health code requests a label drawing (R521). -/
def withHealth (before s : State) : State := if healthCode before = healthCode s then s else requestLabel s

/-! ### Saves and restores that run (R461, R462) -/

/-- The number that stands for an operation's index in the transactions of a checkpoint command: above every OP_INDEX. -/
def ckptTag : Nat := 2 ^ 32

/-- A save or restore of a context that has begun and waits for the fabric. -/
def ckptWaits (c : Nat) (t : Cmd) : Bool :=
  (cmdOp t.raw = 0x28 || cmdOp t.raw = 0x29) && cmdCtx t.raw = c && t.begun && t.ready.isNone

/-- Does a save or restore of the context run? -/
def ckptBusy (s : State) (c : Nat) : Bool := s.mbx.taken.any (ckptWaits c)

/-- Change the operating mode: FW_STATE_CHG, the MODE_CHANGE event, and the label (R426, R437, R521). -/
def setMode (s : State) (m : Mode) (cause : Nat) : State :=
  if s.mode = m then s
  else withHealth s (postEvent (fwStateChg { s with mode := m }) 0x87 0xFF 0 (modeCode m + cause * 256))

/-! ### What the Foreman reaches (R429, R435) -/

def mboxBase : Nat := 0x80010000
def mboxSize : Nat := 0x10000

/-- Does a range lie in mailbox memory? -/
def inMbox (a n : Nat) : Bool := mboxBase ≤ a && a + n ≤ mboxBase + mboxSize

/-- Regions that the Foreman reaches in the current mode, beside mailbox memory: in relay-only the memories have no power, and the host window needs the link. -/
def foremanRegions (s : State) : List Region :=
  (if s.mode = .relayOnly then [] else [.near, .far, .stockpile]) ++ (if s.hostUp then [.host] else [])

/-- May the Foreman access a physical range: mailbox memory, or one region that it reaches (R21, R435)? -/
def fwPhysOk (s : State) (reach : List Region) (a n : Nat) : Bool :=
  inMbox a n ||
    (match regionOf s a with
     | none => false
     | some r => reach.contains r &&
        (pieces a n).all fun (p, m) => regionOf s p = some r && regionOf s (p + m - 1) = some r && !(r = .stockpile && retOf s p = 2))

/-- May a command's access go ahead: physical for CTX 0xFF, through the context's map otherwise (R435)? -/
def fwOk (s : State) (ctx a n : Nat) (write : Bool) : Bool :=
  n = 0 || (if 8 ≤ ctx then fwPhysOk s (foremanRegions s) a n else footOk s ctx (foremanRegions s) (!write) write [(a, n)])

/-- Physical pieces of a command's range. -/
def fwPieces (s : State) (ctx a n : Nat) : List (Nat × Nat) := if 8 ≤ ctx then pieces a n else physPieces s ctx [(a, n)]

/-- Read a command's range. -/
def fwRead (s : State) (ctx a n : Nat) : Nat := if 8 ≤ ctx then rdPhys s a n else rdNum s ctx a n

/-- Write a command's range. -/
def fwWrite (s : State) (ctx a v n : Nat) : State :=
  let ps := fwPieces s ctx a n
  let s := noteTraffic (clearBad s ps) [] ps
  if 8 ≤ ctx then wrPhys s a v n else wrNum s ctx a v n

/-- The destination of a failed write is unpredictable (R436). -/
def fwLose (s : State) (ctx a n : Nat) : State := if 8 ≤ ctx then loseRange s a (a + n) else loseCtx s ctx [(a, n)]

/-! ### The work of a command -/

/-- What a command's work answers: the new state, STATUS, DETAIL and RESULT, or that it still waits, with what for. -/
structure CmdOut where
  st : State
  status : Nat := 0
  detail : Nat := 0
  result : Nat := 0
  wait : Bool := false
  aux : List Nat := []

/-- A command that fails and changes nothing. -/
def cmdFail (s : State) (status detail : Nat) : CmdOut := { st := s, status := status, detail := detail }

/-- Checks of a command, the first failure reported; then its work. -/
def cmdTry (s : State) (checks : List (Option (Nat × Nat))) (work : State → CmdOut) : CmdOut :=
  match firstSome checks with
  | some (st, d) => cmdFail s st d
  | none => work s

/-- A check. -/
def chk (bad : Bool) (status detail : Nat) : Option (Nat × Nat) := if bad then some (status, detail) else none

/-- A range that the command reads is checked and read; an uncorrectable line gives CMD_FAULT (R435, R436). -/
def srcChk (s : State) (ctx a n off : Nat) : Option (Nat × Nat) := chk (!fwOk s ctx a n false) msAddress off

/-- The faulty line of a range. -/
def srcFault (s : State) (ctx a n : Nat) : Option (Nat × Nat) := (badTouched s (fwPieces s ctx a n)).map fun l => (msFault, l)

/-- A range that the command writes. -/
def dstChk (s : State) (ctx a n off : Nat) : Option (Nat × Nat) := chk (!fwOk s ctx a n true) msAddress off

/-- Write a command's destination: a fault leaves it unpredictable and ends with CMD_FAULT (R436). -/
def dstWrite (s : State) (ctx a v n result : Nat) : CmdOut :=
  match badPartly s (fwPieces s ctx a n) with
  | some l => { st := fwLose (countUe s l) ctx a n, status := msFault, detail := l }
  | none => { st := fwWrite s ctx a v n, result := result }

/-! ### Commands (R431, R434, R440) -/

def cmdIrq (raw : Nat) : Bool := bit (fld raw 1 1) 0
def cmdTag (raw : Nat) : Nat := fld raw 2 2

/-- Which CTX values a command takes: none (0xFF), a context or none, a context. -/
inductive CtxKind where
  | none | either | ctx
  deriving DecidableEq, Repr

/-- A row of *Foreman commands*: acceptance in relay-only, CTX, and its parameter bytes as (offset, length). -/
structure CmdRow where
  relay : Bool
  ctx : CtxKind
  used : List (Nat × Nat)

/-- The row of a command; none for a reserved opcode (R440). -/
def cmdRow (raw : Nat) : Option CmdRow :=
  match cmdOp raw with
  | 0x01 => some ⟨true, .none, [(8, 8)]⟩
  | 0x02 => some ⟨true, .none, [(8, 8)]⟩
  | 0x03 => some ⟨true, .none, [(8, 2)]⟩
  | 0x04 => some ⟨false, .none, [(8, 2), (16, 8)]⟩
  | 0x08 => some ⟨true, .none, [(8, 1), (16, 8), (24, 4)]⟩
  | 0x09 => some ⟨true, .none, [(8, 1)]⟩
  | 0x0A => some ⟨true, .none, [(8, 1)]⟩
  | 0x0C => some ⟨true, .none, [(8, 2)]⟩
  | 0x0D => some ⟨true, .none, [(8, 2), (12, 4), (16, 1)]⟩
  | 0x10 => some ⟨false, .none, [(8, 3)]⟩
  | 0x11 => some ⟨fld raw 8 1 = 3, .none, [(8, 3)]⟩
  | 0x14 => some ⟨true, .none, [(8, 1), (16, 32)]⟩
  | 0x18 => some ⟨false, .either, [(8, 8)]⟩
  | 0x19 => some ⟨false, .ctx, []⟩
  | 0x1A => some ⟨true, .ctx, []⟩
  | 0x1B => some ⟨false, .ctx, [(8, 2), (16, 8)]⟩
  | 0x20 => some ⟨false, .ctx, [(8, 8)]⟩
  | 0x21 => some ⟨false, .ctx, [(8, 1)]⟩
  | 0x22 => some ⟨false, .ctx, [(8, 4), (16, 8)]⟩
  | 0x23 => some ⟨false, .ctx, [(8, 4), (16, 8)]⟩
  | 0x24 => some ⟨false, .ctx, [(8, 2), (12, 4), (16, 8)]⟩
  | 0x25 => some ⟨false, .ctx, [(8, 2), (12, 4), (16, 8)]⟩
  | 0x26 => some ⟨false, .ctx, [(8, 8), (16, 8)]⟩
  | 0x28 => some ⟨false, .ctx, [(8, 8)]⟩
  | 0x29 => some ⟨false, .ctx, [(8, 9)]⟩
  | 0x30 => some ⟨true, .either, [(8, 8), (16, 4)]⟩
  | 0x31 => some ⟨true, .either, [(8, 4), (16, 8)]⟩
  | 0x32 => some ⟨false, .either, [(8, 2), (16, 8)]⟩
  | 0x33 => some ⟨true, .none, [(8, 2)]⟩
  | 0x38 => some ⟨true, .either, [(8, 8)]⟩
  | 0x39 => some ⟨true, .none, [(8, 3)]⟩
  | 0x3C => some ⟨true, .none, [(8, 8), (16, 16)]⟩
  | 0x3D => some ⟨true, .none, [(8, 1)]⟩
  | 0x40 => some ⟨true, .either, [(8, 6), (16, 8)]⟩
  | 0x44 => some ⟨true, .none, [(8, 2)]⟩
  | 0x45 => some ⟨false, .none, [(8, 3)]⟩
  | _ => none

/-- The number of actions of a command that names its action in byte `off`; none for the others. -/
def cmdActions (raw : Nat) : Option (Nat × Nat) :=
  match cmdOp raw with
  | 0x11 => some (8, 3)
  | 0x21 => some (8, 3)
  | 0x32 => some (9, 2)
  | 0x33 => some (9, 3)
  | 0x3D => some (8, 3)
  | _ => none

/-- Does a command name no command of the table: a reserved opcode, or an action out of range? -/
def noSuchCmd (raw : Nat) : Bool :=
  (cmdRow raw).isNone || (match cmdActions raw with
    | some (o, n) => fld raw o 1 = 0 || n < fld raw o 1
    | none => false)

/-- First reserved byte that is not zero. -/
def cmdReserved (r : CmdRow) (raw : Nat) : Option Nat :=
  if fld raw 1 1 ≥ 2 then some 1
  else (List.range 64).find? fun o => 5 ≤ o && (o < 8 || !r.used.any fun u => u.1 ≤ o && o < u.1 + u.2) && fld raw o 1 ≠ 0

/-- The checks that every command passes first (R440): opcode, mode, reserved bytes, CTX. -/
def cmdChecks (s : State) (raw : Nat) : Option (Nat × Nat) :=
  match cmdRow raw with
  | none => some (msReserved, 0)
  | some r =>
    let c := cmdCtx raw
    firstSome [chk (s.mode = .relayOnly && !r.relay) msMode 0, (cmdReserved r raw).map fun o => (msReserved, o),
      chk (match r.ctx with
        | .none => c ≠ 0xFF
        | .either => 8 ≤ c && c ≠ 0xFF
        | .ctx => 8 ≤ c) msInvalid 4,
      match cmdActions raw with
      | some (o, n) => chk (fld raw o 1 = 0 || n < fld raw o 1) msInvalid o
      | none => none]

/-- The target of a command (R434); none for those that never wait. -/
def cmdTarget (raw : Nat) : Option Nat :=
  let op := cmdOp raw
  if [0x01, 0x02, 0x03, 0x38, 0x40].contains op || (cmdRow raw).isNone then none
  else if op = 0x18 then some 8
  else if cmdCtx raw < 8 then some (cmdCtx raw)
  else if op = 0x04 then some 9
  else if op = 0x39 then some 10
  else if op = 0x0C || op = 0x0D then some 11
  else if op = 0x14 then some 12
  else if op = 0x11 then some 13
  else if op = 0x3C || op = 0x3D then some 14
  else if op = 0x44 || op = 0x45 then some 15
  else if 0x08 ≤ op && op ≤ 0x0A then some (16 + fld raw 8 1)
  else if 0x30 ≤ op && op ≤ 0x33 then some 300
  else if op = 0x10 then some (1024 + fld raw 8 2)
  else none

/-- May a command begin although an earlier one of its target is still at work: it is then refused with REGION_BUSY or replaces it (R434)? -/
def overtakes (raw : Nat) : Bool := [0x08, 0x09, 0x0D, 0x14, 0x28, 0x29, 0x30].contains (cmdOp raw)

/-- May the command at a place begin: every earlier one of its target has begun, and has finished unless this one may overtake it (R434)? -/
def cmdMayBegin (s : State) (i : Nat) : Bool :=
  match s.mbx.taken[i]? with
  | none => false
  | some t =>
    !t.begun && s.mbx.fwState = 2 && (match cmdTarget t.raw with
      | none => true
      | some g => (s.mbx.taken.take i).all fun u => cmdTarget u.raw ≠ some g || (u.begun && overtakes t.raw))

/-- Is an earlier command of the same target, of one of these opcodes, still at work? -/
def earlierRuns (s : State) (i : Nat) (raw : Nat) (ops : List Nat) : Bool :=
  (s.mbx.taken.take i).any fun u => u.begun && cmdTarget u.raw = cmdTarget raw && ops.contains (cmdOp u.raw)

/-- Change a taken command. -/
def updCmd (s : State) (i : Nat) (f : Cmd → Cmd) : State := updMbx s fun m => { m with taken := updAt m.taken i f }

/-- What a command reads from memory: its block or source (R435). -/
def cmdReads (s : State) (raw : Nat) : List (Nat × Nat) :=
  let c := cmdCtx raw
  let src := fld raw 0x10 8
  match cmdOp raw with
  | 0x08 => fwPieces s 0xFF src (fld raw 0x18 4)
  | 0x18 => fwPieces s 0xFF (fld raw 8 8) 2560
  | 0x1B => fwPieces s 0xFF src (32 * fld raw 9 1)
  | 0x23 => fwPieces s 0xFF src (4 * fld raw 10 2)
  | 0x25 => fwPieces s 0xFF src (64 * fld raw 12 4)
  | 0x26 => fwPieces s 0xFF src (128 * fld raw 12 4)
  | 0x28 => fwPieces s c (fld raw 8 8) 4096
  | 0x30 => fwPieces s c (fld raw 8 8) (fld raw 0x10 4)
  | 0x31 => fwPieces s c src (8 * fld raw 10 2)
  | 0x32 => fwPieces s c src 96
  | _ => []

/-- A command that succeeds has read its source. -/
def noteCmd (s : State) (raw : Nat) (r : CmdOut) : CmdOut :=
  if r.status = 0 then { r with st := noteTraffic r.st (cmdReads s raw) [] } else r

/-- Record what a command's work answered. -/
def cmdRecord (i : Nat) (r : CmdOut) : State :=
  updCmd r.st i fun t => { t with begun := true, ready := if r.wait then none else some (r.status, r.detail, r.result), aux := r.aux }

/-- The shared meaning of every command row: the taken command at a place begins when it is of the row's kind and its turn has come; it is checked, and does its work (R434, R440). -/
def runCmd (s : State) (i op : Nat) (kind : Nat → Bool) (work : State → Nat → CmdOut) : State :=
  match s.mbx.taken[i]? with
  | none => s
  | some t =>
    if cmdOp t.raw = op && kind t.raw && cmdMayBegin s i then
      let s := traceState s 40 (cmdCtx t.raw)
      cmdRecord i (match cmdChecks s t.raw with
        | some (st, d) => cmdFail s st d
        | none => noteCmd s t.raw (work s t.raw))
    else s

/-! ### Rings (R430 to R433) -/

def sqSize (m : MbxS) : Nat := 2 ^ m.sqLog2
def cqSize (m : MbxS) : Nat := 2 ^ m.cqLog2

/-- Regions that may hold a ring (R430). -/
def ringRegions (s : State) : List Region := (foremanRegions s).filter fun r => r = .near || r = .host

/-- Does the Foreman accept a ring: aligned to its size, wholly in one place it reaches (R430)? -/
def ringOk (s : State) (base n : Nat) : Bool := base % n = 0 && fwPhysOk s (ringRegions s) base n

/-- The Foreman takes commands while R433 permits. -/
def takeCmds : Nat → State → State
  | 0, s => s
  | k + 1, s =>
    let m := s.mbx
    if m.enable && m.checked && m.fwState = 2 && m.sqHead ≠ m.sqTail && outstanding m < 64 && outstanding m + 2 ≤ cqFree m then
      let da := m.sqBase + 64 * m.sqHead
      if (badTouched s [(da, 64)]).isSome then loseRings s
      else
        takeCmds k (updMbx (noteTraffic s [(da, 64)] []) fun m =>
          { m with sqHead := (m.sqHead + 1) % sqSize m, taken := m.taken ++ [⟨rdPhys s da 64, false, false, none, []⟩] })
    else s

/-- Take all that R433 permits: never more than 64. -/
def pumpSq (s : State) : State := takeCmds 64 s

/-- The Foreman acts on an enable: both rings are checked, and a bad one clears ENABLE and sets RING_ERR; waiting CTX_ENDED events follow (R428, R430). -/
def actOnEnable (s : State) : State :=
  let m := s.mbx
  if !m.enable || m.checked || m.fwState ≠ 2 then s
  else if ringOk s m.sqBase (64 * sqSize m) && ringOk s m.cqBase (32 * cqSize m) then
    let s1 := updMbx s fun m => { m with checked := true, ended := [] }
    pumpSq (m.ended.foldl (fun s c => postEvent s 0x8B c 0 1) s1)
  else raiseIrq (updMbx s fun m => { m with enable := false }) 2

/-- The Foreman begins to serve: an enable latched before is acted on now (R427). -/
def foremanServes (s : State) : State := pumpSq (actOnEnable s)

/-- SQ_DOORBELL (R431): a write of MBX_SQ_TAIL; an index at or above the ring's size is ignored with RING_ERR. -/
def execSqDoorbell (value : BitVec 64) (s : State) : Host.Outcome State Fault Refusal :=
  if !barOn s then .next s
  else
    let i := value.toNat % 4096
    if sqSize s.mbx ≤ i then .next (raiseIrq s 2)
    else .next (pumpSq (updMbx s fun m => { m with sqTail := i }))

/-- CQ_DOORBELL (R431): a write of MBX_CQ_HEAD; an index outside head to tail, cyclically, is ignored with RING_ERR. -/
def execCqDoorbell (value : BitVec 64) (s : State) : Host.Outcome State Fault Refusal :=
  if !barOn s then .next s
  else
    let m := s.mbx
    let n := cqSize m
    let i := value.toNat % 4096
    if n ≤ i || (m.cqTail + n - m.cqHead) % n < (i + n - m.cqHead) % n then .next (raiseIrq s 2)
    else .next (pumpSq (updMbx s fun m => { m with cqHead := i }))

/-- A size field of MBX_CTRL: values outside 4 to 12 leave it as it is. -/
def logField (old v : Nat) : Nat := if 4 ≤ v && v ≤ 12 then v else old

/-- The write-1-to-clear bit of MBX_CTRL. -/
def clearRingLost (s : State) (v : Nat) : State :=
  if bit v 16 then updMbx s fun m => { m with ringLost := false } else s

/-- RING_ENABLE (R430): a write of MBX_CTRL that takes ENABLE from 0 to 1; ignored while a command is outstanding. -/
def execRingEnable (value : BitVec 64) (s : State) : Host.Outcome State Fault Refusal :=
  let v := value.toNat
  if !barOn s || !bit v 0 then .next s
  else
    let s := clearRingLost s v
    if s.mbx.enable || s.mbx.taken ≠ [] then .next s
    else
      .next (actOnEnable (updMbx s fun m =>
        { m with enable := true, checked := false, sqLog2 := logField m.sqLog2 (bits v 8 4), cqLog2 := logField m.cqLog2 (bits v 12 4)
                 sqTail := 0, sqHead := 0, cqTail := 0, cqHead := 0, phase := true }))

/-- RING_DISABLE (R430): a write of MBX_CTRL with ENABLE 0: no more commands are taken, and completions of those taken are discarded. -/
def execRingDisable (value : BitVec 64) (s : State) : Host.Outcome State Fault Refusal :=
  let v := value.toNat
  if !barOn s || bit v 0 then .next s
  else
    let s := clearRingLost s v
    if s.mbx.enable then
      .next (updMbx s fun m => { m with enable := false, checked := false, taken := m.taken.map fun t => { t with discard := true } })
    else .next (updMbx s fun m => { m with sqLog2 := logField m.sqLog2 (bits v 8 4), cqLog2 := logField m.cqLog2 (bits v 12 4) })

/-- MBX_IRQ_CLEAR (R426): ones clear causes; with no enabled cause left, the vector is armed. -/
def execMbxIrqClear (value : BitVec 64) (s : State) : Host.Outcome State Fault Refusal :=
  if !barOn s then .next s
  else .next (irqUpdate (updMbx s fun m => { m with irq := m.irq &&& ~~~(value &&& 0xF) }))

/-- EVENTS_LOST (R439): while C ≥ O + 1, the counts of lost events are posted and set to 0. -/
def execEventsLost (s : State) : Host.Outcome State Fault Refusal :=
  let m := s.mbx
  if m.enable && m.checked && m.fwState = 2 && m.lost.any (0 < ·) && outstanding m + 1 ≤ cqFree m then
    let s' := postEntry s 0 0 0x8F 0xFF 0 (packBits (m.lost.map fun n => (min n 255, 8)))
    if s'.mbx.enable then .next (raiseIrq (updMbx s' fun m => { m with lost := List.replicate 12 0 }) 1) else .next s'
  else .next s

/-! ### Completion (R432, R433) -/

/-- Post the completion of the command at a place: discarded after a disable, else an entry, with the CQ cause where the IRQ flag asks (R430, R432). -/
def postCompletion (s : State) (i : Nat) (t : Cmd) (r : Nat × Nat × Nat) : State :=
  let gone (s : State) : State := updMbx s fun m => { m with taken := m.taken.eraseIdx i }
  if t.discard || !s.mbx.enable then gone s
  else
    let s' := gone (postEntry s (cmdTag t.raw) r.1 (cmdOp t.raw) (cmdCtx t.raw) r.2.1 r.2.2)
    if cmdIrq t.raw && s'.mbx.enable then raiseIrq s' 0 else s'

end Sys2Proof.Machine
end

