-- ==== Sys2Proof/Machine/Link.lean ====
section
/-! DEFINITION. The Jalpin ports: packets (R377), the link layer with its credits (R374 to R376), lanes and widths (R372, R373), routing (R382 to R387, R389), and sending. -/

namespace Sys2Proof.Machine

/-! ### Packets (R377) -/

def pkType (p : Pkt) : Nat := fld p.hdr 0x00 1
def pkFlags (p : Pkt) : Nat := fld p.hdr 0x01 1
def pkHops (p : Pkt) : Nat := fld p.hdr 0x02 1
def pkDst (p : Pkt) : Nat := bits (fld p.hdr 0x04 2) 0 15
def pkSrc (p : Pkt) : Nat := bits (fld p.hdr 0x06 2) 0 15
def pkDa (p : Pkt) : Nat := bits (fld p.hdr 0x08 8) 0 48
def pkTag (p : Pkt) : Nat := fld p.hdr 0x10 4
def pkLen (p : Pkt) : Nat := fld p.hdr 0x14 2
def pkEfmt (p : Pkt) : Nat := fld p.hdr 0x16 1
def pkAstat (p : Pkt) : Nat := fld p.hdr 0x17 1
def pkAux (p : Pkt) : Nat := fld p.hdr 0x18 4
def pkJob (p : Pkt) : Nat := fld p.hdr 0x1C 2

def ptWrite : Nat := 0x01
def ptReadReq : Nat := 0x02
def ptReadRsp : Nat := 0x03
def ptAck : Nat := 0x04
def ptSignal : Nat := 0x05
def ptColl : Nat := 0x06
def ptCtrl : Nat := 0x07

/-- ACK statuses. -/
def ackOk : Nat := 0
def ackRefused : Nat := 1
def ackNoRoute : Nat := 2
def ackProxied : Nat := 3

/-- What a source puts into a packet (R377). -/
structure PkArgs where
  ptype : Nat
  dst : Nat
  da : Nat := 0
  tag : Nat := 0
  len : Nat := 0
  efmt : Nat := 0
  astat : Nat := 0
  aux : Nat := 0
  job : Nat := 0
  pay : Nat := 0

/-- A packet of this module: HOPS from the fabric record, PFLAGS 0. -/
def mkPkt (s : State) (a : PkArgs) : Pkt :=
  { hdr := packBits [(a.ptype, 8), (0, 8), (s.fab.hopLimit, 8), (0, 8), (a.dst, 16), (s.fab.node, 16), (a.da, 48), (0, 16),
      (a.tag, 32), (a.len, 16), (a.efmt, 8), (a.astat, 8), (a.aux, 32), (a.job, 16), (0, 16)]
    pay := a.pay % 2 ^ (8 * a.len) }

/-- The traffic class of a packet type (R376). -/
def pkClass (p : Pkt) : Nat :=
  if pkType p = ptReadRsp || pkType p = ptAck then 1 else if pkType p = ptColl then 2 else if pkType p = ptCtrl then 3 else 0

/-- A REQ packet. -/
def isReq (p : Pkt) : Bool := pkClass p = 0

/-- The virtual channel of a packet (R376). -/
def pkVc (p : Pkt) : Nat := 2 * pkClass p + bits (pkFlags p) 0 1

/-- A header that R377 allows: a listed type, no reserved bit, a LEN within its row. -/
def pkOk (p : Pkt) : Bool :=
  let l := pkLen p
  1 ≤ pkType p && pkType p ≤ 7 && bits (pkFlags p) 5 3 = 0 && fld p.hdr 3 1 = 0 &&
  !bit (fld p.hdr 4 2) 15 && !bit (fld p.hdr 6 2) 15 && fld p.hdr 0x0E 2 = 0 && fld p.hdr 0x1E 2 = 0 &&
  l % 16 = 0 && l ≤ 4096 &&
  (if pkType p = ptWrite || pkType p = ptReadRsp then 16 ≤ l
   else if pkType p = ptReadReq || pkType p = ptAck || pkType p = ptSignal then l = 0 else true) &&
  (pkType p = ptColl || pkEfmt p = 0) && (pkType p = ptColl || pkType p = ptAck || pkAstat p = 0) &&
  (!(pkType p = ptReadReq) || (16 ≤ pkAux p && pkAux p ≤ 65536 && pkAux p % 16 = 0)) &&
  (!(pkType p = ptWrite) || pkAux p = 0) && (!(pkType p = ptSignal) || (pkAux p < 4096 && pkDa p < 2 ^ 32)) &&
  (!(pkType p = ptCtrl) || pkDa p = 0)

/-- Set the routing fields of a header. -/
def setRoute (p : Pkt) (flags hops : Nat) : Pkt := { p with hdr := setFld (setFld p.hdr 1 1 flags) 2 1 hops }

/-! ### Counters and error reports -/

/-- The fabric counters of R402, in register order. -/
def fcReplayed : Nat := 0
def fcFecUncorr : Nat := 1
def fcLaneSwaps : Nat := 2
def fcTransit : Nat := 3
def fcNoRoute : Nat := 4
def fcThrottled : Nat := 5
def fcJouTx : Nat := 6
def fcJouRx : Nat := 7
def fcJouRetx : Nat := 8
def fcTunnelDown : Nat := 9
def fcSbrBad : Nat := 10
def fcSbrTime : Nat := 11

/-- Change the fabric. -/
def updFab (s : State) (f : FabS → FabS) : State := { s with fab := f s.fab }

/-- Add to a fabric counter. -/
def fabCount (s : State) (i n : Nat) : State := updFab s fun f => { f with perf := perfAdd f.perf i n }

/-- Report an error event whose instance and INFO the manual leaves open (R514). -/
def logErr (s : State) (cls sev src ctx key : Nat) : State :=
  reportError { s with free := s.free + 1 }
    ⟨cls, sev, src, (Config.errorInstance cls key).toNat, ctx, key, (Config.freeWord s.free).toNat⟩

/-! ### Ports (R372 to R376, R385) -/

/-- A port that is down. -/
def noPort : Port := resetPort

/-- A port. -/
def portOf (s : State) (p : Nat) : Port := nth noPort s.fab.ports p

/-- Change a port. -/
def updPort (s : State) (p : Nat) (f : Port → Port) : State := updFab s fun x => { x with ports := updAt x.ports p f }

/-- Is a port in the candidate sets: up, and its peer assigned (R385, R389)? -/
def portUp (s : State) (p : Nat) : Bool := (portOf s p).st = 2 && !(portOf s p).peerUnassigned

/-- Bytes of a frame that carries a packet (R374). -/
def linkFrameBytes (p : Pkt) : Nat := 48 + pkLen p

/-- Credits a packet's frame spends (R376). -/
def creditsOf (p : Pkt) : Nat := cdiv (32 + pkLen p + 16) 64

/-- The link header that a port sends, with its acknowledgement and the credits of the lowest VC that has some to return (R374, R375). -/
def linkHdr (p : Port) (ftype vc seq flen : Nat) : Nat :=
  let cr := (List.range 8).find? fun v => nth 0 p.owed v ≠ 0
  packBits [(ftype, 4), (vc, 3), (0, 1), (seq, 12), ((p.expect + 4095) % 4096, 12), (cr.getD 0, 3), (b2n cr.isSome, 1),
    (match cr with | some v => nth 0 p.owed v | none => 0, 12), (flen, 9)]

/-- Sending a frame returns the credits its header carries. -/
def sendFrame (p : Port) (ftype vc seq flen : Nat) : Port :=
  let cr := (List.range 8).find? fun v => nth 0 p.owed v ≠ 0
  { p with lastTx := linkHdr p ftype vc seq flen
           owed := match cr with
             | some v => updAt p.owed v fun n => n - min n 4095
             | none => p.owed }

/-- Bytes in the replay buffer. -/
def replayBytes (p : Port) : Nat := sumNat (p.replay.map fun r => linkFrameBytes r.2)

/-- May a packet's frame be sent now: credits on its VC, room in the replay buffer, fewer than 2,047 frames unacknowledged (R375, R376)? -/
def canSend (p : Port) (k : Pkt) : Bool :=
  creditsOf k ≤ nth 0 p.credits (pkVc k) && p.replay.length < 2047 && replayBytes p + linkFrameBytes k ≤ 524288

/-- Frame one packet: it takes the next SEQ and stays in the replay buffer. -/
def framePkt (p : Port) (k : Pkt) : Port :=
  let p := sendFrame p 0 (pkVc k) p.next ((32 + pkLen k) / 16)
  { p with next := (p.next + 1) % 4096, replay := p.replay ++ [(p.next, k)]
           credits := updAt p.credits (pkVc k) (· - creditsOf k) }

/-- Send what a port's packets, credits and replay buffer allow, each VC in order. -/
def pumpPort (p : Port) : Port :=
  if p.st ≠ 2 then p
  else
    let r := p.egress.foldl (fun (a : Port × List EgPkt × List Nat) g =>
      if !a.2.2.contains (pkVc g.pkt) && canSend a.1 g.pkt then (framePkt a.1 g.pkt, a.2.1, a.2.2)
      else (a.1, a.2.1 ++ [g], a.2.2 ++ [pkVc g.pkt])) ({ p with egress := [] }, [], [])
    { r.1 with egress := r.2.1 }

/-! ### Routing (R382 to R387) -/

/-- Where a packet leaves. -/
inductive Way where
  | port (p : Nat) (k : Pkt)
  | tunnel (t : Nat)
  | noRoute
  deriving DecidableEq, Repr

/-- Route table entry of a node (R382). -/
def routeEntry (s : State) (n : Nat) : Nat := smGet 0 s.fab.routes n

/-- Among candidate ports, the one with the most credits free on a VC, the lowest number on a tie (R383). -/
def bestPort (s : State) (ps : List Nat) (vc : Nat) : Option Nat :=
  ps.foldl (fun (b : Option Nat) p =>
    match b with
    | none => some p
    | some q => if nth 0 (portOf s q).credits vc < nth 0 (portOf s p).credits vc then some p else some q) none

/-- The up ports of a mask. -/
def upPorts (s : State) (mask : Nat) : List Nat := (List.range 16).filter fun p => bit mask p && portUp s p

/-- Coordinate of a node in a dimension (R384). -/
def coordOf (ext : List Nat) (n d : Nat) : Nat := n / (ext.take d).foldl (· * ·) 1 % nth 1 ext d

/-- The up ports of a torus direction (R384). -/
def dirPorts (s : State) (d : Nat) (neg : Bool) : List Nat :=
  (List.range 16).filter fun p =>
    let c := (portOf s p).cfg / 256 % 256
    bit c 7 && bits c 0 2 = d && bit c 2 == neg && portUp s p

/-- PFLAGS from its fields. -/
def mkFlags (dl rev neg : Bool) (dim : Nat) : Nat := packBits [(b2n dl, 1), (b2n rev, 1), (b2n neg, 1), (dim, 2)]

/-- Torus routing (R384): the port and the PFLAGS that the packet takes. -/
def torusWay (s : State) (own : Bool) (k : Pkt) : Option (Nat × Nat) :=
  let ext := s.fab.ext
  let here (d : Nat) := coordOf ext s.fab.node d
  let there (d : Nat) := coordOf ext (pkDst k) d
  if (ext.foldl (· * ·) 1) ≤ pkDst k then none
  else
    match (List.range ext.length).find? fun d => here d ≠ there d with
    | none => none
    | some d =>
      let f := pkFlags k
      let n := nth 1 ext d
      let plus := (there d + n - here d) % n
      let fresh := own || bits f 3 2 ≠ d
      let want := if fresh then n - plus < plus else bit f 2
      let neg := if fresh && dirPorts s d want = [] then !want else want
      let dl := if fresh then false else bit f 0
      let rev := if fresh then false else bit f 1
      let go (neg rev : Bool) : Option (Nat × Nat) :=
        let wrap := if neg then here d = 0 else here d + 1 = n
        let dl := dl || wrap
        (bestPort s (dirPorts s d neg) (2 * pkClass k + b2n dl)).map fun p => (p, mkFlags dl rev neg d)
      if dirPorts s d neg ≠ [] then go neg rev
      else if !rev && dirPorts s d (!neg) ≠ [] then go (!neg) true
      else none

/-- Can a packet pass between the two IODs: the link domains and networks of one route powered (R387)? -/
def transitOk (s : State) : Bool := (domIsOn s 9 && domIsOn s 19) || (domIsOn s 29 && domIsOn s 39)

/-- The way of a packet that this module does not deliver (R382 to R384, R387, R389). `from_` is the IOD it is on. -/
def wayOf (s : State) (own : Bool) (from_ : Nat) (k : Pkt) : Way :=
  let e := routeEntry s (pkDst k)
  let via (p : Nat) (k : Pkt) : Way := if p / 8 = from_ || transitOk s then .port p k else .noRoute
  if !s.fab.recValid || !bit e 63 then .noRoute
  else if bit e 34 then .tunnel (bits e 40 6)
  else if bit e 33 then
    match torusWay s own k with
    | some (p, f) => if s.fab.torus then via p (setRoute k f (pkHops k)) else .noRoute
    | none => .noRoute
  else
    let c := upPorts s (bits e 0 16)
    let c := if c = [] then upPorts s (bits e 16 16) else c
    let f := if bit e 32 then pkFlags k ||| 1 else pkFlags k
    match bestPort s c (2 * pkClass k + bits f 0 1) with
    | some p => via p (setRoute k f (pkHops k))
    | none => .noRoute

/-! ### Tunnels as a way out (R397 to R399, R401) -/

/-- A tunnel that is not open. -/
def noTunnel : Tunnel := resetTunnel

/-- A tunnel. -/
def tunOf (s : State) (t : Nat) : Tunnel := nth noTunnel s.fab.tunnels t

def updTun (s : State) (t : Nat) (f : Tunnel → Tunnel) : State := updFab s fun x => { x with tunnels := updAt x.tunnels t f }

/-- Fields of a tunnel block (R464). -/
def tunMtu (t : Tunnel) : Nat := fld t.blk 0x06 2
def tunRetxBytes (t : Tunnel) : Nat := fld t.blk 0x38 8
/-- TARGET in nanoseconds. -/
def tunTarget (t : Tunnel) : Nat := (let v := fld t.blk 0x40 4; if v = 0 then 1000 else v) * 1000

/-- Bytes of a packet with its header. -/
def pkBytes (k : Pkt) : Nat := 32 + pkLen k

/-- Bytes of the IP datagram that carries one packet: IP, UDP and JoU headers. -/
def ipBytes (t : Tunnel) (k : Pkt) : Nat := (if fld t.blk 1 1 = 6 then 40 else 20) + 8 + 32 + pkBytes k

/-- Which packets a tunnel carries (R396). -/
def tunnelCarries (k : Pkt) : Bool := pkType k ≠ ptCtrl || pkAux k = 1

/-- Bytes buffered, which are the bytes unacknowledged, of a tunnel. -/
def tunBuffered (t : Tunnel) : Nat := sumNat (t.buf.map fun g => 32 + pkBytes g.pkt)

/-- An ACK packet that answers a packet (R378, R386, R399): TAG and DA echoed. -/
def answer (s : State) (k : Pkt) (astat : Nat) : Pkt :=
  mkPkt s { ptype := ptAck, dst := pkSrc k, da := pkDa k, tag := pkTag k, astat := astat, job := pkJob k
            aux := if pkType k = ptReadReq then pkAux k else pkLen k }

/-! ### Sending -/

/-- Put a packet into a receive buffer. -/
def pushRx (s : State) (src vc : Nat) (k : Pkt) : State := updFab s fun f => { f with rx := f.rx ++ [⟨src, vc, k⟩] }

/-- A packet takes its way: to this module itself, to a port, or to a tunnel's queue; none where it has no route. -/
def placePkt (s : State) (own : Bool) (from_ : Nat) (k : Pkt) : Option State :=
  if pkDst k = s.fab.node && s.fab.recValid then some (pushRx s 16 (pkVc k) k)
  else
    match wayOf s own from_ k with
    | .port p k' => some (updPort s p fun x => pumpPort { x with egress := x.egress ++ [⟨k, own, k'⟩] })
    | .tunnel t =>
      let u := tunOf s t
      if u.up && tunnelCarries k && ipBytes u k ≤ tunMtu u then some (updTun s t fun u => { u with txq := u.txq ++ [k] }) else none
    | .noRoute => none

/-- Count and report a dropped packet (R377, R386). -/
def countDrop (s : State) (k : Pkt) : State := logErr (fabCount s fcNoRoute 1) 6 1 0x13 0xFF (pkDst k)

/-- Send without an answer to a drop. -/
def sendQuiet (s : State) (own : Bool) (from_ : Nat) (k : Pkt) : State := (placePkt s own from_ k).getD (countDrop s k)

/-- Tunnels send what their buffers and windows allow; a WRITE, SIGNAL or COLL that enters the retransmit buffer is answered PROXIED (R397 to R399). -/
def pumpTunnel : Nat → State → Nat → State
  | 0, s, _ => s
  | n + 1, s, t =>
    let u := tunOf s t
    match u.txq with
    | [] => s
    | k :: r =>
      let len := 32 + pkBytes k
      if u.up && tunBuffered u + len ≤ tunRetxBytes u && tunBuffered u + len ≤ u.window then
        let s := updTun s t fun u =>
          { u with txq := r, next := (u.next + 1) % 2 ^ 32, buf := u.buf ++ [⟨u.next, k, 0, nowNs s⟩] }
        let s := fabCount s fcJouTx (pkBytes k)
        let s := if pkType k = ptWrite || pkType k = ptSignal || pkType k = ptColl then
            sendQuiet s true 1 (answer s k ackProxied) else s
        pumpTunnel n s t
      else s

/-- Let a tunnel send all it can. -/
def pumpTun (s : State) (t : Nat) : State := pumpTunnel ((tunOf s t).txq.length) s t

/-- Let every tunnel send. -/
def pumpTuns (s : State) : State :=
  (List.range 64).foldl (fun s t => if (tunOf s t).txq = [] then s else pumpTun s t) s

/-- Send a packet: dropped without a route, counted, and answered NO_ROUTE where it is a REQ (R386). -/
def sendPkt (s : State) (own : Bool) (from_ : Nat) (k : Pkt) : State :=
  match placePkt s own from_ k with
  | some s => pumpTuns s
  | none =>
    let s := countDrop s k
    if isReq k then sendQuiet s true from_ (answer s k ackNoRoute) else s

/-! ### Receiving frames (R374, R375) -/

/-- The fabric works: the Jalpin ports are powered (R387, R494). -/
def fabricOn (s : State) : Bool := s.mode ≠ .offOrReset

/-- Is the CRC of a frame good, and its length one of a frame? -/
def frameGood (len frame : Nat) : Bool :=
  16 ≤ len && len % 16 = 0 && crc32c (bytesOf frame (len - 8)) = fld frame (len - 8) 4

/-- The acknowledgement and credits that a good frame's header carries (R375, R376). -/
def takeHeader (p : Port) (h : Nat) : Port :=
  let a := bits h 20 12
  let rest := match p.replay.findIdx? fun r => r.1 = a with
    | some i => p.replay.drop (i + 1)
    | none => p.replay
  let cr := if bit h 35 then updAt p.credits (bits h 32 3) fun n => min 1024 (n + bits h 36 12) else p.credits
  { p with replay := rest, credits := cr }

/-- The packet of a PKT frame, when its FLEN agrees with the frame and with LEN (R377). -/
def framePacket (len frame : Nat) : Option Pkt :=
  let flen := bits frame 48 9
  let k : Pkt := ⟨fld frame 8 32, fld frame 40 (len - 48)⟩
  if 2 ≤ flen && flen ≤ 258 && len = 16 + 16 * flen && pkLen k = 16 * flen - 32 && pkOk k then some k else none

/-- Credits that a received frame occupies until its packet leaves the buffer. -/
def frameCredits (frame : Nat) : Nat := cdiv (16 * bits frame 48 9 + 16) 64

/-- Return a packet's credits to its sender when it leaves the receive buffer (R376). -/
def freeRx (s : State) (r : RxPkt) : State :=
  if r.src < 16 then updPort s r.src fun p => { p with owed := updAt p.owed r.vc (· + creditsOf r.pkt) } else s

/-- LINK_FRAME_RECEIVE (R374 to R376): a frame of `len` bytes arrives on a port that is up; `fec` is how many uncorrectable codewords its lanes met. A bad one is discarded and NAKed; a good one's acknowledgement and credits are taken, a NAK resends, and a PKT or LCTL is accepted in SEQ order. -/
def execLinkFrameReceive (port : Fin 16) (fec len frame : Nat) (s0 : State) : Host.Outcome State Fault Refusal :=
  let p := portOf s0 port
  let s := fabCount s0 fcFecUncorr fec
  if !fabricOn s0 || p.st ≠ 2 then .next s0
  else
    let ftype := bits frame 0 4
    let vc := bits frame 4 3
    let seq := bits frame 8 12
    let inOrder := !(ftype = 0 || ftype = 3) || seq = p.expect
    if !frameGood len frame || 4 ≤ ftype || !inOrder then
      let good := frameGood len frame && ftype < 4
      .next (updPort s port fun p => pumpPort (sendFrame (if good then takeHeader p frame else p) 2 0 0 0))
    else
      let s := updPort s port fun p =>
        let p := takeHeader p frame
        if ftype = 0 || ftype = 3 then { p with expect := (p.expect + 1) % 4096 } else p
      let s := if ftype = 2 then fabCount s fcReplayed (portOf s port).replay.length else s
      let s := updPort s port pumpPort
      if ftype = 0 then
        match framePacket len frame with
        | some k => .next (pushRx s port vc k)
        | none =>
          .next (fabCount (updPort s port fun p => { p with owed := updAt p.owed vc (· + frameCredits frame) }) fcNoRoute 1)
      else .next s

/-- ACK_REPORT (R375): a port reports ACK_SEQ, and credits where it owes some, in an IDLE frame; the command stands for the interval of at most 1 µs. -/
def execAckReport (port : Fin 16) (s : State) : Host.Outcome State Fault Refusal :=
  if fabricOn s && (portOf s port).st = 2 then .next (updPort s port fun p => sendFrame p 1 0 0 0) else .next s

/-! ### Lanes, width, ports down and up (R372, R373, R385) -/

/-- How many lanes of a set are good. -/
def laneCount (ok : Nat) : Nat := ((List.range 5).filter fun k => bit ok k).length

/-- The width that a set of good lanes gives (R373). -/
def widthOf (ok : Nat) : Nat := if 4 ≤ laneCount ok then 4 else if 2 ≤ laneCount ok then 2 else 0

/-- An error event of a lane or port (R514). -/
def laneEvent (s : State) (sev port lane : Nat) : State := logErr s 5 sev 0x13 0xFF (port + 16 * lane)

/-- Take a port down: replay frames are discarded, unsent packets are routed again (R385). `st` is 1 to retrain, 3 to stay disabled. -/
def portDown (s : State) (port st : Nat) : State :=
  let p := portOf s port
  let s := updPort s port fun p =>
    { p with st := st, width := 0, retrains := min 65535 (p.retrains + 1), replay := [], egress := []
             credits := List.replicate 8 0, owed := List.replicate 8 0 }
  p.egress.foldl (fun s g => sendPkt s g.own (port / 8) g.pre) (laneEvent s 2 port 0)

/-- A swap counts, is logged, and commits a REPAIR record of kind 4 (R372, *Live repair and reconfiguration*). -/
def laneSwapped (s : State) (port lane : Nat) : State :=
  logErr (laneEvent (fabCount s fcLaneSwaps 1) 2 port lane) 13 2 0x17 0xFF (4 + (port + 16 * lane) * 256)

/-- LANE_SWAP (R372): a logical lane whose physical lane fails moves to the spare, while the spare is good and unused. -/
def execLaneSwap (port : Fin 16) (lane : Fin 4) (s0 : State) : Host.Outcome State Fault Refusal :=
  let p := portOf s0 port
  if fabricOn s0 && p.st = 2 && p.spareFor = 7 && bit p.laneOk 4 && bit p.laneOk lane then
    let s := updPort s0 port fun p => { p with spareFor := lane, laneOk := p.laneOk - 2 ^ lane.val }
    .next (withHealth s0 (laneSwapped s port lane))
  else .next s0

/-- WIDTH_CHANGE (R373): a port's set of good physical lanes becomes `lanes`. A change of width counts and is logged; with fewer than two good lanes the port goes down. -/
def execWidthChange (port : Fin 16) (lanes : BitVec 5) (s : State) : Host.Outcome State Fault Refusal :=
  let p := portOf s port
  if fabricOn s && p.st = 2 then
    let w := widthOf lanes.toNat
    let s1 := updPort s port fun p => { p with laneOk := lanes.toNat }
    if w = p.width then .next s1
    else
      let s2 := fabCount s1 fcLaneSwaps 1
      if w = 0 then .next (withHealth s (portDown s2 port 1))
      else .next (withHealth s (laneEvent (updPort s2 port fun p => { p with width := w }) 2 port 0))
  else .next s

/-- PORT_DOWN (R385): no valid frame for 1 µs, or fewer than two lanes in lock; the port goes down and retrains. -/
def execPortDown (port : Fin 16) (s : State) : Host.Outcome State Fault Refusal :=
  if fabricOn s && (portOf s port).st = 2 then .next (withHealth s (portDown s port 1)) else .next s

/-- PORT_INIT (R376, R385, R389): a trained port completes its INIT exchange with its peer's node, port and RECORD_VALID; SEQ starts at 0 and every VC holds 1,024 credits. -/
def execPortInit (port : Fin 16) (peer : BitVec 15) (peerPort : Fin 16) (recordValid : Bool) (lanes : BitVec 5)
    (s : State) : Host.Outcome State Fault Refusal :=
  let p := portOf s port
  if !fabricOn s then .next s
  else if p.st = 1 && widthOf lanes.toNat ≠ 0 then
    .next (withHealth s (updPort s port fun p =>
      { p with st := 2, width := widthOf lanes.toNat, laneOk := lanes.toNat, spareFor := 7, peerNode := peer.toNat, peerPort := peerPort
               peerUnassigned := !recordValid, next := 0, expect := 0, replay := [], egress := []
               credits := List.replicate 8 1024, owed := List.replicate 8 0, lastTx := 0 }))
  else if p.st = 2 then
    .next (updPort s port fun p => { p with peerNode := peer.toNat, peerPort := peerPort, peerUnassigned := !recordValid })
  else .next s

/-! ### Forwarding (R386) -/

/-- Take the `i`-th packet out of the receive buffers. -/
def takeRx (s : State) (i : Nat) (r : RxPkt) : State := freeRx (updFab s fun f => { f with rx := f.rx.eraseIdx i }) r

/-- The IOD that a received packet is on. -/
def rxIod (r : RxPkt) : Nat := if r.src < 8 then 0 else 1

/-- Is a received packet for this module (R379, R389): its own node; on an unassigned module, every CTRL packet that a port brings; from an unassigned neighbour, which sends to its neighbours alone, a CTRL packet to the number of unassigned modules that is no REMOTE_ERROR. All other traffic for node 32,767 goes on to the module that holds the number. -/
def forMe (s : State) (r : RxPkt) : Bool :=
  let k := r.pkt
  if s.fab.recValid then
    pkDst k = s.fab.node || (pkType k = ptCtrl && pkDst k = 0x7FFF && pkAux k ≠ 1 && r.src < 16 && (portOf s r.src).peerUnassigned)
  else pkType k = ptCtrl

/-- PACKET_FORWARD (R386): a received packet for another node leaves by its way with HOPS decremented, or is dropped; an unassigned module drops every packet but CTRL (R389). -/
def execPacketForward (i : Nat) (s : State) : Host.Outcome State Fault Refusal :=
  match s.fab.rx[i]? with
  | none => .next s
  | some r =>
    if forMe s r then .next s
    else
      let s1 := takeRx s i r
      if !s.fab.recValid then .next (fabCount s1 fcNoRoute 1)
      else if pkHops r.pkt = 0 then
        let s2 := countDrop s1 r.pkt
        .next (if isReq r.pkt then sendQuiet s2 true (rxIod r) (answer s2 r.pkt ackNoRoute) else s2)
      else
        let k := setRoute r.pkt (pkFlags r.pkt) (pkHops r.pkt - 1)
        let s2 := sendPkt s1 (decide (17 ≤ r.src)) (rxIod r) k
        .next (if (placePkt s1 (decide (17 ≤ r.src)) (rxIod r) k).isSome then fabCount s2 fcTransit (pkBytes k) else s2)

/-- FAB_PERF_CLEAR (R402): a write of FAB_PERF_CTL with CLEAR 1 and the FREEZE bit given. -/
def execFabPerfClear (freeze : Bool) (s : State) : Host.Outcome State Fault Refusal :=
  if barOn s then .next (updFab s fun f => { f with perf := { perfClear f.perf with freeze := freeze } }) else .next s

end Sys2Proof.Machine
end

