-- ==== Sys2Proof/Machine/Stash.lean ====
section
/-! DEFINITION. The Stash Manager: handle entries and granules (R199 to R203), its checks (R205), SPUT, SGET, SRAISE and SFREE (R204 to R213), and its registers (R215). -/

namespace Sys2Proof.Machine

/-! ### Handle entries (R202) -/

def hPolicy (e : Nat) : Nat := bits (fld e 0 1) 0 3
def hComp (e : Nat) : Nat := fld e 1 1
def hState (e : Nat) : Nat := fld e 2 1
def hValid (e : Nat) : Bool := bit (fld e 3 1) 0
def hRaiseEn (e : Nat) : Bool := bit (fld e 3 1) 1
def hRecompEn (e : Nat) : Bool := bit (fld e 3 1) 2
def hPoolOff (e : Nat) : Nat := fld e 0x08 8
def hRaiseOff (e : Nat) : Nat := fld e 0x10 8
def hPlan (e : Nat) : Nat := fld e 0x20 8
def hStored (e : Nat) : Nat := fld e 0x28 8
def hFmt (e : Nat) : Nat := fld e 0x30 1
def hRank (e : Nat) : Nat := fld e 0x31 1
def hExt (e : Nat) : List Nat := (List.range 6).map fun k => fld e (0x34 + 4 * k) 4

/-- States of a handle. -/
def hsFree : Nat := 0
def hsHeld : Nat := 1
def hsDropped : Nat := 2
def hsRaised : Nat := 3

/-- Policies (R199). -/
def plKeep : Nat := 0
def plRecompute : Nat := 4

/-- The pool of a policy: 0 near, 1 far, 2 host (R199). -/
def poolOf (policy : Nat) : Option Nat := if 1 ≤ policy && policy ≤ 3 then some (policy - 1) else none

/-- A granule (R201). -/
def granule : Nat := 0x10000

def poolBase (g : StashCfg) (k : Nat) : Nat := if k = 0 then g.nearPool else if k = 1 then g.farPool else g.hostPool
def poolSize (g : StashCfg) (k : Nat) : Nat := if k = 0 then g.nearSize else if k = 1 then g.farSize else g.hostSize
def poolRate (g : StashCfg) (k : Nat) : Nat := if k = 0 then g.nearRate else if k = 1 then g.farRate else g.hostRate

/-- Is COMP permitted for a policy (R199)? -/
def compOk (policy comp : Nat) : Bool :=
  if policy = 0 || policy = 4 then comp = 0
  else if policy = 1 then 1 ≤ comp && comp ≤ 5
  else comp ≤ 5

/-- Does an entry break *Handle entry*, apart from VALID and the pools (R202)? -/
def entryTableBad (e : Nat) : Bool :=
  bits (fld e 0 1) 3 5 ≠ 0 || bits (fld e 3 1) 3 5 ≠ 0 || fld e 4 4 ≠ 0 || bits (fld e 0x18 2) 12 4 ≠ 0 || fld e 0x1A 2 ≠ 0 ||
  fld e 0x32 2 ≠ 0 || fld e 0x6D 0x13 ≠ 0 || 4 < hPolicy e || !compOk (hPolicy e) (hComp e) ||
  hPoolOff e % granule ≠ 0 || hRaiseOff e % granule ≠ 0 || hPlan e % granule ≠ 0 ||
  (!hRaiseEn e && hRaiseOff e ≠ 0) || (!hRecompEn e && fld e 0x18 2 ≠ 0) ||
  ((poolOf (hPolicy e)).isNone && hPlan e ≠ 0)

/-- Check 4 of R205 for what an entry says by itself. -/
def entryInvalid (g : StashCfg) (e : Nat) : Bool :=
  entryTableBad e || !hValid e ||
  (hRaiseEn e && !(hPolicy e = 2 || hPolicy e = 3)) || (hRecompEn e && hPolicy e ≠ plRecompute) ||
  (match poolOf (hPolicy e) with
    | none => false
    | some k => poolSize g k = 0 || poolSize g k < hPoolOff e + hPlan e)

/-- Does an entry's raise place lie outside the near pool, so that SRAISE cannot use it (R202)? -/
def raiseOutside (g : StashCfg) (e : Nat) : Bool := g.nearSize < hRaiseOff e + hPlan e

/-- DA of a handle entry. -/
def handleDa (s : State) (c h : Nat) : Nat := (ctxOf s c).stash.base + 128 * h

/-- A handle entry. -/
def handleAt (s : State) (c h : Nat) : Nat := rdNum s c (handleDa s c h) 128

/-- Write the Module fields of an entry (R202). -/
def putHandle (s : State) (c h e : Nat) : State :=
  let da := handleDa s c h
  wrNum (wrNum s c (da + 2) (fld e 2 1) 1) c (da + 0x28) (fld e 0x28 0x45) 0x45

/-! ### Granules and counters (R201, R214, R215) -/

/-- First granule number of a pool. -/
def poolFirst (g : StashCfg) (k : Nat) : Nat :=
  if k = 0 then 0 else if k = 1 then g.nearSize / granule else g.nearSize / granule + g.farSize / granule

/-- Bytes of the granule map (R201). -/
def mapBytes (g : StashCfg) : Nat := roundUp (cdiv (poolFirst g 2 + g.hostSize / granule) 8) 4096

/-- Granule numbers of a range of a pool. -/
def granulesOf (g : StashCfg) (k off size : Nat) : List Nat :=
  (List.range (size / granule)).map fun j => poolFirst g k + off / granule + j

/-- Is a granule owned? -/
def granOwned (s : State) (c g : Nat) : Bool := bit (rdNum s c ((ctxOf s c).stash.ownBase + g / 8) 1) (g % 8)

/-- Set or clear the map bits of granules. -/
def markGranules (s : State) (c : Nat) (own : Bool) (gs : List Nat) : State :=
  gs.foldl (fun s g =>
    let da := (ctxOf s c).stash.ownBase + g / 8
    let b := rdNum s c da 1
    let b' := if own then b ||| 2 ^ (g % 8) else b &&& (255 - 2 ^ (g % 8))
    wrNum s c da b' 1) s

/-- Change the HELD counter of a pool, and its PEAK (R215). -/
def countHeld (s : State) (c k : Nat) (add sub : Nat) : State :=
  let i := 8 * c + 2 * k
  let v := nth 0 s.stash.cnt i + BitVec.ofNat 64 add - BitVec.ofNat 64 sub
  let t := s.stash.cnt.set i v
  { s with stash := { s.stash with cnt := updAt t (i + 1) fun p => if p.toNat < v.toNat then v else p } }

/-- Take a range of granules for a handle. -/
def takeRange (s : State) (c k off size : Nat) : State :=
  countHeld (markGranules s c true (granulesOf (ctxOf s c).stash k off size)) c k (size / granule) 0

/-- Release a range of granules. -/
def giveRange (s : State) (c k off size : Nat) : State :=
  countHeld (markGranules s c false (granulesOf (ctxOf s c).stash k off size)) c k 0 (size / granule)

/-- Release what a handle in a state owns. -/
def releaseHandle (s : State) (c e : Nat) : State :=
  match poolOf (hPolicy e) with
  | none => s
  | some k =>
    if hState e = hsFree then s
    else
      let s1 := giveRange s c k (hPoolOff e) (hPlan e)
      if hState e = hsRaised then giveRange s1 c 0 (hRaiseOff e) (hPlan e) else s1

/-- Count one recompute (R212). -/
def countRecomp (s : State) (c : Nat) : State :=
  { s with stash := { s.stash with cnt := updAt s.stash.cnt (8 * c + 6) (· + 1) } }

/-- Time spent waiting on a bucket, which the manual leaves to the transfers (R211, free). -/
def countThrottle (s : State) (c : Nat) (pools : List Nat) : State :=
  if pools.any fun k => poolRate (ctxOf s c).stash k ≠ 0 then
    { s with stash := { s.stash with cnt := updAt s.stash.cnt (8 * c + 7) (· + Config.freeWord s.free) }, free := s.free + 1 }
  else s

/-! ### The stored form (R203) -/

/-- Row bytes of the stored form. -/
def storedRow (f : Fmt) (comp e0 : Nat) : Nat :=
  if 1 ≤ comp && comp ≤ 4 then cdiv e0 64 * (8 * ebits (.crush comp))
  else if isMx f then mxRowBytes f e0 else rawRowBytes f e0

/-- Length of the stored form; the worst case for COMP 5. -/
def storedLen (f : Fmt) (comp : Nat) (ext : List Nat) : Nat :=
  if comp = 5 then 4160 * cdiv (rawStreamLen f ext) 4096 else storedRow f comp (nth 0 ext 0) * prodNat ext.tail

/-- The stored form as a tensor at `base`, under the home operand's frame and ledger entry. -/
def storedDesc (home : Desc) (f : Fmt) (comp : Nat) (ext : List Nat) (base : Nat) : Desc :=
  let row := storedRow f comp (nth 0 ext 0)
  { home with
    base := base, fmt := if 1 ≤ comp && comp ≤ 4 then .crush comp else f, expFmt := f, expRaw := fmtCode f, rank := 6
    layout := 0, spread := false, comp := if 1 ≤ comp && comp ≤ 4 then 1 else 0, spatial := false, shapeEn := false
    ext := ext, str := 0 :: (List.range 5).map fun k => row * prodNat ((ext.drop 1).take k) }

/-- The format of a restored tensor: FORMAT, or EXP_FORMAT when it is packed (R205). -/
def homeFmt (d : Desc) : Nat := if d.comp = 1 then d.expRaw else d.fmtRaw

/-- The kept tensor as a descriptor (R207). -/
def keptDesc (home : Desc) (e : Nat) : Desc :=
  { home with
    base := bits (fld e 0x50 8) 0 48, rank := hRank e, layout := bits (fld e 0x6C 1) 0 2, spread := bit (fld e 0x6C 1) 2
    comp := 0, shapeEn := false, ext := hExt e
    str := 0 :: (List.range 5).map fun k => 16 * fld e (0x58 + 4 * k) 4 }

/-- Is D the kept place itself (R207)? -/
def keptHere (d : Desc) (e : Nat) : Bool :=
  let k := keptDesc d e
  k.base = d.base && k.str = d.str && k.layout = d.layout && k.spread = d.spread

/-! ### Segments and Faces (R208) -/

/-- Unit number of an element of the home operand, and the number of units (R208). -/
def stashUnit (d : Desc) (ext i : List Nat) : Nat × Nat :=
  if d.rank = 1 then (nth 0 i 0 / 64, cdiv (nth 0 ext 0) 64)
  else
    let cut (k e : Nat) : Nat := if k < blockedDims d then cdiv e 8 else e
    let pos (k v : Nat) : Nat := if k < blockedDims d then v / 8 else v
    let dims := (List.range 5).map fun k => cut (k + 1) (nth 1 ext (k + 1))
    (linIdx dims ((List.range 5).map fun k => pos (k + 1) (nth 0 i (k + 1))), prodNat dims)

/-- The Face that carries a byte at a physical address: none outside the Stockpile and the Face-local near tier. -/
def faceOfPhys (s : State) (pa : Nat) : Option Nat :=
  if pa < 0x40000000 then some (pa / 0x10000000)
  else if !s.memS.globalMode && nearBase ≤ pa && pa < nearBase + nearSize then some ((pa - nearBase) / faceSpan)
  else none

/-- The Face whose engine 7 carries an element of the home operand (R208). -/
def stashFace (s : State) (c : Nat) (d : Desc) (ext : List Nat) : FaceOf := fun i =>
  match faceOfPhys s (physOf s c (elemAddr d i).1) with
  | some f => f
  | none => let (u, n) := stashUnit d ext i; min (u / max 1 (cdiv n 4)) 3

/-- The Face of a lossless segment: of its first raw byte (R228). -/
def stashSegFace (s : State) (c : Nat) (d : Desc) (ext : List Nat) (seg : Nat) : Nat :=
  let row := rawRowBytes d.fmt (nth 0 ext 0)
  let r := 4096 * seg / max 1 row
  stashFace s c d ext (min (nth 0 ext 0 - 1) (4096 * seg % max 1 row * 8 / ebits d.fmt) :: outerOf ext r)

/-- Units of the home operand (R208): of a tensor its rows, block-rows, block-planes or blocks of 64. -/
def stashUnits (d : Desc) (ext : List Nat) : Nat := (stashUnit d ext []).2

/-- Faces that carry a home operand of the given physical pieces and number of units (R208): those that own its bytes, or, where bytes have no Face, those whose share of the units is not empty. -/
def facesOf (s : State) (ps : List (Nat × Nat)) (units : Nat) : List Nat :=
  let owners := ps.map fun p => faceOfPhys s p.1
  if owners.all (·.isSome) then (owners.filterMap id).dedup
  else (List.range 4).filter fun f => f * cdiv units 4 < units

/-! ### Checks (R205) -/

def stHandle (e : Nat) : Nat := par e 0 4
def stRelease (e : Nat) : Bool := bit (par e 4 1) 0
def stCount (e : Nat) : Nat := par e 8 4

/-- Reserved fields (R204). -/
def stashReserved (e op : Nat) : List (Nat × Bool) :=
  ([(0x44, (if op = 0x79 then bits (par e 4 1) 1 7 else par e 4 1) ≠ 0)] : List (Nat × Bool)) ++ parZero e 5 8 ++
  ([(0x48, op ≠ 0x7B && stCount e ≠ 0)] : List (Nat × Bool)) ++ parZero e 0xC 0x40

/-- The record: an input of SPUT whose frame is checked as an output's, an output of SGET (R206). -/
def stashRec (e op : Nat) : List Rec :=
  if op = 0x78 then [{ inRec e 0 haulerRegions with frameUsed := true }]
  else if op = 0x79 then [outRec e 0 haulerRegions] else []

/-- Pool ranges of a handle with the permissions an operation needs (R205). -/
def stashRanges (g : StashCfg) (e op : Nat) : List ParFoot :=
  match poolOf (hPolicy e) with
  | none => []
  | some k =>
    if poolSize g k = 0 || hPlan e = 0 then [] else
    [⟨[(poolBase g k + hPoolOff e, hPlan e)], haulerRegions, op ≠ 0x78, op = 0x78⟩] ++
    (if hRaiseEn e && g.nearSize ≠ 0 then [⟨[(g.nearPool + hRaiseOff e, hPlan e)], haulerRegions, op = 0x79, op = 0x7A⟩] else [])

/-- Check 4 for a record against its handle (R200, R205, R207). -/
def stashRecBad (s : State) (c op e : Nat) (d : Desc) : Bool :=
  if op = 0x78 then
    (hPolicy e ≠ plKeep && d.comp ≠ 0) || (1 ≤ hComp e && hComp e ≤ 4 && d.fmtRaw > 4) ||
    (hComp e = 5 && (isMx d.fmt || d.fmt = .e8m39)) ||
    (hPolicy e = plKeep && !((regionOf s (physOf s c d.base)).any fun r => r = .near || r = .stockpile)) ||
    ((poolOf (hPolicy e)).isSome && hPlan e < storedLen d.fmt (hComp e) (planned d))
  else
    let packed := d.comp = 1 && 1 ≤ hComp e && hComp e ≤ 4 && (poolOf (hPolicy e)).isSome && d.fmt = .crush (hComp e) && !d.spatial
    (d.comp ≠ 0 && !packed) ||
    ((poolOf (hPolicy e)).isSome && hPlan e < storedLen d.fmt (hComp e) (planned d)) ||
    (hState e ≠ hsFree && (homeFmt d ≠ hFmt e || d.rank ≠ hRank e || runExt s c d ≠ hExt e))

/-- Check 5: does the state permit the operation? -/
def stashStateOk (op e : Nat) : Bool :=
  if op = 0x78 then hState e = hsFree else if op = 0x79 then hState e ≠ hsFree else hState e = hsHeld

/-- Granules that must be free (check 6). -/
def stashNeeds (g : StashCfg) (op e : Nat) : List Nat :=
  if op = 0x78 then (match poolOf (hPolicy e) with
    | some k => granulesOf g k (hPoolOff e) (hPlan e)
    | none => [])
  else if op = 0x7A then granulesOf g 0 (hRaiseOff e) (hPlan e) else []

/-- Does an SPUT pack under an entry whose FMT is not its source's (R225)? -/
def stashLedgerBad (s : State) (c op h : Nat) (d : Desc) : Bool :=
  op = 0x78 && d.ledgerEn && 1 ≤ hComp h && hComp h ≤ 4 && leFmt (ledgerGet s c d.slot) ≠ d.fmtRaw

/-- The checks of R205 for SPUT, SGET and SRAISE, ZERO_EXTENT apart. -/
def stashChecks (s : State) (c op env : Nat) : Option (Nat × Nat) :=
  let g := (ctxOf s c).stash
  let known := stHandle env < g.handles
  let e := if known then handleAt s c (stHandle env) else 0
  let recs := stashRec env op
  let d := envRec env 0
  let has := recs ≠ []
  firstSome [
    (match firstBad (stashReserved env op) with
      | some o => some (stReserved, o)
      | none => if has then (match descReserved d with
          | some o => some (stReserved, 0x80 + o)
          | none => (frameReserved d).map fun o => (stReserved, 0x80 + o)) else none),
    (if has && (recs.any (recInvalid s c) || frameInvalid d || (known && stashLedgerBad s c op e d)) then some (stTensor, 0) else none),
    ((recs.find? (recAddrBad s c)).map fun r => (stAddress, r.idx)),
    (if known && !(stashRanges g e op).all (fun f => footOk s c f.reach f.needR f.needW f.ivs) then some (stAddress, 0xFF) else none),
    (if known && op = 0x79 && hPolicy e = plKeep && hState e ≠ hsFree && homeFmt d = hFmt e &&
        !footOk s c haulerRegions true false (footprint (keptDesc d e)) then some (stAddress, 0xFF) else none),
    (if !known || entryInvalid g e || (op = 0x7A && (!hRaiseEn e || raiseOutside g e)) || (has && stashRecBad s c op e d) then some (0x78, 0) else none),
    (if stashStateOk op e then none else some (0x79, 0)),
    (if (stashNeeds g op e).any (granOwned s c) then some (0x7A, 0) else none),
    (if op = 0x79 && hState e = hsDropped &&
        !(hRecompEn e && waitMet (tallyOf s c (bits (fld e 0x18 2) 0 12)) (BitVec.ofNat 32 (fld e 0x1C 4))) then some (0x7B, 0) else none),
    (firstSome (recs.map fun r => overPlan s c r)).map fun x => (stOverPlan, x)]

/-! ### Effects -/

/-- The Module fields that an SPUT fills (R206). -/
def putFields (s : State) (c e : Nat) (d : Desc) (ext : List Nat) (stored : Nat) : Nat :=
  let keep := hPolicy e = plKeep
  let e1 := setFld e 2 1 (if hPolicy e = plRecompute then hsDropped else hsHeld)
  let e2 := setFld (setFld (setFld e1 0x28 8 stored) 0x30 1 d.fmtRaw) 0x31 1 d.rank
  let e3 := setFld (setFld e2 0x34 24 (packBits (ext.map fun x => (x, 32)))) 0x4C 4 (ctxOf s c).step.toNat
  let e4 := setFld e3 0x50 8 (if keep then d.base else 0)
  let e5 := setFld e4 0x58 20 (if keep then fld d.raw 0x2C 20 else 0)
  setFld e5 0x6C 1 (if keep then d.layout + 4 * b2n d.spread else 0)

/-- Store a tensor in its stored form: state, flags and stored bytes (R203, R206). The entry that S names has been touched. -/
def storeForm (s : State) (c : Nat) (d : Desc) (comp : Nat) (ext : List Nat) (base : Nat) : State × NumFlags × Nat :=
  if comp = 5 then
    let (t, n) := encodeTensor s c (stashSegFace s c d ext) d.fmt base (streamOf s c d ext)
    (t, {}, n)
  else
    let p := storedDesc d d.fmt comp ext base
    let n := storedLen d.fmt comp ext
    if comp = 0 then (applyPuts s c (copyRows p ext (rawRowAt (rdCtx s c) d)), {}, n)
    else
      let (t, f) := packOut s c (stashFace s c d ext) p ext (valsOf s c d)
      (t, f, n)

/-- Read a stored form back into D: the result without the handle's change (R207). -/
def restoreForm (s : State) (c : Nat) (d : Desc) (e base : Nat) (ext : List Nat) : Result :=
  let f := (fmtOfCode (hFmt e)).getD .fp32
  let comp := hComp e
  let p := { storedDesc d f comp ext base with ledgerEn := false }
  if comp = 5 then unlosslessOut s c (stashSegFace s c d ext) base d ext (footprint d)
  else if comp = 0 then { st := applyPuts s c (copyRows d ext (rawRowAt (rdCtx s c) p)) }
  else if d.comp = 1 then { st := applyPuts s c (blockPuts (rdCtx s c) p d ext) }
  else
    let (t, fl) := expandOut s c (stashFace s c d ext) p d ext
    { st := t, flags := fl }

/-- Set the STATE of a handle. -/
def putState (s : State) (c h v : Nat) : State := wrNum s c (handleDa s c h + 2) v 1

/-! ### Transfers (R206, R207, R213) -/

/-- Where the stored form of a handle lies: at RAISE_OFF in the near pool when it is raised, else at POOL_OFF of its pool (R207). -/
def formBase (g : StashCfg) (e : Nat) : Nat :=
  if hState e = hsRaised then g.nearPool + hRaiseOff e else poolBase g ((poolOf (hPolicy e)).getD 0) + hPoolOff e

/-- Bytes of a stored form that a transfer moves: the encoded lines of each lossless slot, else STORED_BYTES (R203, R228, R230). -/
def formReads (s : State) (c e base : Nat) : List (Nat × Nat) :=
  if hComp e = 5 then encodedReads s c base (rawStreamLen ((fmtOfCode (hFmt e)).getD .fp32) (hExt e))
  else if hStored e = 0 then [] else [(base, hStored e)]

/-- Has an operation on an entry, at run-time extents, bytes to move? -/
def stashMoves (op env e : Nat) (ext : List Nat) : Bool :=
  if op = 0x7A then hStored e ≠ 0
  else if op = 0x7B || ext.contains 0 || hPolicy e = plRecompute then false
  else if hPolicy e = plKeep then op = 0x79 && !keptHere (envRec env 0) e
  else true

/-- The place besides its record that an operation reads or writes: the stored form at planned extents, or the kept tensor (R205 to R207). -/
def stashPlace (g : StashCfg) (op env e : Nat) : List ParFoot :=
  let d := envRec env 0
  let form := (formBase g e, storedLen d.fmt (hComp e) (planned d))
  if op = 0x78 then [⟨[form], haulerRegions, false, true⟩]
  else if op = 0x79 then
    (if hPolicy e = plKeep then [⟨footprint (keptDesc d e), haulerRegions, true, false⟩] else [⟨[(formBase g e, hPlan e)], haulerRegions, true, false⟩])
  else
    [⟨[(formBase g e, hPlan e)], haulerRegions, true, false⟩, ⟨[(g.nearPool + hRaiseOff e, hPlan e)], haulerRegions, false, true⟩]

/-- An operation's record and place, for the errors it meets and the bytes that overlap (R36, R144). -/
def stashPlan (s : State) (c op env e : Nat) : Plan :=
  { reserved := [], recs := stashRec env op, parFoots := stashPlace (ctxOf s c).stash op env e, invalid := 0x78 }

/-- What a transfer reads: SPUT its source, SGET the kept place or the stored form, SRAISE the stored form. -/
def stashReads (s : State) (c op env e : Nat) (ext : List Nat) : List (Nat × Nat) :=
  let d := envRec env 0
  if op = 0x78 then footAt d ext
  else if op = 0x79 && hPolicy e = plKeep then footAt (keptDesc d e) ext
  else formReads s c e (formBase (ctxOf s c).stash e)

/-- The place of a raised form's byte: at RAISE_OFF as far from its start as in the pool (R213). -/
def raisedAt (g : StashCfg) (e a : Nat) : Nat := g.nearPool + hRaiseOff e + (a - formBase g e)

/-- What a transfer writes: SPUT the stored form, SGET its destination, SRAISE the same lines at RAISE_OFF. -/
def stashWrites (s : State) (c op env e : Nat) (ext : List Nat) : List (Nat × Nat) :=
  let g := (ctxOf s c).stash
  let d := envRec env 0
  if op = 0x78 then
    if hComp e = 5 then encodedWrites d.fmt (formBase g e) (streamOf s c d ext) else [(formBase g e, storedLen d.fmt (hComp e) ext)]
  else if op = 0x79 then footAt d ext
  else (formReads s c e (formBase g e)).map fun p => (raisedAt g e p.1, p.2)

/-- The transfer of an SPUT (R206): the stored form, and STORED_BYTES in the entry. -/
def putMove (s : State) (c env e : Nat) (ext : List Nat) : Result :=
  let (t, f, n) := storeForm s c (envRec env 0) (hComp e) ext (formBase (ctxOf s c).stash e)
  { st := wrNum (countThrottle t c [(poolOf (hPolicy e)).getD 0]) c (handleDa s c (stHandle env) + 0x28) n 8, flags := f }

/-- The transfer of an SGET: from the kept place as an HCOPY, or from the stored form (R207). -/
def getMove (s : State) (c env e : Nat) (ext : List Nat) : Result :=
  let d := envRec env 0
  if hPolicy e = plKeep then { st := applyPuts s c (copyRows d ext (rawRowAt (rdCtx s c) (keptDesc d e))) }
  else
    let r := restoreForm s c d e (formBase (ctxOf s c).stash e) ext
    { r with st := countThrottle r.st c [if hState e = hsRaised then 0 else (poolOf (hPolicy e)).getD 0] }

/-- The transfer of an SRAISE: the stored form, unexpanded, to RAISE_OFF; the lines of a lossless slot to the slot of the same number (R213, R228). -/
def raiseMove (s : State) (c e : Nat) : Result :=
  let g := (ctxOf s c).stash
  let rd := rdCtx s c
  let ps := (formReads s c e (formBase g e)).flatMap fun p => (List.range p.2).map fun j => (raisedAt g e (p.1 + j), 0, 8, rd (p.1 + j))
  { st := countThrottle (applyPuts s c ps) c [(poolOf (hPolicy e)).getD 0, 0] }

/-- The stores of a transfer. -/
def stashEff (s : State) (c op env e : Nat) (ext : List Nat) : Result :=
  if op = 0x78 then putMove s c env e ext else if op = 0x79 then getMove s c env e ext else raiseMove s c e

/-- The transfer of an operation that has one. -/
def stashMove (s : State) (c op env e : Nat) (ext : List Nat) : Result :=
  runAfter s c (stashPlan s c op env e) (stashReads s c op env e ext) (stashWrites s c op env e ext) fun s => stashEff s c op env e ext

/-- Ranges of engine 7 that a transfer needs, at planned extents (R166, R208). -/
def stashHazards (g : StashCfg) (op env e : Nat) : List Hazard :=
  let d := envRec env 0
  let place := (stashPlace g op env e).flatMap fun f => hazardOf f.ivs f.needW
  if op = 0x7A then
    hazardOf [(formBase g e, hStored e)] false ++ hazardOf [(g.nearPool + hRaiseOff e, hStored e)] true
  else hazardOf (footprint d) (op = 0x79) ++ place

/-- The home operand of a transfer: its bytes and its units (R208). -/
def stashHome (s : State) (c op env e : Nat) (ext : List Nat) : List (Nat × Nat) × Nat :=
  if op = 0x7A then
    (let g := (ctxOf s c).stash
     let src := formBase g e
     ((formReads s c e src).map fun p => (g.nearPool + hRaiseOff e + (p.1 - src), p.2), cdiv (hStored e) 64))
  else (footAt (envRec env 0) ext, stashUnits (envRec env 0) ext)

/-- What a transfer will read and write, for the races of one that waits (R154). -/
def stashAccess (s : State) (c op env e : Nat) (ext : List Nat) : Access :=
  let d := envRec env 0
  let place := stashPlace (ctxOf s c).stash op env e
  let own := physPieces s c (if op = 0x7A then [] else footAt d ext)
  { rd := (if op = 0x78 then own else []) ++ physPieces s c ((place.filter (·.needR)).flatMap (·.ivs))
    wr := (if op = 0x79 then own else []) ++ physPieces s c ((place.filter (·.needW)).flatMap (·.ivs)) }

/-! ### Effects on handles and granules (R206, R207, R209, R212, R213) -/

/-- Set a handle free and release its granules (R207). -/
def freeHandle (s : State) (c h e : Nat) : State := putState (releaseHandle s c e) c h hsFree

/-- What an operation does to its handle and granules at its issue, as if every earlier one of its queue had completed (R209). A lossless SPUT's STORED_BYTES is known when its transfer ends. -/
def stashApply (s : State) (c op env e : Nat) (ext : List Nat) : State :=
  let h := stHandle env
  if op = 0x78 then
    let d := envRec env 0
    let n := if (poolOf (hPolicy e)).isNone || ext.contains 0 || hComp e = 5 then 0 else storedLen d.fmt (hComp e) ext
    let s := match poolOf (hPolicy e) with
      | some k => takeRange s c k (hPoolOff e) (hPlan e)
      | none => s
    putHandle s c h (putFields s c e d ext n)
  else if op = 0x79 then
    let s := if hState e = hsDropped then countRecomp s c else s
    if stRelease env then freeHandle s c h e else s
  else putState (takeRange s c 0 (hRaiseOff e) (hPlan e)) c h hsRaised

/-- Handles that a stash operation names. -/
def stHandles (op env : Nat) : List Nat :=
  if op = 0x7B then (List.range (stCount env)).map (stHandle env + ·) else [stHandle env]

/-- Granules that an operation on an entry holds, as (first, count). -/
def stGranules (g : StashCfg) (op e : Nat) : List (Nat × Nat) :=
  (match poolOf (hPolicy e) with
    | some k => [(poolFirst g k + hPoolOff e / granule, hPlan e / granule)]
    | none => []) ++
  (if op = 0x7A || hState e = hsRaised then [(hRaiseOff e / granule, hPlan e / granule)] else [])

/-- Does an operation name a handle of one in flight, or granules that it holds (R209)? -/
def stashMeets (g : StashCfg) (op env e : Nat) (f : Flight) : Bool :=
  f.cls = ucStash &&
    ((stHandles op env).any (stHandles f.op.opcode f.op.env).contains ||
      (op ≠ 0x7B && f.op.opcode ≠ 0x7B && rangesMeet (stGranules g op e) (stGranules g f.op.opcode (nth 0 f.aux 0))))

/-- Take back what an operation that failed in its transfer did to its handle and granules, unless a later one has acted on them (R210). -/
def stashUndo (s : State) (c : Nat) (later : List Flight) (op env e : Nat) : State :=
  let h := stHandle env
  if op = 0x7B || later.any (stashMeets (ctxOf s c).stash op env e) then s
  else if op = 0x78 then freeHandle s c h (setFld e 2 1 hsHeld)
  else if op = 0x7A then putState (giveRange s c 0 (hRaiseOff e) (hPlan e)) c h hsHeld
  else if stRelease env then
    let s := match poolOf (hPolicy e) with
      | some k => takeRange s c k (hPoolOff e) (hPlan e)
      | none => s
    putState (if hState e = hsRaised then takeRange s c 0 (hRaiseOff e) (hPlan e) else s) c h (hState e)
  else s

/-! ### Issue and waiting (R166, R208, R209) -/

/-- Must a transfer wait: for an earlier operation in flight on its handle or granules, for an earlier one that itself waits for engine 7 of a Face that both use, or for engine 7's ranges (R166, R209)? -/
def stashWaits (s : State) (c op env e : Nat) (faces : List Nat) (need : List Hazard) (earlier : List Flight) : Bool :=
  earlier.any (fun f => stashMeets (ctxOf s c).stash op env e f || (f.cls = ucStash && f.held && faces.any (stashFaces f).contains)) ||
    faces.any fun d => !mayBegin s c (d + 56) need

/-- The Faces whose engine 7 takes part in an operation's transfer (R208). -/
def stashFacesOf (s : State) (c op env e : Nat) (ext : List Nat) : List Nat :=
  let home := stashHome s c op env e ext
  if stashMoves op env e ext then facesOf s (physPieces s c home.1) home.2 else []

/-- The ranges that an operation's transfer needs. -/
def stashNeed (s : State) (c op env e : Nat) (ext : List Nat) : List Hazard :=
  if stashMoves op env e ext then stashHazards (ctxOf s c).stash op env e else []

/-- Must a stash operation that issues wait? -/
def stashHolds (s : State) (c op env e : Nat) (ext : List Nat) : Bool :=
  stashWaits s c op env e (stashFacesOf s c op env e ext) (stashNeed s c op env e ext) (ctxOf s c).flight

/-- A stash operation in flight whose effects on handle and granules made the state `s1`. -/
def stashFlight (s : State) (c op env e : Nat) (ext : List Nat) (s1 : State) : Result :=
  { st := s1, status := if ext.contains 0 then stZeroExtent else stOk, ranges := stashNeed s c op env e ext
    aux := e :: (List.range 6).map (nth 1 ext) ++ stashFacesOf s c op env e ext }

/-- The end of a transfer: one that failed takes back what its operation did to handle and granules (R210). -/
def stashEnd (r m : Result) (c op env e : Nat) : Result :=
  { r with st := if halting m.status then stashUndo m.st c [] op env e else m.st
           status := m.status, flags := m.flags, detail := m.detail, acc := m.acc }

/-- A stash operation whose checks passed: its effects on handle and granules, and its transfer, at once or when nothing holds it any more. -/
def stashGo (s : State) (c : Nat) (op env e : Nat) (ext : List Nat) (s1 : State) : Result :=
  let r := stashFlight s c op env e ext s1
  if stashHolds s c op env e ext then
    { r with ended := false, held := true, acc := if stashMoves op env e ext then stashAccess s c op env e ext else {} }
  else if stashMoves op env e ext then stashEnd r (stashMove s1 c op env e ext) c op env e
  else r

/-- The run-time extents that an operation reads at issue; SRAISE has no record. -/
def stashExt (s : State) (c op env : Nat) : List Nat := if op = 0x7A then [] else runExt s c (envRec env 0)

/-- SPUT, SGET and SRAISE at their unit. -/
def stashBody (op : Nat) : Body := fun s c q =>
  match stashChecks s c op q.env with
  | some (st, d) => reject s st d
  | none =>
    let e := handleAt s c (stHandle q.env)
    let ext := stashExt s c op q.env
    stashGo s c op q.env e ext (stashApply s c op q.env e ext)

/-- An operation in flight. -/
def earlierThan (x : Ctx) (f : Flight) : List Flight := x.flight.takeWhile fun g => g.op.opIndex ≠ f.op.opIndex
def laterThan (x : Ctx) (f : Flight) : List Flight := (x.flight.dropWhile fun g => g.op.opIndex ≠ f.op.opIndex).tail

/-- A stash operation that waited begins its transfer. -/
def stashBegin (s : State) (c : Nat) (f : Flight) : State :=
  let op := f.op.opcode
  let e := nth 0 f.aux 0
  let ext := if op = 0x7A then [] else (f.aux.drop 1).take 6
  let finished (r : Result) (g : Flight) : Flight :=
    { g with status := r.status, flags := r.flags, detail := r.detail, ended := true, held := false }
  let done (r : Result) (s : State) : State :=
    updCtx s c fun x => { x with flight := updFirst (fun g => g.op.opIndex = f.op.opIndex) (finished r) x.flight }
  if f.op.opcode ≠ 0x7B && stashMoves op f.op.env e ext then
    let r := stashMove s c op f.op.env e ext
    let s := if f.acc.raced then loseOutputs r.st f.acc else r.st
    done r (if halting r.status then stashUndo s c (laterThan (ctxOf s c) f) op f.op.env e else s)
  else done { st := s, status := f.status } s

/-- May a waiting stash operation begin? -/
def stashFreed (s : State) (c : Nat) (f : Flight) : Bool :=
  f.cls = ucStash && f.held && !stashWaits s c f.op.opcode f.op.env (nth 0 f.aux 0) (stashFaces f) f.ranges (earlierThan (ctxOf s c) f)

/-- Every waiting stash operation that nothing holds any more begins, in queue order. -/
def stashKick (s : State) : State :=
  (List.range 8).foldl (fun s c => (ctxOf s c).flight.foldl (fun s f => if stashFreed s c f then stashBegin s c f else s) s) s

/-- May the Stash Manager take another operation: at most 8 in flight (R209)? -/
def stashRoom (s : State) : Bool := sumNat (s.ctxs.map fun x => (x.flight.filter fun f => f.cls = ucStash).length) < 8

/-- Issue the head of a context's stash queue. -/
def stashOp (c : Nat) (aged : Bool) (opcode : Nat) (body : Body) (s : State) : State :=
  issueOp s c ucStash 0 aged (fun q => isOp opcode q && stashRoom s) body

/-- SPUT (R206): stashes a tensor under its handle's policy. -/
def execSput (c : Fin 8) (aged : Bool) (s : State) : Host.Outcome State Fault Refusal :=
  .next (stashOp c aged 0x78 (stashBody 0x78) s)

/-- SGET (R207): restores the stash of a handle. -/
def execSget (c : Fin 8) (aged : Bool) (s : State) : Host.Outcome State Fault Refusal :=
  .next (stashOp c aged 0x79 (stashBody 0x79) s)

/-- SRAISE (R213): copies a far or host stored form into the near pool. -/
def execSraise (c : Fin 8) (aged : Bool) (s : State) : Host.Outcome State Fault Refusal :=
  .next (stashOp c aged 0x7A (stashBody 0x7A) s)

/-- The checks of SFREE in the order of R205: reserved values, the pool ranges of the handles it names, the handles and their entries. -/
def sfreeChecks (s : State) (c env : Nat) : Option (Nat × Nat) :=
  let g := (ctxOf s c).stash
  let hs := (stHandles 0x7B env).filter (· < g.handles)
  let known := stHandle env < g.handles && 1 ≤ stCount env && stCount env ≤ g.handles - stHandle env
  firstSome [
    (firstBad (stashReserved env 0x7B)).map fun o => (stReserved, o),
    (if hs.any fun h => (stashRanges g (handleAt s c h) 0x7B).any fun f => !footOk s c f.reach false false f.ivs then some (stAddress, 0xFF) else none),
    (if !known || hs.any fun h => entryInvalid g (handleAt s c h) then some (0x78, 0) else none)]

/-- SFREE at its unit: COUNT handles from HANDLE on are released (R204, R207). -/
def bodySfree : Body := fun s c q =>
  match sfreeChecks s c q.env with
  | some (st, d) => reject s st d
  | none =>
    stashGo s c 0x7B q.env 0 [] ((stHandles 0x7B q.env).foldl (fun s h => freeHandle s c h (handleAt s c h)) s)

/-- SFREE (R204): releases handles, restoring nothing. -/
def execSfree (c : Fin 8) (aged : Bool) (s : State) : Host.Outcome State Fault Refusal :=
  .next (stashOp c aged 0x7B bodySfree s)

/-- HAZARD_RANGE_RELEASE (R166): the first waiting operation of a context on a Hauler begins its transfer once no tracked range conflicts and its ranges fit; stash segments that now may begin do so too (R208). -/
def execHazardRangeRelease (c : Fin 8) (die : Fin 6) (engine : Fin 8) (s : State) : Host.Outcome State Fault Refusal :=
  let inst := die.val + 8 * engine.val
  match (ctxOf s c).flight.find? fun f => f.cls = ucHauler && f.op.inst = inst && f.held with
  | none => .next s
  | some f => if mayBegin s c inst f.ranges then .next (stashKick (beginHeld s c f)) else .next s

/-! ### Registers (R215) -/

/-- A write of STASH_PERF_CTL (R215): CTX_MASK, and, where CLEAR_PEAK is 1, each PEAK of the selected contexts becomes its HELD. -/
def stashCtl (s : State) (clear : Bool) (mask : Nat) : State :=
  let cnt := s.stash.cnt.zipIdx.map fun p =>
    if bit mask (p.2 / 8) && p.2 % 8 < 6 && p.2 % 2 = 1 then nth 0 s.stash.cnt (p.2 - 1) else p.1
  { s with stash := { cnt := if clear then cnt else s.stash.cnt, mask := mask } }

/-- CLEAR_PEAK (R215): STASH_PERF_CTL is written with CLEAR_PEAK 1 and a CTX_MASK. -/
def execClearPeak (mask : BitVec 8) (s : State) : Host.Outcome State Fault Refusal :=
  if barOn s then .next (stashCtl s true mask.toNat) else .next s

end Sys2Proof.Machine
end

