-- ==== Sys2Proof/Machine/Streams.lean ====
section
/-! DEFINITION. Coded streams as the codec reads them: headers, the containers' limits (R324), the supported profiles (R349), the decoder limits (R350), the division of a picture over cores (R353, R354), and the motion of a coded unit (R356). -/

namespace Sys2Proof.Machine

/-! ### Headers (R324, R349, R350) -/

/-- What a stream's container and headers say. `damage`: a damage code of R361 where they do not parse, else 0. `codec`: 0 H.264/AVC, 1 H.265/HEVC, 2 AV1, others none of these. `profile`: for AVC 0 Constrained Baseline, 1 Main, 2 High; for HEVC 0 Main, 1 Main 10; for AV1 0 Main; others none of these. `chroma`: 1 for 4:2:0. `tools`: one bit for each option of the stream that *Supported profiles* names as not supported. `colour`: as a cache entry's COLOUR (R337). `slices` and `coded`: the most of any picture. `nesting`, `moov`, `tracks`, `fileHead`: the container's box depth, bytes of its moov box, video tracks, and bytes of its file header. -/
structure StreamHead where
  damage : Nat
  codec : Nat
  w : Nat
  h : Nat
  depth : Nat
  colour : Nat
  frames : Nat
  profile : Nat
  chroma : Nat
  tools : Nat
  refs : Nat
  ctb : Nat
  tileCols : Nat
  tileRows : Nat
  slices : Nat
  coded : Nat
  wave : Bool
  nesting : Nat
  moov : Nat
  tracks : Nat
  fileHead : Nat
  deriving DecidableEq, Repr

/-- The headers of a stream's bytes. -/
def readHead (cont bytes len : Nat) : StreamHead :=
  let i := Config.streamHead cont bytes len
  ⟨i 0 % 8, i 1, i 2, i 3, i 4, i 5 % 16, i 6, i 7, i 8, i 9, i 10, i 11, i 12, i 13, i 14, i 15, i 16 ≠ 0, i 17, i 18, i 19, i 20⟩

/-- The container code of an elementary stream of a live set: Annex B for HEVC, bare units for AV1. -/
def elemCont (codec : Nat) : Nat := if codec = 0 then 3 else 4

/-- Do the headers not parse, or break the limits of *Containers* (R324, R325)? -/
def containerBad (cont : Nat) (h : StreamHead) : Bool :=
  h.damage ≠ 0 || (cont = 1 && (8 < h.nesting || 16777216 < h.moov || h.tracks ≠ 1)) || (cont = 2 && h.fileHead ≠ 32)

/-- The codecs that a container's supported subset names (R324); a live stream's AV1 units have no container. -/
def contCodec (cont codec : Nat) : Bool :=
  match cont with
  | 1 => codec ≤ 2
  | 2 => codec = 2
  | 3 => codec ≤ 1
  | _ => codec = 2

/-- The bit depths of a supported profile; none for one that is not listed (R349). -/
def profileDepths (codec profile : Nat) : List Nat :=
  match codec, profile with
  | 0, 0 => [8]
  | 0, 1 => [8]
  | 0, 2 => [8]
  | 1, 0 => [8]
  | 1, 1 => [8, 10]
  | 2, 0 => [8, 10]
  | _, _ => []

/-- Luma samples of the largest picture (R350). -/
def maxPicture : Nat := 35651584

/-- Does a picture size lie within *Decoder limits* (R350)? -/
def sizeOk (w h : Nat) : Bool := 16 ≤ w && w ≤ 8192 && 16 ≤ h && h ≤ 8192 && w * h ≤ maxPicture

/-- Do the headers lie within the rest of *Decoder limits* (R350)? -/
def limitsOk (h : StreamHead) : Bool :=
  h.refs ≤ 16 && (h.codec ≠ 1 || h.ctb = 16 || h.ctb = 32 || h.ctb = 64) &&
  (h.codec ≠ 1 || (h.tileCols ≤ 20 && h.tileRows ≤ 22)) && (h.codec ≠ 2 || (h.tileCols ≤ 64 && h.tileRows ≤ 64)) &&
  h.slices ≤ 600 && h.coded ≤ 16777216

/-- Is a stream outside *Supported profiles* (R349)? 1 a profile or tool, 2 a bit depth or chroma format, 0 neither: the codes of STREAM_UNSUPPORTED's DETAIL. -/
def profileBad (cont : Nat) (h : StreamHead) : Nat :=
  if !contCodec cont h.codec || profileDepths h.codec h.profile = [] || h.tools ≠ 0 then 1
  else if h.chroma ≠ 1 || !(profileDepths h.codec h.profile).contains h.depth then 2
  else 0

/-- Why the codec refuses a stream (R349, R350, R357): as profileBad, or 3 beyond *Decoder limits*. -/
def streamBad (cont : Nat) (h : StreamHead) : Nat :=
  if profileBad cont h ≠ 0 then profileBad cont h else if sizeOk h.w h.h && limitsOk h then 0 else 3

/-! ### Division of a picture over cores (R353, R354) -/

/-- What a stream's pictures offer for division (R353). -/
inductive Division where
  | rows
  | tiles
  | slices
  | whole
  deriving DecidableEq, Repr

/-- The division of a stream's pictures: tiles, with or without wavefront; else the wavefront's CTB rows; else slices; else none. -/
def divisionOf (h : StreamHead) : Division :=
  if 1 < h.tileCols * h.tileRows && h.codec ≠ 0 then .tiles
  else if h.codec = 1 && h.wave then .rows
  else if h.codec ≠ 2 && 1 < h.slices then .slices
  else .whole

/-- Parallel units of a picture; a picture that offers none runs on one core (R353). -/
def unitCount (h : StreamHead) : Nat :=
  match divisionOf h with
  | .rows => cdiv h.h (max 1 h.ctb)
  | .tiles => h.tileCols * h.tileRows
  | .slices => h.slices
  | .whole => 1

/-- The core that takes unit i of a picture: i mod c (R353). -/
def unitCore (cores : List Nat) (i : Nat) : Nat := nth 0 cores (i % max 1 cores.length)

/-- Generations of the boundary after a unit (R354): the CTB columns of a row, or one for a tile's or slice's edge. -/
def boundaryGens (d : Division) (cols : Nat) : Nat := if d = .rows then cols else 1

/-- The boundaries of one picture between units on different cores, before its decoding begins (R354). -/
def newBounds (d : Division) (units cols : Nat) (cores : List Nat) : List PicBound :=
  ((List.range (units - 1)).filter fun i => unitCore cores i ≠ unitCore cores (i + 1)).map fun _ => ⟨boundaryGens d cols, 0, 0, none, none⟩

/-- The producer writes its next generation into slot g mod 2, at most two ahead (R243, R354). -/
def boundWrite (b : PicBound) : PicBound :=
  if b.ready < b.gens && b.ready < b.ack + 2 then
    { b with
      ready := b.ready + 1
      slot0 := if b.ready % 2 = 0 then some b.ready else b.slot0
      slot1 := if b.ready % 2 = 0 then b.slot1 else some b.ready }
  else b

/-- The consumer reads a generation that is complete (R243, R354). -/
def boundRead (b : PicBound) : PicBound := if b.ack < b.ready then { b with ack := b.ack + 1 } else b

/-- A picture runs to its end: every generation is written and read in order. -/
def boundRun (b : PicBound) : PicBound := (List.range b.gens).foldl (fun x _ => boundRead (boundWrite x)) b

/-! ### Motion of a coded unit (R356) -/

/-- What R356 reads of the coded unit that covers a sample. -/
structure CodedUnit where
  intra : Bool
  blockCopy : Bool
  skipFlag : Bool
  residual : Bool
  intraOnly : Bool
  showExisting : Bool
  av1 : Bool
  mvx : Int
  mvy : Int
  dist : Nat

/-- A 32-bit two's complement number. -/
def int32 (n : Nat) : Int := sext (n % 2 ^ 32) 32

/-- The unit of a syntax read item by item: 0 intra-predicted, 1 intra block copy, 2 the skip flag (P_Skip, B_Skip, cu_skip_flag, skip_txfm), 3 a coded residual signalled (AVC coded_block_pattern or a coded DC, HEVC rqt_root_cbf), 4 the picture is intra-only, 5 it is a show_existing_frame, 6 the unit uses list L0; the vector and display distance of L0 at 7 to 9, of L1 at 10 to 12. -/
def codedUnit (av1 : Bool) (item : Nat → Nat) : CodedUnit :=
  let l := if item 6 ≠ 0 then 7 else 10
  ⟨item 0 ≠ 0, item 1 ≠ 0, item 2 ≠ 0, item 3 ≠ 0, item 4 ≠ 0, item 5 ≠ 0, av1, int32 (item l), int32 (item (l + 1)), max 1 (item (l + 2))⟩

/-- The sign of an integer times a size. -/
def withSign (v : Int) (n : Nat) : Int := if v < 0 then -(n : Int) else n

/-- A vector component in quarter luma samples (R356). -/
def quarterOf (av1 : Bool) (v : Int) : Int := if av1 then withSign v ((v.natAbs + 1) / 2) else v

/-- A component per display frame interval: divided by the distance, rounded to nearest with ties away from zero, and clamped (R356). -/
def perFrame (v : Int) (n : Nat) : Int := max (-8192) (min 8191 (withSign v ((2 * v.natAbs + n) / (2 * n))))

/-- Is a unit reported INTRA (R356)? -/
def unitIntra (u : CodedUnit) : Bool := !u.showExisting && (u.intra || u.blockCopy || u.intraOnly)

/-- Is a unit reported SKIP (R356)? -/
def unitSkip (u : CodedUnit) : Bool := u.showExisting || u.skipFlag || (!u.av1 && !u.residual)

/-- The motion word of a unit before rotation, VALID left out (R356). -/
def unitWord (u : CodedUnit) : Nat :=
  let still := u.showExisting || unitIntra u
  let mv (v : Int) : Int := if still then 0 else perFrame (quarterOf u.av1 v) u.dist
  ofInt (mv u.mvx) 14 + ofInt (mv u.mvy) 14 * 2 ^ 14 + b2n (unitSkip u) * 2 ^ 28 + b2n (unitIntra u) * 2 ^ 29

end Sys2Proof.Machine
end

