-- ==== Sys2Proof/Machine/Taproot.lean ====
section
/-! DEFINITION. The Taproot's feeds: feed block fields (R343), sample order (R323), sample checks (R325), the pixel pipeline (R328 to R335), the decoded sample cache (R337, R338), the batch ring (R320 to R322), and feeds that stop (R326, R327, R346). -/

namespace Sys2Proof.Machine

/-! ### Feed block (R343) -/

/-- A field of the feed block. -/
def fb (f : Feed) (off len : Nat) : Nat := fld f.cfg off len
/-- A field of the live block. -/
def lb (f : Feed) (off len : Nat) : Nat := fld f.liveCfg off len

def fbN (f : Feed) : Nat := fb f 0x08 4
def fbB (f : Feed) : Nat := fb f 0x0C 2
def fbRaw (f : Feed) : Bool := fb f 0x0E 1 = 1
def fbSeed (f : Feed) : Nat := fb f 0x10 8
def fbReady (f : Feed) : Nat := bits (fb f 0x30 2) 0 12
def fbFree (f : Feed) : Nat := bits (fb f 0x32 2) 0 12
def fbDepth (f : Feed) : Nat := fb f 0x34 1
def fbLow (f : Feed) : Nat := fb f 0x35 1
def fbCache (f : Feed) : Nat := fb f 0x36 1
def fbRing (f : Feed) : Nat := fb f 0x40 8
def fbBuf (f : Feed) : Nat := fb f 0x48 8
def fbFrames (f : Feed) : Nat := fb f 0x86 2
def fbStride (f : Feed) : Nat := fb f 0x88 1
def fbColor (f : Feed) : Nat := fb f 0x8B 1
def fbLevels (f : Feed) : Nat := fb f 0x94 1
/-- SCALE_c and BIAS_c. -/
def fbScale (f : Feed) (ch : Nat) : FVal := val32 (fb f (0x98 + 8 * ch) 4)
def fbBias (f : Feed) (ch : Nat) : FVal := val32 (fb f (0x9C + 8 * ch) 4)

/-- Bytes before the templates in a batch buffer (R321). -/
def bufHead (b : Nat) : Nat := 0x40 + roundUp b 64 + roundUp (8 * b) 64

/-- The feed of a context and ID. -/
def feedOf (s : State) (c id : Nat) : Option Feed := s.tap.feeds.find? fun f => f.ctx = c && f.id = id

/-- Is a feed running or finishing? -/
def feedBusy (f : Feed) : Bool := f.st = 1 || f.st = 2

/-- Change one feed. -/
def updFeed (s : State) (c id : Nat) (g : Feed → Feed) : State :=
  { s with tap := { s.tap with feeds := updFirst (fun f => f.ctx = c && f.id = id) g s.tap.feeds } }

/-- Count in a Taproot counter (R348). -/
def tapAdd (s : State) (k n : Nat) : State := { s with tap := { s.tap with perf := perfAdd s.tap.perf k n } }

/-- The feed's prepared count: published and not yet freed (R322). Tallies count modulo 2^32 (R149), and so does the difference; a consumer that has freed more than was published leaves none prepared. -/
def prepared (s : State) (f : Feed) : Nat :=
  let d := (BitVec.ofNat 32 f.published - (tallyOf s f.ctx (fbFree f) - f.f0)).toNat
  if d < 2 ^ 31 then d else 0

/-- Regions of sample stores (R319); batch rings, work areas, reject rings and caches lie in two of them. -/
def storeRegions : List Region := [.near, .far, .host]

/-- Is the buffer of the next batch free (R320)? -/
def bufferFree (s : State) (f : Feed) : Bool :=
  f.published < fbDepth f ||
    waitMet (tallyOf s f.ctx (fbFree f)) (f.f0 + BitVec.ofNat 32 (f.published - fbDepth f + 1))

/-- The low-water rule of one feed after a FREE signal or a publication (R322). -/
def lowWaterOne (before : State) (s : State) (f : Feed) : State :=
  let p := prepared s f
  let freed := tallyOf before f.ctx (fbFree f) ≠ tallyOf s f.ctx (fbFree f)
  if fbLow f = 0 || !feedBusy f then s
  else if fbLow f ≤ p then updFeed s f.ctx f.id fun f => { f with armed := true }
  else if freed && f.armed then
    let s1 := tapAdd (updFeed s f.ctx f.id fun f => { f with armed := false, low := true }) 5 1
    postEvent s1 0x83 f.ctx 0 (packBits [(f.id, 32), (f.published, 64)])
  else s

/-- The low-water rule of every feed of a context once its tallies have changed (R322). -/
def lowWater (before s : State) (c : Nat) : State :=
  (s.tap.feeds.filter fun f => f.ctx = c).foldl (fun t f => lowWaterOne before t f) s

/-! ### Sample order (R323) -/

/-- The Feistel network of R323. -/
def feistel (h : Nat) (k : List Nat) (x : Nat) : Nat :=
  let m := 2 ^ h
  let (l, r) := k.foldl (fun (p : Nat × Nat) kk => (p.2, p.1 ^^^ (mix64 (kk ^^^ p.2) % m))) (x / m, x % m)
  l * m + r

/-- Cycle-walking: apply the network until the value falls below `n`. -/
def cycleWalk (h n : Nat) (k : List Nat) : Nat → Nat → Nat
  | 0, x => x
  | fuel + 1, x => let y := feistel h k x; if n ≤ y then cycleWalk h n k fuel y else y

/-- perm of R323. -/
def perm (p n seed epoch : Nat) : Nat :=
  if n = 1 then 0
  else
    let b := max 2 (Nat.log2 (n - 1) + 1)
    let b := if b % 2 = 1 then b + 1 else b
    let base := mix64 (seed ^^^ mix64 epoch)
    cycleWalk (b / 2) n ((List.range 6).map fun i => mix64 (add64 base i)) (2 ^ b) p

/-- Position of a slot (R323). -/
def slotPos (f : Feed) (k j : Nat) : Nat := (fb f 0x20 8 + k * fb f 0x28 8 + j * fb f 0x1C 4) % 2 ^ 64
/-- Epoch of a position. -/
def posEpoch (f : Feed) (q : Nat) : Nat := (fb f 0x18 4 + q / fbN f) % 2 ^ 32
/-- Sample index of a position. -/
def posSample (f : Feed) (q : Nat) : Nat := perm (q % fbN f) (fbN f) (fbSeed f) (posEpoch f q)

/-- Draw m of a sample (R329). -/
def drawOf (seed epoch sample m : Nat) : Nat := srBits seed (0x54410000 + m) epoch sample

/-! ### Images and the pixel pipeline (R330 to R334) -/

/-- The first frame (R330): n frames, a span, the TEMPORAL choice and draw 0. -/
def startFrame (temporal d0 n span : Nat) : Nat :=
  if temporal = 0 then 0 else if temporal = 1 then d0 * (n - span + 1) / 65536 else (n - span) / 2

/-- A decoded clip: extents, frames, bit depth, colour byte (R337), and the code of a sample by plane, frame, x and y. -/
structure Clip where
  w : Nat
  h : Nat
  n : Nat
  depth : Nat
  colour : Nat
  code : Nat → Nat → Nat → Nat → Nat

/-- Matrix of a colour byte: BT.709 where none is signalled (R331). -/
def clipMatrix (c : Clip) : Nat := if bit c.colour 3 then bits c.colour 0 2 else 1
/-- Kr and Kb in ten-thousandths. -/
def krKb (m : Nat) : Nat × Nat := if m = 0 then (2990, 1140) else if m = 1 then (2126, 722) else (2627, 593)

/-- The eight constants of *YCbCr to RGB* (R331). -/
structure YccConst where
  yOff : FVal
  ySc : FVal
  cOff : FVal
  cSc : FVal
  rCr : FVal
  bCb : FVal
  gCb : FVal
  gCr : FVal

/-- The constants of a matrix, range and depth: the FP32 values nearest the exact ones. -/
def yccConst (m : Nat) (full : Bool) (d : Nat) : YccConst :=
  let (kr, kb) := krKb m
  let one := 10000
  { yOff := if full then fzero else fnat (16 * 2 ^ (d - 8))
    ySc := if full then dec32 1 (2 ^ d - 1) else dec32 1 (219 * 2 ^ (d - 8))
    cOff := if full then fnat (2 ^ (d - 1)) else fnat (128 * 2 ^ (d - 8))
    cSc := if full then dec32 1 (2 ^ d - 1) else dec32 1 (224 * 2 ^ (d - 8))
    rCr := dec32 (2 * (one - kr)) one, bCb := dec32 (2 * (one - kb)) one
    gCb := fneg (dec32 (2 * kb * (one - kb)) (one * (one - kr - kb)))
    gCr := fneg (dec32 (2 * kr * (one - kr)) (one * (one - kr - kb))) }

/-- The working value of a channel (R331). -/
def workValue (c : Clip) (color ch frame x y : Nat) : Nat :=
  let yc := c.code 0 frame x y
  let cb := c.code 1 frame (x / 2) (y / 2)
  let cr := c.code 2 frame (x / 2) (y / 2)
  if color = 1 then yc * 256
  else if color = 2 then (if ch = 0 then yc else if ch = 1 then cb else cr) * 256
  else
    let k := yccConst (clipMatrix c) (bit c.colour 2) c.depth
    let fy := mul32f (sub32f (fnat yc) k.yOff) k.ySc
    let fcb := mul32f (sub32f (fnat cb) k.cOff) k.cSc
    let fcr := mul32f (sub32f (fnat cr) k.cOff) k.cSc
    let v := if ch = 0 then fma32f k.rCr fcr fy
      else if ch = 1 then fma32f k.gCr fcr (fma32f k.gCb fcb fy)
      else fma32f k.bCb fcb fy
    let top : Int := 256 * ((2 : Int) ^ c.depth - 1)
    (max 0 (min top (rintX (mulX v (fint top))))).toNat

/-- A plane of working values. -/
structure Img where
  w : Nat
  h : Nat
  px : Nat → Nat → Nat

/-- A crop of a plane (R332). -/
def cropImg (i : Img) (ox oy w h : Nat) : Img := ⟨w, h, fun x y => i.px (ox + x) (oy + y)⟩

/-- Rotation by r × 90° anticlockwise, then a horizontal mirror (R332). -/
def rotImg (i : Img) (r : Nat) (mirror : Bool) : Img :=
  let t : Img :=
    if r = 1 then ⟨i.h, i.w, fun x y => i.px (i.w - 1 - y) x⟩
    else if r = 2 then ⟨i.w, i.h, fun x y => i.px (i.w - 1 - x) (i.h - 1 - y)⟩
    else if r = 3 then ⟨i.h, i.w, fun x y => i.px y (i.h - 1 - x)⟩
    else i
  if mirror then ⟨t.w, t.h, fun x y => t.px (t.w - 1 - x) y⟩ else t

/-- Exchange the axes. -/
def transpose (i : Img) : Img := ⟨i.h, i.w, fun x y => i.px y x⟩

/-- Halve along x while the input is at least twice the output (R333). -/
def halveX (out : Nat) : Nat → Img → Img
  | 0, i => i
  | fuel + 1, i =>
    if 2 * out ≤ i.w then
      halveX out fuel ⟨cdiv i.w 2, i.h, fun x y => (i.px (2 * x) y + i.px (min (2 * x + 1) (i.w - 1)) y + 1) / 2⟩
    else i

/-- src_fx of R333: integer part and fraction of a source coordinate. -/
def srcFx (o wIn wOut : Nat) : Int × Nat :=
  let num : Int := (2 * o + 1) * wIn * 256 - wOut * 256
  let s := Int.fdiv num (2 * wOut)
  (Int.fdiv s 256, (Int.emod s 256).toNat)

/-- A coordinate held inside an extent. -/
def clampIdx (x : Int) (n : Nat) : Nat := (max 0 (min x ((n : Int) - 1))).toNat

/-- Scaling to OUT_W × OUT_H (R333): both axes halved, then x, then y. -/
def scaleImg (i : Img) (ow oh : Nat) : Img :=
  let a := transpose (halveX oh 16 (transpose (halveX ow 16 i)))
  let hx (o y : Nat) : Nat :=
    let (x0, f) := srcFx o a.w ow
    a.px (clampIdx x0 a.w) y * (256 - f) + a.px (clampIdx (x0 + 1) a.w) y * f
  ⟨ow, oh, fun x y =>
    let (y0, f) := srcFx y a.h oh
    (hx x (clampIdx y0 a.h) * (256 - f) + hx x (clampIdx (y0 + 1) a.h) * f + 32768) / 65536⟩

/-- The next pyramid level (R334). -/
def nextLevel (i : Img) : Img :=
  ⟨cdiv i.w 2, cdiv i.h 2, fun x y =>
    let x1 := min (2 * x + 1) (i.w - 1)
    let y1 := min (2 * y + 1) (i.h - 1)
    (i.px (2 * x) (2 * y) + i.px x1 (2 * y) + i.px (2 * x) y1 + i.px x1 y1 + 2) / 4⟩

/-- Pyramid level l. -/
def levelImg (i : Img) : Nat → Img
  | 0 => i
  | l + 1 => nextLevel (levelImg i l)

/-- The chosen entry of ROT_SET: rotation and mirror (R332). -/
def pickRot (set d3 : Nat) : Nat × Bool :=
  let s := if set = 0 then 1 else set
  let on := (List.range 8).filter fun k => bit s k
  let k := nth 0 on (d3 * on.length / 65536)
  (k % 4, 4 ≤ k)

/-- Level l of one channel of one frame of a video sample: colour, crop, rotation, scaling, pyramid (R331 to R334). -/
def sampleImg (f : Feed) (c : Clip) (epoch sample ch frame l : Nat) : Img :=
  let d (m : Nat) : Nat := drawOf (fbSeed f) epoch sample m
  let cw := if fb f 0x8C 2 = 0 then c.w else min (fb f 0x8C 2) c.w
  let chh := if fb f 0x8E 2 = 0 then c.h else min (fb f 0x8E 2) c.h
  let rnd := fb f 0x8A 1 = 1
  let ox := if rnd then d 1 * (c.w - cw + 1) / 65536 else (c.w - cw) / 2
  let oy := if rnd then d 2 * (c.h - chh + 1) / 65536 else (c.h - chh) / 2
  let (r, m) := pickRot (fb f 0x95 1) (d 3)
  levelImg (scaleImg (rotImg (cropImg ⟨c.w, c.h, workValue c (fbColor f) ch frame⟩ ox oy cw chh) r m) (fb f 0x90 2) (fb f 0x92 2)) l

/-! ### Narrowing into the batch (R335) -/

/-- The template of a level in the buffer of batch k. -/
def levelDesc (f : Feed) (k l : Nat) : Desc :=
  let d := parseDesc (nth 0 f.tmpl l)
  { d with base := d.base + (k % fbDepth f) * fbBuf f }

/-- The dimension that counts slots: the template's last. -/
def slotDim (d : Desc) : Nat := d.rank - 1

/-- Indices of one slot of a level. -/
def slotIndices (d : Desc) (j : Nat) : List (List Nat) :=
  (indices ((List.range 6).map fun k => if k < slotDim d then extAt d k else 1)).map fun i => i.set (slotDim d) j

/-- Stores of one slot of a level from FP32 values, narrowed under the template's frame with the Taproot's ORIGIN and LEXT (R335). -/
def slotPuts (seed step pos count : Nat) (d : Desc) (j : Nat) (val : List Nat → FVal) : List Put :=
  let dim := slotDim d
  let d' := { d with
    origin := (List.replicate 6 0).set dim pos
    lext := (List.range 6).map fun k => if k = dim then count else if k < dim then extAt d k else 0 }
  (slotIndices d j).map fun i =>
    let (a, b) := elemAddr d i
    let rnd := rndAt { seed := seed, step := step, scale := 0 } d' (i.set dim 0)
    (a, b, ebits d.fmt, (narrowElem d.fmt rnd d.ovf (val i)).1)

/-- The bytes of a slot of a level, row by row. -/
def slotIvs (d : Desc) (j : Nat) : List (Nat × Nat) :=
  ((slotIndices d j).filter fun i => nth 0 i 0 = 0).map fun i => ((elemAddr d i).1, rowBytes d (extAt d 0))

/-- Zero in every element of a slot of a level (R321). -/
def zeroPuts (d : Desc) (j : Nat) : List Put :=
  (slotIndices d j).map fun i => let (a, b) := elemAddr d i; (a, b, ebits d.fmt, 0)

/-- The output value of a working value (R335). -/
def workOut (f : Feed) (depth ch w : Nat) : FVal :=
  fma32f (rn32 (divSticky (fnat w) (fnat (256 * (2 ^ depth - 1))))) (fbScale f ch) (fbBias f ch)

/-- Stores of a video sample in slot j of batch k. -/
def videoPuts (s : State) (f : Feed) (c : Clip) (k j epoch sample f0 step pos count : Nat) : List Put :=
  (List.range (fbLevels f)).flatMap fun l =>
    let d := levelDesc f k l
    slotPuts (ctxOf s f.ctx).jobSeed.toNat step pos count d j fun i =>
      let ch := nth 0 i 0
      workOut f c.depth ch ((sampleImg f c epoch sample ch (f0 + nth 0 i 3 * fbStride f) l).px (nth 0 i 1) (nth 0 i 2))

/-! ### Raw records (R324) -/

/-- A raw record's header fields, from its first 64 bytes. -/
def rawExt (h : Nat) : List Nat := (List.range 5).map fun k => if k < fld h 6 1 then fld h (8 + 4 * k) 4 else 1

/-- Does a raw record's header break its table, or not fit its length? -/
def rawHeadBad (h len : Nat) : Bool :=
  let r := fld h 6 1
  let f := fld h 5 1
  len < 64 || fld h 0 4 ≠ 0x57524C47 || fld h 4 1 ≠ 1 || !(f ≤ 4 || (0x0A ≤ f && f ≤ 0x0C)) || !(1 ≤ r && r ≤ 5) ||
  fld h 7 1 ≠ 0 || fld h 0x1C 4 ≠ 0 || fld h 0x28 24 ≠ 0 ||
  (List.range 5).any (fun k => r ≤ k && fld h (8 + 4 * k) 4 ≠ 0) ||
  fld h 0x20 8 ≠ storedLen ((fmtOfCode f).getD .fp32) 0 (rawExt h ++ [1]) || len < 64 + fld h 0x20 8

/-- A raw record's payload as a tensor at an address. -/
def rawDesc (h base : Nat) : Desc :=
  let f := (fmtOfCode (fld h 5 1)).getD .fp32
  let ext := rawExt h ++ [1]
  let row := storedRow f 0 (nth 1 ext 0)
  { parseDesc 0 with
    base := base, fmt := f, fmtRaw := fld h 5 1, rank := 6, ext := ext
    str := 0 :: (List.range 5).map fun k => row * prodNat ((ext.drop 1).take k) }

/-- Top dimension of a raw record. -/
def rawTop (h : Nat) : Nat := fld h 6 1 - 1

/-- Are the extents below the top those of the level 0 template (R325)? The first that differs. -/
def rawMismatch (f : Feed) (h : Nat) : Option Nat :=
  let d := parseDesc (nth 0 f.tmpl 0)
  let r := fld h 6 1
  if d.rank ≠ r + 1 then some r
  else ((List.range (rawTop h)).find? fun k => nth 1 (rawExt h) k ≠ extAt d k).map fun k => nth 1 (rawExt h) k

/-- Stores of a raw sample in slot j of batch k, its elements read through a byte reader. -/
def rawSlotPuts (s : State) (f : Feed) (rd : Nat → Nat) (h base k j f0 step pos count : Nat) : List Put :=
  let d := levelDesc f k 0
  let r := rawDesc h base
  slotPuts (ctxOf s f.ctx).jobSeed.toNat step pos count d j fun i =>
    let src := (List.range 6).map fun m =>
      if m < rawTop h then nth 0 i m else if m = rawTop h then f0 + nth 0 i m * fbStride f else 0
    fma32f (elemVal rd r src) (fbScale f 0) (fbBias f 0)

/-! ### Stopping, rejecting, faulting (R326, R327, R346) -/

/-- A feed stops: its streams and work area are free, and a TSTOP that waits for it ends. -/
def stopFeed (s : State) (c id st : Nat) : State :=
  let s1 := updFeed s c id fun f => { f with st := st, slots := [], streams := [] }
  updCtx s1 c fun x => { x with flight := x.flight.map fun g =>
    if g.op.opcode = 0xC2 && par g.op.env 0 1 % 4 = id && !g.ended then { g with ended := true } else g }

/-- A feed stops for a fault without publishing, and the Foreman reports it (R346). -/
def haltFeed (s : State) (c id status da : Nat) : State :=
  postEvent (stopFeed s c id 3) 0x84 c da (packBits [(id, 8), (status, 8)])

/-- A feed that meets a fault stops; it is logged and reported (R346). -/
def faultFeed (s : State) (c id status da : Nat) : State :=
  let s1 := if status = stMemFault then countUe s (physOf s c da) c
    else
      let (k, s) := drawFree s
      reportError s ⟨8, 1, ucTaproot, 0, c, ucTaproot, (Config.freeWord k).toNat⟩
  haltFeed s1 c id status da

/-- The areas that a feed reads: index table, work area and cache (R346). -/
def feedReads (f : Feed) : List (Nat × Nat) :=
  (if f.live then [] else [(fb f 0 8, 16 * fbN f)]) ++ [(fb f 0x50 8, fb f 0x58 8)] ++
  (if fbCache f = 0 then [] else [(fb f 0x70 8, fb f 0x78 4 * fb f 0x7C 4)])

/-- Where in a context's range a physical range is first met. -/
def meetsAt (s : State) (c : Nat) (iv : Nat × Nat) (lo hi : Nat) : Option Nat :=
  ((physPieces s c [iv]).foldl (fun (p : Nat × Option Nat) q =>
    (p.1 + q.2, match p.2 with
      | some x => some x
      | none => if overlaps q.1 (q.1 + q.2) lo hi then some (p.1 + (max lo q.1 - q.1)) else none)) (iv.1, none)).2

/-- The running feed of a context that reads a bad word or line, and the DA at which it does. -/
def feedReader (s : State) (c : Nat) (b : BadRange) : Option (Feed × Nat) :=
  firstSome ((s.tap.feeds.filter fun f => f.ctx = c && feedBusy f).map fun f =>
    (firstSome ((feedReads f).map fun iv => meetsAt s c iv b.addr (b.addr + b.len))).map fun da => (f, da))

/-- The first fault that a feed's accesses meet: MEMORY_FAULT or ADDRESS_INVALID with the faulting DA. -/
def feedAccess (s : State) (c : Nat) (reads writes : List (Nat × Nat)) : Option (Nat × Nat) :=
  let bad (rw : Bool) (iv : Nat × Nat) : Option (Nat × Nat) :=
    if !footOk s c storeRegions (!rw) rw [iv] then some (stAddress, iv.1)
    else
      let ps := physPieces s c [iv]
      match if rw then badPartly s ps else badTouched s ps with
      | some _ => some (stMemFault, iv.1)
      | none => none
  firstSome (reads.map (bad false) ++ writes.map (bad true))

/-- Accesses of a feed that met no fault: their traffic (R317), and the bad lines that its writes cover whole. -/
def feedTouch (s : State) (c : Nat) (reads writes : List (Nat × Nat)) : State :=
  let wp := physPieces s c writes
  noteTraffic (clearBad s wp) (physPieces s c reads) wp

/-- The part of the work area that sample j of a batch uses: at most half of it, since two samples may be in decode at once (R325). -/
def workPiece (f : Feed) (j need : Nat) : List (Nat × Nat) := [(fb f 0x50 8 + j % 2 * (fb f 0x58 8 / 2), need)]

/-- A sample in decode has used its work-area space: what that holds is the decoder's own (R325). -/
def useWork (s : State) (f : Feed) (j need : Nat) : State :=
  let w := workPiece f j need
  loseCtx (feedTouch s f.ctx w w) f.ctx w

/-- The slot of the next reject record (R327). -/
def rejectSlot (f : Feed) : Nat := fb f 0x60 8 + 32 * (f.rejects % max 1 (fb f 0x68 4))

/-- Write a reject record (R327), and count it. -/
def rejectRecord (s : State) (f : Feed) (sample pos epoch reason detail : Nat) : State :=
  let n := f.rejects + 1
  let rec32 := packBits [(sample, 64), (pos, 64), (epoch, 32), (reason, 8), (f.id, 8), (0, 16), (detail, 32), (n, 32)]
  let s1 := feedTouch (wrNum s f.ctx (rejectSlot f) rec32 32) f.ctx [] [(rejectSlot f, 32)]
  tapAdd (updFeed s1 f.ctx f.id fun f => { f with rejects := n }) 1 1

/-- A rejection (R326): its record is written, where the feed may fault (R346); under STOP the feed stops as for a fault, with values of its report that the manual leaves open; under MARK it goes on. -/
def rejectWith (s : State) (f : Feed) (sample pos epoch reason detail : Nat) (goOn : State → State) : State :=
  match feedAccess s f.ctx [] [(rejectSlot f, 32)] with
  | some (st, da) => faultFeed s f.ctx f.id st da
  | none =>
    let s1 := rejectRecord s f sample pos epoch reason detail
    if fb f 0x0F 1 = 1 then
      let (k, s2) := drawFree (stopFeed s1 f.ctx f.id 3)
      let (k', s3) := drawFree s2
      let s4 := reportError s3 ⟨8, 1, ucTaproot, 0, f.ctx, ucTaproot, reason⟩
      postEvent s4 0x84 f.ctx (Config.freeWord k).toNat (packBits [(f.id, 8), ((Config.freeWord k').toNat, 8)])
    else goOn s1

/-- A sample of a batch that is rejected (R326): under MARK its slot is invalid. -/
def rejectSample (s : State) (f : Feed) (sample pos epoch reason detail info : Nat) (zeros : List Put) : State :=
  rejectWith s f sample pos epoch reason detail fun s1 =>
    updFeed (applyPuts s1 f.ctx zeros) f.ctx f.id fun f => { f with slots := f.slots ++ [(false, info)] }

/-! ### Publication (R320, R321) -/

/-- Write the batch's mask, list, header and count word, signal READY, and re-arm the alarm. -/
def publishBatch (s : State) (f : Feed) (slots : List (Bool × Nat)) (epoch first tTick : Nat) : State :=
  let base := fbRing f + (f.published % fbDepth f) * fbBuf f
  let b := slots.length
  let valid := (slots.filter (·.1)).length
  let mask := ofBytes (slots.map fun p => b2n p.1)
  let info := packBits (slots.map fun p => (p.2, 64))
  let head := packBits [(f.published, 64), (epoch, 32), (valid, 32), (first, 64), (nowNs s, 64), (tTick, 64), (f.id + 128 * b2n f.live, 8)]
  let s1 := wrNum (wrNum (wrNum (feedTouch s f.ctx [] [(base, bufHead b)]) f.ctx (base + 0x40) mask (roundUp b 64)) f.ctx (base + 0x40 + roundUp b 64) info (roundUp (8 * b) 64)) f.ctx base head 64
  let s2 := if bit (fb f 0x38 2) 15 then setShapeWord s1 f.ctx (bits (fb f 0x38 2) 0 12) valid else s1
  let s3 := addTally (tapAdd s2 0 valid) f.ctx (fbReady f) 1
  let s4 := updFeed s3 f.ctx f.id fun f => { f with published := f.published + 1, slots := [] }
  lowWater s4 s4 f.ctx

/-- Bytes that a publication writes. -/
def publishRange (f : Feed) : List (Nat × Nat) := [(fbRing f + (f.published % fbDepth f) * fbBuf f, bufHead (fbB f))]

/-- BATCH_PUBLISH (R320, R321): the batch whose every slot is filled is published; a feed that is stopping then stops. -/
def execBatchPublish (c : Fin 8) (feed : Fin 4) (s : State) : Host.Outcome State Fault Refusal :=
  match feedOf s c feed with
  | none => .next s
  | some f =>
    if feedBusy f && !f.live && f.slots.length = fbB f && domIsOn s 45 then
      match feedAccess s c [] (publishRange f) with
      | some (st, da) => .next (faultFeed s c feed st da)
      | none =>
        let q := slotPos f f.published 0
        let s1 := publishBatch s f f.slots (posEpoch f q) q 0
        .next (if f.st = 2 then stopFeed s1 c feed 0 else s1)
    else .next s

/-! ### Samples (R325, R328, R337) -/

/-- Frames of a selection (R330). -/
def spanOf (f : Feed) : Nat := (fbFrames f - 1) * fbStride f + 1

/-- Work-area bytes that a sample needs (R325, check 7). -/
def workNeed (f : Feed) (cont bytes len : Nat) : Nat :=
  if fbRaw f then fld bytes 0x20 8
  else
    let h := readHead cont bytes len
    cdiv (h.w * h.h * 3) 2 * (if h.depth = 10 then 2 else 1) * (fbFrames f + 17)

/-- Checks 3 to 7 of R325 for a sample of n frames: reason and DETAIL of the first that fails. A picture of more luma samples than R350 allows is a SIZE_LIMIT, and a stream beyond R350's other limits is unsupported. -/
def sampleChecks (f : Feed) (raw : Bool) (cont bytes len n : Nat) : Option (Nat × Nat) :=
  let h := readHead cont bytes len
  let need := workNeed f cont bytes len
  firstSome [
    (if (if raw then rawHeadBad bytes len else containerBad cont h) then some (2, 0) else none),
    (if !raw && (profileBad cont h ≠ 0 || !limitsOk h) then some (4, 0) else none),
    (if raw then (rawMismatch f bytes).map fun v => (3, v)
      else if h.w < 16 || fb f 0x80 2 < h.w || 8192 < h.w then some (3, h.w)
      else if h.h < 16 || fb f 0x82 2 < h.h || 8192 < h.h then some (3, h.h)
      else if fb f 0x84 2 < n then some (3, n)
      else if maxPicture < h.w * h.h then some (3, h.w * h.h) else none),
    (if n < spanOf f then some (5, n) else none),
    (if fb f 0x58 8 / 2 < need then some (3, need % 2 ^ 32) else none)]

/-- Frames of a dataset sample (R325, R330). -/
def sampleFrames (raw : Bool) (cont bytes len : Nat) : Nat :=
  if raw then nth 1 (rawExt bytes) (rawTop bytes) else (readHead cont bytes len).frames

/-- Address of a sample's cache slot (R337). -/
def cacheSlot (f : Feed) (sample : Nat) : Nat := fb f 0x70 8 + sample % max 1 (fb f 0x78 4) * fb f 0x7C 4

/-- Does the cache hold a sample (R337)? -/
def cacheHit (s : State) (f : Feed) (sample : Nat) : Bool :=
  let e := rdNum s f.ctx (cacheSlot f sample) 64
  fld e 0 4 = 0x45434C47 && fld e 4 1 = 1 && fld e 8 8 = sample && fld e 0x3C 4 = 1

/-- Bytes of one code. -/
def codeBytes (depth : Nat) : Nat := if depth = 10 then 2 else 1
/-- Bytes of one cached frame (R338). -/
def frameBytesOf (w h depth : Nat) : Nat := (w * h + 2 * (cdiv w 2 * cdiv h 2)) * codeBytes depth

/-- Where a cached code lies. -/
def codeOff (w h depth plane frame x y : Nat) : Nat :=
  let cw := cdiv w 2
  let ch := cdiv h 2
  frame * frameBytesOf w h depth +
    (if plane = 0 then y * w + x else w * h + (plane - 1) * (cw * ch) + y * cw + x) * codeBytes depth

/-- A clip served from the cache. -/
def cachedClip (s : State) (f : Feed) (sample : Nat) : Clip :=
  let a := cacheSlot f sample
  let e := rdNum s f.ctx a 64
  let w := fld e 0x10 2
  let h := fld e 0x12 2
  let d := fld e 6 1
  ⟨w, h, fld e 0x14 2, d, fld e 7 1, fun p n x y => rdNum s f.ctx (a + 64 + codeOff w h d p n x y) (codeBytes d)⟩

/-- A clip decoded from a sample's bytes (R351). -/
def decodedClip (cont bytes len : Nat) : Clip :=
  let h := readHead cont bytes len
  ⟨h.w, h.h, h.frames, h.depth, h.colour, fun p n x y => Config.decodedSample cont bytes len 0 n [p, x, y] % 2 ^ h.depth⟩

/-- Write a sample's entry into its cache slot, if it fits (R337, R338). -/
def fillCache (s : State) (f : Feed) (sample cont bytes len : Nat) : State :=
  let a := cacheSlot f sample
  let c := decodedClip cont bytes len
  let size := if fbRaw f then len else c.n * frameBytesOf c.w c.h c.depth
  if fb f 0x7C 4 < 64 + size then s
  else
    let head := packBits ([(0x45434C47, 32), (1, 8)] ++
      (if fbRaw f then [(1, 8), (0, 16), (sample, 64), (0, 64)]
       else [(0, 8), (c.depth, 8), (c.colour, 8), (sample, 64), (c.w, 16), (c.h, 16), (c.n, 16), (0, 16)]) ++ [(size, 64)])
    let body : List Put :=
      if fbRaw f then [(a + 64, 0, 8 * len, bytes)]
      else (indices [c.w, c.h, c.n]).flatMap fun i =>
        let x := nth 0 i 0
        let y := nth 0 i 1
        let n := nth 0 i 2
        let put (p x y : Nat) : Put := (a + 64 + codeOff c.w c.h c.depth p n x y, 0, 8 * codeBytes c.depth, c.code p n x y)
        put 0 x y :: (if x % 2 = 0 && y % 2 = 0 then [put 1 (x / 2) (y / 2), put 2 (x / 2) (y / 2)] else [])
    let s1 := applyPuts (wrNum (wrNum s f.ctx (a + 0x3C) 0 4) f.ctx a head 60) f.ctx body
    wrNum s1 f.ctx (a + 0x3C) 1 4

/-- Count a decode in the VCC's counters (R370), with the cores that may have held grants for it outside the session table; for how long each held one is its own (free). -/
def countDecode (s : State) (pics samples damaged : Nat) (cores : List Nat) : State :=
  let p := perfAdd (perfAdd (perfAdd s.vcc.perf 0 pics) 1 samples) 4 damaged
  let busy := if p.freeze then s.vcc.busy else s.vcc.busy.zipIdx.map fun x => if cores.contains x.2 then x.1 + Config.freeWord (s.free + x.2) else x.1
  { s with vcc := { s.vcc with perf := p, busy := busy }, free := s.free + 16 }

/-- What becomes of one sample: a fault of the feed, a rejection, or its stores; with the state after its decode and cache work. -/
inductive SampleEnd where
  | fault (status da : Nat)
  | reject (reason detail : Nat)
  | stores (ps : List Put)

/-- A sample's index entry, as R324 lays it out. -/
structure IndexEntry where
  src : Nat
  len : Nat
  cont : Nat

/-- The index entry of a sample. -/
def indexEntry (s : State) (f : Feed) (sample : Nat) : IndexEntry :=
  let e := rdNum s f.ctx (fb f 0 8 + 16 * sample) 16
  ⟨bits (fld e 0 8) 0 48, fld e 8 4, fld e 0x0C 1⟩

/-- A sample that passed its checks and its allocation, decoded or served from the cache (R328, R337). Its session is open only inside this row, and any decode core may have served it. -/
def placeSample (s : State) (f : Feed) (i : IndexEntry) (hit : Bool) (k j q : Nat) : State × SampleEnd :=
  let sample := posSample f q
  let epoch := posEpoch f q
  let slot := cacheSlot f sample
  let bytes := rdNum s f.ctx i.src i.len
  let d0 := drawOf (fbSeed f) epoch sample 0
  let fill := fbCache f = 3 && !hit
  if fbRaw f then
    let f0 := startFrame (fb f 0x89 1) d0 (sampleFrames true i.cont bytes i.len) (spanOf f)
    let ps := rawSlotPuts s f (rdCtx s f.ctx) bytes ((if hit then slot + 64 else i.src) + 64) k j f0 epoch (q % fbN f) (fbN f)
    (if fill then fillCache s f sample i.cont bytes i.len else s, .stores ps)
  else
    let clip := if hit then cachedClip s f sample else decodedClip i.cont bytes i.len
    let f0 := startFrame (fb f 0x89 1) d0 clip.n (spanOf f)
    let a := if fill then 0 else f0
    let run (item : Nat) : Nat := Config.decodeRun i.cont bytes i.len a (if fill then clip.n - 1 else f0 + spanOf f - 1) item
    let bad := !hit && run 0 % 8 ≠ 0
    let s1 := if hit then s
      else tapAdd (countDecode s (run 2) (run 2 * clip.w * clip.h) (b2n bad) (List.range 12)) 2 (Config.leadPictures i.cont bytes i.len a f0)
    if bad then (s1, .reject 6 0)
    else (if fill then fillCache s1 f sample i.cont bytes i.len else s1, .stores (videoPuts s1 f clip k j epoch sample f0 epoch (q % fbN f) (fbN f)))

/-- The sample at a position, from its index entry on (R325, R328, R337). -/
def doSample (s : State) (f : Feed) (k j q : Nat) : State × SampleEnd :=
  let c := f.ctx
  let sample := posSample f q
  match feedAccess s c [(fb f 0 8 + 16 * sample, 16)] [] with
  | some (st, da) => (s, .fault st da)
  | none =>
    let i := indexEntry s f sample
    if !footOk s c storeRegions true false (if i.len = 0 then [] else [(i.src, i.len)]) then (s, .reject 7 0)
    else if fb f 0x6C 4 < i.len then (s, .reject 3 i.len)
    else if 3 < i.cont || (fbRaw f != (i.cont = 0)) then (s, .reject 1 i.cont)
    else
      let bytes := rdNum s c i.src i.len
      match sampleChecks f (fbRaw f) i.cont bytes i.len (sampleFrames (fbRaw f) i.cont bytes i.len) with
      | some (r, d) => (s, .reject r d)
      | none =>
        let need := workNeed f i.cont bytes i.len
        let slot : List (Nat × Nat) := if fbCache f = 0 then [] else [(cacheSlot f sample, fb f 0x7C 4)]
        let fills := if fbCache f = 3 then slot else []
        match feedAccess s c slot (fills ++ workPiece f j need) with
        | some (st, da) => (s, .fault st da)
        | none =>
          let hit := fbCache f ≠ 0 && cacheHit s f sample
          let s1 := if fbCache f = 0 then s else tapAdd s (if hit then 3 else 4) 1
          if fbCache f = 2 && !hit then (s1, .reject 8 0)
          else
            match if hit then none else badTouched s (physPieces s c [(i.src, i.len)]) with
            | some l => (countUe s1 l c, .reject 7 0)
            | none =>
              let s2 := useWork (feedTouch s1 c (if hit then slot else (i.src, i.len) :: slot) (if hit then [] else fills)) f j need
              placeSample s2 f i hit k j q

/-! ### Service (R318) -/

/-- PTP time of the module: the elapsed-time counter plus the offset. -/
def ptpNow (s : State) : Nat := (s.elapsed + s.time.offset).toNat

/-- Time t_k of a live set's next tick (R341). -/
def tickTime (f : Feed) : Nat := lb f 0 8 + f.tick * lb f 8 4

/-- Has a live set a tick to decide? Live sets are served ahead of dataset feeds (R318). -/
def liveDue (s : State) : Bool :=
  s.time.valid && s.tap.feeds.any fun f => f.live && f.st = 1 && tickTime f + lb f 0x10 4 ≤ ptpNow s

/-- Has a dataset feed a sample to place? -/
def feedReady (s : State) (f : Feed) : Bool := feedBusy f && !f.live && f.slots.length < fbB f && bufferFree s f

/-- How far a feed stands after the one served last, in ascending context and FEED ID (R318). -/
def feedGap (s : State) (f : Feed) : Nat := (4 * f.ctx + f.id + 31 - s.tap.served) % 32

/-- Is it a dataset feed's turn: no live set due, and no ready feed before it in the round (R318)? -/
def feedTurn (s : State) (f : Feed) : Bool :=
  feedReady s f && !liveDue s && s.tap.feeds.all fun g => !feedReady s g || feedGap s f ≤ feedGap s g

/-- The levels of the batch that a feed fills. -/
def batchLevels (f : Feed) : List Desc := (List.range (fbLevels f)).map (levelDesc f f.published)

/-- The bytes of slot j in every level of that batch. -/
def batchSlot (f : Feed) (j : Nat) : List (Nat × Nat) := (batchLevels f).flatMap fun d => slotIvs d j

/-- What a sample's end does to its feed (R326, R328, R346). -/
def endSample (s : State) (f : Feed) (q : Nat) (r : SampleEnd) : State :=
  let j := f.slots.length
  match r with
  | .fault st da => faultFeed s f.ctx f.id st da
  | .reject r d =>
    rejectSample s f (posSample f q) q (posEpoch f q) r d (posSample f q) ((batchLevels f).flatMap fun d => zeroPuts d j)
  | .stores ps => updFeed (applyPuts s f.ctx ps) f.ctx f.id fun f => { f with slots := f.slots ++ [(true, posSample f q)] }

/-- TAPROOT_SAMPLE (R325): the next sample of a running dataset feed, when the buffer of its batch is free and it is the feed's turn (R318). -/
def execTaprootSample (c : Fin 8) (feed : Fin 4) (s : State) : Host.Outcome State Fault Refusal :=
  match feedOf s c feed with
  | none => .next s
  | some f =>
    if feedTurn s f && domIsOn s 45 then
      let s := { s with tap := { s.tap with served := 4 * c.val + feed.val } }
      let outs := batchSlot f f.slots.length
      let q := slotPos f f.published f.slots.length
      match feedAccess s c [] outs with
      | some (st, da) => .next (faultFeed s c feed st da)
      | none =>
        let r := doSample (feedTouch s c [] outs) f f.published f.slots.length q
        .next (endSample r.1 f q r.2)
    else .next s

end Sys2Proof.Machine
end

