-- ==== Sys2Proof/Machine/Fabric.lean ====
section
/-! DEFINITION. The fabric engine's transactions (R380, R381), the point-to-point operations CWRITE, CREAD and CSIGNAL (R403, R404, R416), and what a delivered packet does at its destination (R378, R379). -/

namespace Sys2Proof.Machine

/-! ### Transactions (R381) -/

/-- The fabric operation a transaction belongs to. -/
def txnOf (t : Txn) (c i : Nat) : Bool := t.half < 2 && t.ctx = c && t.opIndex = i

/-- Outstanding transactions to a destination, and in a half (R381). -/
def sentTo (s : State) (d : Nat) : Nat := (s.fab.txns.filter fun t => t.sent && pkDst t.pkt = d).length
def sentIn (s : State) (h : Nat) : Nat := (s.fab.txns.filter fun t => t.sent && t.half = h).length

/-- Change a transaction by its TAG. -/
def updTxn (s : State) (tag : Nat) (f : Txn → Txn) : State :=
  updFab s fun x => { x with txns := updFirst (fun t => t.tag = tag) f x.txns }

/-- Send waiting transactions in order, each operation stopping at its first that must wait; a wait at the limit of one destination is counted once (R381). -/
def pumpTxns (s : State) : State :=
  (s.fab.txns.foldl (fun (a : State × List (Nat × Nat × Nat)) t =>
    let key := (t.half, t.ctx, t.opIndex)
    if t.sent || a.2.contains key then a
    else if 256 ≤ sentTo a.1 (pkDst t.pkt) then
      (if t.waited then a.1 else fabCount (updTxn a.1 t.tag fun u => { u with waited := true }) fcThrottled 1, key :: a.2)
    else if t.half < 2 && 8192 ≤ sentIn a.1 t.half then (a.1, key :: a.2)
    else (sendPkt (updTxn a.1 t.tag fun u => { u with sent := true }) true (min t.half 1) t.pkt, a.2)) (s, [])).1

/-- Create a transaction: its packet takes the next TAG. -/
def addTxn (s : State) (half c i : Nat) (a : PkArgs) : State :=
  let tag := s.fab.nextTag
  let t : Txn := { tag := tag, half := half, ctx := c, opIndex := i, pkt := mkPkt s { a with tag := tag }, sent := false
                   waited := false, got := 0, tun := 0, dg := 0, origSrc := 0, origTag := 0 }
  updFab s fun f => { f with txns := f.txns ++ [t], nextTag := (tag + 1) % 2 ^ 32 }

/-- Create the transactions of a list of packets. -/
def addTxns (s : State) (half c i : Nat) (l : List PkArgs) : State := l.foldl (fun s a => addTxn s half c i a) s

/-- Drop every transaction of an operation that ended: later answers are discarded (R381). -/
def dropTxns (s : State) (c i : Nat) : State :=
  updFab s fun f => { f with txns := f.txns.filter fun t => !txnOf t c i
                             reads := f.reads.filter fun r => !(r.ctx = c && r.opIndex = i) }

/-- Has an operation transactions left? -/
def anyTxn (s : State) (c i : Nat) : Bool := s.fab.txns.any fun t => txnOf t c i

/-! ### Parameter blocks and plans (R404, R416) -/

/-- PF_TALLY (R404, R419). -/
def pfEn (e : Nat) : Bool := bit (par e 2 2) 15
def pfTally (e : Nat) : Nat := bits (par e 2 2) 0 12

/-- The reserved bits of PF_TALLY and bytes 0x04 to 0x07. -/
def fabCommon (e : Nat) : List (Nat × Bool) := (0x42, bits (par e 2 2) 12 3 ≠ 0) :: parZero e 4 8

/-- The peer's node (R416). -/
def peerNode (e : Nat) : Nat := bits (par e 0x10 2) 0 15

/-- SIG_TALLY EN of a CWRITE. -/
def sigEn (e : Nat) : Bool := bit (par e 0x14 2) 15

/-- Reserved fields of a point-to-point operation: `sig` says which signal fields it has. -/
def p2pReserved (e : Nat) (tallyMask : Nat) (add : Bool) : List (Nat × Bool) :=
  parZero e 0 2 ++ fabCommon e ++ parZero e 8 0x10 ++ [(0x50, bit (par e 0x10 2) 15)] ++ parZero e 0x12 0x14 ++
  ([(0x54, par e 0x14 2 &&& (0xFFFF - tallyMask) ≠ 0)] : List (Nat × Bool)) ++ parZero e 0x16 0x18 ++
  ([(0x58, !add && decide (par e 0x18 4 ≠ 0))] : List (Nat × Bool)) ++ parZero e 0x1C 0x40

/-- The format and packing rules of a copy between modules (R416). -/
def p2pBroken (a b : Desc) : Bool :=
  a.fmtRaw ≠ b.fmtRaw || a.rank ≠ b.rank ||
    !((a.comp = 0 && b.comp = 0) || (a.comp = 1 && b.comp = 1 && a.expRaw = b.expRaw && a.spatial = b.spatial && planned a = planned b))

/-- The issue plan of CWRITE and CREAD: the remote record's footprint is the peer's to check (R416). -/
def p2pPlan (s : State) (c e : Nat) (write : Bool) : Plan :=
  let a := envRec e 0
  let b := envRec e 1
  { reserved := p2pReserved e (if write then 0x8FFF else 0) write
    recs := if write then [inRec e 0 deviceRegions, { outRec e 1 deviceRegions with foot := some [] }]
      else [{ inRec e 0 deviceRegions with foot := some [] }, outRec e 1 deviceRegions]
    invalid := 0xB2
    broken := p2pBroken a b
    rels := relsSame s c a b
    zeroExt := [runExt s c b] }

/-! ### Bytes on the way -/

/-- An interval in packets of at most `m` bytes; the last one's length is rounded up to a multiple of 16 (R377). -/
def cutIv (m : Nat) (a n : Nat) : List (Nat × Nat) :=
  (List.range (cdiv n m)).map fun k => (a + m * k, roundUp (min m (n - m * k)) 16)

/-- A scratch memory whose unwritten bytes the manual leaves open. -/
def scratchMem (s : State) : Memory := { cells := [], fills := [⟨0, 2 ^ 64, .openBytes s.free⟩] }

/-- Apply stores to a scratch memory. -/
def putScratch (m : Memory) (ps : List Put) : Memory := ps.foldl (fun m (a, b, w, v) => memWrBits m a b w v) m

/-- The stores that copy a tensor into another of the same format, through a byte reader (R416). -/
def copyPuts (rd : Nat → Nat) (a b : Desc) (ext : List Nat) : List Put :=
  if a.comp = 1 then blockPuts rd a b ext else copyRows b ext (rawRowAt rd a)

/-- The WRITE packets that put a tensor at its remote place. -/
def writePkts (s : State) (c e : Nat) (ext : List Nat) : List PkArgs :=
  let a := envRec e 0
  let b := envRec e 1
  let m := putScratch (scratchMem s) (copyPuts (rdCtx s c) a b ext)
  ((footAt b ext).flatMap fun iv => cutIv 4096 iv.1 iv.2).map fun iv =>
    { ptype := ptWrite, dst := peerNode e, da := iv.1, len := iv.2, job := (ctxOf s c).fabricJob, pay := memRd m iv.1 iv.2 }

/-- The READ_REQ packets of a CREAD. -/
def readPkts (s : State) (c e : Nat) (ext : List Nat) : List PkArgs :=
  ((footAt (envRec e 0) ext).flatMap fun iv => cutIv 65536 iv.1 iv.2).map fun iv =>
    { ptype := ptReadReq, dst := peerNode e, da := iv.1, aux := iv.2, job := (ctxOf s c).fabricJob }

/-- The SIGNAL packet of a CWRITE or CSIGNAL. -/
def signalPkt (s : State) (c e : Nat) : PkArgs :=
  { ptype := ptSignal, dst := peerNode e, da := par e 0x18 4, aux := bits (par e 0x14 2) 0 12, job := (ctxOf s c).fabricJob }

/-! ### Issue (R403) -/

/-- The fabric engine half of an instance. -/
def halfOf (inst : Nat) : Nat := inst % 8 - 4

/-- Operations in flight in a half, of all contexts. -/
def halfLoad (s : State) (inst : Nat) : Nat :=
  sumNat (s.ctxs.map fun x => (x.flight.filter fun f => f.cls = ucFabric && f.op.inst = inst).length)

/-- Issue on a fabric engine half, which keeps up to 16 operations in flight; its packets are then sent. -/
def fabOp (s : State) (c : Nat) (half : Fin 2) (aged : Bool) (kind : QOp → Bool) (body : Body) : State :=
  if halfLoad s (4 + half) < 16 then pumpTxns (issueOp s c ucFabric (4 + half) aged kind body) else s

/-- A result that goes on: its end comes with its answers. -/
def goesOn (r : Result) : Result := if r.status = 0 then { r with ended := false, aux := [0] } else r

/-- CWRITE at its unit: S is read at issue. -/
def bodyCwrite : Body := fun s c q =>
  let e := q.env
  let ext := runExt s c (envRec e 1)
  goesOn (runPlan s c (p2pPlan s c e true) (footAt (envRec e 0) ext) [] fun s =>
    { st := { addTxns s (halfOf q.inst) c q.opIndex (writePkts s c e ext) with free := s.free + 1 } })

/-- CWRITE (R416). -/
def execCwrite (c : Fin 8) (half : Fin 2) (aged : Bool) (s : State) : Host.Outcome State Fault Refusal :=
  .next (fabOp s c half aged (isOp 0xB0) bodyCwrite)

/-- CREAD at its unit: D is written at its end, at the run-time extents that the issue read (R40). -/
def bodyCread : Body := fun s c q =>
  let e := q.env
  let b := envRec e 1
  let ext := runExt s c b
  let r := goesOn (runPlan s c (p2pPlan s c e false) [] [] fun s =>
    { st := addTxns s (halfOf q.inst) c q.opIndex (readPkts s c e ext) })
  if r.ended then r else { r with aux := 0 :: ext, acc := { r.acc with wr := physPieces s c (footAt b ext) } }

/-- CREAD (R416). -/
def execCread (c : Fin 8) (half : Fin 2) (aged : Bool) (s : State) : Host.Outcome State Fault Refusal :=
  .next (fabOp s c half aged (isOp 0xB1) bodyCread)

/-- CSIGNAL at its unit. -/
def bodyCsignal : Body := fun s c q =>
  let e := q.env
  goesOn (runPlan s c { reserved := p2pReserved e 0x0FFF true, recs := [], invalid := 0xB2 } [] [] fun s =>
    { st := addTxn s (halfOf q.inst) c q.opIndex (signalPkt s c e) })

/-- CSIGNAL (R416). -/
def execCsignal (c : Fin 8) (half : Fin 2) (aged : Bool) (s : State) : Host.Outcome State Fault Refusal :=
  .next (fabOp s c half aged (isOp 0xB2) bodyCsignal)

/-! ### Progress and end -/

/-- The flight of a fabric operation that has not ended. -/
def fabFlight (s : State) (c i : Nat) : Option Flight :=
  (ctxOf s c).flight.find? fun f => f.cls = ucFabric && f.op.opIndex = i && !f.ended

/-- Change the flight of a fabric operation. -/
def updFlight (s : State) (c i : Nat) (g : Flight → Flight) : State :=
  updCtx s c fun x => { x with flight := updFirst (fun f => f.cls = ucFabric && f.op.opIndex = i) g x.flight }

/-- What an operation that wrote its outputs at its end leaves there when a race had made them unpredictable (R154). -/
def endRaced (s : State) (c i : Nat) : State :=
  match fabFlight s c i with
  | some f => if f.acc.raced then loseOutputs s f.acc else s
  | none => s

/-- End a fabric operation. -/
def endFab (s : State) (c i status detail : Nat) (flags : NumFlags) : State :=
  let s := dropTxns (endRaced s c i) c i
  updFlight s c i fun f => { f with status := status, detail := detail, flags := flags, ended := true }

/-- DETAIL of a transaction that fails: the destination node and the TAG (R381). -/
def txnDetail (t : Txn) : Nat := pkDst t.pkt + t.tag * 2 ^ 32

/-- Does a point-to-point operation own this opcode? -/
def isP2p (opcode : Nat) : Bool := opcode = 0xB0 || opcode = 0xB1 || opcode = 0xB2

/-- A point-to-point operation fails: what a CREAD's destination then holds is open (R381, R416). -/
def p2pFail (s : State) (c : Nat) (f : Flight) (status detail : Nat) : State :=
  let s := if f.op.opcode = 0xB1 then loseCtx s c (footprint (envRec f.op.env 1)) else s
  endFab s c f.op.opIndex status detail {}

/-- Everything a CREAD asked for has arrived: it is copied into D. -/
def readFinish (s : State) (c : Nat) (f : Flight) : State :=
  let e := f.op.env
  let a := envRec e 0
  let b := envRec e 1
  let ext := (f.aux.tail).take 6
  let m := (s.fab.reads.filter fun r => r.ctx = c && r.opIndex = f.op.opIndex).foldl
    (fun m r => memWr m r.da r.data r.len) (scratchMem s)
  let r := runAfter s c (p2pPlan s c e false) [] (footAt b ext) fun s =>
    { st := applyPuts s c (copyPuts (fun x => (memGet m x).toNat) a b ext) }
  endFab r.st c f.op.opIndex r.status r.detail {}

/-- A point-to-point operation whose transactions are all answered: CWRITE then sends its SIGNAL where it has one, and every other ends (R380, R416). -/
def p2pProgress (s : State) (c : Nat) (f : Flight) : State :=
  let i := f.op.opIndex
  if anyTxn s c i then s
  else if f.op.opcode = 0xB0 && sigEn f.op.env && f.aux.head? = some 0 then
    let s := addTxn s (halfOf f.op.inst) c i (signalPkt s c f.op.env)
    updFlight s c i fun g => { g with aux := 1 :: g.aux.tail }
  else if f.op.opcode = 0xB1 then readFinish s c f
  else endFab s c i stOk 0 {}

/-! ### Delivery (R378, R379) -/

/-- The receiving context of a JOB (R379). -/
def jobCtx (s : State) (job : Nat) : Option Nat :=
  (List.range 8).find? fun c => isOpen s c && (ctxOf s c).fabricJob = job

/-- A refusal writes nothing and is logged with SRC in its key, and JOB and DA in its INFO (R379, R514). -/
def refuse (s : State) (r : RxPkt) : State :=
  let src := pkSrc r.pkt
  let info := (Config.errorInfo 6 (packBits [(pkJob r.pkt, 16), (pkDa r.pkt, 48)]) (BitVec.ofNat 64 ackRefused)).toNat
  sendPkt (reportError s ⟨6, 1, 0x13, (Config.errorInstance 6 src).toNat, 0xFF, src, info⟩) true (rxIod r) (answer s r.pkt ackRefused)

/-- A packet of a type for this module, at a place of the receive buffers; an assigned module only (R389). -/
def rxOf (s : State) (i ptype : Nat) : Option RxPkt :=
  match s.fab.rx[i]? with
  | none => none
  | some r => if s.fab.recValid && forMe s r && pkType r.pkt = ptype then some r else none

/-- A WRITE packet at its destination: checked, written and acknowledged, or refused (R378, R379). -/
def deliverWrite (s : State) (r : RxPkt) : State :=
  let k := r.pkt
  match jobCtx s (pkJob k) with
  | none => refuse s r
  | some c =>
    let iv := [(pkDa k, pkLen k)]
    if !footOk s c deviceRegions false true iv then refuse s r
    else
      let ps := physPieces s c iv
      match badPartly s ps with
      | some l => refuse (countUe s l c) r
      | none =>
        let s := noteTraffic (clearBad (wrNum s c (pkDa k) k.pay (pkLen k)) ps) [] ps
        sendPkt s true (rxIod r) (answer s k ackOk)

/-- The READ_RSP pieces of a request (R378). -/
def readRsps (s : State) (c : Nat) (k : Pkt) : List Pkt :=
  (cutIv 4096 (pkDa k) (pkAux k)).map fun iv =>
    mkPkt s { ptype := ptReadRsp, dst := pkSrc k, da := iv.1, tag := pkTag k, len := iv.2, job := pkJob k
              aux := pkDa k + pkAux k - (iv.1 + iv.2), pay := rdNum s c iv.1 iv.2 }

/-- A READ_REQ at its destination (R378, R379). -/
def deliverRead (s : State) (r : RxPkt) : State :=
  let k := r.pkt
  match jobCtx s (pkJob k) with
  | none => refuse s r
  | some c =>
    let iv := [(pkDa k, pkAux k)]
    if !footOk s c deviceRegions true false iv then refuse s r
    else
      let ps := physPieces s c iv
      match badTouched s ps with
      | some l => refuse (countUe s l c) r
      | none => (readRsps s c k).foldl (fun s p => sendPkt s true (rxIod r) p) (noteTraffic s ps [])

/-- A SIGNAL at its destination: an external signal, then the ACK (R379, R151). -/
def deliverSignal (s : State) (r : RxPkt) : State :=
  let k := r.pkt
  match jobCtx s (pkJob k) with
  | none => refuse s r
  | some c =>
    let t := lowWater s (addTally s c (pkAux k) (pkDa k)) c
    sendPkt t true (rxIod r) (answer t k ackOk)

/-- WRITE (R377 to R379): the received packet at place `i`, when it is a WRITE for this module. -/
def execWrite (i : Nat) (s : State) : Host.Outcome State Fault Refusal :=
  match rxOf s i ptWrite with
  | some r => .next (deliverWrite (takeRx s i r) r)
  | none => .next s

/-- READ_REQ (R378, R379). -/
def execReadReq (i : Nat) (s : State) : Host.Outcome State Fault Refusal :=
  match rxOf s i ptReadReq with
  | some r => .next (deliverRead (takeRx s i r) r)
  | none => .next s

/-- SIGNAL (R378, R379). -/
def execSignal (i : Nat) (s : State) : Host.Outcome State Fault Refusal :=
  match rxOf s i ptSignal with
  | some r => .next (deliverSignal (takeRx s i r) r)
  | none => .next s

/-- READ_RSP (R378): a piece lands for its request, and the request is answered with its last piece; a piece for no request of this module is not accepted (R376). -/
def execReadRsp (i : Nat) (s : State) : Host.Outcome State Fault Refusal :=
  match rxOf s i ptReadRsp with
  | none => .next s
  | some r =>
    let k := r.pkt
    let s1 := takeRx s i r
    match s1.fab.txns.find? fun t => t.sent && t.tag = pkTag k && pkType t.pkt = ptReadReq with
    | none => .next s1
    | some t =>
      let s2 := updFab s1 fun f => { f with reads := f.reads ++ [⟨t.ctx, t.opIndex, pkDa k, pkLen k, k.pay⟩] }
      let got := t.got + pkLen k
      if got < pkAux t.pkt then .next (updTxn s2 t.tag fun u => { u with got := got })
      else
        let s3 := updFab s2 fun f => { f with txns := dropFirst (fun u => u.tag = t.tag) f.txns }
        match fabFlight s3 t.ctx t.opIndex with
        | some f => .next (pumpTxns (p2pProgress s3 t.ctx f))
        | none => .next (pumpTxns s3)

end Sys2Proof.Machine
end

