-- ==== Sys2Proof/Machine/Coll.lean ====
section
/-! DEFINITION. Collectives: group descriptors (R405), signatures (R408), the steps and data of reductions and gathers (R409 to R411), the flow of pieces (R412, R413), and how an instance ends (R414). -/

namespace Sys2Proof.Machine

/-! ### Group descriptor (R405) -/

def gId (g : Nat) : Nat := fld g 0x00 2
def gTopo (g : Nat) : Nat := fld g 0x02 1
def gNd (g : Nat) : Nat := fld g 0x03 1
def gSize (g : Nat) : Nat := fld g 0x04 4
def gRank (g : Nat) : Nat := fld g 0x08 4
def gExt (g d : Nat) : Nat := fld g (0x0C + 2 * d) 2
def gJob (g : Nat) : Nat := fld g 0x12 2
def gLo (g : Nat) : Nat := fld g 0x14 2
def gHi (g : Nat) : Nat := fld g 0x16 2
def gMembers (g : Nat) : Nat := bits (fld g 0x18 8) 0 48
def gStage (g : Nat) : Nat := bits (fld g 0x20 8) 0 48
def gSlots (g : Nat) : Nat := fld g 0x28 2
def gInflight (g : Nat) : Nat := fld g 0x2A 1

/-- The context DA of the group descriptor that an envelope names (R404). -/
def grpDa (e : Nat) : Nat := bits (par e 8 8) 0 48

/-- Ring extents: the torus's, or the whole group in one dimension. -/
def gExts (g : Nat) : List Nat := if gTopo g = 1 then (List.range (gNd g)).map (gExt g) else [gSize g]

/-- Neighbours per staging region: Q of R405. -/
def gQ (g : Nat) : Nat := if gTopo g = 0 then 1 else if gTopo g = 1 then gNd g else gSize g - 1

/-- Bytes of the staging area. -/
def stageBytes (g : Nat) : Nat := gInflight g * gSlots g * gQ g * 0x100000

/-- Do the fields of a descriptor break its table? -/
def groupBroken (g : Nat) : Bool :=
  let n := gSize g
  1023 < gId g || 2 < gTopo g || !(1 ≤ n && n ≤ 32768) || n ≤ gRank g ||
  (if gTopo g = 1 then
     !(1 ≤ gNd g && gNd g ≤ 3) || prodNat (gExts g) ≠ n || ((List.range 3).any fun d => gNd g ≤ d && gExt g d ≠ 1)
   else gNd g ≠ 1 || gExt g 0 ≠ n || gExt g 1 ≠ 1 || gExt g 2 ≠ 1) ||
  (gTopo g = 2 && 16 < n) || gHi g < gLo g || fld g 0x1E 2 ≠ 0 || fld g 0x26 2 ≠ 0 || gStage g % 0x10000 ≠ 0 ||
  !(2 ≤ gSlots g && gSlots g ≤ 4096) || !(1 ≤ gInflight g && gInflight g ≤ 16) || fld g 0x2B 21 ≠ 0

/-- The descriptor that an envelope names, through the context's map. -/
def readGroup (s : State) (c e : Nat) : Nat := rdNum s c (grpDa e) 64

/-- Can the descriptor be read at all? -/
def groupReadable (s : State) (c e : Nat) : Bool := grpDa e % 64 = 0 && footOk s c [.near] true false [(grpDa e, 64)]

/-- The members' node words in rank order. -/
def readMembers (s : State) (c g : Nat) : List Nat := (List.range (gSize g)).map fun r => rdNum s c (gMembers g + 2 * r) 2

/-- Does the member list break R405? -/
def membersBroken (s : State) (c g : Nat) : Bool :=
  let l := readMembers s c g
  l.any (fun m => 0x8000 ≤ m) || !l.Nodup || nth 0x8000 l (gRank g) ≠ s.fab.node

/-! ### Sequence numbers and bindings (R406, R407) -/

def cseqKey (half c id : Nat) : Nat := (half * 8 + c) * 1024 + id
/-- The half that a context's group is bound to, plus 1; 0 while unbound. -/
def boundTo (s : State) (c id : Nat) : Nat := smGet 0 s.fab.bound (c * 1024 + id)
/-- The CSEQ that the next collective of a group takes in a half. -/
def nextCseq (s : State) (half c id : Nat) : Nat := smGet 0 s.fab.cseq (cseqKey half c id)

/-- The collective counters of R425. -/
def colCount (s : State) (i n : Nat) : State := updFab s fun f => { f with col := perfAdd f.col i n }

/-- The issue of a collective that names a group advances its CSEQ and binds an unbound group (R405, R407). -/
def noteIssue (s : State) (half c id : Nat) : State :=
  colCount (updFab s fun f =>
    { f with cseq := smSet 0 f.cseq (cseqKey half c id) ((nextCseq s half c id + 1) % 2 ^ 32)
             bound := if boundTo s c id = 0 then smSet 0 f.bound (c * 1024 + id) (half + 1) else f.bound }) 0 1

/-! ### Signature (R408) -/

/-- coll_sig of R408. -/
def collSig (g opcode op efmt cseq e : Nat) : Nat :=
  let w0 := packBits [(gId g, 16), (gTopo g, 8), (gNd g, 8), (gSize g, 32)]
  let w1 := packBits [(opcode, 8), (op, 8), (efmt, 16), (cseq, 32)]
  let w2 := packBits [(gExt g 0, 16), (gExt g 1, 16), (gExt g 2, 16), (gJob g, 16)]
  mix64 (w0 ^^^ mix64 (w1 ^^^ mix64 (w2 ^^^ mix64 (e % 2 ^ 64)))) % 2 ^ 32

/-- The digest of R424 over bytes. -/
def digestBytes (bs : List Nat) : Nat :=
  (chunksOf 8 (bs.length / 8 + 1) bs).foldl (fun d w => if w = [] then d else mix64 (d ^^^ ofBytes w)) 0

/-! ### Places in the group -/

/-- Coordinate of this member in a dimension. -/
def cOf (i : CollInst) (d : Nat) : Nat := coordOf (gExts i.group) (gRank i.group) d
/-- Members of the rings of a dimension. -/
def mOf (i : CollInst) (d : Nat) : Nat := nth 1 (gExts i.group) d
/-- The rank `k` places on in this member's ring of a dimension. -/
def ringRank (i : CollInst) (d k : Nat) : Nat :=
  let below := prodNat ((gExts i.group).take d)
  let c := cOf i d
  gRank i.group - c * below + ((c + k) % mOf i d) * below
/-- Successor and predecessor in a dimension's ring. -/
def succRank (i : CollInst) (d : Nat) : Nat := ringRank i d 1
def predRank (i : CollInst) (d : Nat) : Nat := ringRank i d (mOf i d - 1)
/-- Every other rank. -/
def otherRanks (i : CollInst) : List Nat := (List.range (gSize i.group)).filter fun r => r ≠ gRank i.group
/-- The shard of a rank (R409). -/
def shardOf (g rank : Nat) : Nat :=
  (List.range (gExts g).length).foldl (fun sh d => sh * nth 1 (gExts g) d + coordOf (gExts g) rank d) 0

/-! ### What an operation exchanges -/

/-- Run-time extents of a record, as its issue read them (R40). -/
def instExt (i : CollInst) (k : Nat) : List Nat := nth [] i.exts k

def isRs (i : CollInst) : Bool := i.opcode = 0xB3 || i.opcode = 0xB5
def isAg (i : CollInst) : Bool := i.opcode = 0xB4 || i.opcode = 0xB5 || i.opcode = 0xB8 || i.opcode = 0xB9
def isA2a (i : CollInst) : Bool := i.opcode = 0xB6
def collOp (e : Nat) : Nat := par e 0 1
def isEs (i : CollInst) : Bool := isRs i && collOp i.env = 4
/-- KEEP_FIXED (R409). -/
def keepFixed (e : Nat) : Bool := bit (par e 1 1) 0

/-- Bytes of one reduced element on the wire (R410, R411). -/
def rsWidth (i : CollInst) : Nat := if isEs i then 8 else 4

/-- One reduction step on wire elements (R410, R411). -/
def reduceEl (i : CollInst) (a b : Nat) : Nat :=
  match collOp i.env with
  | 2 => bits32 (maxN (val32 a) (val32 b))
  | 3 => bits32 (minN (val32 a) (val32 b))
  | 4 => add64 a b
  | _ => bits32 (add32f (val32 a) (val32 b))

/-- This member's own contribution as a wire element: FP32 bits, or i64 of an exact sum (R410, R411). -/
def ownEl (s : State) (i : CollInst) (x : Nat) : Nat :=
  let d := envRec i.env 0
  if isEs i then
    if d.fmtRaw = 0x0D then ofInt (esGet (rdCtx s i.ctx) d [x]) 64
    else ofInt (toFixed (valsOf s i.ctx d [x]) i.f (ctxOf s i.ctx).esHeadroom).1 64
  else bits32 (valsOf s i.ctx d [x])

/-- Bytes of a row of a row tensor (R417). -/
def rowLen (i : CollInst) (k : Nat) : Nat := rowBytes (envRec i.env k) (nth 1 (instExt i k) 0)

/-- Bytes of a source row on the wire (R417), a multiple of 16. -/
def a2aRow (i : CollInst) : Nat := roundUp (rowLen i 0) 16

/-- Bytes of one member's vector in a gather. -/
def agLen (i : CollInst) : Nat :=
  if i.opcode = 0xB9 then 16
  else if i.opcode = 0xB8 then roundUp (4 * par i.env 0x12 2) 16
  else if i.opcode = 0xB5 then
    (let n := i.eIn / gSize i.group; if keepFixed i.env then 8 * n else n * ebits (envRec i.env 1).fmt / 8)
  else
    let d := envRec i.env 0
    let n := cdiv (i.eIn * ebits d.fmt) 8
    if isMx d.fmt then roundUp (n + cdiv i.eIn 32) 16 else if isCrush d.fmt then cdiv i.eIn 64 * (8 * ebits d.fmt) else n

/-- The u64s of a tensor's COMP 0 stored form, hashed (R424). -/
def tensorDigest (s : State) (c : Nat) (d : Desc) : Nat :=
  let ext := runExt s c d
  if isMx d.fmt then
    digestBytes ((indices ext.tail).flatMap fun o =>
      bytesOf (rdNum s c (elemAddr d (0 :: o)).1 (mxRowBytes d.fmt (extAt d 0))) (mxRowBytes d.fmt (extAt d 0)))
  else digestBytes (streamOf s c d ext)

/-- CLEDGER's fields (R420). -/
def clFirst (e : Nat) : Nat := par e 0x10 2
def clCount (e : Nat) : Nat := par e 0x12 2

/-- A member's contribution to CLEDGER: the amax, or all ones for nothing. -/
def ledgerWord (s : State) (c slot : Nat) : Nat :=
  let e := ledgerGet s c slot
  if leAmaxValid e then fld e 0x18 4 else 0xFFFFFFFF

/-- This member's vector in a gather, as bytes by position. -/
def agOwn (s : State) (i : CollInst) (pos : Nat) : Nat :=
  if i.opcode = 0xB5 then fld (i.mid.getD 0) pos 1
  else if i.opcode = 0xB9 then fld i.ownSum pos 1
  else if i.opcode = 0xB8 then
    (if pos / 4 < clCount i.env then fld (ledgerWord s i.ctx (clFirst i.env + pos / 4)) (pos % 4) 1 else 0)
  else
    let d := envRec i.env 0
    let n := cdiv (i.eIn * ebits d.fmt) 8
    if isMx d.fmt && n ≤ pos then
      (if pos < n + cdiv i.eIn 32 then rdCtx s i.ctx (d.base + mxElemBytes d.fmt (extAt d 0) + (pos - n)) else 0)
    else rdCtx s i.ctx (d.base + pos)

/-! ### Received bytes -/

/-- Bytes of a step's wire vector at a position. -/
def fragNum (fs : List Frag) (rank dim step pos w : Nat) : Nat :=
  match fs.find? fun f => f.rank = rank && f.dim = dim && f.step = step && f.off ≤ pos && pos < f.off + f.len with
  | some f => fld f.data (pos - f.off) w
  | none => 0

/-- Bytes received of a range of a step's vector. -/
def gotBytes (i : CollInst) (rank dim step lo hi : Nat) : Nat :=
  sumNat ((i.frags.filter fun f => f.rank = rank && f.dim = dim && f.step = step && lo ≤ f.off && f.off < hi).map (·.len))

/-- Piece size (R412). -/
def pieceSize : Nat := 0x100000

/-- Is a piece whole (R412)? -/
def pieceWhole (i : CollInst) (rank dim step len k : Nat) : Bool :=
  min pieceSize (len - k * pieceSize) ≤ gotBytes i rank dim step (k * pieceSize) ((k + 1) * pieceSize)

/-- Pieces of a vector. -/
def pieceCount (len : Nat) : Nat := cdiv len pieceSize

/-- How many leading pieces are consumed. -/
def consumed (i : CollInst) (rank dim step len : Nat) : Nat :=
  ((List.range (pieceCount len)).takeWhile fun k => pieceWhole i rank dim step len k).length

/-! ### Reduction data (R410) -/

/-- Elements of the vector that a dimension's ring reduces, per part. -/
def partEls (i : CollInst) (d : Nat) : Nat := i.eIn / prodNat ((gExts i.group).take (d + 1))

/-- The vector as it enters dimension `d`: own contributions, reduced over every earlier dimension. -/
def redAt (i : CollInst) (own : Nat → Nat) : Nat → Nat → Nat
  | 0, x => own x
  | d + 1, x =>
    let m := mOf i d
    let mine := redAt i own d (cOf i d * partEls i d + x)
    if m = 1 then mine
    else reduceEl i (fragNum i.frags (predRank i d) d (m - 2) (x * rsWidth i) (rsWidth i)) mine

/-- The element that a ring step sends: the part's own value, with what the step before brought. -/
def rsSend (i : CollInst) (own : Nat → Nat) (d j x : Nat) : Nat :=
  let m := mOf i d
  let p := (cOf i d + m - 1 - j) % m
  let mine := redAt i own d (p * partEls i d + x)
  if j = 0 then mine else reduceEl i (fragNum i.frags (predRank i d) d (j - 1) (x * rsWidth i) (rsWidth i)) mine

/-- The reduced element of this member's shard. -/
def rsResult (i : CollInst) (own : Nat → Nat) (x : Nat) : Nat :=
  if gTopo i.group = 2 then
    let part := i.eIn / gSize i.group
    let contrib (r : Nat) : Nat :=
      if r = gRank i.group then own (r * part + x) else fragNum i.frags r 0 0 (x * rsWidth i) (rsWidth i)
    (List.range (gSize i.group - 1)).foldl (fun a r => reduceEl i a (contrib (r + 1))) (contrib 0)
  else redAt i own (gExts i.group).length x

/-! ### Gather data (R409) -/

/-- Wire step of a gather's step j in a dimension: a CAR's gather counts on from its reduction. -/
def agStep (i : CollInst) (d j : Nat) : Nat := if i.opcode = 0xB5 then (if gTopo i.group = 2 then 1 else mOf i d - 1 + j) else j

/-- Bytes of one part in a dimension's gather. -/
def agPart (i : CollInst) (d : Nat) : Nat := agLen i * prodNat ((gExts i.group).drop (d + 1))

/-- The vector with the last `k` dimensions gathered. -/
def gatAt (i : CollInst) (own : Nat → Nat) : Nat → Nat → Nat
  | 0, pos => own pos
  | k + 1, pos =>
    let d := (gExts i.group).length - (k + 1)
    let p := pos / agPart i d
    let c := cOf i d
    if p = c then gatAt i own k (pos % agPart i d)
    else fragNum i.frags (predRank i d) d (agStep i d ((c + mOf i d - 1 - p) % mOf i d)) (pos % agPart i d) 1

/-- The byte that a ring step of a gather sends. -/
def agSend (i : CollInst) (own : Nat → Nat) (d j pos : Nat) : Nat :=
  if j = 0 then gatAt i own ((gExts i.group).length - 1 - d) pos
  else fragNum i.frags (predRank i d) d (agStep i d (j - 1)) pos 1

/-- A byte of the gathered whole. -/
def agResult (i : CollInst) (own : Nat → Nat) (pos : Nat) : Nat :=
  if gTopo i.group = 2 then
    let p := pos / agLen i
    if p = gRank i.group then own (pos % agLen i) else fragNum i.frags p 0 (agStep i 0 0) (pos % agLen i) 1
  else gatAt i own (gExts i.group).length pos

/-! ### Expert all-to-all (R417, R418) -/

def a2aCap (e : Nat) : Nat := par e 0x10 4
def a2aEl (e : Nat) : Nat := par e 0x14 2

/-- Rows that this member sends to a rank, as (local expert, row of the source tensor, c). -/
def a2aRows (s : State) (i : CollInst) (p : Nat) : List (Nat × Nat × Nat) :=
  let e := i.env
  let cap := a2aCap e
  let el := a2aEl e
  let n := gSize i.group
  if collOp e = 0 then
    (List.range el).flatMap fun j =>
      let x := p * el + j
      (List.range (nth 0 i.fills x)).map fun c => (j, x * cap + c, c)
  else
    let lst := envRec e 1
    let cnt := envRec e 2
    let rd := rdCtx s i.ctx
    (List.range el).flatMap fun j =>
      let rows := min (n * cap) (sumNat ((List.range n).map fun r => elemRaw rd cnt [j, r]))
      (List.range rows).filterMap fun m =>
        let v := elemRaw rd lst [j * n * cap + m]
        if v / cap % n = p then some (j, j * n * cap + m, v % cap) else none

/-- The tensor whose rows are sent. -/
def a2aSrc (e : Nat) : Desc := envRec e 0

/-- Bytes of one row's entry on the wire: COMBINE's carries c in a leading 16 bytes. -/
def a2aUnit (i : CollInst) : Nat := a2aRow i + (if collOp i.env = 1 then 16 else 0)

/-- A byte of the vector for a rank. -/
def a2aSend (s : State) (i : CollInst) (rows : List (Nat × Nat × Nat)) (pos : Nat) : Nat :=
  let u := a2aUnit i
  let head := if collOp i.env = 1 then 16 else 0
  let (_, row, c) := nth (0, 0, 0) rows (pos / u)
  let b := pos % u
  if b < head then fld c b 1
  else
    let d := a2aSrc i.env
    if b - head < rowLen i 0 then rdCtx s i.ctx ((elemAddr d [0, row]).1 + (b - head)) else 0

/-- Row counts for a rank, one per local expert of the receiver. -/
def a2aCounts (s : State) (i : CollInst) (p : Nat) : List Nat :=
  let rows := a2aRows s i p
  (List.range (a2aEl i.env)).map fun j => (rows.filter fun r => r.1 = j).length

/-- The counts that a rank sent, once its COUNT has arrived; this member's own for itself. -/
def countsFrom (s : State) (i : CollInst) (r : Nat) : Option (List Nat) :=
  if r = gRank i.group then some (a2aCounts s i r)
  else (i.counts.find? fun x => x.1 = r).map fun x => (List.range (a2aEl i.env)).map fun j => fld x.2 (4 * j) 4

/-! ### Stages: the steps of an instance in order -/

/-- One step: its place on the wire, the ranks it sends to and receives from with the lengths of their vectors (none while a length is unknown), and whether it begins a dimension. -/
structure Stage where
  dim : Nat
  step : Nat
  j : Nat
  ag : Bool
  dsts : List (Nat × Nat)
  srcs : List (Nat × Option Nat)
  first : Bool

/-- Steps of a reduce-scatter (R410). -/
def rsStages (i : CollInst) : List Stage :=
  if gTopo i.group = 2 then
    let len := i.eIn / gSize i.group * rsWidth i
    [⟨0, 0, 0, false, (otherRanks i).map fun r => (r, len), (otherRanks i).map fun r => (r, some len), true⟩]
  else
    (List.range (gExts i.group).length).flatMap fun d =>
      (List.range (mOf i d - 1)).map fun j =>
        let len := partEls i d * rsWidth i
        ⟨d, j, j, false, [(succRank i d, len)], [(predRank i d, some len)], j = 0⟩

/-- Steps of an all-gather (R409). -/
def agStages (i : CollInst) : List Stage :=
  if gTopo i.group = 2 then
    let len := agLen i
    [⟨0, agStep i 0 0, 0, true, (otherRanks i).map fun r => (r, len), (otherRanks i).map fun r => (r, some len), true⟩]
  else
    (List.range (gExts i.group).length).reverse.flatMap fun d =>
      (List.range (mOf i d - 1)).map fun j =>
        ⟨d, agStep i d j, j, true, [(succRank i d, agPart i d)], [(predRank i d, some (agPart i d))], j = 0⟩

/-- The one step of an all-to-all. -/
def a2aStages (s : State) (i : CollInst) : List Stage :=
  let u := a2aUnit i
  [⟨0, 0, 0, false, (otherRanks i).map fun r => (r, (a2aRows s i r).length * u),
    (otherRanks i).map fun r => (r, (countsFrom s i r).map fun l => sumNat l * u), true⟩]

/-- The steps of an instance. -/
def stagesOf (s : State) (i : CollInst) : List Stage :=
  if isA2a i then a2aStages s i
  else (if isRs i then rsStages i else []) ++ (if isAg i then agStages i else [])

/-- Has a step received everything? -/
def stageIn (i : CollInst) (t : Stage) : Bool :=
  t.srcs.all fun p => match p.2 with
    | some len => len ≤ gotBytes i p.1 t.dim t.step 0 (len + 1)
    | none => false

/-- Have the steps before the `k`-th received everything? -/
def earlierIn (i : CollInst) (l : List Stage) (k : Nat) : Bool := (l.take k).all (stageIn i)

/-- A mark's number; none where there is none. -/
def markOf (l : List Mark) (rank dim step : Nat) : Option Nat :=
  (l.find? fun m => m.rank = rank && m.dim = dim && m.step = step).map (·.n)

/-- Set a mark. -/
def setMark (l : List Mark) (rank dim step n : Nat) : List Mark :=
  ⟨rank, dim, step, n⟩ :: l.filter fun m => !(m.rank = rank && m.dim = dim && m.step = step)

/-- Has a step sent every piece? -/
def stageOut (i : CollInst) (t : Stage) : Bool :=
  t.dsts.all fun p => pieceCount p.2 ≤ (markOf i.sent p.1 t.dim t.step).getD 0

/-! ### COLL packets (R411) -/

/-- A COLL packet of an instance to a rank. -/
def collPkt (s : State) (i : CollInst) (rank csub dim step off len efmt pay : Nat) : Pkt :=
  mkPkt s { ptype := ptColl, dst := nth 0 i.members rank, da := gId i.group + dim * 2 ^ 10 + off / 16 * 2 ^ 16, tag := i.sig
            len := len, efmt := efmt, astat := collOp i.env, aux := packBits [(csub, 4), (step, 16), (i.cseq, 12)]
            job := gJob i.group, pay := pay }

/-- EFMT of a step's DATA. -/
def stageEfmt (i : CollInst) (t : Stage) : Nat :=
  if isA2a i then (a2aSrc i.env).fmtRaw
  else if !t.ag then (if isEs i then 0x20 else 0)
  else if i.opcode = 0xB4 then (envRec i.env 0).fmtRaw
  else if i.opcode = 0xB5 then (if keepFixed i.env then 0x20 else (envRec i.env 1).fmtRaw)
  else if i.opcode = 0xB9 then 0x0D else 0

/-- Bytes [off, off + n) of the vector that a step sends to a rank. -/
def stageData (s : State) (i : CollInst) (t : Stage) (rank off n : Nat) : Nat :=
  if isA2a i then
    (let rows := a2aRows s i rank; ofBytes ((List.range n).map fun b => a2aSend s i rows (off + b)))
  else if t.ag then ofBytes ((List.range n).map fun b => agSend i (agOwn s i) t.dim t.j (off + b))
  else
    let w := rsWidth i
    let el (x : Nat) : Nat :=
      if gTopo i.group = 2 then ownEl s i (rank * (i.eIn / gSize i.group) + x) else rsSend i (ownEl s i) t.dim t.j x
    ofBytes ((List.range (n / w)).flatMap fun k => bytesOf (el (off / w + k)) w)

/-- The DATA packets of one piece. -/
def piecePkts (s : State) (i : CollInst) (t : Stage) (rank len k : Nat) : List Pkt :=
  let lo := k * pieceSize
  let n := min pieceSize (len - lo)
  (List.range (cdiv n 4096)).map fun q =>
    let m := min 4096 (n - 4096 * q)
    collPkt s i rank 0 t.dim t.step (lo + 4096 * q) m (stageEfmt i t) (stageData s i t rank (lo + 4096 * q) m)

/-- Send a COLL packet from the instance's half. -/
def sendColl (s : State) (i : CollInst) (k : Pkt) : State := sendPkt s true i.half k

/-- Change an instance. -/
def updInst (s : State) (i : CollInst) (f : CollInst → CollInst) : State :=
  updFab s fun x => { x with insts := updFirst (fun j => j.ctx = i.ctx && j.opIndex = i.opIndex) f x.insts }

/-- An instance by its operation. -/
def instOf (s : State) (c opIndex : Nat) : Option CollInst := s.fab.insts.find? fun i => i.ctx = c && i.opIndex = opIndex

/-! ### READY (R413) -/

/-- Largest vector a step may bring, for a first READY whose length is not known yet. -/
def srcLen (i : CollInst) (p : Nat × Option Nat) : Nat :=
  p.2.getD (a2aEl i.env * a2aCap i.env * a2aUnit i)

/-- Give the READYs that are due: for every step reached, where the LIMIT is new or has risen (R412, R413). -/
def giveReady (s : State) (i : CollInst) : State :=
  let l := stagesOf s i
  l.zipIdx.foldl (fun s tk =>
    let t := tk.1
    if !earlierIn i l tk.2 then s
    else
      t.srcs.foldl (fun s p =>
        let len := srcLen i p
        let lim := min (pieceCount len) (consumed i p.1 t.dim t.step len + gSlots i.group)
        let due := match markOf i.given p.1 t.dim t.step with
          | none => true
          | some n => n < lim
        if due then
          sendColl (updInst s i fun j => { j with given := setMark j.given p.1 t.dim t.step lim }) i
            (collPkt s i p.1 2 t.dim t.step 0 16 0 (lim + t.step * 2 ^ 64))
        else s) s) s

/-- Does this member hold a READY of a rank (R413)? -/
def holdsReady (i : CollInst) (rank : Nat) : Bool := i.limits.any fun m => m.rank = rank

/-! ### SUMMARY (R411) -/

/-- Combine two summaries: maximum, OR, saturating sums. -/
def joinSum (a b : Nat) : Nat :=
  packBits [(bits32 (maxX (val32 (fld a 0 4)) (val32 (fld b 0 4))), 32), (fld a 4 4 ||| fld b 4 4, 32),
    (satAdd (fld a 8 8) (fld b 8 8) 64, 64), (0, 64),
    (satAdd (fld a 0x18 4) (fld b 0x18 4) 32, 32), (satAdd (fld a 0x1C 4) (fld b 0x1C 4) 32, 32)]

/-- Summaries received in a dimension. -/
def sumsIn (i : CollInst) (d : Nat) : List Frag := i.sums.filter fun f => f.dim = d

/-- The summary entering a dimension; with every dimension, the combined one. -/
def sumAt (i : CollInst) : Nat → Nat
  | 0 => i.ownSum
  | d + 1 => (sumsIn i d).foldl (fun a f => joinSum a f.data) (sumAt i d)

/-- How many summaries a dimension brings. -/
def sumsDue (i : CollInst) (d : Nat) : Nat := if gTopo i.group = 2 then gSize i.group - 1 else mOf i d - 1

/-- Are the summaries of every dimension before `d` complete? -/
def sumReady (i : CollInst) (d : Nat) : Bool := (List.range d).all fun k => sumsDue i k ≤ (sumsIn i k).length

/-- The summaries that this member still has to send, as (rank, dim, step, payload) (R411, R413). -/
def sumsToSend (i : CollInst) : List (Nat × Nat × Nat × Nat) :=
  if gTopo i.group = 2 then (otherRanks i).map fun r => (r, 0, 0, i.ownSum)
  else
    (List.range (gExts i.group).length).flatMap fun d =>
      if !sumReady i d then []
      else (List.range (mOf i d - 1)).filterMap fun j =>
        if j = 0 then some (succRank i d, d, j, sumAt i d)
        else ((sumsIn i d).find? fun f => f.step = j - 1).map fun f => (succRank i d, d, j, f.data)

/-- Send the summaries that are due to members whose READY is held. -/
def giveSums (s : State) (i : CollInst) : State :=
  if !isEs i then s
  else
    (sumsToSend i).foldl (fun s x =>
      let (r, d, j, v) := x
      if holdsReady i r && (markOf i.sumSent r d j).isNone then
        sendColl (updInst s i fun k => { k with sumSent := setMark k.sumSent r d j 1 }) i (collPkt s i r 1 d j 0 32 0 v)
      else s) s

/-- Is the exchange of summaries complete? -/
def sumDone (i : CollInst) : Bool :=
  !isEs i ||
    (sumReady i (gExts i.group).length && (sumsToSend i).all fun x => (markOf i.sumSent x.1 x.2.1 x.2.2.1).isSome)

/-! ### COUNT (R413, R418) -/

/-- Send the counts that are due. -/
def giveCounts (s : State) (i : CollInst) : State :=
  if !isA2a i then s
  else
    (otherRanks i).foldl (fun s r =>
      if holdsReady i r && !i.countSent.contains r then
        sendColl (updInst s i fun k => { k with countSent := r :: k.countSent }) i
          (collPkt s i r 4 0 0 0 (16 * cdiv (a2aEl i.env) 4) 0 (packBits ((a2aCounts s i r).map fun n => (n, 32))))
      else s) s

/-! ### DATA (R412) -/

/-- May a piece be sent: its step is reached, its data is there, and the receiver's LIMIT allows it (R412, R413)? -/
def pieceAvail (i : CollInst) (l : List Stage) (k : Nat) (t : Stage) (piece : Nat) : Bool :=
  let start := k - t.j
  earlierIn i l start && (!t.ag || i.opcode ≠ 0xB5 || i.mid.isSome) &&
    (t.j = 0 ||
      match l[k - 1]? with
      | some u => u.srcs.all fun p => pieceWhole i p.1 u.dim u.step (p.2.getD 0) piece
      | none => true)

/-- Send the pieces that are due; pieces of a reduction after its first step were added and forwarded on the fly (R412, R425). -/
def givePieces (s : State) (i : CollInst) : State :=
  let l := stagesOf s i
  l.zipIdx.foldl (fun s tk =>
    let t := tk.1
    t.dsts.foldl (fun s p =>
      let from_ := (markOf i.sent p.1 t.dim t.step).getD 0
      let lim := min (pieceCount p.2) ((markOf i.limits p.1 t.dim t.step).getD 0)
      let ks := ((List.range (lim - from_)).map (· + from_)).takeWhile fun k => pieceAvail i l tk.2 t k
      ks.foldl (fun s k =>
        let n := min pieceSize (p.2 - k * pieceSize)
        let s := (piecePkts s i t p.1 p.2 k).foldl (fun s q => sendColl s i q) s
        let s := updInst s i fun j => { j with sent := setMark j.sent p.1 t.dim t.step (k + 1) }
        let s := colCount s 1 n
        if !t.ag && isRs i && t.j ≠ 0 then colCount s 3 n else s) s) s) s

/-! ### The end of an instance (R414) -/

/-- Neighbours in the ring of all ranks, which carries a CPERMUTE's tokens (R421). -/
def nextRank (g : Nat) : Nat := (gRank g + 1) % gSize g
def prevRank (g : Nat) : Nat := (gRank g + gSize g - 1) % gSize g

/-- The members that an instance exchanges with. -/
def peerRanks (s : State) (i : CollInst) : List Nat :=
  if i.opcode = 0xB7 then (if gSize i.group = 1 then [] else [nextRank i.group, prevRank i.group].dedup)
  else ((stagesOf s i).flatMap fun t => t.dsts.map (·.1) ++ t.srcs.map (·.1)).dedup

/-- Send ABORT to ranks: the status, and the node that first failed. -/
def sendAborts (s : State) (i : CollInst) (ranks : List Nat) (status node : Nat) : State :=
  ranks.foldl (fun s r =>
    colCount (sendColl s i (collPkt s i r 3 0 0 0 16 0 (packBits [(status, 8), (0, 8), (node, 16)]))) 6 1) s

/-- The member's destination footprints, whose contents a failed instance leaves open (R414, R422). -/
def collOuts (i : CollInst) : List (Nat × Nat) :=
  let r (k : Nat) := footprint (envRec i.env k)
  if i.opcode = 0xB6 then (if collOp i.env = 0 then r 1 ++ r 2 ++ r 3 else r 3)
  else if i.opcode = 0xB7 then (i.moves.filter fun m => m.dst = gRank i.group).map fun m => (m.dstDa, m.bytes)
  else if i.opcode = 0xB8 then [] else r 1

/-- Does a later instance of the group hold off because of this one's staging region (R405)? -/
def sameRegion (a b : CollInst) : Bool :=
  a.ctx = b.ctx && a.half = b.half && gId a.group = gId b.group && a.cseq % gInflight b.group = b.cseq % gInflight b.group

/-- Remove an instance: those that waited for its staging region begin (R405). -/
def dropInst (s : State) (i : CollInst) : State :=
  updFab s fun f =>
    let rest := f.insts.filter fun j => !(j.ctx = i.ctx && j.opIndex = i.opIndex)
    { f with insts := rest.zipIdx.map fun p =>
        { p.1 with begun := p.1.begun || !(rest.take p.2).any fun j => sameRegion j p.1 } }

/-- An instance ends with a halting status: ABORT goes to every member it exchanges with, and its outputs are open (R414). -/
def collFail (s : State) (i : CollInst) (status detail node : Nat) : State :=
  let s := sendAborts s i (peerRanks s i) status node
  let s := if status = 0xB3 then colCount s 5 1 else s
  let s := loseCtx s i.ctx (collOuts i)
  endFab (dropInst s i) i.ctx i.opIndex status detail i.flags

/-- An instance ends well. -/
def collEnd (s : State) (i : CollInst) (status detail : Nat) (flags : NumFlags) : State :=
  endFab (dropInst s i) i.ctx i.opIndex status detail flags

end Sys2Proof.Machine
end

