-- ==== Sys2Proof/Machine/Tunnel.lean ====
section
/-! DEFINITION. The Ethernet ports (R394) and Jalpin-over-UDP: datagrams (R395), acknowledgement and retransmission (R397), the congestion window (R398), the gateways' split acknowledgement and fence (R399, R400), and tunnels going down and up (R401). -/

namespace Sys2Proof.Machine

/-! ### Ethernet frames (R394) -/

/-- A big-endian number from bytes of a frame held little-endian. -/
def beNum (x off n : Nat) : Nat := (List.range n).foldl (fun a k => 256 * a + fld x (off + k) 1) 0

/-- The handlers of received traffic, and the frames that are discarded and counted. -/
def ethDiscard : Nat := 0
def ethTunnel : Nat := 1
def ethTaproot : Nat := 2
def ethTime : Nat := 3
def ethForeman : Nat := 4

/-- One's complement sum of 16-bit big-endian words. -/
def ocSum (x off n : Nat) : Nat :=
  (List.range (cdiv n 2)).foldl (fun a k =>
    let hi := fld x (off + 2 * k) 1
    let lo := if 2 * k + 1 < n then fld x (off + 2 * k + 1) 1 else 0
    let v := a + 256 * hi + lo
    v % 65536 + v / 65536) 0

/-- Fold a sum of words. -/
def ocFold (v : Nat) : Nat := let w := v % 65536 + v / 65536; w % 65536 + w / 65536

/-- Is the UDP checksum of a datagram good: zero is accepted on IPv4 only (R394)? -/
def udpGood (x : Nat) (v6 : Bool) (src addrLen udp ulen : Nat) : Bool :=
  let ck := beNum x (udp + 6) 2
  if ck = 0 then !v6
  else ocFold (ocSum x src (2 * addrLen) + 17 + ulen + ocSum x udp ulen) = 0xFFFF

/-- Does a tunnel's block match a datagram: port, addresses and UDP ports (R394, R396)? -/
def tunMatches (t : Tunnel) (port : Nat) (v6 : Bool) (src dst sport dport : Nat) : Bool :=
  let w := if v6 then 16 else 4
  t.opened && fld t.blk 0 1 = port && fld t.blk 1 1 = (if v6 then 6 else 4) && fld t.blk 0x08 2 = dport &&
    fld t.blk 0x0A 2 = sport && fld t.blk 0x10 w = dst && fld t.blk 0x20 w = src

/-- Does a running live set listen on a UDP port (R339)? -/
def liveListens (s : State) (port dport : Nat) : Bool :=
  s.tap.feeds.any fun f => f.live && feedBusy f && bit (lb f 0x1A 1) port && lb f 0x18 2 = dport

/-- The handler of a frame (R394): everything that the subset does not support is discarded. -/
def ethHandler (s : State) (port len x : Nat) : Nat :=
  let t0 := beNum x 12 2
  let off := if t0 = 0x8100 then 18 else 14
  let ty := if t0 = 0x8100 then beNum x 16 2 else t0
  if 9216 < len || len < off then ethDiscard
  else if ty = 0x0806 then ethForeman
  else
    let v6 := ty = 0x86DD
    let b := fld x off 1
    let ok4 := ty = 0x0800 && b = 0x45 && beNum x (off + 6) 2 % 0x4000 = 0 && ocSum x off 20 = 0xFFFF
    let ok6 := v6 && b / 16 = 6
    if !ok4 && !ok6 then ethDiscard
    else
      let proto := if v6 then fld x (off + 6) 1 else fld x (off + 9) 1
      let udp := if v6 then off + 40 else off + 20
      let src := if v6 then off + 8 else off + 12
      let aw := if v6 then 16 else 4
      let ulen := beNum x (udp + 4) 2
      if v6 && proto = 58 then ethForeman
      else if proto ≠ 17 || ulen < 8 || len < udp + ulen || !udpGood x v6 src aw udp ulen then ethDiscard
      else
        let sp := beNum x udp 2
        let dp := beNum x (udp + 2) 2
        if s.fab.tunnels.any fun t => tunMatches t port v6 (fld x src aw) (fld x (src + aw) aw) sp dp then ethTunnel
        else if dp = 319 || dp = 320 then ethTime
        else if liveListens s port dp then ethTaproot
        else ethDiscard

/-- ETHERNET_FRAME_RECEIVE (R394): a frame goes to its handler or is discarded and counted; what the handler then does with its payload is the handler's own command. -/
def execEthernetFrameReceive (port : Fin 2) (len frame : Nat) (s : State) : Host.Outcome State Fault Refusal :=
  if fabricOn s && domIsOn s (59 + port) then
    .next (updFab s fun f => { f with eth := updAt f.eth port fun l => updAt l (ethHandler s port len frame) (· + 1) })
  else .next s

/-! ### Datagrams (R395) -/

/-- A JoU header. -/
def jouHdr (type tun flags seq cum sack tsval tsecr : Nat) : Nat :=
  packBits [(0x4A55, 16), (1, 8), (type, 8), (tun, 16), (flags, 16), (seq, 32), (cum, 32), (sack, 64), (tsval, 32), (tsecr, 32)]

/-- Elapsed time in microseconds, modulo 2^32. -/
def nowUs (s : State) : Nat := nowNs s / 1000 % 2 ^ 32

/-- Does a datagram keep the header's layout, with the type given and an open tunnel (R395)? -/
def jouOk (s : State) (type len d : Nat) : Bool :=
  32 ≤ len && fld d 0 2 = 0x4A55 && fld d 2 1 = 1 && fld d 3 1 = type && fld d 4 2 < 64 && fld d 6 2 < 2 &&
    (tunOf s (fld d 4 2)).opened

/-- Whole packets back to back; none where they break the layout. -/
def splitPkts : Nat → Nat → Nat → Option (List Pkt)
  | 0, _, n => if n = 0 then some [] else none
  | k + 1, x, n =>
    if n = 0 then some []
    else
      let p : Pkt := ⟨fld x 0 32, fld x 32 (pkLen ⟨fld x 0 32, 0⟩)⟩
      if n < pkBytes p then none
      else (splitPkts k (x >>> (8 * pkBytes p)) (n - pkBytes p)).map (p :: ·)

/-- Count a discarded datagram: the manual names no register, so it counts with its port's discarded frames. -/
def jouDiscard (s : State) (port : Nat) : State :=
  updFab s fun f => { f with eth := updAt f.eth port fun l => updAt l ethDiscard (· + 1) }

/-! ### Receiving DATA (R397, R399) -/

/-- SACK bits of the datagrams that arrived early. -/
def sackBits (t : Tunnel) : Nat :=
  (List.range 64).foldl (fun a i => if t.early.contains ((t.expect + 1 + i) % 2 ^ 32) then a + 2 ^ i else a) 0

/-- Send an ACK for a tunnel. -/
def sendJouAck (s : State) (t : Nat) : State :=
  updTun s t fun u => { u with unacked := 0, ece := false
                               lastSent := jouHdr 1 t (b2n u.ece) 0 u.expect (sackBits u) (nowUs s) u.tsval }

/-- Advance the next expected SEQ past the early datagrams. -/
def advanceExpect : Nat → Tunnel → Tunnel
  | 0, u => u
  | k + 1, u =>
    if u.early.contains u.expect then
      advanceExpect k { u with expect := (u.expect + 1) % 2 ^ 32, early := u.early.filter (· ≠ u.expect) }
    else u

/-- Note a datagram's arrival. -/
def noteArrival (u : Tunnel) (seq : Nat) : Tunnel :=
  let u := { u with early := seq :: u.early }
  advanceExpect u.early.length u

/-- Has a datagram arrived before? -/
def seenBefore (u : Tunnel) (seq : Nat) : Bool := 2 ^ 31 ≤ (seq + 2 ^ 32 - u.expect) % 2 ^ 32 || u.early.contains seq

/-- The gateway's own transaction for a WRITE or SIGNAL of the tunnel (R399). -/
def addGateTxn (s : State) (t dg : Nat) (k : Pkt) : State :=
  let s := addTxn s 2 0 0 { ptype := pkType k, dst := pkDst k, da := pkDa k, len := pkLen k, aux := pkAux k, job := pkJob k, pay := k.pay }
  let tag := (s.fab.nextTag + 2 ^ 32 - 1) % 2 ^ 32
  updTxn s tag fun u => { u with tun := t, dg := dg, origSrc := pkSrc k, origTag := pkTag k, opIndex := tag }

/-- Inject one packet of a datagram into the site: a WRITE under the gateway's own SRC and TAG, a SIGNAL held behind the fence, every other packet as it is (R399). -/
def injectPkt (s : State) (t dg : Nat) (k : Pkt) : State :=
  if pkType k = ptWrite then addGateTxn s t dg k
  else if pkType k = ptSignal then updTun s t fun u => { u with held := u.held ++ [(dg, k)] }
  else if pkDst k = s.fab.node then pushRx s (17 + t) (pkVc k) k
  else sendPkt s true 1 k

/-- A good DATA datagram of an open tunnel: its arrival is noted, and the packets of one that has not arrived before go into the site. -/
def takeDatagram (s : State) (t seq : Nat) (ce : Bool) (len tsval : Nat) (ps : List Pkt) : State :=
  let u := tunOf s t
  let fresh := !seenBefore u seq
  let s1 := fabCount (updTun s t fun u =>
    { (if fresh then noteArrival u seq else u) with unacked := u.unacked + 1, ece := u.ece || ce, tsval := tsval })
    fcJouRx (len - 32)
  let good (k : Pkt) : Bool := pkOk k && tunnelCarries k
  let s2 := if fresh then ps.foldl (fun s k => if good k then injectPkt s t seq k else fabCount s fcNoRoute 1) s1 else s1
  let s3 := pumpTxns s2
  if 2 ≤ (tunOf s3 t).unacked then sendJouAck s3 t else s3

/-- JOU_DATA (R395, R397, R399): a DATA datagram arrives at an Ethernet port, `ce` saying whether it carried a CE mark. -/
def execJouData (port : Fin 2) (ce : Bool) (len data : Nat) (s : State) : Host.Outcome State Fault Refusal :=
  if !fabricOn s then .next s
  else
    let t := fld data 4 2
    match if jouOk s 0 len data then splitPkts (len / 32) (data >>> 256) (len - 32) else none with
    | none => .next (jouDiscard s port)
    | some ps =>
      if !(tunOf s t).up || ps = [] then .next (jouDiscard s port)
      else .next (takeDatagram s t (fld data 8 4) ce len (fld data 0x18 4) ps)

/-- JOU_ACK_TIMER (R397): 50 µs after an unacknowledged datagram the receiver sends an ACK. -/
def execJouAckTimer (tun : Fin 64) (s : State) : Host.Outcome State Fault Refusal :=
  if fabricOn s && (tunOf s tun).up && (tunOf s tun).unacked ≠ 0 then .next (sendJouAck s tun) else .next s

/-! ### The fence (R399, R400) -/

/-- Is `a` before `b` modulo 2^32? -/
def seqBefore (a b : Nat) : Bool := (let d := (b + 2 ^ 32 - a) % 2 ^ 32; 0 < d && d < 2 ^ 31)

/-- May a held packet of a datagram be released: every lower-numbered datagram has arrived, and every packet of them is answered? -/
def fenceOpen (s : State) (t dg : Nat) : Bool :=
  let u := tunOf s t
  (u.expect = dg || seqBefore dg u.expect) &&
    (s.fab.txns.all fun x => !(x.half = 2 && x.tun = t && seqBefore x.dg dg)) &&
    u.held.all fun h => !seqBefore h.1 dg

/-- JOU_FENCE_RELEASE (R399): the first held SIGNAL of a tunnel whose fence is open goes into the site. -/
def execJouFenceRelease (tun : Fin 64) (s : State) : Host.Outcome State Fault Refusal :=
  if !fabricOn s then .next s
  else
    match (tunOf s tun).held.find? fun h => fenceOpen s tun h.1 with
    | none => .next s
    | some h =>
      let s1 := updTun s tun fun u => { u with held := dropFirst (fun x => x = h) u.held }
      .next (pumpTxns (addGateTxn s1 tun h.1 h.2))

/-- A REMOTE_ERROR packet to the original source, which crosses the tunnel back (R399). -/
def remoteError (s : State) (t origSrc origTag status dst da : Nat) : State :=
  let k := mkPkt s { ptype := ptCtrl, dst := origSrc, len := 32, aux := 1
                     pay := packBits [(origSrc, 16), (status, 8), (0, 8), (origTag, 32), (dst, 16), (0, 48), (da, 64)] }
  pumpTun (updTun s t fun u => { u with txq := u.txq ++ [k] }) t

/-- The final answer to a gateway's transaction other than OK: logged, reported to the original source, and every SIGNAL held of that source is discarded and reported as NO_ROUTE (R399, R400). -/
def gatewayFail (s : State) (x : Txn) (status : Nat) : State :=
  let s := logErr s 6 1 0x13 0xFF (pkDst x.pkt + x.tun * 2 ^ 16)
  let s := remoteError s x.tun x.origSrc x.origTag status (pkDst x.pkt) (pkDa x.pkt)
  let gone := (tunOf s x.tun).held.filter fun h => pkSrc h.2 = x.origSrc && seqBefore x.dg h.1
  if gone = [] then s
  else
    let all := (tunOf s x.tun).held.filter fun h => pkSrc h.2 = x.origSrc
    let s := updTun s x.tun fun u => { u with held := u.held.filter fun h => pkSrc h.2 ≠ x.origSrc }
    all.foldl (fun s h => remoteError s x.tun x.origSrc (pkTag h.2) ackNoRoute (pkDst h.2) (pkDa h.2)) s

/-- Answer a gateway's transaction. -/
def gatewayAnswer (s : State) (x : Txn) (status : Nat) : State :=
  let s := updFab s fun f => { f with txns := dropFirst (fun u => u.tag = x.tag) f.txns }
  if status = ackOk || status = ackProxied then s else gatewayFail s x status

/-! ### Acknowledgement and the window (R397, R398) -/

/-- Reduce the window, at most once per round trip. -/
def cutWindow (u : Tunnel) : Tunnel :=
  if u.cut then { u with lossSeen := true } else { u with window := max (u.window * 7 / 10) 65536, cut := true, lossSeen := true }

/-- A round-trip sample in nanoseconds (RFC 6298). -/
def rttSample (u : Tunnel) (r : Nat) : Tunnel :=
  let u := if u.srtt = 0 then { u with srtt := r, rttvar := r / 2 }
    else { u with rttvar := (3 * u.rttvar + (if u.srtt < r then r - u.srtt else u.srtt - r)) / 4, srtt := (7 * u.srtt + r) / 8 }
  { u with minRtt := if u.minRtt = 0 then r else min u.minRtt r, backoff := 0 }

/-- A datagram that an ACK's CUM or SACK acknowledges. -/
def isAcked (cum sack seq : Nat) : Bool :=
  seqBefore seq cum || (let k := (seq + 2 ^ 32 - (cum + 1)) % 2 ^ 32; k < 64 && bit sack k)

/-- The buffered datagrams that an ACK leaves, each noting how many later ones arrived while it is missing (R397). -/
def ackBuf (buf : List Dgram) (cum sack : Nat) : List Dgram :=
  let gone := buf.filter fun g => isAcked cum sack g.seq
  (buf.filter fun g => !isAcked cum sack g.seq).map fun g => { g with later := g.later + (gone.filter fun h => seqBefore g.seq h.seq).length }

/-- What an ACK makes of a tunnel: acknowledged datagrams leave the buffer, the round trip `r` is sampled, and the window grows at a round's end, or shrinks on a mark or beyond the delay target. -/
def ackTunnel (u : Tunnel) (cum sack r : Nat) (ece : Bool) : Tunnel :=
  let u1 := { u with buf := ackBuf u.buf cum sack }
  let u2 := rttSample u1 r
  let ended := cum = u2.roundEnd || seqBefore u2.roundEnd cum
  let u3 := if ended then
      { u2 with window := if u2.lossSeen then u2.window + tunMtu u2 else 2 * u2.window, cut := false, roundEnd := u2.next }
    else u2
  let u4 := if ece || u3.minRtt + tunTarget u3 < r then cutWindow u3 else u3
  { u4 with window := min u4.window (tunRetxBytes u4) }

/-- JOU_ACK (R397, R398): an ACK frees buffered datagrams, gives a round-trip sample and moves the window. -/
def execJouAck (port : Fin 2) (len data : Nat) (s : State) : Host.Outcome State Fault Refusal :=
  if !fabricOn s then .next s
  else if !jouOk s 1 len data then .next (jouDiscard s port)
  else
    let t := fld data 4 2
    let u := tunOf s t
    if !u.up then .next s
    else
      let r := (nowUs s + 2 ^ 32 - fld data 0x1C 4) % 2 ^ 32 * 1000
      .next (pumpTun (updTun s t fun _ => ackTunnel u (fld data 0x0C 4) (fld data 0x10 8) r (bit (fld data 6 2) 0)) t)

/-- JOU_RETRANSMIT (R397, R398): a buffered datagram is resent, once three later ones have arrived or after its timeout, which then doubles. -/
def execJouRetransmit (tun : Fin 64) (seq : BitVec 32) (timeout : Bool) (s : State) : Host.Outcome State Fault Refusal :=
  let u := tunOf s tun
  match u.buf.find? fun g => g.seq = seq.toNat with
  | none => .next s
  | some g =>
    if !fabricOn s || !u.up || (!timeout && g.later < 3) then .next s
    else
      let s1 := fabCount (fabCount s fcJouRetx 1) fcJouTx (pkBytes g.pkt)
      let again (u : Tunnel) : Tunnel :=
        { u with buf := updFirst (fun x => x.seq = seq.toNat) (fun x => { x with sentAt := nowNs s, later := 0 }) u.buf
                 backoff := if timeout then u.backoff + 1 else u.backoff }
      .next (updTun s1 tun fun u => cutWindow (again u))

/-! ### Down and up (R401) -/

/-- Discard everything a tunnel holds. -/
def clearTunnel (u : Tunnel) : Tunnel := { noTunnel with opened := u.opened, blk := u.blk }

/-- Take a tunnel down: its buffers, held packets and the transactions of its datagrams go; packets that it has not sent are routed again (R386). -/
def tunnelDown (s : State) (t : Nat) : State :=
  let unsent := (tunOf s t).txq
  let s := updTun s t clearTunnel
  let s := updFab s fun f => { f with txns := f.txns.filter fun x => !(x.half = 2 && x.tun = t) }
  unsent.foldl (fun s k => sendPkt s (pkSrc k = s.fab.node) 1 k) s

/-- TUNNEL_DOWN (R401): no ACK for DEAD_TIME takes a tunnel down; the event counts and is reported. -/
def execTunnelDown (tun : Fin 64) (s : State) : Host.Outcome State Fault Refusal :=
  if fabricOn s && (tunOf s tun).up then
    let s1 := fabCount (tunnelDown s tun) fcTunnelDown 1
    .next (postEvent (logErr s1 6 1 0x14 0xFF (tun.val * 2 ^ 16)) 0x85 0xFF 0 tun)
  else .next s

/-- PROBE (R395, R401): a PROBE is answered by a PROBE_RSP; either brings a down tunnel up, with SEQ from 0 at both ends. -/
def execProbe (port : Fin 2) (len data : Nat) (s : State) : Host.Outcome State Fault Refusal :=
  if !fabricOn s then .next s
  else if !jouOk s 2 len data && !jouOk s 3 len data then .next (jouDiscard s port)
  else
    let t := fld data 4 2
    let s1 := if (tunOf s t).up then s else updTun s t fun u => { clearTunnel u with up := true }
    if fld data 3 1 = 2 then
      .next (updTun s1 t fun u => { u with lastSent := jouHdr 3 t 0 0 0 0 (nowUs s) (fld data 0x18 4) })
    else .next s1

end Sys2Proof.Machine
end

