-- ==== Sys2Proof/Machine/CollOps.lean ====
section
/-! DEFINITION. The collective operations CRS, CAG, CAR, CA2A, CPERMUTE, CLEDGER and CDIGEST from issue to end (R404 to R424), delivery of COLL packets (R406), acknowledgements and timeouts (R380, R381, R414), and the prefetch signal (R419). -/

namespace Sys2Proof.Machine

/-! ### Issue plans (R404, R405, R409, R411, R417, R420, R421, R424) -/

/-- Reserved fields common to the collectives: the largest OP and the CFLAGS bits in use. -/
def collCommon (e maxOp flagMask : Nat) : List (Nat × Bool) :=
  ([(0x40, maxOp < collOp e), (0x41, par e 1 1 &&& (255 - flagMask) ≠ 0)] : List (Nat × Bool)) ++ fabCommon e ++
    ([(0x48, bits (par e 8 8) 48 16 ≠ 0)] : List (Nat × Bool))

/-- The addresses that a group descriptor names: itself, its members and its staging area (R405). -/
def groupFoots (s : State) (c e : Nat) : List ParFoot :=
  let g := readGroup s c e
  ⟨[(grpDa e, 64)], [.near], true, false⟩ ::
    (if !groupReadable s c e || groupBroken g then []
     else [⟨[(gMembers g, 2 * gSize g)], deviceRegions, true, false⟩, ⟨[(gStage g, stageBytes g)], [.near], true, true⟩])

/-- Does a group break R405 for this operation: the descriptor, its members, its JOB, a ledger slot outside its range, or another half? -/
def groupBad (s : State) (c half e : Nat) (slots : List Nat) : Bool :=
  let g := readGroup s c e
  grpDa e % 64 ≠ 0 || groupBroken g || gJob g ≠ (ctxOf s c).fabricJob ||
    slots.any (fun k => k < gLo g || gHi g < k) ||
    (boundTo s c (gId g) ≠ 0 && boundTo s c (gId g) ≠ half + 1) || membersBroken s c g

/-- Ledger slots that records name. -/
def slotsOf (ds : List Desc) : List Nat := (ds.filter (·.ledgerEn)).map (·.slot)

/-- Element count of a record: half the extent of an exact-sum buffer (R411). -/
def elCount (d : Desc) (ext0 : Nat) : Nat := if d.fmtRaw = 0x0D then ext0 / 2 else ext0

/-- The relation of IN's and OUT's element counts (R409). -/
def countsOk (opcode n eIn eOut : Nat) : Bool :=
  if opcode = 0xB3 then eIn % (64 * n) = 0 && eOut * n = eIn
  else if opcode = 0xB4 then eIn % 64 = 0 && eOut = eIn * n
  else eIn % (64 * n) = 0 && eOut = eIn

/-- The format rules of a reduction or gather (R409, R411). -/
def collFmtBad (s : State) (c opcode e : Nat) : Bool :=
  let a := envRec e 0
  let b := envRec e 1
  a.rank ≠ 1 || b.rank ≠ 1 ||
    (if opcode = 0xB4 then
       collOp e ≠ 0 || keepFixed e || a.fmtRaw ≠ b.fmtRaw || a.layout ≠ 0 || b.layout ≠ 0 ||
         !((a.comp = 0 && b.comp = 0) || (a.comp = 1 && b.comp = 1 && a.expRaw = b.expRaw && !a.spatial && !b.spatial))
     else if collOp e = 4 then
       a.comp ≠ 0 || b.comp ≠ 0 || !(a.fmtRaw ≤ 1 || isEsBuf s c a) || !b.ledgerEn || !leEs (ledgerGet s c b.slot) ||
         (if keepFixed e then b.fmtRaw ≠ 0x0D else 4 < b.fmtRaw)
     else a.comp ≠ 0 || b.comp ≠ 0 || collOp e = 0 || keepFixed e || 1 < a.fmtRaw || 4 < b.fmtRaw)

/-- The issue plan of CRS, CAG and CAR. -/
def redPlanC (s : State) (c half opcode e : Nat) : Plan :=
  let a := envRec e 0
  let b := envRec e 1
  let n := gSize (readGroup s c e)
  { reserved := collCommon e 4 1 ++ parZero e 0x10 0x40
    recs := [inRec e 0 deviceRegions, outRec e 1 deviceRegions]
    parFoots := groupFoots s c e
    invalid := 0xB2
    broken := groupBad s c half e (slotsOf [a, b]) || collFmtBad s c opcode e
    rels := [{ dyn := a.shapeEn || b.shapeEn
               plan := countsOk opcode n (elCount a (extAt a 0)) (elCount b (extAt b 0))
               run := countsOk opcode n (elCount a (nth 1 (runExt s c a) 0)) (elCount b (nth 1 (runExt s c b) 0)) }]
    zeroExt := [runExt s c a, runExt s c b] }

/-- The row tensors of an all-to-all, and its list and counts, by record. -/
def a2aRec (e : Nat) (k : Nat) : Desc := if collOp e = 0 then envRec e k else nth (envRec e 0) [envRec e 0, envRec e 3, envRec e 1, envRec e 2] k

/-- The issue plan of CA2A (R417). -/
def a2aPlan (s : State) (c half e : Nat) : Plan :=
  let disp := collOp e = 0
  let n := gSize (readGroup s c e)
  let cap := a2aCap e
  let el := a2aEl e
  let total := el * n * cap
  let x := a2aRec e 0
  let y := a2aRec e 1
  let lst := a2aRec e 2
  let cnt := a2aRec e 3
  let swIn := bits (par e 0x16 2) 0 12
  let swOut := bits (par e 0x18 2) 0 12
  let fills := if disp && n * el ≤ 1024 then (List.range (n * el)).map fun k => shapeWord s c (swIn + k) else []
  { reserved := collCommon e 1 0 ++
      ([(0x56, bits (par e 0x16 2) 12 3 ≠ 0 || (!disp && decide (par e 0x16 2 ≠ 0))),
        (0x58, bits (par e 0x18 2) 12 3 ≠ 0 || (!disp && decide (par e 0x18 2 ≠ 0)))] : List (Nat × Bool)) ++ parZero e 0x1A 0x40
    recs := if disp then [inRec e 0 deviceRegions, outRec e 1 deviceRegions, outRec e 2 deviceRegions, outRec e 3 deviceRegions]
      else [inRec e 0 deviceRegions, inRec e 1 deviceRegions, inRec e 2 deviceRegions, outRec e 3 deviceRegions]
    parFoots := groupFoots s c e
    invalid := 0xB2
    broken := groupBad s c half e (slotsOf [x, y, lst, cnt]) || !(1 ≤ cap && cap ≤ 16384) || el = 0 || 1024 < n * el ||
      (disp && (!bit (par e 0x16 2) 15 || 4096 < swIn + n * el || (bit (par e 0x18 2) 15 && 4096 < swOut + el))) ||
      x.fmtRaw ≠ y.fmtRaw || x.rank ≠ 2 || y.rank ≠ 2 || x.layout ≠ 0 || y.layout ≠ 0 || x.comp ≠ 0 || y.comp ≠ 0 ||
      lst.fmtRaw ≠ 0x0D || lst.rank ≠ 1 || cnt.fmtRaw ≠ 0x0D || cnt.rank ≠ 2
    rels := relEq s c x y 0 0 :: [relDim s c x 1 (· = total), relDim s c y 1 (· = total), relDim s c lst 0 (· = total),
      relDim s c cnt 0 (· = el), relDim s c cnt 1 (· = n)]
    counts := fills.map fun v => (cap, v)
    zeroExt := [runExt s c x, runExt s c y] }

/-- Entries of a move list, as the issue reads them (R421). -/
def readMoves (s : State) (c e : Nat) : List Move :=
  let d := envRec e 0
  (List.range (nth 1 (runExt s c d) 0 / 8)).map fun k =>
    let m := rdNum s c (d.base + 32 * k) 32
    { src := fld m 0 2, dst := fld m 2 2, round := fld m 4 2, srcDa := bits (fld m 8 8) 0 48, dstDa := bits (fld m 0x10 8) 0 48
      bytes := fld m 0x18 4
      bad := fld m 6 2 ≠ 0 || fld m 0xE 2 ≠ 0 || fld m 0x16 2 ≠ 0 || fld m 0x1C 4 ≠ 0 || fld m 0x18 4 = 0 || fld m 0x18 4 % 16 ≠ 0 }

/-- Rounds of a move list in order. -/
def roundsOf (ms : List Move) : List Nat := (ms.map (·.round)).dedup

/-- Does a move list break R421? -/
def movesBad (g : Nat) (ms : List Move) : Bool :=
  ms.any (fun m => m.bad || gSize g ≤ m.src || gSize g ≤ m.dst) ||
    !(ms.zip ms.tail).all (fun p => p.1.round ≤ p.2.round) ||
    (roundsOf ms).any fun r => stageBytes g < sumNat ((ms.filter fun m => m.round = r && m.src = gRank g).map (·.bytes))

/-- The issue plan of CPERMUTE (R421). -/
def permPlan (s : State) (c half e : Nat) : Plan :=
  let d := envRec e 0
  let g := readGroup s c e
  let ok := d.rank = 1 && d.fmtRaw = 0x0D && d.comp = 0 && d.layout = 0 && footOk s c deviceRegions true false (footprint d)
  let ms := if ok then readMoves s c e else []
  { reserved := collCommon e 0 0 ++ parZero e 0x10 0x40
    recs := [inRec e 0 deviceRegions]
    parFoots := groupFoots s c e ++ (if groupReadable s c e then
      [⟨(ms.filter fun m => m.src = gRank g).map (fun m => (m.srcDa, m.bytes)), deviceRegions, true, false⟩,
       ⟨(ms.filter fun m => m.src = gRank g && m.dst = gRank g).map (fun m => (m.dstDa, m.bytes)), deviceRegions, false, true⟩] else [])
    invalid := 0xB2
    broken := groupBad s c half e (slotsOf [d]) || d.rank ≠ 1 || d.fmtRaw ≠ 0x0D || d.comp ≠ 0 || d.layout ≠ 0
    rels := [relDim s c d 0 (fun n => n % 8 = 0)]
    between := if movesBad g ms then some (0xB2, 0) else none
    zeroExt := [runExt s c d] }

/-- The issue plan of CLEDGER (R420): its entries, and their history rings. A broken entry gives TENSOR_INVALID (R71), with the DETAIL of the parameter block, which names it (DEDUCED, assumption 187). -/
def cledgerPlan (s : State) (c half e : Nat) : Plan :=
  let slots := (List.range (min 1024 (clCount e))).map (· + clFirst e)
  { reserved := collCommon e 0 0 ++ parZero e 0x14 0x40
    recs := []
    parFoots := groupFoots s c e ++ [⟨slots.map fun k => ringRange (ledgerGet s c k), [.near], true, true⟩]
    tensorBad := if slots.any fun k => entryBroken (ledgerGet s c k) then some 0xFF else none
    invalid := 0xB2
    broken := groupBad s c half e slots || !(1 ≤ clCount e && clCount e ≤ 1024) }

/-- The issue plan of CDIGEST (R424). -/
def digestPlan (s : State) (c half e : Nat) : Plan :=
  let a := envRec e 0
  let b := envRec e 1
  let n := gSize (readGroup s c e)
  { reserved := collCommon e 0 0 ++ parZero e 0x10 0x40
    recs := [inRec e 0 deviceRegions, outRec e 1 deviceRegions]
    parFoots := groupFoots s c e
    invalid := 0xB2
    broken := groupBad s c half e (slotsOf [a, b]) || a.comp ≠ 0 || b.fmtRaw ≠ 0x0D || b.rank ≠ 1
    rels := [relDim s c b 0 (· = 2 * n)]
    zeroExt := [runExt s c a] }

/-- The plan of a collective by opcode. -/
def collPlan (s : State) (c half opcode e : Nat) : Plan :=
  if opcode = 0xB6 then a2aPlan s c half e
  else if opcode = 0xB7 then permPlan s c half e
  else if opcode = 0xB8 then cledgerPlan s c half e
  else if opcode = 0xB9 then digestPlan s c half e
  else redPlanC s c half opcode e

/-! ### Issue -/

/-- e of R408. -/
def sigCount (s : State) (c opcode e : Nat) : Nat :=
  let a := envRec e 0
  if opcode = 0xB6 then a2aCap e * 65536 + a2aEl e
  else if opcode = 0xB7 then digestBytes (bytesOf (rdNum s c a.base (4 * nth 1 (runExt s c a) 0)) (4 * nth 1 (runExt s c a) 0))
  else if opcode = 0xB8 then clFirst e * 65536 + clCount e
  else if opcode = 0xB9 then prodNat (runExt s c a)
  else elCount a (nth 1 (runExt s c a) 0)

/-- The wire format in a signature. -/
def sigEfmt (opcode e : Nat) : Nat :=
  if opcode = 0xB3 || opcode = 0xB5 then (if collOp e = 4 then 0x20 else 0)
  else if opcode = 0xB4 || opcode = 0xB6 then (envRec e 0).fmtRaw else 0

/-- This member's part of an exact sum's summary: the flags of R65 are those of reading IN too (R78, R411). -/
def esSummary (s : State) (c e : Nat) : Nat :=
  let a := envRec e 0
  let ent := ledgerGet s c (envRec e 1).slot
  let t := if a.fmtRaw = 0x0D then ({} : OutStat)
    else (indices (runExt s c a)).foldl (fun t x => statFixed t (valsOf s c a x) (leScale ent) (ctxOf s c).esHeadroom) {}
  let cur := if leAmaxValid ent then leAmax ent else fzero
  packBits [(bits32 (maxX cur (amax32 t.amax)), 32), (flagByte (if a.fmtRaw = 0x0D then t.flags else orFlags t.flags (readAll s c a)), 32), (t.nSat, 64), (0, 64),
    (min t.nUnf (2 ^ 32 - 1), 32), (min t.nNan (2 ^ 32 - 1), 32)]

/-- The instance of an operation at its issue. -/
def mkInst (s : State) (c : Nat) (q : QOp) (cseq : Nat) : CollInst :=
  let e := q.env
  let g := readGroup s c e
  let op := q.opcode
  let a := envRec e 0
  let b := envRec e 1
  let rs := op = 0xB3 || op = 0xB5
  { ctx := c, opIndex := q.opIndex, half := halfOf q.inst, group := g, members := readMembers s c g, cseq := cseq
    sig := collSig g op (collOp e) (sigEfmt op e) cseq (sigCount s c op e), opcode := op, env := e
    exts := (List.range (envNrec e)).map fun k => runExt s c (envRec e k)
    fills := if op = 0xB6 && collOp e = 0 then
      (List.range (gSize g * a2aEl e)).map fun k => shapeWord s c (bits (par e 0x16 2) 0 12 + k) else []
    moves := if op = 0xB7 then readMoves s c e else []
    eIn := if op = 0xB7 || op = 0xB8 then 0 else elCount a (nth 1 (runExt s c a) 0)
    eOut := if op = 0xB7 || op = 0xB8 then 0 else elCount b (nth 1 (runExt s c b) 0)
    f := if rs && collOp e = 4 then leScale (ledgerGet s c b.slot) else 0
    begun := true, frags := [], limits := [], given := [], sent := []
    flags := if rs && a.fmtRaw ≤ 1 then readAll s c a else {}
    ownSum := if rs && collOp e = 4 then esSummary s c e else if op = 0xB9 then tensorDigest s c a else 0
    sums := [], sumSent := [], counts := [], countSent := [], mid := none, barrier := 0, reached := false, staged := []
    tokens := [], tokensSent := [] }

/-- Bytes that a collective reads at issue. -/
def collReads (s : State) (c opcode e : Nat) : List (Nat × Nat) :=
  let g := readGroup s c e
  let at_ (k : Nat) := footAt (envRec e k) (runExt s c (envRec e k))
  [(grpDa e, 64), (gMembers g, 2 * gSize g)] ++
    (if opcode = 0xB6 then (if collOp e = 0 then at_ 0 else at_ 0 ++ at_ 1 ++ at_ 2)
     else if opcode = 0xB8 then [] else at_ 0)

/-- Add an instance: it begins unless an earlier one of its group holds its staging region, whose contents are then open (R405). -/
def addInst (s : State) (i : CollInst) : State :=
  let busy := s.fab.insts.any fun j => sameRegion j i
  let s := updFab s fun f => { f with insts := f.insts ++ [{ i with begun := !busy }] }
  let q := gSlots i.group * gQ i.group * 0x100000
  loseCtx s i.ctx [(gStage i.group + (i.cseq % gInflight i.group) * q, q)]

/-- The commit of every entry that a CLEDGER names (R420). -/
def touchLedger (s : State) (c e : Nat) : State :=
  (List.range (clCount e)).foldl (fun s k => ledgerTouch s c (clFirst e + k)) s

/-! ### Results -/

/-- The reduced shard narrowed at its owner, element by element, and what the narrowing recorded (R410, R411). -/
def narrowShard (s : State) (i : CollInst) : List Nat × OutStat :=
  let d := envRec i.env 1
  let n := i.eIn / gSize i.group
  let base := if i.opcode = 0xB5 then shardOf i.group (gRank i.group) * n else 0
  let env := roundEnv s i.ctx d
  (List.range n).foldl (fun a x =>
    let raw := rsResult i (ownEl s i) x
    let v := if isEs i then ofFixed (sext raw 64) i.f else val32 raw
    let (r, ev) := narrowElem d.fmt (rndAt env d [base + x]) d.ovf (fscale env.scale v)
    (a.1 ++ [r], statAdd a.2 v ev)) ([], {})

/-- Fold the combined summary into the ES entry (R78, R411). -/
def foldSummary (s : State) (i : CollInst) : State :=
  if isEs i then
    let sum := sumAt i (if gTopo i.group = 2 then 1 else (gExts i.group).length)
    let slot := (envRec i.env 1).slot
    ledgerPut s i.ctx slot (foldEntry (ledgerGet s i.ctx slot) (val32 (fld sum 0 4)) (fld sum 8 8) (fld sum 0x1C 4) (fld sum 0x18 4))
  else s

/-- The flags that an instance reports: its own, and the summary's (R411). -/
def sumFlags (i : CollInst) : NumFlags :=
  if isEs i then orFlags i.flags (flagsOfByte (fld (sumAt i (if gTopo i.group = 2 then 1 else (gExts i.group).length)) 4 1)) else i.flags

/-- What CRS writes (R409, R411). Of an exact sum only the combined summary enters the entry: R68 would fold the narrowing's own counts and amax as well, R78 gives every participant's entry one history (DESIGN CHOICE, assumption 184). -/
def crsEff (s : State) (i : CollInst) : Result :=
  let b := envRec i.env 1
  let ext := instExt i 1
  let s := foldSummary s i
  if keepFixed i.env then
    { st := applyPuts s i.ctx (esPuts b ext fun x => sext (rsResult i (ownEl s i) (nth 0 x 0)) 64), flags := sumFlags i }
  else
    let (rs, t) := narrowShard s i
    let s := if isEs i then s else ledgerFold s i.ctx b t
    { st := applyPuts s i.ctx (rawPuts b ext fun x => nth 0 rs (nth 0 x 0)), flags := orFlags (sumFlags i) t.flags }

/-- What CAR writes: its gathered shards (R409). -/
def carEff (s : State) (i : CollInst) : Result :=
  let b := envRec i.env 1
  let ext := instExt i 1
  let s := foldSummary s i
  let at_ (pos n : Nat) : Nat := ofBytes ((List.range n).map fun k => agResult i (agOwn s i) (pos + k))
  let w := ebits b.fmt / 8
  { st := applyPuts s i.ctx (if keepFixed i.env then esPuts b ext fun x => sext (at_ (8 * nth 0 x 0) 8) 64
      else rawPuts b ext fun x => at_ (w * nth 0 x 0) w)
    flags := sumFlags i }

/-- What CAG writes: bytes unchanged, MX scales with their rows (R409). -/
def cagEff (s : State) (i : CollInst) : Result :=
  let b := envRec i.env 1
  let l := agLen i
  let by_ (pos : Nat) : Nat := agResult i (agOwn s i) pos
  if isMx b.fmt then
    let n := cdiv (i.eIn * ebits b.fmt) 8
    let eb := ebits b.fmt
    let row : RawRow := ⟨fun x => (let p := x % i.eIn * eb; bits (ofBytes [by_ (x / i.eIn * l + p / 8), by_ (x / i.eIn * l + p / 8 + 1)]) (p % 8) eb),
      fun k => (let per := cdiv i.eIn 32; by_ (k / per * l + n + k % per))⟩
    { st := applyPuts s i.ctx (mxCopyRow b i.eOut [] row) }
  else { st := applyPuts s i.ctx ((List.range (l * gSize i.group)).map fun p => (b.base + p, 0, 8, by_ p)) }

/-- What CDIGEST writes, and its verdict (R424). -/
def digestEff (s : State) (i : CollInst) : Result :=
  let b := envRec i.env 1
  let n := gSize i.group
  let of_ (r : Nat) : Nat := ofBytes ((List.range 8).map fun k => agResult i (agOwn s i) (shardOf i.group r * agLen i + k))
  let st := applyPuts s i.ctx (rawPuts b (instExt i 1) fun x =>
    let k := nth 0 x 0
    if k % 2 = 0 then of_ (k / 2) % 2 ^ 32 else of_ (k / 2) / 2 ^ 32)
  match (List.range n).find? fun r => of_ r ≠ i.ownSum with
  | some r => { st := st, status := 0xB5, detail := r }
  | none => { st := st }

/-- What CLEDGER leaves: every entry's AMAX_CUR is the maximum of the contributions (R420). -/
def cledgerEff (s : State) (i : CollInst) : Result :=
  let words (k : Nat) : List Nat := (List.range (gSize i.group)).map fun r =>
    ofBytes ((List.range 4).map fun b => agResult i (agOwn s i) (r * agLen i + 4 * k + b))
  { st := (List.range (clCount i.env)).foldl (fun t k =>
      let vs := (words k).filter fun v => v ≠ 0xFFFFFFFF
      let m := vs.foldl (fun a v => maxX a (val32 v)) fzero
      let slot := clFirst i.env + k
      let e := ledgerGet t i.ctx slot
      ledgerPut t i.ctx slot (setFld (setFld e 0x18 4 (bits32 m)) 9 1 (if vs = [] then fld e 9 1 % 8 else fld e 9 1 ||| 8))) s }

/-- Copy `n` bytes of a row to a row tensor. -/
def putRow (d : Desc) (n row : Nat) (by_ : Nat → Nat) : List Put :=
  (List.range n).map fun b => ((elemAddr d [0, row]).1 + b, 0, 8, by_ b)

/-- The record that an all-to-all's rows go to: RECV or DEST (R417). -/
def a2aDst (e : Nat) : Nat := if collOp e = 0 then 1 else 3

/-- What CA2A writes (R418). -/
def a2aEff (s : State) (i : CollInst) : Result :=
  let e := i.env
  let c := i.ctx
  let n := gSize i.group
  let cap := a2aCap e
  let el := a2aEl e
  let u := a2aUnit i
  let me := gRank i.group
  let cts (r : Nat) : List Nat := (countsFrom s i r).getD []
  let dst := envRec e (a2aDst e)
  let head := if collOp e = 1 then 16 else 0
  let placed (r : Nat) : List (Nat × Nat) :=
    (List.range el).flatMap fun j => (List.range (nth 0 (cts r) j)).map fun k => (j, k)
  let wire (r k b : Nat) : Nat := fragNum i.frags r 0 0 (k * u + b) 1
  let mine := a2aRows s i me
  let src := a2aSrc e
  let rowTo (r k : Nat) (jc : Nat × Nat) : Nat × Nat :=
    if collOp e = 0 then ((jc.1 * n + r) * cap + jc.2, jc.2)
    else
      let cc := if r = me then (nth (0, 0, 0) mine k).2.2 else ofBytes ((List.range 4).map fun b => wire r k b)
      ((r * el + jc.1) * cap + cc, cc)
  let puts := (List.range n).flatMap fun r =>
    (placed r).zipIdx.flatMap fun jk =>
      let (row, cc) := rowTo r jk.2 jk.1
      if cap ≤ cc then []
      else putRow dst (rowLen i (a2aDst e)) row fun b =>
        if r = me then rdCtx s c ((elemAddr src [0, (nth (0, 0, 0) mine jk.2).2.1]).1 + b) else wire r jk.2 (head + b)
  let t := applyPuts s c puts
  if collOp e = 1 then { st := t }
  else
    let cnt (r j : Nat) : Nat := min cap (nth 0 (cts r) j)
    let section_ (j : Nat) : List Nat :=
      (List.range n).flatMap fun r => (List.range (cnt r j)).map fun k => (j * n + r) * cap + k
    let t := applyPuts t c (rawPuts (envRec e 3) (instExt i 3) fun x => cnt (nth 0 x 1) (nth 0 x 0))
    let t := applyPuts t c (rawPuts (envRec e 2) (instExt i 2) fun x =>
      let k := nth 0 x 0
      nth 0xFFFFFFFF (section_ (k / (n * cap))) (k % (n * cap)))
    { st := if bit (par e 0x18 2) 15 then
        (List.range el).foldl (fun t j => setShapeWord t c (bits (par e 0x18 2) 0 12 + j) (sumNat ((List.range n).map fun r => cnt r j))) t
        else t }

/-- Bytes that an instance writes at its end. -/
def collWrites (i : CollInst) : List (Nat × Nat) :=
  let at_ (k : Nat) := footAt (envRec i.env k) (instExt i k)
  if i.opcode = 0xB6 then (if collOp i.env = 0 then at_ 2 ++ at_ 3 else []) else if i.opcode = 0xB8 then [] else at_ 1

/-- The effect of an instance at its end. -/
def collEff (s : State) (i : CollInst) : Result :=
  match i.opcode with
  | 0xB3 => crsEff s i
  | 0xB4 => cagEff s i
  | 0xB5 => carEff s i
  | 0xB6 => a2aEff s i
  | 0xB8 => cledgerEff s i
  | _ => digestEff s i

/-- Has an instance exchanged everything? -/
def collDone (s : State) (i : CollInst) : Bool :=
  let l := stagesOf s i
  l.all (fun t => stageIn i t && stageOut i t) && sumDone i &&
    (!isA2a i || (otherRanks i).all fun r => i.countSent.contains r && i.counts.any fun x => x.1 = r)

/-- A CAR whose reduction is complete narrows its shard for the gather (R409). -/
def carMiddle (s : State) (i : CollInst) : State :=
  if keepFixed i.env then
    let n := i.eIn / gSize i.group
    updInst s i fun j => { j with mid := some (ofBytes ((List.range n).flatMap fun x => bytesOf (rsResult i (ownEl s i) x) 8)) }
  else
    let (rs, t) := narrowShard s i
    let d := envRec i.env 1
    let s := if isEs i then s else ledgerFold s i.ctx d t
    updInst s i fun j =>
      { j with mid := some (ofBytes (rs.flatMap fun r => bytesOf r (ebits d.fmt / 8))), flags := orFlags j.flags t.flags }

/-- End an instance whose exchange is complete. -/
def collFinish (s : State) (i : CollInst) : State :=
  if i.opcode = 0xB5 && i.mid.isNone && (rsStages i).all (stageIn i) then carMiddle s i
  else if collDone s i && (i.opcode ≠ 0xB5 || i.mid.isSome) then
    let r := runAfter s i.ctx (collPlan s i.ctx i.half i.opcode i.env) [] (collWrites i) fun s => collEff s i
    if halting r.status then collFail r.st i r.status r.detail r.st.fab.node
    else collEnd r.st i r.status r.detail (orFlags i.flags r.flags)
  else s

/-! ### CPERMUTE (R421) -/

/-- Number of a token: its barrier and its step in the ring. -/
def tokenNo (i : CollInst) (b j : Nat) : Nat := (b * (gSize i.group - 1) + j) % 65536

/-- A member sends a token on. -/
def sendToken (s : State) (i : CollInst) (no : Nat) : State :=
  sendColl (updInst s i fun j => { j with tokensSent := no :: j.tokensSent }) i (collPkt s i (nextRank i.group) 0 0 no 0 0 0 0)

/-- Stage a round: the source bytes of this member's entries become the round's WRITE packets (R421). -/
def stageRound (s : State) (i : CollInst) (r : Nat) : State ⊕ (Nat × List Pkt) :=
  let ms := i.moves.filter fun m => m.round = r && m.src = gRank i.group
  match badTouched s (physPieces s i.ctx (ms.map fun m => (m.srcDa, m.bytes))) with
  | some l => .inr (l, [])
  | none => .inl (updInst s i fun j =>
      { j with reached := true
               staged := ms.flatMap fun m => (cutIv 4096 0 m.bytes).map fun iv =>
                 mkPkt s { ptype := ptWrite, dst := nth 0 i.members m.dst, da := m.dstDa + iv.1, len := iv.2, job := gJob i.group
                           pay := rdNum s i.ctx (m.srcDa + iv.1) iv.2 } })

/-- Write a staged round: local entries at once, the others as transactions (R421). -/
def writeRound (s : State) (i : CollInst) : State :=
  i.staged.foldl (fun s k =>
    if pkDst k = s.fab.node then
      noteTraffic (wrNum s i.ctx (pkDa k) k.pay (pkLen k)) [] (physPieces s i.ctx [(pkDa k, pkLen k)])
    else addTxn s i.half i.ctx i.opIndex
      { ptype := ptWrite, dst := pkDst k, da := pkDa k, len := pkLen k, job := pkJob k, pay := k.pay }) s

/-- Has a barrier passed: reached here, every token come and passed on? -/
def barrierPassed (i : CollInst) : Bool :=
  i.reached && (List.range (gSize i.group - 1)).all fun j =>
    i.tokens.contains (tokenNo i i.barrier j) && i.tokensSent.contains (tokenNo i i.barrier j)

/-- One step of a CPERMUTE at its barrier. -/
def permStep (s : State) (i : CollInst) : State :=
  let rounds := roundsOf i.moves
  if 2 * rounds.length ≤ i.barrier then collEnd s i stOk 0 {}
  else if !i.reached then
    if i.barrier % 2 = 0 then
      match stageRound s i (nth 0 rounds (i.barrier / 2)) with
      | .inl t => t
      | .inr (l, _) => collFail (countUe s l i.ctx) i stMemFault l s.fab.node
    else if anyTxn s i.ctx i.opIndex then s
    else updInst s i fun j => { j with reached := true }
  else
    let n := gSize i.group
    let due := (List.range (n - 1)).filter fun j =>
      !i.tokensSent.contains (tokenNo i i.barrier j) && (j = 0 || i.tokens.contains (tokenNo i i.barrier (j - 1)))
    if due ≠ [] then due.foldl (fun s j => sendToken s i (tokenNo i i.barrier j)) s
    else if barrierPassed i then
      let s := if i.barrier % 2 = 0 then writeRound s i else s
      updInst s i fun j =>
        { j with barrier := j.barrier + 1, reached := false, staged := [], tokensSent := []
                 tokens := j.tokens.filter fun t => !((List.range (gSize j.group - 1)).any fun q => t = tokenNo j j.barrier q) }
    else s

/-! ### Progress -/

/-- One pass over an instance that has begun. -/
def collPass (s : State) (c op : Nat) : State :=
  match instOf s c op with
  | none => s
  | some i =>
    if !i.begun then s
    else if i.opcode = 0xB7 then permStep s i
    else
      let again (f : State → CollInst → State) (s : State) : State := match instOf s c op with
        | some i => f s i
        | none => s
      again collFinish (again givePieces (again giveCounts (again giveSums (giveReady s i))))

/-- Passes enough for everything that can move. -/
def collPump (s : State) (c op : Nat) : State :=
  let n := match instOf s c op with
    | some i => if i.opcode = 0xB7 then 10 + 6 * (roundsOf i.moves).length else 3
    | none => 0
  (List.range n).foldl (fun s _ => collPass s c op) s

/-- Every instance moves as far as it can, and waiting transactions are sent. -/
def collKick (s : State) : State :=
  pumpTxns (s.fab.insts.foldl (fun s i => collPump s i.ctx i.opIndex) s)

/-- The sender's rank of a COLL packet. -/
def senderRank (i : CollInst) (k : Pkt) : Option Nat := i.members.findIdx? fun m => m = pkSrc k

/-- A COLL packet reaches its instance (R408, R412 to R414, R418). -/
def collTake (s : State) (i : CollInst) (k : Pkt) : State :=
  if pkTag k ≠ i.sig then collFail s i 0xB3 (pkSrc k) s.fab.node
  else
    let csub := bits (pkAux k) 0 4
    let step := bits (pkAux k) 4 16
    let dim := bits (pkDa k) 10 2
    if csub = 3 then collFail s i 0xB4 (fld k.pay 2 2) (fld k.pay 2 2)
    else
      match senderRank i k with
      | none => s
      | some r =>
        if csub = 0 then
          if i.opcode = 0xB7 then updInst s i fun j => { j with tokens := step :: j.tokens }
          else
            colCount (updInst s i fun j => { j with frags := j.frags ++ [⟨r, dim, step, 16 * bits (pkDa k) 16 32, pkLen k, k.pay⟩] })
              2 (pkLen k)
        else if csub = 1 then updInst s i fun j => { j with sums := j.sums ++ [⟨r, dim, step, 0, 32, k.pay⟩] }
        else if csub = 2 then
          updInst s i fun j => { j with limits := setMark j.limits r dim step (max ((markOf j.limits r dim step).getD 0) (fld k.pay 0 8)) }
        else updInst s i fun j => { j with counts := (r, k.pay) :: j.counts.filter fun x => x.1 ≠ r }

/-- CSEQ[11:0] of a COLL packet. -/
def pkCseq (k : Pkt) : Nat := bits (pkAux k) 20 12

/-- Deliver the packets held for a collective that has now issued, in arrival order (R406, R413, R414). -/
def takeHeld (s : State) (c op : Nat) : State :=
  match instOf s c op with
  | none => s
  | some i =>
    let mine (h : HeldColl) : Bool := h.ctx = c && h.group = gId i.group && pkCseq h.pkt = i.cseq % 4096
    let hs := s.fab.held.filter mine
    let s := updFab s fun f => { f with held := f.held.filter fun h => !mine h }
    hs.foldl (fun s h => match instOf s c op with
      | some i => collTake s i h.pkt
      | none => s) s

/-- A collective at its unit: CSEQ advances, the checks, and the instance; one that its own checks end sends ABORT where its group is known (R404 to R407, R414). -/
def bodyColl : Body := fun s c q =>
  let e := q.env
  let half := halfOf q.inst
  let g := readGroup s c e
  let known := groupReadable s c e && gId g ≤ 1023
  let cseq := nextCseq s half c (gId g)
  let s1 := if known then noteIssue s half c (gId g) else s
  let r := runPlan s1 c (collPlan s c half q.opcode e) (collReads s c q.opcode e) [] fun s =>
    let s := if q.opcode = 0xB8 then touchLedger s c e else s
    { st := addInst s (mkInst s c q cseq) }
  let r := { r with acc := { r.acc with wr := physPieces s c (collOuts (mkInst s c q cseq)) } }
  if halting r.status then
    if known && !groupBroken g && !membersBroken s c g && gJob g = (ctxOf s c).fabricJob then
      let i := mkInst s c q cseq
      { r with st := sendAborts r.st i (peerRanks s i) r.status s.fab.node }
    else r
  else goesOn r

/-- Issue a collective, take what was held for it, and let it move. -/
def collIssue (s : State) (c : Nat) (half : Fin 2) (aged : Bool) (kind : QOp → Bool) : State :=
  match headOf (ctxOf s c) ucFabric (4 + half) with
  | none => s
  | some q => collKick (takeHeld (fabOp s c half aged kind bodyColl) c q.opIndex)

/-- CRS (R409 to R415). -/
def execCrs (c : Fin 8) (half : Fin 2) (aged : Bool) (s : State) : Host.Outcome State Fault Refusal :=
  .next (collIssue s c half aged (isOp 0xB3))

/-- CAG (R409). -/
def execCag (c : Fin 8) (half : Fin 2) (aged : Bool) (s : State) : Host.Outcome State Fault Refusal :=
  .next (collIssue s c half aged (isOp 0xB4))

/-- CAR (R409). -/
def execCar (c : Fin 8) (half : Fin 2) (aged : Bool) (s : State) : Host.Outcome State Fault Refusal :=
  .next (collIssue s c half aged (isOp 0xB5))

/-- CA2A with OP 0 (R417, R418); an OP that is reserved is rejected here. -/
def execCa2aDispatch (c : Fin 8) (half : Fin 2) (aged : Bool) (s : State) : Host.Outcome State Fault Refusal :=
  .next (collIssue s c half aged fun q => q.opcode = 0xB6 && collOp q.env ≠ 1)

/-- CA2A with OP 1 (R417, R418). -/
def execCa2aCombine (c : Fin 8) (half : Fin 2) (aged : Bool) (s : State) : Host.Outcome State Fault Refusal :=
  .next (collIssue s c half aged fun q => q.opcode = 0xB6 && collOp q.env = 1)

/-- CPERMUTE (R421). -/
def execCpermute (c : Fin 8) (half : Fin 2) (aged : Bool) (s : State) : Host.Outcome State Fault Refusal :=
  .next (collIssue s c half aged (isOp 0xB7))

/-- CLEDGER (R420). -/
def execCledger (c : Fin 8) (half : Fin 2) (aged : Bool) (s : State) : Host.Outcome State Fault Refusal :=
  .next (collIssue s c half aged (isOp 0xB8))

/-- CDIGEST (R424). -/
def execCdigest (c : Fin 8) (half : Fin 2) (aged : Bool) (s : State) : Host.Outcome State Fault Refusal :=
  .next (collIssue s c half aged (isOp 0xB9))

/-! ### COLL packets (R406, R408) -/

/-- Hold a COLL packet for a collective not yet issued, up to 64 of a group and 16 ABORTs, or discard and count it (R406, R414). -/
def holdColl (s : State) (c id : Nat) (k : Pkt) : State :=
  let hs := s.fab.held.filter fun h => h.ctx = c && h.group = id
  let aborts := (hs.filter fun h => bits (pkAux h.pkt) 0 4 = 3).length
  let csub := bits (pkAux k) 0 4
  if hs.length < 64 && (csub ≠ 3 || aborts < 16) then updFab s fun f => { f with held := f.held ++ [⟨c, id, k⟩] }
  else fabCount s fcNoRoute 1

/-- COLL (R406): a received COLL packet goes to its group's bound half and instance, is held, or is discarded. -/
def execColl (i : Nat) (s : State) : Host.Outcome State Fault Refusal :=
  match rxOf s i ptColl with
  | none => .next s
  | some r =>
    let k := r.pkt
    let s1 := takeRx s i r
    if bits (pkDa k) 12 4 ≠ 0 || 5 ≤ bits (pkAux k) 0 4 then .next (fabCount s1 fcNoRoute 1)
    else
      match jobCtx s (pkJob k) with
      | none => .next s1
      | some c =>
        let id := bits (pkDa k) 0 10
        let b := boundTo s c id
        if b ≠ 0 && r.src < 16 && rxIod r ≠ b - 1 && !transitOk s then .next (countDrop s1 k)
        else
          match s.fab.insts.find? fun j => j.ctx = c && gId j.group = id && j.cseq % 4096 = pkCseq k with
          | some j => .next (collKick (collTake s1 j k))
          | none =>
            let due := if b = 0 then 0 else nextCseq s (b - 1) c id
            let csub := bits (pkAux k) 0 4
            if (pkCseq k + 4096 - due % 4096) % 4096 < 2048 && (csub = 2 || csub = 3) then .next (holdColl s1 c id k)
            else .next s1

/-! ### Acknowledgements and timeouts (R380, R381, R399, R414) -/

/-- DETAIL of a refused access: the remote operand record, or a parameter-block address (R143, R416). -/
def refusedDetail (opcode : Nat) : Nat := if opcode = 0xB0 then 1 else if opcode = 0xB1 then 0 else 0xFF

/-- A transaction of a save or restore fails: the command's progress notes it, with the place and length (R461, R462). -/
def ckptFail (s : State) (t : Txn) : State :=
  let s := updFab s fun f => { f with txns := f.txns.filter fun u => !txnOf u t.ctx t.opIndex }
  let note (u : Cmd) : Cmd :=
    if ckptWaits t.ctx u then { u with aux := 1 :: pkDa t.pkt :: max (pkAux t.pkt) (pkLen t.pkt) :: u.aux.drop 3 } else u
  updMbx s fun m => { m with taken := m.taken.map note }

/-- The operation of a transaction fails. -/
def opFail (s : State) (t : Txn) (status detail : Nat) : State :=
  if ckptTag ≤ t.opIndex then ckptFail s t else
  match fabFlight s t.ctx t.opIndex with
  | none => dropTxns s t.ctx t.opIndex
  | some f =>
    if isP2p f.op.opcode then p2pFail s t.ctx f status detail
    else match instOf s t.ctx t.opIndex with
      | some i => collFail s i status detail s.fab.node
      | none => endFab s t.ctx t.opIndex status detail {}

/-- The operation of a transaction goes on. -/
def opProgress (s : State) (t : Txn) : State :=
  match fabFlight s t.ctx t.opIndex with
  | none => s
  | some f => if isP2p f.op.opcode then p2pProgress s t.ctx f else s

/-- ACK (R380, R381, R399): the acknowledged transaction completes, or its operation ends; an ACK for none is discarded. -/
def execAck (i : Nat) (s : State) : Host.Outcome State Fault Refusal :=
  match rxOf s i ptAck with
  | none => .next s
  | some r =>
    let k := r.pkt
    let s1 := takeRx s i r
    match s1.fab.txns.find? fun t => t.sent && t.tag = pkTag k with
    | none => .next s1
    | some t =>
      if t.half = 2 then .next (collKick (gatewayAnswer s1 t (pkAstat k)))
      else
        let s2 := updFab s1 fun f => { f with txns := dropFirst (fun u => u.tag = t.tag) f.txns }
        if pkAstat k = ackRefused then
          (let op := match fabFlight s1 t.ctx t.opIndex with
            | some f => f.op.opcode
            | none => 0
           .next (collKick (opFail s2 t stAddress (refusedDetail op))))
        else if pkAstat k = ackNoRoute then .next (collKick (opFail s2 t 0xB0 (txnDetail t)))
        else .next (collKick (opProgress s2 t))

/-- REMOTE_TIMEOUT (R381, R414): the transaction of a TAG has stayed unanswered, or without one, the collective of an operation has waited on a silent neighbour, for REMOTE_TIMEOUT. -/
def execRemoteTimeout (tag : Option Nat) (c : Fin 8) (opIndex : Nat) (node : BitVec 15) (s : State) :
    Host.Outcome State Fault Refusal :=
  if !fabricOn s then .next s
  else
    match tag with
    | some g =>
      match s.fab.txns.find? fun t => t.sent && t.tag = g with
      | none => .next s
      | some t =>
        if t.half = 2 then .next (collKick (gatewayAnswer s t ackNoRoute))
        else .next (collKick (opFail s t 0xB1 (txnDetail t)))
    | none =>
      match instOf s c opIndex with
      | none => .next s
      | some i => if i.begun then .next (collKick (collFail s i 0xB1 node.toNat s.fab.node)) else .next s

/-! ### Prefetch (R419) and the context's close (R414) -/

/-- What an operation's progress notes once PF_TALLY has been signalled: no extent or count is that large. -/
def pfMark : Nat := 2 ^ 40

/-- Has PF_TALLY been signalled? -/
def pfDone (f : Flight) : Bool := f.aux.contains pfMark

/-- PF_TALLY's signal, once (R419). -/
def pfSignal (s : State) (c : Nat) (f : Flight) : State :=
  if f.cls = ucFabric && pfEn f.op.env && !pfDone f then
    updFlight (lowWater s (addTally s c (pfTally f.op.env) 1) c) c f.op.opIndex fun g => { g with aux := g.aux ++ [pfMark] }
  else s

/-- PREFETCH_SIGNAL (R419): a wait of an operation in flight on a peer, or on its staging region, has lasted 1 µs. -/
def execPrefetchSignal (c : Fin 8) (opIndex : Nat) (s : State) : Host.Outcome State Fault Refusal :=
  match fabFlight s c opIndex with
  | none => .next s
  | some f => .next (pfSignal s c f)

/-- The close of a context: ABORT for each collective in flight; its transactions, held packets, bindings and sequence numbers go (R405, R407, R414). -/
def fabClose (s : State) (c : Nat) : State :=
  let s := (s.fab.insts.filter fun i => i.ctx = c).foldl (fun s i => sendAborts s i (peerRanks s i) 0xB4 s.fab.node) s
  updFab s fun f =>
    { f with insts := f.insts.filter fun i => i.ctx ≠ c, held := f.held.filter fun h => h.ctx ≠ c
             txns := f.txns.filter fun t => !(t.half < 2 && t.ctx = c), reads := f.reads.filter fun r => r.ctx ≠ c
             bound := f.bound.filter fun p => p.1 / 1024 ≠ c, cseq := f.cseq.filter fun p => p.1 / 1024 % 8 ≠ c }

/-- COL_PERF_CLEAR (R425): a write of COL_PERF_CTL with CLEAR 1 and the FREEZE bit given. -/
def execColPerfClear (freeze : Bool) (s : State) : Host.Outcome State Fault Refusal :=
  if barOn s then .next (updFab s fun f => { f with col := { perfClear f.col with freeze := freeze } }) else .next s

end Sys2Proof.Machine
end

