-- ==== Sys2Proof/Machine/Domains.lean ====
section
/-! DEFINITION. Power domains (R494, R495): what falls and returns with each, trace around a fall (R529, R530), and the rows DOMAIN_WAKE and DOMAIN_IDLE_POWER_DOWN. -/

namespace Sys2Proof.Machine

/-! ### Trace around a fall (R529, R530) -/

/-- The domain number that stands for the PCIe link in TRACE_SUSPEND. -/
def pcieDomain : Nat := 64

/-- The domains that hold the trace buffer (R530). -/
def bufferDomains (s : State) : List Nat :=
  let t := s.trc
  if t.base < nearBase then []
  else if t.base < nearBase + nearSize then
    let faces := if s.memS.globalMode then List.range 4
      else (List.range 4).filter fun f => overlaps (t.base - nearBase) (t.base - nearBase + t.bytes) (f * faceSpan) ((f + 1) * faceSpan)
    faces.flatMap fun f => [10 * f + 7, 10 * f + 8]
  else if t.base < hostBase then [43, 55]
  else [pcieDomain]

/-- The trace sources in a domain (R528). -/
def domainSources (d : Nat) : List Nat :=
  let f := d / 10
  if d < 40 then
    (match d % 10 with
    | 0 => [1] | 1 => [1] | 2 => [2] | 3 => [3] | 4 => [4 + f, 21 + f, 29 + f] | 5 => [8 + f, 13 + f] | 6 => [35] | _ => [])
  else match d with
    | 40 => [33] | 41 => [33] | 42 => [35] | 44 => [0, 12] | 45 => [27] | 46 => [28] | 47 => [28] | 48 => [17] | 49 => [25, 34]
    | 52 => [33] | 53 => [33] | 54 => [35] | 56 => [19] | 57 => [19] | 58 => [20] | 61 => [18] | 62 => [26, 34]
    | _ => []

/-- Does the trace unit act when a domain falls? -/
def tracesDomain (s : State) (d : Nat) : Bool :=
  s.trc.st ≠ 0 && (bit s.trc.sources 36 || (domainSources d).any fun k => bit s.trc.sources k)

/-- A record of the trace unit itself. -/
def traceOwn (s : State) (src type payload : Nat) : State := tracePut s (traceRec (nowNs s) src type 0xFF payload)

/-- The buffer's domain is about to fall: TRACE_SUSPEND is the last record before it. -/
def traceSuspend (s : State) (d : Nat) : State :=
  if s.trc.st = 1 && (bufferDomains s).contains d then
    let s1 := traceOwn s 36 0xF2 d
    { s1 with trc := { s1.trc with st := 2, suspDomain := d, suspAt := s.elapsed, suspLost := 0 } }
  else s

/-- Is every domain that holds the buffer powered? -/
def bufferBack (s : State) : Bool :=
  (bufferDomains s).all fun d => if d = pcieDomain then s.hostUp else domIsOn s d

/-- Write the staged records. -/
def traceDrain (s : State) : State :=
  s.trc.staged.foldl traceWrite { s with trc := { s.trc with staged := [] } }

/-- The buffer is back: TRACE_RESUME with the loss and the duration, then the staged records. -/
def traceResume (s : State) : State :=
  let t := s.trc
  if t.st = 2 && bufferBack s then
    let s1 := { s with trc := { t with st := 1, suspDomain := 0 } }
    traceDrain (traceWrite s1 (traceRec (nowNs s) 36 0xF3 0xFF
      (packBits [(t.suspDomain, 8), (0, 24), (t.suspLost, 32), (nowNs s - t.suspAt.toNat, 64)])))
  else s

/-! ### Domains (R494, R495) -/

/-- The near-tier range of a stack's Face; in global mode every stack holds part of the whole tier. -/
def stackRange (s : State) (f : Nat) : Nat × Nat :=
  if s.memS.globalMode then (nearBase, nearBase + nearSize) else (nearBase + f * faceSpan, nearBase + (f + 1) * faceSpan)

/-- The Sump of a plane at +0 (R92). -/
def clearPlane (s : State) (plane : Nat) : State :=
  { s with sump := s.sump.filter fun p => p.1 / (2048 * 256) ≠ plane
           sumpBad := s.sumpBad.filter fun k => k / 256 / 2048 ≠ plane }

/-- Put the HBM stacks into self-refresh, or take them out of it (R298, R477). -/
def setSelfRef (s : State) (v : Bool) : State := { s with memS := { s.memS with selfRef := v } }

/-- What a domain loses with its power. -/
def domLoses (s : State) (d : Nat) : State :=
  let f := d / 10
  if d < 40 then
    (match d % 10 with
    | 0 => let s := clearPlane s (2 * f); { s with quarry := { s.quarry with lattice := { s.quarry.lattice with valid := false } } }
    | 1 => let s := clearPlane s (2 * f + 1); { s with quarry := { s.quarry with lattice := { s.quarry.lattice with valid := false } } }
    | 2 => loseRange s (f * 0x10000000) ((f + 1) * 0x10000000)
    | 7 => let r := stackRange s f; { loseRange s r.1 r.2 with memS := { s.memS with stackTemp := s.memS.stackTemp.set (2 * f) 0xFF, selfRef := false } }
    | 8 => let r := stackRange s f; { loseRange s r.1 r.2 with memS := { s.memS with stackTemp := s.memS.stackTemp.set (2 * f + 1) 0xFF, selfRef := false } }
    | _ => s)
  else match d with
    | 43 => loseRange s farBase (farBase + farSize)
    | 55 => loseRange s farBase (farBase + farSize)
    | 58 => { s with rlb := s.rlb.map fun _ => [] }
    | _ => s

/-- A domain falls (R495, R529, R530). -/
def domFall (s : State) (d : Nat) : State :=
  if !domIsOn s d then s
  else
    let s := if tracesDomain s d then traceOwn s 36 0xF0 (packBits [(d, 8), (0, 56), (nowNs s, 64)]) else s
    let s := traceSuspend s d
    let s := domLoses s d
    { s with domOn := s.domOn.set d false, pwr := { s.pwr with domAt := s.pwr.domAt.set d (nowNs s) } }

/-- A domain's rail and clocks are stable and its isolation releases (R495, R529, R530). -/
def domRise (s : State) (d : Nat) : State :=
  if domIsOn s d then s
  else
    let s := { s with domOn := s.domOn.set d true, wakes := s.wakes + 1 }
    let s := if tracesDomain s d then traceOwn s 36 0xF1 (packBits [(d, 8), (0, 56), (nowNs s - nth 0 s.pwr.domAt d, 64)]) else s
    traceResume s

/-- The domains switched on demand (R494). -/
def demandDomains : List Nat := [3, 13, 23, 33, 45, 46, 47, 56, 57, 58]

/-- The Quarry planes. -/
def planeDomains : List Nat := [0, 1, 10, 11, 20, 21, 30, 31]

/-- The domains that the table marks Off in relay-only, Quarry planes first and HBM stacks last (R504). -/
def relayOffDomains : List Nat :=
  planeDomains ++ [2, 3, 4, 5, 6, 12, 13, 14, 15, 16, 22, 23, 24, 25, 26, 32, 33, 34, 35, 36,
    42, 43, 44, 45, 46, 47, 48, 54, 55, 56, 57, 58, 61] ++ [7, 8, 17, 18, 27, 28, 37, 38]

/-- Does an operation queued or in flight need a domain? -/
def opNeeds (d : Nat) (q : QOp) : Bool := (unitDomains q.cls q.inst q.opcode).contains d

/-- Is a demand domain in use: an operation queued or in flight, an open session or running feed, or a command that uses it (R495)? -/
def domInUse (s : State) (d : Nat) : Bool :=
  s.ctxs.any (fun x => x.queued.any (opNeeds d) || x.flight.any fun f => opNeeds d f.op) ||
  ((d = 45 || d = 46) && s.tap.feeds.any fun f => f.st = 1 || f.st = 2) ||
  s.mbx.taken.any (fun t => t.begun && t.ready.isNone)

/-- The domains that hold nothing but a unit, and stay powered down while it is fenced (R494, R526). -/
def fenceDomains (cls inst : Nat) : List Nat :=
  if cls = 1 then planeDomains
  else if cls = 3 then [3, 13, 23, 33]
  else if cls = 7 then (if inst = 4 then [48] else if inst = 5 then [61] else [])
  else if cls = 8 then [56, 57, 58]
  else if cls = 10 then (if inst = 4 then [49] else [62])
  else if cls = 11 then [45]
  else if cls = 12 then (if inst < 12 then [46] else [47])
  else []

/-- Is a domain's unit fenced: it stays powered down until the next module reset (R526)? -/
def domFenced (s : State) (d : Nat) : Bool := s.fenced.any fun u => (fenceDomains u.1 u.2).contains d

/-- The far tier's packages, which may fall and return while no context is open (the example of R530; assumption 60). -/
def farDomains : List Nat := [43, 55]

/-- DOMAIN_WAKE (R495): a demand domain that an operation needs powers up, or a Quarry plane while a context is open, or a far-tier domain that had fallen. -/
def execDomainWake (d : Fin 64) (s : State) : Host.Outcome State Fault Refusal :=
  if (s.mode = .serving || s.mode = .relayAndReport) && !domFenced s d &&
      ((demandDomains.contains d.val && domInUse s d) || (planeDomains.contains d.val && anyOpen s) || farDomains.contains d.val) then
    .next (domRise s d)
  else .next s

/-- DOMAIN_IDLE_POWER_DOWN (R495): a demand domain that has been idle for 10 ms powers down; with no context open a far-tier domain may. -/
def execDomainIdlePowerDown (d : Fin 64) (s : State) : Host.Outcome State Fault Refusal :=
  if (demandDomains.contains d.val && !domInUse s d) || (farDomains.contains d.val && !anyOpen s && s.mode = .relayAndReport) then
    .next (domFall s d)
  else .next s

end Sys2Proof.Machine
end

