-- ==== Sys2Proof/Machine/Ringstore.lean ====
section
/-! DEFINITION. The Ringstore: frames (R257), tables (R258), directory (R259), the look-aside buffer (R260), allocation, residency, pre-emption and swap (R265 to R268). -/

namespace Sys2Proof.Machine

/-! ### Geometry (R257, R258) -/

/-- The stored format. -/
def ringFmt (g : RingCfg) : Fmt := (fmtOfCode g.fmt).getD .e4m3
/-- Bytes of one token's key or value of one head. -/
def ringRow (g : RingCfg) : Nat := g.d * ebits (ringFmt g) / 8
/-- V_OFF (R257). -/
def ringHalf (g : RingCfg) : Nat := g.hg * 64 * ringRow g
/-- FRAME_BYTES (R257). -/
def frameBytes (g : RingCfg) : Nat := 2 * ringHalf g + 256 * g.hg
/-- NG: head groups of a sequence. -/
def ringGroups (g : RingCfg) : Nat := g.kvh / g.hg
/-- Context DA of a frame. -/
def frameDa (g : RingCfg) (f : Nat) : Nat := g.frameBase + f * frameBytes g
/-- Context DA of one token's key or value row. -/
def rowDa (g : RingCfg) (f : Nat) (v : Bool) (h j : Nat) : Nat :=
  frameDa g f + (if v then ringHalf g else 0) + (h * 64 + j) * ringRow g
/-- Context DA of a head's trailer. -/
def trailerDa (g : RingCfg) (f h : Nat) : Nat := frameDa g f + 2 * ringHalf g + 256 * h
/-- PAGES of a length (R259). -/
def pagesFor (g : RingCfg) (len : Nat) : Nat := ringGroups g * cdiv len 64
/-- Level-2 tables that hold so many pages. -/
def tablesFor (pages : Nat) : Nat := cdiv pages 256
/-- The table key of a page of a head group (R258). -/
def pageKey (g : RingCfg) (lp grp : Nat) : Nat := lp * ringGroups g + grp
/-- Bytes of a swap image (R267). -/
def imageBytes (g : RingCfg) (pages : Nat) : Nat := 64 + pages * frameBytes g

/-- Context DAs of the Ringstore's areas (R256). -/
def ringAreas (g : RingCfg) : List (Nat × Nat) :=
  [(g.dirBase, 64 * g.dirEntries), (g.l1Base, 1024 * g.slots), (g.l2Base, 1024 * g.l2Count),
   (g.frameBase, frameBytes g * g.frameCount), (g.freeBase, 4 * (g.frameCount + g.l2Count))]

/-- The areas as addresses an operation needs (R273). -/
def ringFoots (g : RingCfg) : List ParFoot :=
  if !g.enabled then []
  else
    ((ringAreas g).map fun iv => (⟨[iv], [.near], true, true⟩ : ParFoot)) ++
    (if g.swapStride = 0 then [] else [⟨[(g.swapBase, g.swapStride * g.dirEntries)], [.host], true, true⟩])

/-! ### Directory (R259) -/

def seqClosed : Nat := 0
def seqResident : Nat := 1
def seqSwapped : Nat := 2

def deState (e : Nat) : Nat := fld e 0 1
def dePrio (e : Nat) : Nat := fld e 1 1
def deSlot (e : Nat) : Nat := fld e 2 2
def deLen (e : Nat) : Nat := fld e 4 4
def dePages (e : Nat) : Nat := fld e 8 4
def deActive (e : Nat) : Nat := fld e 0x10 8

/-- Context DA of a directory entry. -/
def dirDa (s : State) (c n : Nat) : Nat := (ctxOf s c).ring.dirBase + 64 * n
/-- A directory entry. -/
def dirAt (s : State) (c n : Nat) : Nat := rdNum s c (dirDa s c n) 64
/-- Write a directory entry. -/
def putDir (s : State) (c n e : Nat) : State := wrNum s c (dirDa s c n) e 64

/-- Note that an operation named a sequence (LAST_ACTIVE of R259). -/
def touchSeq (s : State) (c n : Nat) : State := putDir s c n (setFld (dirAt s c n) 0x10 8 (nowNs s))

/-! ### Tables, frames and slots (R258, R256) -/

/-- Change what a context's Ringstore has in use. -/
def updRing (s : State) (c : Nat) (f : RingUse → RingUse) : State := updCtx s c fun x => { x with ringUse := f x.ringUse }

/-- Frames held by resident sequences. -/
def framesHeld (u : RingUse) : Nat := u.nextFrame - u.frames.length
/-- Level-2 tables in use. -/
def tablesHeld (u : RingUse) : Nat := u.nextTable - u.tables.length

/-- Fill a context's memory with `count` u32 numbers from 0 on, at a DA. -/
def indexCtx (s : State) (c da count : Nat) : State :=
  (pieces da (4 * count)).foldl (fun s p =>
    let a := physOf s c p.1
    if a < spaceTop then { s with mem := memFill s.mem a (a + p.2) (.indices (a - (p.1 - da))) } else s) s

/-- Put an index back on a free stack in memory: `first` is the stack's first entry of the area, `depth` the entries below its top (R256; the top lies at the lowest address, DESIGN CHOICE, assumption 48). -/
def pushFree (s : State) (c first depth v : Nat) : State := wrNum s c ((ctxOf s c).ring.freeBase + 4 * (first + depth)) v 4

/-- Take the frame on top of the free stack. -/
def popFrame (s : State) (c : Nat) : Nat × State :=
  let u := (ctxOf s c).ringUse
  match u.frames with
  | f :: r => (f, updRing s c fun u => { u with frames := r })
  | [] => (u.nextFrame, updRing s c fun u => { u with nextFrame := u.nextFrame + 1 })

/-- Take the level-2 table on top of its free stack. -/
def popTable (s : State) (c : Nat) : Nat × State :=
  let u := (ctxOf s c).ringUse
  match u.tables with
  | f :: r => (f, updRing s c fun u => { u with tables := r })
  | [] => (u.nextTable, updRing s c fun u => { u with nextTable := u.nextTable + 1 })

/-- Context DA of a level-1 entry. -/
def l1Da (g : RingCfg) (slot key : Nat) : Nat := g.l1Base + 1024 * slot + 4 * (key / 256)
/-- Context DA of a level-2 entry. -/
def l2Da (g : RingCfg) (table key : Nat) : Nat := g.l2Base + 1024 * table + 4 * (key % 256)

/-- The walk of R260: the frame of a page of a resident slot. -/
def walkPage (s : State) (c slot key : Nat) : Option Nat :=
  let g := (ctxOf s c).ring
  let e1 := rdNum s c (l1Da g slot key) 4
  if !bit e1 31 then none
  else
    let e2 := rdNum s c (l2Da g (bits e1 0 24) key) 4
    if bit e2 31 then some (bits e2 0 28) else none

/-- The frame that the tables give for a page of a resident sequence. -/
def frameOf (s : State) (c slot key : Nat) : Nat := (walkPage s c slot key).getD 0

/-- Allocate a page: a frame with clear trailers, and a level-2 table where the level-1 entry first needs one (R258). -/
def allocPage (s : State) (c slot key : Nat) : State :=
  let g := (ctxOf s c).ring
  let e1 := rdNum s c (l1Da g slot key) 4
  let (t, s1) :=
    if bit e1 31 then (bits e1 0 24, s)
    else
      let (t, s1) := popTable s c
      (t, wrNum (wrNum s1 c (g.l2Base + 1024 * t) 0 1024) c (l1Da g slot key) (2 ^ 31 + t) 4)
  let (f, s2) := popFrame s1 c
  wrNum (wrNum s2 c (l2Da g t key) (2 ^ 31 + f) 4) c (trailerDa g f 0) 0 (256 * g.hg)

/-- Free a page, and its level-2 table when no valid entry is left in it (R258). -/
def freePage (s : State) (c slot key : Nat) : State :=
  let g := (ctxOf s c).ring
  match walkPage s c slot key with
  | none => s
  | some f =>
    let t := bits (rdNum s c (l1Da g slot key) 4) 0 24
    let s0 := updRing s c fun u => { u with frames := f :: u.frames }
    let s1 := wrNum (pushFree s0 c 0 (framesHeld (ctxOf s0 c).ringUse) f) c (l2Da g t key) 0 4
    if (List.range 256).any fun k => bit (rdNum s1 c (g.l2Base + 1024 * t + 4 * k) 4) 31 then s1
    else
      let s2 := updRing s1 c fun u => { u with tables := t :: u.tables }
      wrNum (pushFree s2 c g.frameCount (tablesHeld (ctxOf s2 c).ringUse) t) c (l1Da g slot key) 0 4

/-- Free the pages with keys from `lo` up to `hi`. -/
def freePages (s : State) (c slot lo hi : Nat) : State :=
  (List.range (hi - lo)).foldl (fun s k => freePage s c slot (lo + k)) s

/-- The pages that an append allocated, as (slot, first key, past the last), three numbers each. -/
def allocatedPages : List Nat → List (Nat × Nat × Nat)
  | slot :: lo :: hi :: r => (slot, lo, hi) :: allocatedPages r
  | _ => []

/-- A halting status after issue: every frame and table that the operation allocated is freed (R262). -/
def ringRollback (s : State) (c : Nat) (aux : List Nat) : State :=
  (allocatedPages aux).foldl (fun s p => freePages s c p.1 p.2.1 p.2.2) s

/-- Take a free slot; which one is the module's own (free value). -/
def takeSlot (s : State) (c : Nat) : Nat × State :=
  let x := ctxOf s c
  let avail := (List.range x.ring.slots).filter fun k => !x.ringUse.slots.contains k
  let (k, s1) := drawFree s
  let slot := nth 0 avail ((Config.freeWord k).toNat % max 1 avail.length)
  (slot, updRing s1 c fun u => { u with slots := slot :: u.slots })

/-- Give a slot back. -/
def giveSlot (s : State) (c slot : Nat) : State := updRing s c fun u => { u with slots := u.slots.filter (· ≠ slot) }

/-! ### The Ring Look-aside Buffer (R260) -/

/-- Drop every entry that a test names. -/
def rlbDrop (s : State) (p : Nat × Nat × Nat → Bool) : State :=
  { s with rlb := s.rlb.map fun set => set.filter fun e => !p e }

/-- The walker invalidates a sequence's entries (R260). -/
def rlbDropSeq (s : State) (c slot : Nat) : State := rlbDrop s fun e => e.1 = c && e.2.1 = slot

/-- One translation: a hit, or a miss that replaces the least recently used of its set (R260). -/
def rlbTouch (s : State) (c slot key : Nat) : State :=
  let i := (slot ^^^ key) % 64
  let set := nth [] s.rlb i
  let hit := set.contains (c, slot, key)
  let set' := ((c, slot, key) :: set.filter (· ≠ (c, slot, key))).take 8
  { s with rlb := s.rlb.set i set', rs := perfAdd s.rs (if hit then 0 else 1) 1 }

/-! ### Swap (R266 to R268) -/

/-- Status SWAP_FAULT. -/
def stSwapFault : Nat := 0x94

/-- Copy bytes between context DAs. -/
def copyCtx (s : State) (c src dst n : Nat) : State :=
  let rd := rdCtx s c
  let vs := (List.range n).map fun j => rd (src + j)
  applyPuts s c (vs.zipIdx.map fun p => (dst + p.2, 0, 8, p.1))

/-- Context DA of a sequence's image (R267). -/
def imageDa (g : RingCfg) (n : Nat) : Nat := g.swapBase + n * g.swapStride

/-- Frames of a resident sequence, in ascending key. -/
def seqFrames (s : State) (c slot pages : Nat) : List Nat := (List.range pages).map fun k => frameOf s c slot k

/-- Swap one sequence out whole: its image, then its frames, tables and slot freed (R266, R267). Status and DETAIL of a failure; `fail` says that a PCIe completion failed (R268). -/
def swapOut (s : State) (c n : Nat) (fail : Bool) : State × Option (Nat × Nat) :=
  let g := (ctxOf s c).ring
  let e := dirAt s c n
  let fs := seqFrames s c (deSlot e) (dePages e)
  let img := imageDa g n
  let lost (s : State) : State :=
    let (k, s) := drawFree (loseCtx s c [(img, imageBytes g (dePages e))])
    { s with rs := perfAdd s.rs 3 (Config.freeWord k).toNat }
  if fail then (lost s, some (stSwapFault, n))
  else
    match badTouched s (physPieces s c (fs.map fun f => (frameDa g f, frameBytes g))) with
    | some l => (countUe (lost s) l c, some (stMemFault, l))
    | none =>
      let s := noteTraffic s (physPieces s c (fs.map fun f => (frameDa g f, frameBytes g))) (physPieces s c [(img, imageBytes g (dePages e))])
      let s1 := wrNum s c img (packBits [(deLen e, 32), (dePrio e, 8), (0, 24), (dePages e, 32)]) 64
      let s2 := fs.zipIdx.foldl (fun s p => copyCtx s c (frameDa g p.1) (img + 64 + p.2 * frameBytes g) (frameBytes g)) s1
      let s3 := giveSlot (freePages s2 c (deSlot e) 0 (dePages e)) c (deSlot e)
      let s4 := putDir (rlbDropSeq s3 c (deSlot e)) c n (setFld e 0 1 seqSwapped)
      ({ s4 with rs := perfAdd s4.rs 3 (imageBytes g (dePages e)) }, none)

/-- Swap one sequence in: slot, tables, frames, then its image (R267). -/
def swapIn (s : State) (c n : Nat) (fail : Bool) : State × Option (Nat × Nat) :=
  let g := (ctxOf s c).ring
  let e := dirAt s c n
  let img := imageDa g n
  let h := rdNum s c img 64
  if fail then
    let (k, s) := drawFree s
    ({ s with rs := perfAdd s.rs 4 (Config.freeWord k).toNat }, some (stSwapFault, n))
  else if fld h 0 4 ≠ deLen e || fld h 8 4 ≠ dePages e then ({ s with rs := perfAdd s.rs 4 64 }, some (stSwapFault, n))
  else
    let (slot, s1) := takeSlot s c
    let s2 := (List.range (dePages e)).foldl (fun s k => allocPage s c slot k) s1
    let s3 := (List.range (dePages e)).foldl (fun s k =>
      copyCtx s c (img + 64 + k * frameBytes g) (frameDa g (frameOf s c slot k)) (frameBytes g)) s2
    let frames := (seqFrames s3 c slot (dePages e)).map fun f => (frameDa g f, frameBytes g)
    let s3 := noteTraffic s3 (physPieces s3 c [(img, imageBytes g (dePages e))]) (physPieces s3 c frames)
    let s4 := putDir (clearBad s3 (physPieces s3 c frames)) c n (setFld (setFld e 0 1 seqResident) 2 2 slot)
    ({ s4 with rs := perfAdd s4.rs 4 (imageBytes g (dePages e)) }, none)

/-! ### Residency (R265, R266) -/

/-- Sequences an operation names, each once with the pages it will hold. -/
abbrev RingNeed := List (Nat × Nat)

/-- Is a sequence resident? -/
def isResident (s : State) (c n : Nat) : Bool := deState (dirAt s c n) = seqResident

/-- Can the context's whole allocation hold the needs (R265)? -/
def ringFits (g : RingCfg) (need : RingNeed) : Bool :=
  need.length ≤ g.slots && sumNat (need.map (·.2)) ≤ g.frameCount && sumNat (need.map fun p => tablesFor p.2) ≤ g.l2Count

/-- Do free slots, frames and tables suffice once some victims are swapped out (R265)? -/
def ringEnough (s : State) (c : Nat) (need : RingNeed) (victims : List Nat) : Bool :=
  let g := (ctxOf s c).ring
  let u := (ctxOf s c).ringUse
  let pages (n : Nat) : Nat := dePages (dirAt s c n)
  let held (p : Nat × Nat) : Nat := if isResident s c p.1 then pages p.1 else 0
  let newSlots := (need.filter fun p => !isResident s c p.1).length
  let newFrames := sumNat (need.map fun p => p.2 - held p)
  let newTables := sumNat (need.map fun p => tablesFor p.2 - tablesFor (held p))
  u.slots.length + newSlots ≤ g.slots + victims.length &&
  framesHeld u + newFrames ≤ g.frameCount + sumNat (victims.map pages) &&
  tablesHeld u + newTables ≤ g.l2Count + sumNat (victims.map fun n => tablesFor (pages n))

/-- The sequences that pre-emption may take, in its order (R266). -/
def victimOrder (s : State) (c : Nat) (need : RingNeed) : List Nat :=
  let cand := (List.range (ctxOf s c).ring.dirEntries).filter fun n => isResident s c n && !(need.map (·.1)).contains n
  let key (n : Nat) : Nat := let e := dirAt s c n; dePrio e * 2 ^ 96 + deActive e * 2 ^ 32 + n
  cand.mergeSort fun a b => key a ≤ key b

/-- The shortest prefix of the order that suffices. -/
def pickVictims (enough : List Nat → Bool) : List Nat → List Nat → List Nat
  | acc, [] => acc
  | acc, n :: r => if enough acc then acc else pickVictims enough (acc ++ [n]) r

/-- The sequences that an operation pre-empts. -/
def victimsFor (s : State) (c : Nat) (need : RingNeed) : List Nat :=
  pickVictims (ringEnough s c need) [] (victimOrder s c need)

/-- Named sequences to be swapped in. -/
def swappedIn (s : State) (c : Nat) (need : RingNeed) : List Nat :=
  (need.filter fun p => deState (dirAt s c p.1) = seqSwapped).map (·.1)

/-- Does R265 reject the needs with RING_CAPACITY? -/
def capacityBad (s : State) (c : Nat) (need : RingNeed) : Bool :=
  !ringFits (ctxOf s c).ring need ||
  ((ctxOf s c).ring.swapStride = 0 && (!ringEnough s c need [] || swappedIn s c need ≠ []))

/-- Run swaps in order until one fails; the failing one is named by its place in the order. -/
def runSwaps (s : State) (c : Nat) (fail : Option Nat) : List ((Bool × Nat) × Nat) → State × Option (Nat × Nat)
  | [] => (s, none)
  | ((out, n), i) :: r =>
    let (s1, e) := if out then swapOut s c n (fail = some i) else swapIn s c n (fail = some i)
    match e with
    | some x => (s1, some x)
    | none => runSwaps (if out then { s1 with rs := perfAdd s1.rs 2 1 } else s1) c fail r

/-- Make the named sequences resident (R265): victims out, then named ones in. -/
def makeResident (s : State) (c : Nat) (need : RingNeed) (fail : Option Nat) : State × Option (Nat × Nat) :=
  runSwaps s c fail ((((victimsFor s c need).map fun n => (true, n)) ++ (swappedIn s c need).map fun n => (false, n)).zipIdx)

/-- RS_CTXn_USE (R275): zero while the context is closed. -/
def ringUseReg (s : State) (c : Nat) : Nat :=
  let u := (ctxOf s c).ringUse
  if isOpen s c then u.slots.length + framesHeld u * 2 ^ 16 else 0

end Sys2Proof.Machine
end

