-- ==== Sys2Proof/Machine/VccSessions.lean ====
section
/-! DEFINITION. The codec's session table and its grants of cores, picture by picture (R352 to R354). -/

namespace Sys2Proof.Machine

/-- How a codec operation in flight stands, in its progress: pictures still to come, whether it encodes, CORES, the units and boundary columns of its pictures with their division (0 none, 1 rows, 2 tiles, 3 slices), luma samples of a picture, and, for an encoder, the bytes of each picture. -/
structure VccProgress where
  left : Nat
  enc : Bool
  cores : Nat
  units : Nat
  cols : Nat
  div : Nat
  samples : Nat
  bytes : List Nat
  deriving DecidableEq, Repr

/-- As numbers in the flight. -/
def VccProgress.toAux (p : VccProgress) : List Nat := [p.left, b2n p.enc, p.cores, p.units, p.cols, p.div, p.samples] ++ p.bytes
/-- From the flight's numbers. -/
def progressOf (l : List Nat) : VccProgress :=
  ⟨nth 0 l 0, nth 0 l 1 ≠ 0, nth 0 l 2, nth 0 l 3, nth 0 l 4, nth 0 l 5, nth 0 l 6, l.drop 7⟩

/-- A division as a number, and back. -/
def divCode (d : Division) : Nat :=
  match d with
  | .whole => 0
  | .rows => 1
  | .tiles => 2
  | .slices => 3
def divOfCode (n : Nat) : Division := if n = 1 then .rows else if n = 2 then .tiles else if n = 3 then .slices else .whole

/-- The operation of a session, while it runs. -/
def sessFlight (s : State) (c i : Nat) : Option Flight := (ctxOf s c).flight.find? fun f => f.cls = ucVcc && f.op.opIndex = i && !f.ended

/-- The stream of a session, while it is open. -/
def sessStream (s : State) (c id j : Nat) : Option LiveStream :=
  match feedOf s c id with
  | some f => if feedBusy f then f.streams[j]?.bind fun x => if x.kind = 0 then some x else none else none
  | none => none

/-- Is a session open (R352)? -/
def sessOpen (s : State) (w : VccSession) : Bool :=
  match w with
  | .live c id j => (sessStream s c id j).isSome
  | .op c i => (sessFlight s c i).isSome

/-- Does a session encode? -/
def sessEnc (s : State) (w : VccSession) : Bool :=
  match w with
  | .live _ _ _ => false
  | .op c i => ((sessFlight s c i).map fun f => (progressOf f.aux).enc).getD false

/-- The cores a session asks for its next picture: CORES, or 1 for a live stream, and at most the units the picture offers; none where it has no picture to code (R352). -/
def sessAsk (s : State) (w : VccSession) : Nat :=
  match w with
  | .live c id j => ((sessStream s c id j).map fun x => b2n (x.ready.any fun y => !y.decoded)).getD 0
  | .op c i => ((sessFlight s c i).map fun f => let p := progressOf f.aux; if p.left = 0 then 0 else max 1 (min p.cores p.units)).getD 0

/-- The boundaries of the picture that a session begins on some cores (R354). -/
def sessBounds (s : State) (w : VccSession) (cores : List Nat) : List PicBound :=
  match w with
  | .live _ _ _ => []
  | .op c i => ((sessFlight s c i).map fun f => let p := progressOf f.aux; newBounds (divOfCode p.div) p.units p.cols cores).getD []

/-- The sessions that are open. -/
def sessTable (s : State) : List VccEntry := s.vcc.sess.filter fun e => sessOpen s e.who

/-- Is a session a live stream's? -/
def isLive (w : VccSession) : Bool :=
  match w with
  | .live _ _ _ => true
  | .op _ _ => false

/-- Stream order of live sessions (R352): context, FEED ID, stream. -/
def liveOrder (w : VccSession) : Nat :=
  match w with
  | .live c id j => (4 * c.val + id.val) * 32 + j.val
  | .op _ _ => 0

/-- The entry with the least key. -/
def leastBy (key : VccEntry → Nat) (l : List VccEntry) : Option VccEntry :=
  l.foldl (fun best e => match best with
    | none => some e
    | some b => if key e < key b then some e else some b) none

/-- The session that the decode or encode cores serve next: live streams first in ascending stream order, then every other round-robin in ascending entry order after the one served last (R352). -/
def nextServed (s : State) (enc : Bool) : Option VccEntry :=
  let wait := (sessTable s).filter fun e => e.cores = [] && sessEnc s e.who = enc && 0 < sessAsk s e.who
  let last := if enc then s.vcc.lastEnc else s.vcc.lastDec
  match leastBy (fun e => liveOrder e.who) (wait.filter fun e => isLive e.who) with
  | some e => some e
  | none => leastBy (fun e => (e.slot + 71 - last) % 72) wait

/-- The cores of a direction that no open session holds: 0 to 11 decode, 12 to 15 encode (R370). -/
def freeCores (s : State) (enc : Bool) : List Nat :=
  let held := (sessTable s).flatMap (·.cores)
  ((List.range 16).filter fun k => (12 ≤ k) = enc).filter fun k => !held.contains k

/-- One grant: the session served next takes the cores it asks for, as far as they are free (R352). -/
def grantOne (enc : Bool) (s : State) : State :=
  match nextServed s enc with
  | none => s
  | some e =>
    let cores := (freeCores s enc).take (sessAsk s e.who)
    if cores = [] then s
    else
      let sess := (sessTable s).map fun x => if x.slot = e.slot then { x with cores := cores, bounds := sessBounds s e.who cores } else x
      let slot := if isLive e.who then none else some e.slot
      { s with vcc := { s.vcc with
          sess := sess
          lastDec := if enc then s.vcc.lastDec else slot.getD s.vcc.lastDec
          lastEnc := if enc then slot.getD s.vcc.lastEnc else s.vcc.lastEnc } }

/-- Every grant that can be made now: each takes a core, and there are 12 and 4. -/
def vccGrant (s : State) : State :=
  (List.range 4).foldl (fun t _ => grantOne true t) ((List.range 12).foldl (fun t _ => grantOne false t) s)

/-- A session opens: it takes the lowest free entry (R352). -/
def vccOpen (s : State) (w : VccSession) : State :=
  let t := (sessTable s).filter fun e => e.who ≠ w
  let slot := ((List.range 72).find? fun k => !t.any fun e => e.slot = k).getD 72
  { s with vcc := { s.vcc with sess := t ++ [⟨slot, w, [], []⟩] } }

/-- The cores that hold a grant, as VCC_STATUS's bits. -/
def busyCores (s : State) : Nat := sumNat (((sessTable (vccGrant s)).flatMap (·.cores)).map fun k => 2 ^ k)

/-- Open sessions (R352). -/
def vccSessions (s : State) : Nat := (sessTable s).length

end Sys2Proof.Machine
end

