-- ==== Sys2Proof/Machine/TaprootOps.lean ====
section
/-! DEFINITION. The Taproot's operations TFEED, TLIVE, TSTOP and TSTATE (R343 to R347), live ingest (R339 to R342) and the counter control (R348). -/

namespace Sys2Proof.Machine

/-! ### Checks of TFEED and TLIVE (R343 to R345) -/

def stTap : Nat := 0xC0
def tfId (e : Nat) : Nat := bits (par e 0 1) 0 2
def tfCfg (e : Nat) : Nat := bits (par e 8 8) 0 48
def tfLive (e : Nat) : Nat := bits (par e 0x10 8) 0 48

/-- Bytes of a live block: its header and its S streams (R344). -/
def liveLen (s : State) (c e : Nat) : Nat := 0x40 + 16 * min 32 (rdNum s c (tfLive e + 0x1B) 1)

/-- The feed that an operation describes, as its blocks read now. -/
def feedFrom (s : State) (c e : Nat) (live : Bool) : Feed :=
  { ctx := c, id := tfId e, live := live, cfg := rdNum s c (tfCfg e) 256, liveCfg := if live then rdNum s c (tfLive e) (liveLen s c e) else 0
    tmpl := (List.range 6).map fun r => fld e (0x80 + 128 * r) 128, st := 1, r0 := 0, f0 := 0, published := 0, slots := []
    low := false, armed := true, rejects := 0, tick := 0, streams := [], oldTap := false, oldVcc := false }

/-- Levels whose templates count. -/
def tapLevels (f : Feed) : List Nat := List.range (min 6 (fbLevels f))

/-- The ranges of a feed with the regions and permissions they need (R319, R345). -/
def feedFoots (f : Feed) : List ParFoot :=
  let seg (a n : Nat) (reach : List Region) (r w : Bool) : List ParFoot := if n = 0 then [] else [⟨[(a, n)], reach, r, w⟩]
  (if f.live then [] else seg (fb f 0 8) (16 * fbN f) storeRegions true false) ++
  seg (fbRing f) (fbDepth f * fbBuf f) [.near] false true ++ seg (fb f 0x50 8) (fb f 0x58 8) [.near] true true ++
  seg (fb f 0x60 8) (32 * fb f 0x68 4) [.near] false true ++
  (if fbCache f = 0 then [] else seg (fb f 0x70 8) (fb f 0x78 4 * fb f 0x7C 4) [.far] true (fbCache f = 3))

/-- Does a feed block field break *Feed block*? -/
def feedBad (f : Feed) : Bool :=
  let zero (off len : Nat) : Bool := fb f off len = 0
  let pow2 (n : Nat) : Bool := n = 2 ^ Nat.log2 n
  (if f.live then !(zero 0 8 && zero 8 4 && zero 0x10 8 && zero 0x18 4 && zero 0x1C 4 && zero 0x20 16 && zero 0x36 1 && zero 0x70 16 &&
      zero 0x89 2 && fb f 0x95 1 ≤ 1 && fbFrames f = 1 && 1 ≤ fbB f && fbB f ≤ 32)
   else fbN f < 1 || fbB f < 1 || 1024 < fbB f) ||
  1 < fb f 0x0E 1 || 1 < fb f 0x0F 1 || 4095 < fb f 0x30 2 || 4095 < fb f 0x32 2 || fbReady f = fbFree f ||
  !(1 ≤ fbDepth f && fbDepth f ≤ 64) || fbDepth f < fbLow f || 3 < fbCache f || !zero 0x37 1 || bits (fb f 0x38 2) 12 3 ≠ 0 || !zero 0x3A 6 ||
  fbRing f % 4096 ≠ 0 || fbBuf f % 4096 ≠ 0 || fbBuf f < bufHead (fbB f) || fb f 0x58 8 % 65536 ≠ 0 ||
  !(pow2 (fb f 0x68 4) && 16 ≤ fb f 0x68 4 && fb f 0x68 4 ≤ 65536) ||
  (if fbCache f = 0 then !zero 0x70 8 else fb f 0x78 4 = 0 || fb f 0x7C 4 = 0 || fb f 0x7C 4 % 65536 ≠ 0) ||
  8192 < fb f 0x80 2 || 8192 < fb f 0x82 2 || !(1 ≤ fbFrames f && fbFrames f ≤ 1024) || fbStride f < 1 || 2 < fb f 0x89 1 || 1 < fb f 0x8A 1 ||
  2 < fbColor f || !(1 ≤ fb f 0x90 2 && fb f 0x90 2 ≤ 8192) || !(1 ≤ fb f 0x92 2 && fb f 0x92 2 ≤ 8192) ||
  !(1 ≤ fbLevels f && fbLevels f ≤ 6) || (fbRaw f && fbLevels f ≠ 1) || !zero 0x96 2 || !zero 0xB0 0x50

/-- Extent of level l along an axis whose level 0 extent is n (R334). -/
def levelExt (n : Nat) : Nat → Nat
  | 0 => n
  | l + 1 => cdiv (levelExt n l) 2

/-- Does a template break R344? -/
def templateBad (f : Feed) (l : Nat) : Bool :=
  let d := parseDesc (nth 0 f.tmpl l)
  let ch := if fbColor f = 1 then 1 else 3
  let want := [ch, levelExt (fb f 0x90 2) l, levelExt (fb f 0x92 2) l, fbFrames f, fbB f]
  let lo := fbRing f + bufHead (fbB f)
  let hi := fbRing f + fbBuf f
  d.layout ≠ 0 || d.comp ≠ 0 || d.ledgerEn || !(d.fmtRaw ≤ 4 || d.fmtRaw = 0x0C) || d.origin.any (· ≠ 0) || d.lext.any (· ≠ 0) ||
  (if fbRaw f then !(2 ≤ d.rank && d.rank ≤ 6) || extAt d (d.rank - 1) ≠ fbB f || extAt d (d.rank - 2) ≠ fbFrames f
   else d.rank ≠ 5 || (planned d).take 5 ≠ want) ||
  !(footprint d).all fun (a, n) => lo ≤ a && a + n ≤ hi

/-- Stream j of a live block. -/
def lbStream (f : Feed) (j : Nat) : Nat := lb f (0x40 + 16 * j) 16
/-- Streams of a live set. -/
def liveS (f : Feed) : Nat := lb f 0x1B 1
/-- STALE in nanoseconds. -/
def staleNs (f : Feed) : Nat := if lb f 0x14 4 = 0 then 50000000 else lb f 0x14 4
def windowNs (f : Feed) : Nat := lb f 0x0C 4
def holdNs (f : Feed) : Nat := lb f 0x10 4

/-- Does the live block break *Live block* or R341? -/
def liveBad (f : Feed) : Bool :=
  lb f 0x08 4 < 1000000 || 3 < lb f 0x1A 1 || !(1 ≤ liveS f && liveS f ≤ 32) || liveS f ≠ fbB f || lb f 0x1C 0x24 ≠ 0 ||
  2 * holdNs f < windowNs f || 2 * staleNs f < 2 * holdNs f + windowNs f ||
  (List.range 32).any fun j =>
    let x := lbStream f j
    decide (j < liveS f) && (1 < fld x 4 1 || 1 < fld x 5 1 || (fld x 4 1 = 1 && fld x 5 1 ≠ 0) || fld x 6 2 ≠ 0 || fld x 0xC 4 ≠ 0)

/-- Streams open in the module. -/
def openStreams (s : State) : List Nat := (s.tap.feeds.filter feedBusy).flatMap fun f => f.streams.map (·.source)

/-- Reserved bytes of the parameter block. -/
def tapParReserved (e : Nat) (live : Bool) : List (Nat × Bool) :=
  ([(0x40, bits (par e 0 1) 2 6 ≠ 0)] : List (Nat × Bool)) ++ parZero e 1 8 ++ parZero e 0xE 0x10 ++
  (if live then parZero e 0x16 0x18 ++ parZero e 0x18 0x40 else parZero e 0x10 0x40)

/-- Can the blocks be read: the feed block, and of a live block its header and its streams (R343, R345)? -/
def blocksOk (s : State) (c e : Nat) (live : Bool) : Bool :=
  footOk s c [.near] true false [(tfCfg e, 256)] &&
    (!live || (footOk s c haulerRegions true false [(tfLive e, 0x40)] && footOk s c haulerRegions true false [(tfLive e, liveLen s c e)]))

/-- The bytes of the blocks that an operation reads. -/
def blockIvs (s : State) (c e : Nat) (live : Bool) : List (Nat × Nat) :=
  (tfCfg e, 256) :: (if live then [(tfLive e, liveLen s c e)] else [])

/-- The checks of R345 in order. Reserved values are looked for in all six records; TENSOR_INVALID concerns the templates, of which L0 is one whatever the blocks say. -/
def tapChecks (s : State) (c e : Nat) (live : Bool) : Option (Nat × Nat) :=
  let ok := blocksOk s c e live
  let f := feedFrom s c e live
  let lv := if ok then tapLevels f else [0]
  let d (l : Nat) : Desc := parseDesc (nth 0 f.tmpl l)
  let sources := (List.range (liveS f)).map fun j => fld (lbStream f j) 0 4
  firstSome [
    (firstBad (tapParReserved e live)).map fun o => (stReserved, o),
    (firstSome ((List.range 6).map fun l => ((match descReserved (d l) with
      | some o => some o
      | none => frameReserved (d l)).map fun o => 0x80 + 128 * l + o))).map fun o => (stReserved, o),
    (lv.find? fun l => descInvalid true false (d l)).map fun l => (stTensor, l),
    (if ok then none else some (stAddress, 0xFF)),
    (lv.find? fun l => !footOk s c [.near] false true (footprint (d l))).map fun l => (stAddress, l),
    (if (feedFoots f).all (fun r => footOk s c r.reach r.needR r.needW r.ivs) then none else some (stAddress, 0xFF)),
    (if tfCfg e % 64 ≠ 0 || feedBad f || (live && liveBad f) || lv.any (templateBad f) ||
        ((List.range 6).any fun l => fbLevels f ≤ l && nth 0 f.tmpl l ≠ 0) then some (stTap, 0) else none),
    (if (feedOf s c (tfId e)).any feedBusy || 16 ≤ (s.tap.feeds.filter feedBusy).length then some (0xC1, 0) else none),
    (if live && (32 < (openStreams s).length + liveS f || sources.any fun x => (openStreams s).contains x) then some (0xC2, 0) else none)]

/-- The first tick: the least k with t_k − WINDOW/2 no earlier than a time (R341). -/
def firstTick (f : Feed) (now : Nat) : Nat := cdiv (2 * now + windowNs f - 2 * lb f 0 8) (2 * lb f 8 4)

/-- A stream of a live set as it opens. -/
def openStream (x : Nat) : LiveStream :=
  { source := fld x 0 4, kind := fld x 4 1, codec := fld x 5 1, maxBytes := fld x 8 4, parts := [], ready := [], done := []
    discard := false, hist := 0, histLen := 0, pics := 0 }

/-- The sessions of a live set's encoded streams open with it (R352). -/
def openStreamSessions (s : State) (c id : Nat) (streams : List LiveStream) : State :=
  (streams.zipIdx.filter fun x => x.1.kind = 0).foldl
    (fun t x => vccOpen t (.live (Fin.ofNat 8 c) (Fin.ofNat 4 id) (Fin.ofNat 32 x.2))) s

/-- Start a feed whose checks pass (R320, R341). -/
def startFeed (s : State) (c e : Nat) (live : Bool) : State :=
  let f := feedFrom s c e live
  let f := { f with
    r0 := tallyOf s c (fbReady f), f0 := tallyOf s c (fbFree f), tick := if live then firstTick f (ptpNow s) else 0
    streams := if live then (List.range (liveS f)).map fun j => openStream (lbStream f j) else [] }
  openStreamSessions { s with tap := { s.tap with feeds := (s.tap.feeds.filter fun g => !(g.ctx = c && g.id = tfId e)) ++ [f] } }
    c (tfId e) f.streams

/-- TFEED or TLIVE at its unit: it completes once the feed runs (R345). -/
def bodyFeed (live : Bool) : Body := fun s c q =>
  match tapChecks s c q.env live with
  | some (st, d) => reject s st d
  | none =>
    let rp := physPieces s c (blockIvs s c q.env live)
    match badTouched s rp with
    | some l => { st := countUe (noteTraffic s rp []) l c, status := stMemFault, detail := l, acc := { rd := rp } }
    | none => { st := startFeed (noteTraffic s rp []) c q.env live, acc := { rd := rp } }

/-- Issue the head of a context's Taproot queue. -/
def tapOp (c : Nat) (aged : Bool) (opcode : Nat) (body : Body) (s : State) : State :=
  issueOp s c ucTaproot 0 aged (isOp opcode) body

/-- TFEED (R343): starts a dataset feed. -/
def execTfeed (c : Fin 8) (aged : Bool) (s : State) : Host.Outcome State Fault Refusal :=
  .next (tapOp c aged 0xC0 (bodyFeed false) s)

/-- TLIVE (R343): starts a live set. -/
def execTlive (c : Fin 8) (aged : Bool) (s : State) : Host.Outcome State Fault Refusal :=
  .next (tapOp c aged 0xC1 (bodyFeed true) s)

/-- TSTOP at its unit (R346): MODE 0 lets the batch in progress finish, MODE 1 stops at once. -/
def bodyTstop : Body := fun s c q =>
  let e := q.env
  let mode := par e 1 1
  match firstBad (([(0x40, bits (par e 0 1) 2 6 ≠ 0)] : List (Nat × Bool)) ++ parZero e 2 0x40) with
  | some o => reject s stReserved o
  | none =>
    if 1 < mode then reject s stTap 0
    else
      match feedOf s c (tfId e) with
      | none => { st := s }
      | some f =>
        if !feedBusy f then { st := s }
        else if mode = 1 || f.live || f.slots = [] then { st := stopFeed s c (tfId e) 0 }
        else { st := updFeed s c (tfId e) fun f => { f with st := 2 }, ended := false }

/-- TSTOP (R346). -/
def execTstop (c : Fin 8) (aged : Bool) (s : State) : Host.Outcome State Fault Refusal :=
  .next (tapOp c aged 0xC2 bodyTstop s)

/-- The 64 bytes of TSTATE (R347). -/
def stateBlock (f : Feed) : Nat :=
  if f.live then packBits [(f.published, 64), (f.tick, 64), (0, 32), (f.st, 32), (f.rejects, 64)]
  else
    let q := slotPos f f.published 0
    packBits [(f.published, 64), (q, 64), (posEpoch f q, 32), (f.st, 32), (f.rejects, 64)]

/-- TSTATE at its unit (R347). -/
def bodyTstate : Body := fun s c q =>
  let e := q.env
  let da := tfCfg e
  match firstBad (([(0x40, bits (par e 0 1) 2 6 ≠ 0)] : List (Nat × Bool)) ++ parZero e 1 8 ++ parZero e 0xE 0x40) with
  | some o => reject s stReserved o
  | none =>
    if !footOk s c [.near] false true [(da, 64)] then reject s stAddress 0xFF
    else if da % 64 ≠ 0 then reject s stTap 0
    else
      let wp := physPieces s c [(da, 64)]
      { st := noteTraffic (clearBad (wrNum s c da (((feedOf s c (tfId e)).map stateBlock).getD 0) 64) wp) [] wp, acc := { wr := wp } }

/-- TSTATE (R347). -/
def execTstate (c : Fin 8) (aged : Bool) (s : State) : Host.Outcome State Fault Refusal :=
  .next (tapOp c aged 0xC3 bodyTstate s)

/-! ### Live ingest (R339 to R342) -/

/-- Change one stream of a live set. -/
def updStream (s : State) (c id j : Nat) (g : LiveStream → LiveStream) : State :=
  updFeed s c id fun f => { f with streams := updAt f.streams j g }

/-- Does a datagram's header or length break R339? -/
def datagramBad (st : LiveStream) (len data : Nat) : Bool :=
  let frag := fld data 0x0C 2
  let frags := fld data 0x0E 2
  let fbytes := fld data 0x18 4
  let l := cdiv fbytes frags
  len < 32 || fld data 0 2 ≠ 0x534C || fld data 2 1 ≠ 1 || 1 < fld data 3 1 || fld data 3 1 ≠ st.kind || !(1 ≤ frags && frags ≤ 4096) ||
  frags ≤ frag || st.maxBytes < fbytes || bits (fld data 0x1C 1) 1 7 ≠ 0 || fld data 0x1D 3 ≠ 0 ||
  len - 32 + frag * l ≠ min ((frag + 1) * l) fbytes

/-- The bytes of a complete frame. -/
def frameData (fr : LiveFrame) : Nat :=
  let l := cdiv fr.bytes (max 1 fr.frags)
  sumNat (fr.got.map fun g => g.2 * 2 ^ (8 * l * g.1))

/-- The checks of R325 that a live frame meets as a sample (R344): its length, then checks 3 to 7 on the stream's bytes up to it. -/
def liveChecks (f : Feed) (raw : Bool) (cont bytes len frame : Nat) : Option (Nat × Nat) :=
  if fb f 0x6C 4 < frame then some (3, frame)
  else sampleChecks f raw cont bytes len (if raw then sampleFrames true cont bytes len else 1)

/-- A live frame is rejected (R326): no slot waits for it yet, so under MARK its stream only lacks it at the next tick. -/
def rejectLive (s : State) (f : Feed) (source reason detail : Nat) : State := rejectWith s f source f.tick 0 reason detail id

/-- A complete frame enters its stream: stale ones drop, a full stream displaces its oldest complete frame, a raw record meets its checks (R325, R340). No tick's selection is pending between two commands. -/
def frameComplete (s : State) (f : Feed) (j : Nat) (fr : LiveFrame) : State :=
  let st := nth (openStream 0) f.streams j
  let gone (s : State) : State := updStream s f.ctx f.id j fun x =>
    { x with parts := x.parts.filter (fun p => p.num ≠ fr.num), done := fr.num :: x.done }
  if fr.capture + staleNs f < ptpNow s then tapAdd (gone s) 6 1
  else if st.kind = 0 && st.discard && !fr.rap then gone s
  else
    match if st.kind = 1 then liveChecks f true 0 (frameData fr) fr.bytes fr.bytes else none with
    | some (r, d) => rejectLive (gone s) f st.source r d
    | none =>
      let full := 4 ≤ st.ready.length
      let s1 := updStream (gone s) f.ctx f.id j fun x =>
        { x with discard := false, ready := (if full then x.ready.tail else x.ready) ++ [{ fr with decoded := x.kind = 1 }] }
      if full then tapAdd s1 6 1 else s1

/-- A new frame enters reassembly; one that finds no free buffer takes that of the stream's oldest complete frame, and is dropped where there is none (R340). -/
def frameEnter (s : State) (f : Feed) (j : Nat) (fr : LiveFrame) : State :=
  let st := nth (openStream 0) f.streams j
  let join (s : State) : State := updStream s f.ctx f.id j fun x => { x with parts := x.parts ++ [fr] }
  if st.parts.length < 4 then join s
  else if st.ready = [] then tapAdd s 6 1
  else join (tapAdd (updStream s f.ctx f.id j fun x => { x with ready := x.ready.tail }) 6 1)

/-- A datagram for stream j of a live set (R339, R340). -/
def frameFragment (s : State) (f : Feed) (j len data : Nat) : State :=
  let st := nth (openStream 0) f.streams j
  let num := fld data 8 4
  let frag := fld data 0x0C 2
  let cap := fld data 0x10 8
  let body := (frag, data >>> 256 % 2 ^ (8 * (len - 32)))
  if st.done.contains num then s
  else
    match st.parts.find? fun p => p.num = num with
    | some p =>
      if p.got.any fun g => g.1 = frag then s
      else
        let p' := { p with got := p.got ++ [body] }
        if p'.got.length = p'.frags then frameComplete s f j p'
        else updStream s f.ctx f.id j fun x => { x with parts := updFirst (fun y => y.num = num) (fun _ => p') x.parts }
    | none =>
      let fr : LiveFrame := ⟨num, cap, bit (fld data 0x1C 1) 0, fld data 0x0E 2, fld data 0x18 4, [body], false, 0, 0, 0⟩
      if ptpNow s + 1000000 < cap then tapAdd s 7 1
      else if cap + staleNs f < ptpNow s then tapAdd s 6 1
      else if fr.frags = 1 then frameComplete s f j fr
      else frameEnter s f j fr

/-- LIVE_DATAGRAM_RECEIVE (R339, R340, R342): a UDP datagram of `len` bytes arrives at an Ethernet port. -/
def execLiveDatagramReceive (port : Fin 2) (udpPort : BitVec 16) (len data : Nat) (s : State) : Host.Outcome State Fault Refusal :=
  let sets := s.tap.feeds.filter fun f => f.live && feedBusy f && lb f 0x18 2 = udpPort.toNat && bit (lb f 0x1A 1) port
  if sets = [] || !domIsOn s 45 then .next s
  else if !s.time.valid then .next (tapAdd s 13 1)
  else
    match sets.find? fun f => f.streams.any fun x => x.source = fld data 4 4 with
    | none => .next (tapAdd s 12 1)
    | some f =>
      let j := f.streams.findIdx fun x => x.source = fld data 4 4
      if datagramBad (nth (openStream 0) f.streams j) len data then .next (tapAdd s 12 1)
      else .next (vccGrant (frameFragment s f j len data))

/-- LIVE_FRAME_INCOMPLETE (R340): a frame of a stream is still incomplete when its age exceeds STALE. -/
def execLiveFrameIncomplete (c : Fin 8) (feed : Fin 4) (stream : Fin 32) (frame : BitVec 32) (s : State) : Host.Outcome State Fault Refusal :=
  match feedOf s c feed with
  | none => .next s
  | some f =>
    match (nth (openStream 0) f.streams stream).parts.find? fun p => p.num = frame.toNat with
    | none => .next s
    | some _ => .next (tapAdd (updStream s c feed stream fun x => { x with parts := x.parts.filter fun p => p.num ≠ frame.toNat }) 8 1)

/-- Damage stops a stream until its next access unit with RAP set (R340, R361): the unit and those before the next random access point go. -/
def damageStream (x : LiveStream) : LiveStream :=
  let rest := (x.ready.filter fun y => !y.decoded).tail.dropWhile fun y => !y.rap
  { x with ready := x.ready.filter (·.decoded) ++ rest, discard := rest = [] }

/-- The codes of the decode session up to a frame: from the last random access point on. -/
def streamUpTo (st : LiveStream) (fr : LiveFrame) : Nat × Nat × Nat :=
  if fr.rap then (frameData fr, fr.bytes, 0) else (st.hist + frameData fr * 2 ^ (8 * st.histLen), st.histLen + fr.bytes, st.pics)

/-- A live stream's session decodes its oldest undecoded frame, once the frame has passed its checks (R325, R340, R361). -/
def decodeLive (s : State) (f : Feed) (j : Nat) : State :=
  let st := nth (openStream 0) f.streams j
  match st.ready.find? fun x => !x.decoded with
  | none => s
  | some fr =>
    let (hist, len, pic) := streamUpTo st fr
    let cont := elemCont st.codec
    let h := readHead cont hist len
    let need := workNeed f cont hist len
    let drop (s : State) : State := updStream s f.ctx f.id j fun x => { x with ready := dropFirst (fun y => y.num = fr.num) x.ready }
    match liveChecks f false cont hist len fr.bytes with
    | some (r, d) => rejectLive (drop s) f st.source r d
    | none =>
      match feedAccess s f.ctx [] (workPiece f j need) with
      | some (x, da) => faultFeed s f.ctx f.id x da
      | none =>
        let bad := Config.decodeRun cont hist len pic pic 0 % 8 ≠ 0
        let s1 := countDecode (useWork s f j need) 1 (h.w * h.h) (b2n bad) []
        if bad then rejectLive (updStream s1 f.ctx f.id j damageStream) f st.source 6 0
        else updStream s1 f.ctx f.id j fun x =>
          { x with hist := hist, histLen := len, pics := pic + 1
                   ready := updFirst (fun y => y.num = fr.num) (fun y => { y with decoded := true, hist := hist, histLen := len, pic := pic }) x.ready }

/-- The clip of a decoded live frame: one picture of its session. -/
def liveClip (codec : Nat) (fr : LiveFrame) : Clip :=
  let c := decodedClip (elemCont codec) fr.hist fr.histLen
  { c with n := 1, code := fun p _ x y => Config.decodedSample (elemCont codec) fr.hist fr.histLen 0 fr.pic [p, x, y] % 2 ^ c.depth }

/-- The frame that a tick takes from a stream: nearest in the window, ties to the earlier capture (R341). -/
def chooseFrame (f : Feed) (tk : Nat) (l : List LiveFrame) : Option LiveFrame :=
  let dist (x : LiveFrame) : Nat := if tk ≤ x.capture then x.capture - tk else tk - x.capture
  let inWin := l.filter fun x => 2 * dist x ≤ windowNs f
  let better (a b : LiveFrame) : Bool := dist a < dist b || (dist a = dist b && a.capture ≤ b.capture)
  inWin.foldl (fun best x => match best with
    | none => some x
    | some y => if better y x then some y else some x) none

/-- One stream's slot of a tick (R341, R335). -/
def tickSlot (tk j : Nat) (s : State) (f : Feed) : State :=
  let st := nth (openStream 0) f.streams j
  let zeros := (List.range (fbLevels f)).flatMap fun l => zeroPuts (levelDesc f f.published l) j
  let invalid (s : State) (k : Nat) : State :=
    tapAdd (updFeed (applyPuts s f.ctx zeros) f.ctx f.id fun f => { f with slots := f.slots ++ [(false, 0)] }) k 1
  match chooseFrame f tk st.ready with
  | none => invalid s 9
  | some fr =>
    if !fr.decoded then invalid s 10
    else
      let ps := if st.kind = 1 then
          rawSlotPuts s f (fun a => fld (frameData fr) a 1) (frameData fr) 64 f.published j 0 (f.tick % 2 ^ 32) j (liveS f)
        else videoPuts s f (liveClip st.codec fr) f.published j 0 st.source 0 (f.tick % 2 ^ 32) j (liveS f)
      updFeed (applyPuts s f.ctx ps) f.ctx f.id fun f => { f with slots := f.slots ++ [(true, fr.capture)] }

/-- Complete frames too old at a tick's decision are dropped (R340). -/
def dropStale (s : State) (f : Feed) (moment : Nat) : State :=
  let old (x : LiveFrame) : Bool := x.capture + staleNs f < moment
  let n := sumNat (f.streams.map fun x => (x.ready.filter old).length)
  tapAdd (updFeed s f.ctx f.id fun f => { f with streams := f.streams.map fun x => { x with ready := x.ready.filter fun y => !old y } }) 6 n

/-- One stream's part in a tick, unless the feed has stopped. -/
def tickStep (c id tk : Nat) (s : State) (j : Nat) : State :=
  match feedOf s c id with
  | some g => if g.st = 1 then tickSlot tk j s g else s
  | none => s

/-- LIVE_TICK (R341, R342): the next tick of a live set is decided; the command stands for its decision time. -/
def execLiveTick (c : Fin 8) (feed : Fin 4) (s : State) : Host.Outcome State Fault Refusal :=
  match feedOf s c feed with
  | none => .next s
  | some f =>
    if !(f.live && f.st = 1 && domIsOn s 45) then .next s
    else
      let next (s : State) : State := updFeed s c feed fun f => { f with tick := f.tick + 1, slots := [] }
      let tk := tickTime f
      if !s.time.valid then .next (next s)
      else if !bufferFree s f then .next (next (tapAdd s 11 1))
      else
        let outs := (List.range (liveS f)).flatMap (batchSlot f)
        match feedAccess s c [] (outs ++ publishRange f) with
        | some (st, da) => .next (faultFeed s c feed st da)
        | none =>
          let s1 := dropStale (feedTouch s c [] outs) f (tk + holdNs f)
          let s2 := (List.range (liveS f)).foldl (tickStep c feed tk) s1
          match feedOf s2 c feed with
          | some g => if g.st = 1 then .next (next (publishBatch s2 g g.slots 0 g.tick tk)) else .next s2
          | none => .next s2

/-! ### Registers (R348) -/

/-- TAP_PERF_CLEAR (R348): TAP_PERF_CTL is written with CLEAR 1 and the given FREEZE. -/
def execTapPerfClear (freeze : Bool) (s : State) : Host.Outcome State Fault Refusal :=
  if barOn s then .next { s with tap := { s.tap with perf := { perfClear s.tap.perf with freeze := freeze } } } else .next s

/-- TAP_CTXn_FEEDm (R348). -/
def feedReg (s : State) (c m : Nat) : Nat :=
  match feedOf s c m with
  | none => 0
  | some f => f.st + 8 * b2n f.live + 2 ^ 8 * min 64 (prepared s f) + 2 ^ 16 * b2n f.low + 2 ^ 32 * (f.published % 2 ^ 32)

end Sys2Proof.Machine
end

