-- ==== Sys2Proof/Machine/Relay.lean ====
section
/-! DEFINITION. How contexts end (R169, R428, R454), how the module enters relay-only (R17, R504). -/

namespace Sys2Proof.Machine

/-! ### The end of a context (R454) -/

/-- Take a pending package off a context: it receives its PKG_END, aborted (R437, R454). -/
def withdrawPkg (s : State) (c : Nat) (p : Pkg) : State :=
  postEvent s 0x80 c 0 (packBits [(fld (rdNum s c p.da 64) 0x18 4, 32), (1, 8), (0, 8)])

/-- The running or halted package is aborted, the pending ones are withdrawn. Of a halted package the operations earlier than the halt still issue and complete (R158, R169). -/
def abortCtx (s : State) (c : Nat) : State :=
  let x := ctxOf s c
  let waiting := x.pkgs.filter fun p => !p.started
  let s := updCtx s c fun x => { x with pkgs := x.pkgs.filter fun p => p.started }
  let s := waiting.foldl (fun s p => withdrawPkg s c p) s
  pkgAbort s c (haltIdx x).isNone

/-- Stop every feed of a context as TSTOP MODE 1 would. -/
def stopFeeds (s : State) (c : Nat) : State :=
  (s.tap.feeds.filter fun f => f.ctx = c && feedBusy f).foldl (fun s f => stopFeed s c f.id 0) s

/-- End the collectives in flight of a context with ABORT (R414). They issued, so that none is CANCELLED (R144): each ends as its peers do, with COLL_PEER_FAILED and this module's node (DEDUCED, assumption 111). -/
def abortColls (s : State) (c : Nat) : State :=
  let s := (s.fab.insts.filter fun i => i.ctx = c).foldl (fun s i => collFail s i 0xB4 s.fab.node s.fab.node) s
  updFab s fun f => { f with held := f.held.filter fun h => h.ctx ≠ c }

/-- The first three steps of a close (R454). -/
def closeBegin (s : State) (c : Nat) : State :=
  abortColls (stopFeeds (abortCtx s c) c) c

/-- Is every operation of a closing context over, those that its abort left in the queues included, and no save or restore of it running? -/
def closeReady (s : State) (c : Nat) : Bool := (ctxOf s c).queued = [] && (ctxOf s c).flight = [] && !ckptBusy s c

/-- What a context held goes: feeds, fabric state, translations, granules, its Sump slots to +0. -/
def dropCtx (s : State) (c : Nat) : State :=
  let x := ctxOf s c
  let s := fabClose s c
  let s := rlbDrop s fun e => e.1 = c
  let s := zeroSlots s x.sumpFirst x.sumpCount
  let held := [8 * c, 8 * c + 2, 8 * c + 4]
  { s with
    tap := { s.tap with feeds := s.tap.feeds.filter fun f => f.ctx ≠ c }
    stash := { s.stash with cnt := s.stash.cnt.zipIdx.map fun p => if held.contains p.2 then 0 else p.1 }
    ctxs := s.ctxs.set c closedCtx }

/-- Leaving serving when the last context is closed (R16): the Quarry planes power down, and the stacks enter self-refresh (R298). -/
def afterClose (s : State) : State :=
  if anyOpen s then s
  else if s.mode = .serving then planeDomains.foldl domFall (setSelfRef (setMode s .relayAndReport 0) true)
  else planeDomains.foldl domFall s

/-- The last steps of a close: ledger written back, everything released, the context closed (R454). -/
def closeEnd (s : State) (c : Nat) : State := afterClose (dropCtx (ledgerWriteBack s c) c)

/-- A close that waits for nothing more: used where operations in flight are abandoned with the context. -/
def closeNow (s : State) (c : Nat) : State :=
  let s := closeBegin s c
  closeEnd (updCtx s c fun x => { x with flight := [], queued := [], pkgs := [] }) c

/-! ### Relay-only (R17, R504) -/

/-- Relay-only causes, as the health data code them. -/
def causeFace : Nat := 1
def causeMemory : Nat := 2
def causeThermal : Nat := 3
def causeInput : Nat := 4

/-- Every open context ends, its operations in flight abandoned without records. -/
def abandonAll (s : State) : State :=
  let open_ := (List.range 8).filter (isOpen s)
  let s := open_.foldl (fun s c => dropCtx (abortColls s c) c) s
  open_.foldl (fun s c => postEvent s 0x8B c 0 0) s

/-- Close every tunnel as FAB_TUNNEL close does (R464). -/
def closeTunnels (s : State) : State :=
  (List.range 64).foldl (fun s t => updTun (tunnelDown s t) t fun _ => noTunnel) s

/-- An open that has not completed ends with MODE_REFUSED (R17, R453); a close finds its context gone; a save or restore that waits for the fabric cannot go on. -/
def relayCmd (t : Cmd) : Cmd :=
  if cmdOp t.raw = 0x18 && t.begun then { t with ready := some (msMode, 0, 0) }
  else if cmdOp t.raw = 0x19 && t.begun then { t with ready := some (msOk, 0, 0) }
  else if (cmdOp t.raw = 0x28 || cmdOp t.raw = 0x29) && t.begun && t.ready.isNone then { t with ready := some (msFault, nth 0 t.aux 3, 0) }
  else t

/-- The module enters relay-only: contexts end, domains marked Off fall, MODE is 4, the rings are lost, the label is redrawn. Coalescing entries close (R516). During start-up the first cause is kept for its end (R18). -/
def relayEnter (s : State) (cause : Nat) : State :=
  if s.mode = .relayAndReport || s.mode = .serving then
    let s := { s with relayCause := cause }
    let s := closeTunnels (abandonAll s)
    let s := relayOffDomains.foldl domFall s
    let s := { s with memS := { s.memS with bad := s.memS.bad.filter fun b => inMbox b.addr b.len || hostBase ≤ b.addr } }
    let s := setMode s .relayOnly cause
    let s := loseRings s
    let s := updMbx s fun m => { m with taken := m.taken.map relayCmd }
    requestLabel { s with ras := closeAllCoal 32 s.ras }
  else if s.mode = .startUp then { s with relayCause := if s.relayCause = 0 then cause else s.relayCause }
  else s

end Sys2Proof.Machine
end

