-- ==== Sys2Proof/Machine/CtxCmds.lean ====
section
/-! DEFINITION. Foreman commands on contexts: the context configuration block and its checks (R451, R452), CTX_OPEN, CTX_CLOSE, CTX_QUERY, CTX_MAP (R451 to R455), packages (R456), tallies (R457), ledger entries (R458) and stash handles (R459). -/

namespace Sys2Proof.Machine

/-! ### The context configuration block (R451) -/

def blkSize : Nat := 2560
def bkStashEn (b : Nat) : Bool := bit (fld b 5 1) 0
def bkRingEn (b : Nat) : Bool := bit (fld b 5 1) 1
def bkRanges (b : Nat) : Nat := fld b 6 1

/-- First byte of a block from `lo` up to `hi` that is not zero, as a check. -/
def bytesZero (b lo hi : Nat) : List (Nat × Bool) := (List.range (hi - lo)).map fun k => (lo + k, decide (fld b (lo + k) 1 ≠ 0))

/-- Reserved values of a range entry that lies at offset `o` of a block (R451). -/
def rangeReserved (b o : Nat) : List (Nat × Bool) :=
  ([(o + 6, fld b (o + 6) 2 ≠ 0), (o + 14, fld b (o + 14) 2 ≠ 0), (o + 0x18, fld b (o + 0x18) 1 ≥ 4)] : List (Nat × Bool)) ++
    bytesZero b (o + 0x19) (o + 0x20)

/-- A range entry at offset `o` of a block. -/
def rangeEntry (b o : Nat) : MapEntry :=
  { cda := fld b o 6, pda := fld b (o + 8) 6, len := fld b (o + 0x10) 8, r := bit (fld b (o + 0x18) 1) 0, w := bit (fld b (o + 0x18) 1) 1 }

/-- The offset of range entry `i`. -/
def rangeOff (i : Nat) : Nat := 0x200 + 32 * i

/-- The range map of a block. -/
def bkMaps (b : Nat) : List MapEntry := (List.range (bkRanges b)).map fun i => rangeEntry b (rangeOff i)

/-- The stash configuration of a block; STASH_HANDLES is 0 without STASH_EN (R451). -/
def bkStash (b : Nat) : StashCfg :=
  if !bkStashEn b then noStash
  else
    { base := fld b 0x100 8, handles := fld b 0x108 4, ownBase := fld b 0x110 8, nearPool := fld b 0x118 8
      nearSize := fld b 0x120 8, farPool := fld b 0x128 8, farSize := fld b 0x130 8, hostPool := fld b 0x138 8
      hostSize := fld b 0x140 8, nearRate := fld b 0x148 2, farRate := fld b 0x14A 2, hostRate := fld b 0x14C 2 }

/-- The Ringstore configuration of a block. -/
def bkRing (b : Nat) : RingCfg :=
  if !bkRingEn b then noRing
  else
    { enabled := true, fmt := fld b 0x180 1, d := fld b 0x181 1, hg := fld b 0x182 1, kvh := fld b 0x183 1, margin := fld b 0x184 1
      slots := fld b 0x186 2, maxPages := fld b 0x188 4, dirEntries := fld b 0x18C 4, dirBase := fld b 0x190 8
      l1Base := fld b 0x198 8, l2Base := fld b 0x1A0 8, l2Count := fld b 0x1A8 4, frameCount := fld b 0x1AC 4
      frameBase := fld b 0x1B0 8, freeBase := fld b 0x1B8 8, swapBase := fld b 0x1C0 8, swapStride := fld b 0x1C8 8 }

/-- The Sump slots that a block asks for (R92). -/
def bkSlots (b : Nat) : Nat := if fld b 0x20 2 = 0 then 256 else fld b 0x20 2

/-- Step 1 of R452: SIGNATURE, VERSION, NRANGES, reserved fields, absent sections and unused entries; the lowest offset decides. -/
def blockForm (b : Nat) : Option (Nat × Nat) :=
  let inv := [(0, decide (fld b 0 4 ≠ 0x46434C47)), (4, decide (fld b 4 1 ≠ 1)), (6, bkRanges b = 0 || 64 < bkRanges b)]
  let res := ([(5, fld b 5 1 ≥ 4)] : List (Nat × Bool)) ++ bytesZero b 0x24 0x100 ++
    (if bkStashEn b then bytesZero b 0x10C 0x110 ++ bytesZero b 0x14E 0x180 else bytesZero b 0x100 0x180) ++
    (if bkRingEn b then bytesZero b 0x185 0x186 ++ bytesZero b 0x1D0 0x200 else bytesZero b 0x180 0x200) ++
    (List.range 64).flatMap fun i =>
      if i < bkRanges b then rangeReserved b (rangeOff i) else bytesZero b (rangeOff i) (rangeOff i + 32)
  match firstBad inv, firstBad res with
  | none, none => none
  | some i, none => some (msInvalid, i)
  | none, some r => some (msReserved, r)
  | some i, some r => if i < r then some (msInvalid, i) else some (msReserved, r)

/-! ### The range map (R30, step 2 of R452) -/

/-- Does a physical range touch memory that contexts may not share: Stockpile, near or far tier? -/
def privateMem (lo hi : Nat) : Bool :=
  overlaps lo hi 0 0x40000000 || overlaps lo hi nearBase (nearBase + nearSize) || overlaps lo hi farBase (farBase + farSize)

/-- Does an entry take memory that another open context holds: do they share a range of such memory? -/
def heldElsewhere (s : State) (n : Nat) (e : MapEntry) : Bool :=
  (List.range 8).any fun c => c ≠ n && isOpen s c && (ctxOf s c).maps.any fun h =>
    overlaps e.pda (e.pda + e.len) h.pda (h.pda + h.len) &&
      privateMem (max e.pda h.pda) (min (e.pda + e.len) (h.pda + h.len))

/-- Do context DAs name the Sump diagnostic window or the CSR space, which no map covers (R20, R30)? -/
def unmappable (lo hi : Nat) : Bool := overlaps lo hi 0x40000000 0x50000000 || overlaps lo hi 0x80000000 0x90000000

/-- What an entry breaks, with the offset within the entry: alignment, the bounds of the address space, the Sump window and the CSR space, a Stockpile mapping on either side that is not the identity, an overlap with an earlier entry, memory of another context (R30). -/
def entryBreaks (s : State) (n : Nat) (earlier : List MapEntry) (e : MapEntry) : Option (Nat × Nat) :=
  firstSome [
    chk (e.cda % pageSize ≠ 0 || unmappable e.cda (e.cda + e.len) || earlier.any fun h => overlaps e.cda (e.cda + e.len) h.cda (h.cda + h.len)) msInvalid 0,
    chk (e.pda % pageSize ≠ 0 || overlaps e.pda (e.pda + e.len) 0x40000000 nearBase ||
      ((overlaps e.pda (e.pda + e.len) 0 0x40000000 || overlaps e.cda (e.cda + e.len) 0 0x40000000) && e.cda ≠ e.pda)) msInvalid 8,
    chk (heldElsewhere s n e) msConflict 8,
    chk (e.len % pageSize ≠ 0 || e.len = 0 || 2 ^ 48 < e.cda + e.len || 2 ^ 48 < e.pda + e.len) msInvalid 0x10]

/-- The check of a whole map for context `n`: the first entry that breaks it, with the status and the offset within that entry. -/
def mapBreaks (s : State) (n : Nat) (maps : List MapEntry) : Option (Nat × Nat × Nat) :=
  (List.range maps.length).findSome? fun i =>
    match maps[i]? with
    | none => none
    | some e => (entryBreaks s n (maps.take i) e).map fun r => (i, r.1, r.2)

/-! ### Areas and fields (steps 3 and 4 of R452) -/

/-- The areas that a configuration names, with the block offset of each address (R69, R201, R256). -/
def cfgAreas (ledger shape : Nat) (g : StashCfg) (r : RingCfg) : List (Nat × Nat × Nat) :=
  [(0x08, ledger, 0x400000), (0x18, shape, 0x4000)] ++
  (if g.handles = 0 then [] else
    [(0x100, g.base, 128 * g.handles), (0x110, g.ownBase, mapBytes g), (0x118, g.nearPool, g.nearSize),
     (0x128, g.farPool, g.farSize), (0x138, g.hostPool, g.hostSize)]) ++
  (if !r.enabled then [] else
    [(0x190, r.dirBase, 64 * r.dirEntries), (0x198, r.l1Base, 1024 * r.slots), (0x1A0, r.l2Base, 1024 * r.l2Count),
     (0x1B0, r.frameBase, frameBytes r * r.frameCount), (0x1B8, r.freeBase, 4 * (r.frameCount + r.l2Count)),
     (0x1C0, r.swapBase, r.swapStride * r.dirEntries)])

/-- The first area that a map does not cover for reading and writing in one region that the Foreman reaches (R30, R435). -/
def uncovered (s : State) (maps : List MapEntry) (areas : List (Nat × Nat × Nat)) : Option Nat :=
  (areas.find? fun a => a.2.2 ≠ 0 && (2 ^ 48 < a.2.1 + a.2.2 || !rangeOk s maps (foremanRegions s) true true [(a.2.1, a.2.2)])).map (·.1)

/-- Region of a context DA under a map. -/
def regionUnder (s : State) (maps : List MapEntry) (da : Nat) : Option Region := regionOf s (xlate maps da)

/-- A base that must be a near-tier DA aligned to 4 KiB. -/
def notNear4k (s : State) (maps : List MapEntry) (da : Nat) : Bool := da % 4096 ≠ 0 || regionUnder s maps da ≠ some .near

/-- A pool: base and size multiples of a granule, in its tier where present (R201). -/
def poolBad (s : State) (maps : List MapEntry) (base size : Nat) (r : Region) : Bool :=
  base % granule ≠ 0 || (size ≠ 0 && regionUnder s maps base ≠ some r)

/-- The stash fields that break *Stash configuration* (R201, R202). -/
def stashFields (s : State) (maps : List MapEntry) (g : StashCfg) : List (Nat × Bool) :=
  [(0x100, notNear4k s maps g.base), (0x108, g.handles % 64 ≠ 0 || g.handles < 64 || 65536 < g.handles),
   (0x110, notNear4k s maps g.ownBase), (0x118, poolBad s maps g.nearPool g.nearSize .near), (0x120, g.nearSize % granule ≠ 0),
   (0x128, poolBad s maps g.farPool g.farSize .far), (0x130, g.farSize % granule ≠ 0),
   (0x138, poolBad s maps g.hostPool g.hostSize .host), (0x140, g.hostSize % granule ≠ 0)]

/-- The Ringstore fields that break *Ringstore configuration* (R256). -/
def ringFields (s : State) (maps : List MapEntry) (r : RingCfg) : List (Nat × Bool) :=
  let hgBad := !([1, 2, 4].contains r.hg)
  let kvhBad := hgBad || r.kvh = 0 || 64 < r.kvh || r.kvh % r.hg ≠ 0
  let ng := ringGroups r
  [(0x180, !([0x03, 0x0A, 0x0B].contains r.fmt)), (0x181, !([64, 128].contains r.d)), (0x182, hgBad), (0x183, kvhBad),
   (0x184, 7 < r.margin), (0x186, r.slots % 64 ≠ 0 || r.slots < 64 || 4096 < r.slots),
   (0x188, kvhBad || r.maxPages = 0 || 65536 / ng < r.maxPages), (0x18C, r.dirEntries = 0 || 65536 < r.dirEntries),
   (0x190, notNear4k s maps r.dirBase), (0x198, notNear4k s maps r.l1Base), (0x1A0, notNear4k s maps r.l2Base),
   (0x1A8, r.l2Count = 0 || 2 ^ 24 < r.l2Count), (0x1AC, r.frameCount = 0 || 2 ^ 28 < r.frameCount),
   (0x1B0, notNear4k s maps r.frameBase), (0x1B8, notNear4k s maps r.freeBase),
   (0x1C0, r.swapBase % 4096 ≠ 0 || (r.swapStride ≠ 0 && regionUnder s maps r.swapBase ≠ some .host)),
   (0x1C8, r.swapStride ≠ 0 && (r.swapStride % 4096 ≠ 0 || r.swapStride < imageBytes r (r.maxPages * ng)))]

/-- Step 4 of R452: the first field that breaks R69, R92, R201 or R256. -/
def blockFields (s : State) (b : Nat) : Option Nat :=
  let maps := bkMaps b
  let shapeReg := regionUnder s maps (fld b 0x18 8)
  firstBad (([(0x07, 30 < fld b 7 1), (0x08, notNear4k s maps (fld b 8 8)),
      (0x18, fld b 0x18 8 % 64 ≠ 0 || !(shapeReg = some .near || shapeReg = some .stockpile)),
      (0x20, fld b 0x20 2 % 16 ≠ 0 || 256 < fld b 0x20 2)] : List (Nat × Bool)) ++
    (if bkStashEn b then stashFields s maps (bkStash b) else []) ++
    (if bkRingEn b then ringFields s maps (bkRing b) else []))

/-! ### Resources (step 5 of R452) -/

/-- The lowest free Sump slot at which an allocation fits (R92, R452). -/
def sumpFit (s : State) (count : Nat) : Option Nat :=
  (List.range (257 - count)).find? fun f => (List.range 8).all fun c =>
    !(isOpen s c && overlaps f (f + count) (ctxOf s c).sumpFirst ((ctxOf s c).sumpFirst + (ctxOf s c).sumpCount))

/-- Does an entry cover a Stockpile group that is OFF (R297)? -/
def coversOff (s : State) (e : MapEntry) : Bool :=
  s.memS.ret.zipIdx.any fun p => p.1 = 2 && overlaps e.pda (e.pda + e.len) (p.2 * 0x2000000) ((p.2 + 1) * 0x2000000)

/-- Does an entry cover the withdrawn far tier (R306)? -/
def coversGone (s : State) (e : MapEntry) : Bool := s.memS.farWithdrawn && overlaps e.pda (e.pda + e.len) farBase (farBase + farSize)

/-- Is a resource missing: a fenced unit (R526), Sump slots, Ringstore slots, or memory that is withdrawn or OFF? -/
def blockShort (s : State) (b : Nat) : Option Nat :=
  let rsUsed := sumNat (s.ctxs.map fun x => if x.st = .closed then 0 else x.ring.slots)
  if s.fenced ≠ [] then some 0
  else if (sumpFit s (bkSlots b)).isNone then some 0x20
  else if bkRingEn b && 4096 < rsUsed + (bkRing b).slots then some 0x186
  else ((bkMaps b).zipIdx.find? fun p => coversGone s p.1 || coversOff s p.1).map fun p => rangeOff p.2

/-- All checks of R452, in order. -/
def blockChecks (s : State) (n b : Nat) : Option (Nat × Nat) :=
  match blockForm b with
  | some r => some r
  | none =>
    let maps := bkMaps b
    match mapBreaks s n maps with
    | some (i, st, o) => some (st, rangeOff i + o)
    | none =>
      match uncovered s maps (cfgAreas (fld b 8 8) (fld b 0x18 8) (bkStash b) (bkRing b)) with
      | some o => some (msAddress, o)
      | none =>
        match blockFields s b with
        | some o => some (msInvalid, o)
        | none => (blockShort s b).map fun o => (msResource, o)

/-! ### CTX_OPEN -/

/-- Set a context's interval to zero. -/
def zeroCtx (s : State) (c a n : Nat) : State :=
  (physPieces s c [(a, n)]).foldl (fun s p => clearBad (zeroRange s p.1 (p.1 + p.2)) [p]) s

/-- The context that an open command takes: the named one or the lowest closed. -/
def openTarget (s : State) (raw : Nat) : Nat :=
  if cmdCtx raw < 8 then cmdCtx raw else ((List.range 8).find? fun c => !isOpen s c).getD 8

/-- The context that a block describes, as it stands at open (R168, R452). -/
def openedCtx (s : State) (b : Nat) : Ctx :=
  { closedCtx with
    st := .idle, maps := bkMaps b, swBase := fld b 0x18 8, ledgerBase := fld b 8 8, jobSeed := BitVec.ofNat 64 (fld b 0x10 8)
    esHeadroom := (if fld b 7 1 = 0 then 16 else fld b 7 1), sumpFirst := (sumpFit s (bkSlots b)).getD 0
    sumpCount := bkSlots b, stash := bkStash b, ring := bkRing b, fabricJob := fld b 0x22 2 }

/-- What an open writes: the granule map, the directory and level-1 tables, the free stacks (R201, R256). -/
def openTables (s : State) (n : Nat) : State :=
  let x := ctxOf s n
  let s := if x.stash.handles = 0 then s else zeroCtx s n x.stash.ownBase (mapBytes x.stash)
  if !x.ring.enabled then s
  else
    let s := zeroCtx s n x.ring.dirBase (64 * x.ring.dirEntries)
    let s := zeroCtx s n x.ring.l1Base (1024 * x.ring.slots)
    let s := indexCtx s n x.ring.freeBase x.ring.frameCount
    indexCtx s n (x.ring.freeBase + 4 * x.ring.frameCount) x.ring.l2Count

/-- The effect of an open that passes every check (R452): the context, its tables and counters; the Quarry planes have power (R495), and the module serves (R15). -/
def openCtx (s : State) (n b : Nat) : State :=
  let s := { s with ctxs := s.ctxs.set n (openedCtx s b)
                    stash := { s.stash with cnt := s.stash.cnt.zipIdx.map fun p => if p.2 / 8 = n then 0 else p.1 } }
  let s := openTables s n
  let s := planeDomains.foldl domRise s
  let s := if s.memS.farWithdrawn then s else farDomains.foldl domRise s
  setMode (setSelfRef s false) .serving 0

/-- Where a context configuration block may lie (R451). -/
def blockPlace (s : State) (a : Nat) : Bool :=
  inMbox a blkSize || regionOf s a = some .near || regionOf s a = some .host

/-- The work of CTX_OPEN (R451 to R453). -/
def workOpen (s : State) (raw : Nat) : CmdOut :=
  let cfg := fld raw 8 8
  cmdTry s [chk ((List.range 8).all fun c => isOpen s c) msCtxLimit 0,
      chk (cmdCtx raw < 8 && isOpen s (cmdCtx raw)) msConflict 0,
      chk (cfg % 64 ≠ 0) msInvalid 8, srcChk s 0xFF cfg blkSize 8, chk (!blockPlace s cfg) msInvalid 8,
      srcFault s 0xFF cfg blkSize, blockChecks s (openTarget s raw) (fwRead s 0xFF cfg blkSize)]
    fun s => { st := openCtx s (openTarget s raw) (fwRead s 0xFF cfg blkSize), result := openTarget s raw }

/-- CTX_OPEN (R452). -/
def execCtxOpen (place : Nat) (s : State) : Host.Outcome State Fault Refusal :=
  .next (runCmd s place 0x18 (fun _ => true) workOpen)

/-! ### CTX_CLOSE, CTX_QUERY, CTX_MAP -/

/-- The work of CTX_CLOSE up to its wait for operations in flight (R454). -/
def workClose (s : State) (raw : Nat) : CmdOut :=
  cmdTry s [chk (!isOpen s (cmdCtx raw)) msConflict 0] fun s => { st := closeBegin s (cmdCtx raw), wait := true }

/-- CTX_CLOSE (R454): it completes once COMMAND_COMPLETION finds every operation in flight over. -/
def execCtxClose (place : Nat) (s : State) : Host.Outcome State Fault Refusal :=
  .next (runCmd s place 0x19 (fun _ => true) workClose)

/-- STATE as OSQ_CTXn_STATE codes it (R171). -/
def ctxStCode : CtxSt → Nat
  | .closed => 0
  | .idle => 1
  | .running => 2
  | .halted => 3
  | .aborting => 4

/-- The work of CTX_QUERY (R440). -/
def workQuery (s : State) (raw : Nat) : CmdOut :=
  let x := ctxOf s (cmdCtx raw)
  { st := s, result := packBits [(ctxStCode x.st, 8), (x.sumpFirst, 8), (x.sumpCount, 16), (x.step.toNat, 32)] }

/-- CTX_QUERY (R440). -/
def execCtxQuery (place : Nat) (s : State) : Host.Outcome State Fault Refusal :=
  .next (runCmd s place 0x1A (fun _ => true) workQuery)

/-- Does a context hold no package, and has it no operation queued or in flight? -/
def ctxQuiet (s : State) (c : Nat) : Bool :=
  (ctxOf s c).pkgs = [] && (ctxOf s c).queued = [] && (ctxOf s c).flight = []

/-- A context's map with `news` in place of the entries from `first` on (R455). -/
def replaceMaps (old : List MapEntry) (first : Nat) (news : List MapEntry) : List MapEntry :=
  old.take first ++ news ++ old.drop (first + news.length)

/-- The new map is checked as a whole (R455): the kept entries stand, and each new one is held against them and the new ones before it; offsets are those in SRC. -/
def newMapBreaks (s : State) (n first : Nat) (old news : List MapEntry) : Option (Nat × Nat) :=
  let kept := old.take first ++ old.drop (first + news.length)
  (mapBreaks s n (kept ++ news)).map fun r => (r.2.1, 32 * (r.1 - kept.length) + r.2.2)

/-- The work of CTX_MAP (R455). -/
def workMap (s : State) (raw : Nat) : CmdOut :=
  let c := cmdCtx raw
  let x := ctxOf s c
  let first := fld raw 8 1
  let count := fld raw 9 1
  let src := fld raw 0x10 8
  let b := fwRead s 0xFF src (32 * count)
  let news := (List.range count).map fun i => rangeEntry b (32 * i)
  let maps := replaceMaps x.maps first news
  cmdTry s [chk (count = 0 || 64 < count) msInvalid 9, chk (isOpen s c && x.maps.length < first) msInvalid 8,
      chk (64 < first + count) msInvalid 9, srcChk s 0xFF src (32 * count) 0x10, chk (!isOpen s c || !ctxQuiet s c) msConflict 0,
      srcFault s 0xFF src (32 * count),
      (firstBad ((List.range count).flatMap fun i => rangeReserved b (32 * i))).map fun o => (msReserved, o),
      newMapBreaks s c first x.maps news,
      (uncovered s maps (cfgAreas x.ledgerBase x.swBase x.stash x.ring)).map fun o => (msInvalid, o)]
    fun s => { st := updCtx s c fun x => { x with maps := maps } }

/-- CTX_MAP (R455). -/
def execCtxMap (place : Nat) (s : State) : Host.Outcome State Fault Refusal :=
  .next (runCmd s place 0x1B (fun _ => true) workMap)

/-! ### Packages (R456) -/

/-- A package as submitted; PACKAGE_START reads and checks its header. -/
def newPkg (da : Nat) : Pkg :=
  { da := da, started := false, opCount := 0, bytes := 0, compBase := 0, gen := 0, waitLimit := 0, aborted := false }

/-- The work of PKG_SUBMIT: the context holds at most four packages. -/
def workSubmit (s : State) (raw : Nat) : CmdOut :=
  let c := cmdCtx raw
  let da := fld raw 8 8
  cmdTry s [srcChk s c da 64 8, chk (!isOpen s c) msConflict 0, chk (4 ≤ (ctxOf s c).pkgs.length) msResource 0]
    fun s => { st := updCtx s c fun x => { x with pkgs := x.pkgs ++ [newPkg da] }, result := (ctxOf s c).pkgs.length + 1 }

/-- PKG_SUBMIT (R456). -/
def execPkgSubmit (place : Nat) (s : State) : Host.Outcome State Fault Refusal :=
  .next (runCmd s place 0x20 (fun _ => true) workSubmit)

/-- The shared check of the package actions: the package is halted (R456). -/
def workPkg (act : State → Nat → State) (s : State) (raw : Nat) : CmdOut :=
  cmdTry s [chk ((ctxOf s (cmdCtx raw)).st ≠ .halted) msConflict 0] fun s => { st := act s (cmdCtx raw) }

/-- PKG_RETRY (R158, R159, R456). -/
def execPkgRetry (place : Nat) (s : State) : Host.Outcome State Fault Refusal :=
  .next (runCmd s place 0x21 (fun r => fld r 8 1 = 1) (workPkg pkgRetry))

/-- SKIP with the low-water rule of feeds after each signal (R158, R322). -/
def skipPkg (s : State) (c : Nat) : State := pkgSkip s c fun t => lowWater s t c

/-- PKG_SKIP (R158, R456). -/
def execPkgSkip (place : Nat) (s : State) : Host.Outcome State Fault Refusal :=
  .next (runCmd s place 0x21 (fun r => fld r 8 1 = 2) (workPkg skipPkg))

/-- PKG_ABORT (R158, R456). -/
def execPkgAbort (place : Nat) (s : State) : Host.Outcome State Fault Refusal :=
  .next (runCmd s place 0x21 (fun r => fld r 8 1 = 3) (workPkg fun s c => pkgAbort s c false))

/-! ### Tallies (R457) -/

/-- FIRST and COUNT of the tally commands, with their checks. -/
def tallyArgs (raw : Nat) : Option (Nat × Nat) :=
  let first := fld raw 8 2
  let count := fld raw 10 2
  firstSome [chk (4096 ≤ first) msInvalid 8, chk (count = 0 || 4096 < first + count) msInvalid 10]

/-- The work of TALLY_READ. -/
def workTallyRead (s : State) (raw : Nat) : CmdOut :=
  let count := fld raw 10 2
  let dst := fld raw 0x10 8
  cmdTry s [tallyArgs raw, dstChk s 0xFF dst (4 * count) 0x10] fun s =>
    dstWrite s 0xFF dst (packBits ((List.range count).map fun k => ((tallyOf s (cmdCtx raw) (fld raw 8 2 + k)).toNat, 32))) (4 * count) 0

/-- TALLY_READ (R457). -/
def execTallyRead (place : Nat) (s : State) : Host.Outcome State Fault Refusal :=
  .next (runCmd s place 0x22 (fun _ => true) workTallyRead)

/-- Set tallies in ascending order; feeds see each change (R157, R322). -/
def setTallies (s : State) (c first count v : Nat) : State :=
  (List.range count).foldl (fun s k =>
    let t := setTally s c (first + k) (BitVec.ofNat 32 (fld v (4 * k) 4))
    lowWater s t c) s

/-- The work of TALLY_SET. -/
def workTallySet (s : State) (raw : Nat) : CmdOut :=
  let count := fld raw 10 2
  let src := fld raw 0x10 8
  cmdTry s [tallyArgs raw, srcChk s 0xFF src (4 * count) 0x10, srcFault s 0xFF src (4 * count)] fun s =>
    { st := setTallies s (cmdCtx raw) (fld raw 8 2) count (fwRead s 0xFF src (4 * count)) }

/-- TALLY_SET_CMD (R457). -/
def execTallySetCmd (place : Nat) (s : State) : Host.Outcome State Fault Refusal :=
  .next (runCmd s place 0x23 (fun _ => true) workTallySet)

/-! ### Ledgers (R458) -/

/-- FIRST and COUNT of the ledger commands, with their checks. -/
def ledgerArgs (raw : Nat) : Option (Nat × Nat) :=
  let count := fld raw 12 4
  firstSome [chk (count = 0 || 65536 < count) msInvalid 12, chk (65536 < fld raw 8 2 + count) msInvalid 12]

/-- The ledger entries of a context as one number. -/
def ledgerImage (s : State) (c first count : Nat) : Nat :=
  packBits ((List.range count).map fun k => (ledgerGet s c (first + k), 512))

/-- The first uncorrectable line of ledger entries that the cache does not hold. -/
def ledgerFault (s : State) (c first count : Nat) : Option (Nat × Nat) :=
  let cold := (List.range count).filter fun k => !(ctxOf s c).ledger.any fun l => l.slot = first + k
  (badTouched s (physPieces s c (cold.map fun k => (entryDa s c (first + k), 64)))).map fun l => (msFault, l)

/-- The work of LEDGER_READ. -/
def workLedgerRead (s : State) (raw : Nat) : CmdOut :=
  let c := cmdCtx raw
  let first := fld raw 8 2
  let count := fld raw 12 4
  let dst := fld raw 0x10 8
  cmdTry s [ledgerArgs raw, dstChk s 0xFF dst (64 * count) 0x10, chk (!isOpen s c) msConflict 0, ledgerFault s c first count]
    fun s => dstWrite s 0xFF dst (ledgerImage s c first count) (64 * count) 0

/-- LEDGER_READ (R458). -/
def execLedgerRead (place : Nat) (s : State) : Host.Outcome State Fault Refusal :=
  .next (runCmd s place 0x24 (fun _ => true) workLedgerRead)

/-- The first entry of a source that breaks *Scale Ledger entry* (R70). -/
def ledgerBad (v count : Nat) : Option (Nat × Nat) :=
  (List.range count).findSome? fun k => (entryBadField (fld v (64 * k) 64)).map fun o => (msInvalid, 64 * k + o)

/-- Write entries to memory; the cache then holds them as memory does (R75, R458). -/
def ledgerStore (s : State) (c first count v : Nat) : State :=
  let s := updCtx s c fun x => { x with ledger := x.ledger.filter fun l => !(first ≤ l.slot && l.slot < first + count) }
  fwWrite s c (entryDa s c first) v (64 * count)

/-- The work of LEDGER_WRITE. -/
def workLedgerWrite (s : State) (raw : Nat) : CmdOut :=
  let c := cmdCtx raw
  let first := fld raw 8 2
  let count := fld raw 12 4
  let src := fld raw 0x10 8
  cmdTry s [ledgerArgs raw, srcChk s 0xFF src (64 * count) 0x10, chk (!isOpen s c) msConflict 0,
      srcFault s 0xFF src (64 * count), ledgerBad (fwRead s 0xFF src (64 * count)) count,
      chk ((ctxOf s c).queued ≠ [] || (ctxOf s c).flight ≠ []) msConflict 0]
    fun s => { st := ledgerStore s c first count (fwRead s 0xFF src (64 * count)) }

/-- LEDGER_WRITE (R458). -/
def execLedgerWrite (place : Nat) (s : State) : Host.Outcome State Fault Refusal :=
  .next (runCmd s place 0x25 (fun _ => true) workLedgerWrite)

/-! ### Stash handles (R202, R459) -/

/-- The checks of one source entry: reserved bytes, Module fields zero, and *Handle entry* (R202, R459). -/
def handleBad (g : StashCfg) (e : Nat) : Option (Nat × Nat) :=
  let reserved := firstBad (([(0, bits (fld e 0 1) 3 5 ≠ 0), (3, bits (fld e 3 1) 3 5 ≠ 0)] : List (Nat × Bool)) ++ bytesZero e 4 8 ++
    ([(0x19, bits (fld e 0x18 2) 12 4 ≠ 0)] : List (Nat × Bool)) ++ bytesZero e 0x1A 0x1C ++ bytesZero e 0x32 0x34 ++ bytesZero e 0x6D 0x80)
  let own := firstBad (([(2, fld e 2 1 ≠ 0)] : List (Nat × Bool)) ++ bytesZero e 0x28 0x32 ++ bytesZero e 0x34 0x6D)
  let pol := hPolicy e
  let room (off : Nat) (k : Nat) : Bool := poolSize g k < off + hPlan e
  let table := firstBad [(0, 4 < pol), (1, !compOk pol (hComp e)),
    (3, (hRaiseEn e && !(pol = 2 || pol = 3)) || (hRecompEn e && pol ≠ plRecompute)),
    (8, hPoolOff e % granule ≠ 0 || (poolOf pol).any fun k => room (hPoolOff e) k),
    (0x10, hRaiseOff e % granule ≠ 0 || (!hRaiseEn e && hRaiseOff e ≠ 0) || (hRaiseEn e && room (hRaiseOff e) 0)),
    (0x18, !hRecompEn e && fld e 0x18 2 ≠ 0),
    (0x20, hPlan e % granule ≠ 0 || ((poolOf pol).isNone && hPlan e ≠ 0))]
  firstSome [reserved.map fun o => (msReserved, o), own.map fun o => (msInvalid, o), table.map fun o => (msInvalid, o)]

/-- The first source entry that breaks its table. -/
def handlesBad (g : StashCfg) (v count : Nat) : Option (Nat × Nat) :=
  (List.range count).findSome? fun k => (handleBad g (fld v (128 * k) 128)).map fun r => (r.1, 128 * k + r.2)

/-- Write the fields marked Mapper of one entry. -/
def writeMapper (s : State) (c h e : Nat) : State :=
  let da := handleDa s c h
  wrNum (wrNum (wrNum s c da (fld e 0 2) 2) c (da + 3) (fld e 3 1) 1) c (da + 8) (fld e 8 0x20) 0x20

/-- The work of STASH_WRITE. -/
def workStashWrite (s : State) (raw : Nat) : CmdOut :=
  let c := cmdCtx raw
  let g := (ctxOf s c).stash
  let first := fld raw 8 4
  let count := fld raw 12 4
  let src := fld raw 0x10 8
  let n := 128 * count
  let v := fwRead s 0xFF src n
  let dst := (g.base + 128 * first, n)
  cmdTry s [chk (isOpen s c && g.handles ≤ first) msInvalid 8, chk (isOpen s c && (count = 0 || g.handles < first + count)) msInvalid 12,
      srcChk s 0xFF src n 0x10, chk (!isOpen s c) msConflict 0, srcFault s 0xFF src n,
      handlesBad g v count, (badTouched s (physPieces s c [dst])).map fun l => (msFault, l),
      chk ((ctxOf s c).flight.any fun f => f.op.cls = ucStash) msConflict 0,
      chk ((List.range count).any fun k => hState (handleAt s c (first + k)) ≠ hsFree) msConflict 0]
    fun s => { st := (List.range count).foldl (fun s k => writeMapper s c (first + k) (fld v (128 * k) 128)) s }

/-- STASH_WRITE (R459). -/
def execStashWrite (place : Nat) (s : State) : Host.Outcome State Fault Refusal :=
  .next (runCmd s place 0x26 (fun _ => true) workStashWrite)

end Sys2Proof.Machine
end

