-- ==== Sys2Proof/Machine/Ras.lean ====
section
/-! DEFINITION. Reliability (R514 to R522, R527): what a detector's event does, coalescing, the logger and the record ring, the health code, suspect channels and the far tier's withdrawal. -/

namespace Sys2Proof.Machine

/-! ### Repair records and suspects (R294, R527) -/

/-- Insert a number into a rising list without repeats. -/
def insertUnique (l : List Nat) (a : Nat) : List Nat := if l.contains a then l else (l.filter (· < a)) ++ a :: l.filter (a < ·)

/-- A REPAIR event: its kind and item (R514, *Live repair and reconfiguration*). -/
def repairEvent (s : State) (kind item : Nat) : State := logErr s 13 2 0x17 0xFF (kind + item % 2 ^ 24 * 256)

/-- Mark a channel suspect: it is recorded for map-out at the next start-up (R527). -/
def markSuspect (s : State) (ch : Nat) : State :=
  if s.memS.suspects.contains ch then s
  else
    repairEvent { s with memS := { s.memS with suspects := insertUnique s.memS.suspects ch }
                         flash := { s.flash with outChans := insertUnique s.flash.outChans ch } } 3 ch

/-- Count an uncorrectable row of a channel: four distinct rows make it suspect (R527). -/
def noteUeRow (s : State) (line : Nat) : State :=
  let p := nearPlace s line
  let rows := insertUnique s.memS.ueRows (nearRow p)
  let s := { s with memS := { s.memS with ueRows := rows } }
  if 4 ≤ (rows.filter fun r => r % 256 = p.1).length then markSuspect s p.1 else s

/-- 24 hours in nanoseconds. -/
def dayNs : Nat := 86400000000000

/-- Count a corrected line of a channel: 1,024 distinct lines in 24 hours make it suspect (R527). -/
def noteCeLine (s : State) (line : Nat) : State :=
  let now := nowNs s
  let ls := (line, now) :: s.memS.ceLines.filter fun p => p.1 ≠ line && now < p.2 + dayNs
  let ch := (nearPlace s line).1
  let s := { s with memS := { s.memS with ceLines := ls } }
  if 1024 ≤ (ls.filter fun p => (nearPlace s p.1).1 = ch).length then markSuspect s ch else s

/-- The bits of a Stockpile line with the check bits of its eight words (R294). -/
def lineBits : Nat := 576

/-- A Stockpile word that fails twice at one bit, a check bit included, is recorded with its row (R294). -/
def noteSpBit (s : State) (line bitNo : Nat) : State :=
  let k := line / 64 * lineBits + bitNo % lineBits
  if s.memS.spFaultOnce.contains k then
    if s.memS.rowsRecorded.contains (line / 64) then s
    else
      repairEvent { s with memS := { s.memS with rowsRecorded := insertUnique s.memS.rowsRecorded (line / 64) }
                           flash := { s.flash with rows := insertUnique s.flash.rows (line / 64) } } 2 (line / 64)
  else { s with memS := { s.memS with spFaultOnce := k :: s.memS.spFaultOnce } }

/-! ### Operations that end in flight (R106, R144, R210, R262, R294, R301, R305, R306) -/

/-- May an operation in flight still end otherwise: it has not failed and has not been withdrawn? -/
def stillGood (f : Flight) : Bool := completing f.status

/-- A change of a table taken back, unless a later operation in flight has changed the same bytes (R210). -/
def undoOne (later : List Flight) (s : State) (u : Nat × Nat × Nat) : State :=
  if later.any fun g => g.acc.undo.any fun v => overlaps u.1 (u.1 + u.2.1) v.1 (v.1 + v.2.1) then s
  else wrPhys s u.1 u.2.2 u.2.1

/-- A fabric operation in flight that fails sends its ABORTs and drops its transactions (R381, R414). -/
def failFabric (s : State) (c : Nat) (f : Flight) (status detail : Nat) : State :=
  if f.cls = ucFabric && !f.ended then
    match instOf s c f.op.opIndex with
    | some i => collFail s i status detail s.fab.node
    | none => dropTxns s c f.op.opIndex
  else s

/-- An operation in flight fails: what it wrote is unpredictable, what its tables held is restored, and its status and DETAIL say why. A swap's, an append's or a stash operation's own bookkeeping follows its chapter (R210, R262). -/
def failFlight (s : State) (c : Nat) (f : Flight) (status detail : Nat) : State :=
  let later := laterThan (ctxOf s c) f
  let s := failFabric s c f status detail
  let s := loseOutputs s f.acc
  let s := f.acc.undo.reverse.foldl (undoOne later) s
  let s := if f.op.cls = ucCanopy then ringRollback s c f.aux else s
  let s := if f.op.cls = ucStash then stashUndo s c later f.op.opcode f.op.env (nth 0 f.aux 0) else s
  updCtx s c fun x => { x with flight := x.flight.map fun g =>
    if g.op.opIndex = f.op.opIndex then { g with status := status, detail := detail, ended := true, held := false } else g }

/-- Does an operation in flight read a word or line, or write it in part (R294, R301, R305)? -/
def meetsLine (f : Flight) (b : BadRange) : Bool :=
  rangesMeet f.acc.rd [(b.addr, b.len)] || (rangesMeet f.acc.wr [(b.addr, b.len)] && !coversBad f.acc.wr b)

/-- The operation that an uncorrectable error ends: of the context that the event names, the first to have issued of those in flight that meet the word or line (assumption 178). -/
def readerOf (s : State) (c : Nat) (b : BadRange) : Option Flight :=
  (ctxOf s c).flight.find? fun f => stillGood f && meetsLine f b

/-- A reading operation ends with MEMORY_FAULT, or, where no operation reads the line, the feed that does stops (R346); an error that the event gives no context was met by the host, the Foreman or a scrubber. -/
def endReader (s : State) (c : Nat) (b : BadRange) : State :=
  if 8 ≤ c then s
  else
    match readerOf s c b with
    | some f => failFlight s c f stMemFault (b.addr / 64 * 64)
    | none =>
      match feedReader s c b with
      | some (f, da) => haltFeed s c f.id stMemFault da
      | none => s

/-! ### The far tier's withdrawal (R306) -/

/-- The first far-tier byte that an operation in flight reads or writes. -/
def touchesFar (f : Flight) : Option Nat :=
  ((f.acc.rd ++ f.acc.wr).find? fun p => farBase ≤ p.1 && p.1 < farBase + farSize).map (·.1)

/-- An operation in flight that touches the withdrawn tier ends with MEMORY_FAULT. -/
def farFlight (s : State) (c : Nat) (f : Flight) : State :=
  match touchesFar f with
  | some a => if stillGood f then failFlight s c f stMemFault (a / 64 * 64) else s
  | none => s

/-- The far tier is withdrawn whole. -/
def withdrawFar (s : State) : State :=
  if s.memS.farWithdrawn then s
  else
    let s1 := (List.range 8).foldl (fun t c => (ctxOf t c).flight.foldl (fun t f => farFlight t c f) t) s
    { s1 with memS := { s1.memS with farWithdrawn := true } }

/-! ### What an event means for the machine -/

/-- The severities that a class has (R514). -/
def sevOk (cls sev : Nat) : Bool :=
  match cls with
  | 0 => sev ≤ 1 | 1 => sev ≤ 2 | 2 => sev ≤ 2 | 3 => true | 4 => sev = 0 || sev = 2 | 5 => sev = 0 || sev = 2 | 6 => sev = 1
  | 7 => sev ≤ 1 | 8 => sev = 1 || sev = 2 | 9 => sev = 0 || sev = 2 || sev = 3 | 10 => 1 ≤ sev | 11 => sev = 1 || sev = 2
  | 12 => 2 ≤ sev | 13 => sev = 2 | 14 => sev = 2 | 15 => sev = 1 || sev = 2 | _ => false

/-- The class that a line's error belongs to. -/
def lineClass (line : Nat) : Option Nat :=
  if line < 0x40000000 then some 0 else if nearBase ≤ line && line < nearBase + nearSize then some 1
  else if farBase ≤ line && line < farBase + farSize then some 2 else none

/-- The word or line of an error: a word of the Stockpile, a line of a tier. -/
def badAt (line word : Nat) : BadRange := if line < 0x40000000 then ⟨line + 8 * (word % 8), 8⟩ else ⟨line, 64⟩

/-- Put an uncorrectable error into memory. -/
def addBad (s : State) (b : BadRange) : State :=
  if s.memS.bad.contains b then s else { s with memS := { s.memS with bad := b :: s.memS.bad } }

/-- The matrix operation that the array runs: the last that issued to it. -/
def arrayOp (s : State) : Option (Nat × Flight) :=
  let c := s.quarry.lastCtx
  (((ctxOf s c).flight.filter fun f => f.op.cls = ucQuarry && f.cls = ucQuarry).getLast?).map fun f => (c, f)

/-- A parity error in the array: the operation in flight ends with ARRAY_FAULT, its region unpredictable (R106). -/
def arrayFault (s : State) : State :=
  match arrayOp s with
  | none => s
  | some (c, f) => failFlight s c f 0x1F 0

/-- The logical cube column that a physical column of a plane serves; none for a column that a repair replaced and for a spare not in use (R105). -/
def logicalCol (s : State) (plane col : Nat) : Option Nat :=
  let b := fld s.quarry.colRepair.toNat plane 1
  if b < 128 then (if col < 32 then some col else none)
  else if col < b % 64 then some col else if col = b % 64 then none else some (col - 1)

/-- A double-bit error in the Sump: one accumulator of the event's plane, local row and column; which of the column's eight the event does not say, a free value (R94). The operations in flight that read it end with ARRAY_FAULT. -/
def sumpError (s : State) (key : Nat) : State :=
  match logicalCol s (bits key 0 3) (bits key 3 6) with
  | none => s
  | some j =>
    let (k, s) := drawFree s
    let a := accKey (bits key 0 3) (bits key 9 11) (8 * j + (Config.freeWord k).toNat % 8)
    let s := { s with sumpBad := insertUnique s.sumpBad a }
    (List.range 8).foldl (fun t c => (ctxOf t c).flight.foldl (fun t f =>
      if stillGood f && f.acc.sumpRd.any (fun r => inRegion r a) then failFlight t c f 0x1F 0 else t) t) s

/-- The relay-only cause that a fatal event stands for (R17, R514). -/
def fatalCause (cls : Nat) : Nat :=
  if cls = 9 then causeThermal else if cls = 10 then causeInput else if cls = 1 then causeMemory else causeFace

/-- Effects of an event on what it is about: counters, bad words and lines, the reading operation, the array, suspects, withdrawal (R94, R106, R294, R301, R305, R306, R527). An error of the far tier's link is one of a single read and leaves the line good (R305). -/
def eventEffect (s : State) (e : ErrEvent) : State :=
  let line := e.key % 2 ^ 48 / 64 * 64
  let onLine := lineClass line = some e.cls
  if e.cls = 0 && onLine then
    (if e.sev = 0 then noteSpBit { s with memS := { s.memS with spCe := s.memS.spCe + 1 } } line (e.info % lineBits)
     else
       let b := badAt line e.info
       endReader (addBad { s with memS := { s.memS with spUe := s.memS.spUe + 1 } } b) e.ctx b)
  else if e.cls = 1 && onLine && e.sev < 2 then
    (if e.sev = 0 then noteCeLine { s with memS := { s.memS with nearCe := s.memS.nearCe + 1 } } line
     else
       let b := badAt line 0
       noteUeRow (endReader (addBad { s with memS := { s.memS with nearUe := s.memS.nearUe + 1 } } b) e.ctx b) line)
  else if e.cls = 2 then
    (if e.sev = 0 then { s with memS := { s.memS with farCe := s.memS.farCe + 1 } }
     else if e.sev = 1 then
       (if onLine then endReader { s with memS := { s.memS with farUe := s.memS.farUe + 1 } } e.ctx (badAt line 0) else s)
     else withdrawFar s)
  else if e.cls = 3 then
    (if bits e.key 20 3 = 7 then
      (if e.sev = 0 then { s with quarry := { s.quarry with sumpCe := if s.quarry.freeze then s.quarry.sumpCe else s.quarry.sumpCe + 1 } }
       else if e.sev = 1 then sumpError s e.key else s)
     else if e.sev = 1 then arrayFault s else s)
  else s

/-- ERROR_EVENT (R514 to R517): a detector's event takes its effect and goes through capture, coalescing or the FIFO; a fatal one causes relay-only operation. -/
def execErrorEvent (cls : Fin 16) (sev : Fin 4) (src inst ctx : BitVec 8) (key : BitVec 64) (info : BitVec 128) (s : State) :
    Host.Outcome State Fault Refusal :=
  if !s.aoc.on || !sevOk cls sev then .next s
  else
    let e : ErrEvent := ⟨cls, sev, src.toNat, inst.toNat, ctx.toNat, key.toNat, info.toNat⟩
    let s1 := reportError (eventEffect s e) e
    .next (withHealth s (if sev.val = 3 then relayEnter s1 (fatalCause cls) else s1))

/-- COALESCE_CLOSE (R516): an entry whose window has passed enters the FIFO. -/
def execCoalesceClose (entry : Fin 32) (s : State) : Host.Outcome State Fault Refusal :=
  .next { s with ras := closeCoal s.ras entry }

/-! ### The logger (R517 to R521) -/

/-- SEQ of record number n (R518). -/
def seqOf (n : Nat) : Nat := (n - 1) % 0xFFFFFFFF + 1

/-- Records in the ring. -/
def ringSlots : Nat := 4096

/-- Sixteen counts as u16 each, saturating. -/
def lostWords (l : List Nat) : Nat := packBits (l.map fun n => (min n 0xFFFF, 16))

/-- Class of a record for the overflow counts: an ERROR record's own, otherwise that of its earliest non-zero count (R519). -/
def recClass (r : Nat) : Nat :=
  if fld r 0 1 = 0 then fld r 1 1
  else ((List.range 16).find? fun c => fld r (0x10 + 2 * c) 2 ≠ 0).getD 0

/-- The record that a commit overwrites is counted where it was never read (R519). -/
def countOverwritten (r : RasS) : RasS :=
  let n := r.n + 1
  if n ≤ ringSlots || n - ringSlots ≤ r.highRead then r
  else
    let old := smGet 0 r.ring ((n - 1) % ringSlots)
    { r with overflowed := updAt r.overflowed (recClass old) (· + 1), overflowLost := r.overflowLost + 1 }

/-- Put a record without its SEQ into the ring as the next one (R518). -/
def putRecord (r : RasS) (rec : Nat) : RasS :=
  let n := r.n + 1
  { r with ring := smPut r.ring ((n - 1) % ringSlots) (setFld rec 0x3C 4 (seqOf n)), n := n, records := r.records + 1 }

/-- An OVERFLOW or SUMMARY record. -/
def countRecord (s : State) (kind : Nat) (counts : List Nat) : Nat :=
  packBits [(kind, 8), (0, 56), (nowNs s, 64), (lostWords counts, 256)]

/-- Does an event's record become the last fault (R521)? -/
def labelWorthy (e : ErrEvent) : Bool := 2 ≤ e.sev || (e.sev = 1 && e.cls ≤ 3)

/-- Is an event's record persisted (R520)? -/
def persistWorthy (e : ErrEvent) : Bool := labelWorthy e || e.cls = 12 || e.cls = 13

/-- An ERROR record without its SEQ (R518). -/
def errorRecord (e : Coal) (flash : Bool) : Nat :=
  packBits [(0, 8), (e.ev.cls, 8), (e.ev.sev, 8), (b2n (1 < e.count), 1), (b2n flash, 1), (b2n (labelWorthy e.ev), 1), (b2n e.first, 1), (0, 4),
    (e.ev.src, 8), (e.ev.inst, 8), (e.ev.ctx, 8), (0, 8), (e.tFirst.toNat, 64), (e.tLast.toNat, 64), (e.count, 32), (e.boot, 32),
    (e.ev.key, 64), (e.ev.info, 128)]

/-- The persisted log takes a record, at most 10 per second, and holds 16,384 (R520). -/
def persist (r : RasS) (now rec : Nat) : RasS :=
  let recent := r.persistAt.filter fun t => now < t + 1000000000
  if 10 ≤ recent.length then { r with persistAt := recent }
  else { r with persistAt := now :: recent, persisted := (r.persisted ++ [rec]).drop (r.persisted.length + 1 - 16384) }

/-- ERROR_LOGGED, at most one a class in a millisecond (R438). -/
def errorLogged (s : State) (cls seq : Nat) : State :=
  let due : Bool := match nth none s.ras.lastEvent cls with
    | some t => decide (t + 1000000 ≤ nowNs s)
    | none => true
  if due then
    postEvent { s with ras := { s.ras with lastEvent := s.ras.lastEvent.set cls (some (nowNs s)) } } 0x88 0xFF 0 (seq + cls * 2 ^ 32)
  else s

/-- The logger commits the record of one event (R518 to R521). -/
def commitEvent (s : State) (e : Coal) : State :=
  let r := putRecord (countOverwritten s.ras) (errorRecord e false)
  let seq := seqOf r.n
  let worthy := labelWorthy e.ev
  let r := if persistWorthy e.ev then persist r (nowNs s) (setFld (errorRecord e false) 0x3C 4 seq) else r
  let r := { r with lastFault := if worthy then seq else r.lastFault, sevSeen := r.sevSeen || e.ev.sev = 1 || e.ev.sev = 3 }
  let s := traceEvent { s with ras := r } 39 6 0xFF (packBits [(seq, 32), (e.ev.cls, 8), (e.ev.sev, 8)])
  let s := errorLogged s e.ev.cls seq
  if worthy then requestLabel s else s

/-- LOG_COMMIT (R517, R519): one record: an OVERFLOW while counts of unread records stand, a SUMMARY once the FIFO has run empty after refusing events, else the next event. -/
def execLogCommit (s : State) : Host.Outcome State Fault Refusal :=
  let r := s.ras
  if s.mbx.fwState ≠ 2 then .next s
  else if r.overflowed.any (0 < ·) then
    let r1 := countOverwritten r
    .next { s with ras := { putRecord r1 (countRecord s 1 r1.overflowed) with overflowed := List.replicate 16 0 } }
  else if r.sumDue then
    .next { s with ras := { putRecord (countOverwritten r) (countRecord s 2 r.dropped) with dropped := List.replicate 16 0, sumDue := false } }
  else
    match r.fifo with
    | [] => .next s
    | e :: rest =>
      let due := rest = [] && r.dropped.any (0 < ·)
      .next (withHealth s (commitEvent { s with ras := { r with fifo := rest, sumDue := due } } e))

/-! ### Registers (R515, R531) -/

/-- RAS_FIRST_CLR (R515): a write of 1 to bit c clears VALID of class c. -/
def execRasFirstClr (value : BitVec 64) (s : State) : Host.Outcome State Fault Refusal :=
  if !barOn s then .next s
  else .next { s with ras := { s.ras with first := s.ras.first.zipIdx.map fun p => if value.getLsbD p.2 then noCapture else p.1 } }

/-- RAS_FIFO.HW_RESET (R531): HIGH_WATER becomes the current occupancy. -/
def execHwReset (s : State) : Host.Outcome State Fault Refusal :=
  if !barOn s then .next s else .next { s with ras := { s.ras with highWater := s.ras.fifo.length } }

end Sys2Proof.Machine
end

