-- ==== Sys2Proof/Machine/Admin.lean ====
section
/-! DEFINITION. Foreman commands on the module itself: IDENTIFY, HEALTH, configuration items (R441 to R443), LOG_READ (R466, R518, R519), PWR_CAP and PWR_RETAIN (R296, R297, R466). -/

namespace Sys2Proof.Machine

/-! ### Identity and health (R441, R442) -/

/-- The part name of the identity data, ASCII. -/
def partName : List Nat := [0x4E, 0x47, 0x4C, 0x31, 0x2D, 0x33, 0x38, 0x34]

/-- A firmware region. -/
def regionFw (s : State) (r : Nat) : FwRegion := nth resetRegion s.flash.regions r

/-- A bank of a region. -/
def bankOf (g : FwRegion) (b : Nat) : Bank := nth ⟨0, 0, 0, 0⟩ g.banks b

/-- The version in force in a region. -/
def activeVersion (s : State) (r : Nat) : Nat := (bankOf (regionFw s r) (regionFw s r).active).version

/-- The version of the Foreman that runs. -/
def foremanVersion (s : State) : Nat := (bankOf (regionFw s 0) s.flash.bootBank).version

/-- The last usable DA of a Face's range; in global mode entry 0 is the near tier's (R27, R441). -/
def nearTop (s : State) (f : Nat) : Nat :=
  if s.memS.globalMode then (if f = 0 then nearBase + nearSize - 0x60000000 * s.memS.mapped.length - 1 else 0)
  else nearBase + (f + 1) * faceSpan - 0x60000000 * mappedInFace s f - 1

/-- The identity data. -/
def identifyData (s : State) : Nat :=
  packBits ([(ofBytes partName, 128), (Config.otpSerial.toNat, 64), (boardRev, 8), (0xB1, 8), (1, 8), (0, 8),
    (foremanVersion s, 32), (s.fab.node, 16), (s.aoc.slot, 8), (b2n s.memS.globalMode, 8), (b2n s.memS.farWithdrawn, 8), (8, 8),
    (s.flash.bootBank, 8), (1, 8), (s.boot, 32), (0, 32)] ++ (List.range 4).map (fun f => (nearTop s f, 64)) ++
    (List.range 5).map fun r => (activeVersion s r, 32))

/-- The work of IDENTIFY. -/
def workIdentify (s : State) (raw : Nat) : CmdOut :=
  cmdTry s [dstChk s 0xFF (fld raw 8 8) 512 8] fun s => dstWrite s 0xFF (fld raw 8 8) (identifyData s) 512 1

/-- IDENTIFY (R441). -/
def execIdentify (place : Nat) (s : State) : Host.Outcome State Fault Refusal :=
  .next (runCmd s place 0x01 (fun _ => true) workIdentify)

/-- Bits of a list of Booleans. -/
def bitsOf (l : List Bool) : Nat := packBits (l.map fun b => (b2n b, 1))

/-- The health data. -/
def healthData (s : State) : Nat :=
  packBits ([(modeCode s.mode, 8), (s.relayCause, 8), (healthCode s, 16), (s.ras.lastFault, 32), (bitsOf s.pwr.faces, 8),
    (b2n s.memS.farWithdrawn, 8), (s.memS.mapped.length, 8), (0, 8), (10 * s.pwr.vin, 32), (s.pwr.pin, 16), (capInForce s, 16),
    (qclkOf s, 16), (0, 16), (s.quarry.colRepair.toNat, 64)] ++ s.pwr.tj.map (fun t => (ofInt (wholeCelsius t) 8, 8)) ++
    s.memS.stackTemp.map (fun t => (t, 8)) ++ [(0, 32)] ++ [(sumNat (s.memS.mapped.map (2 ^ ·)), 256)] ++
    [(bitsOf (s.fab.ports.map fun p => p.st = 2), 16), (0, 48), (bitsOf (s.fab.tunnels.map (·.up)), 64)])

/-- The work of HEALTH. -/
def workHealth (s : State) (raw : Nat) : CmdOut :=
  cmdTry s [dstChk s 0xFF (fld raw 8 8) 256 8] fun s =>
    dstWrite s 0xFF (fld raw 8 8) (healthData s) 256 (modeCode s.mode + healthCode s * 2 ^ 16)

/-- HEALTH (R442). -/
def execHealth (place : Nat) (s : State) : Host.Outcome State Fault Refusal :=
  .next (runCmd s place 0x02 (fun _ => true) workHealth)

/-! ### Configuration items (R443) -/

/-- The value of an item; none for a reserved one. -/
def cfgItem (s : State) (item : Nat) : Option Nat :=
  match item with
  | 1 => some (b2n s.memS.globalMode)
  | 2 => some s.mbx.eventMask
  | 3 => some s.mbx.autoRetainUs
  | _ => none

/-- The work of CFG_GET. -/
def workCfgGet (s : State) (raw : Nat) : CmdOut :=
  match cfgItem s (fld raw 8 2) with
  | none => cmdFail s msReserved 8
  | some v => { st := s, result := v }

/-- CFG_GET (R443). -/
def execCfgGet (place : Nat) (s : State) : Host.Outcome State Fault Refusal :=
  .next (runCmd s place 0x03 (fun _ => true) workCfgGet)

/-- Set the interleave mode: a change leaves the near tier's contents open (R26). -/
def setInterleave (s : State) (global : Bool) : State :=
  if s.memS.globalMode = global then s
  else loseRange { s with memS := { s.memS with globalMode := global } } nearBase (nearBase + nearSize)

/-- The work of CFG_SET. -/
def workCfgSet (s : State) (raw : Nat) : CmdOut :=
  let item := fld raw 8 2
  let v := fld raw 0x10 8
  if item = 1 then
    cmdTry s [chk (1 < v) msInvalid 0x10, chk (anyOpen s) msConflict 0] fun s => { st := setInterleave s (v = 1) }
  else if item = 2 then
    cmdTry s [chk (0xFFF < v) msReserved (if fld v 1 1 ≥ 16 then 0x11 else 0x10 + ((List.range 8).find? fun k => 2 ≤ k && fld v k 1 ≠ 0).getD 0)]
      fun s => { st := updMbx s fun m => { m with eventMask := v } }
  else if item = 3 then
    cmdTry s [chk (10000000 < v) msInvalid 0x10] fun s => { st := updMbx s fun m => { m with autoRetainUs := v } }
  else cmdFail s msReserved 8

/-- CFG_SET (R443). -/
def execCfgSet (place : Nat) (s : State) : Host.Outcome State Fault Refusal :=
  .next (runCmd s place 0x04 (fun _ => true) workCfgSet)

/-! ### The log (R466, R518, R519) -/

/-- Number of the oldest record held; 1 on an empty ring. -/
def oldestRec (r : RasS) : Nat := if r.n ≤ ringSlots then 1 else r.n - ringSlots + 1

/-- Is SEQ a later than SEQ b (R518)? -/
def seqLater (a b : Nat) : Bool := (let d := (a + 0xFFFFFFFF - b % 0xFFFFFFFF) % 0xFFFFFFFF; 1 ≤ d && d ≤ 0x7FFFFFFF)

/-- The record number from which a read starts; none where FROM is later than the newest. -/
def logStart (r : RasS) (seq : Nat) : Option Nat :=
  let lo := oldestRec r
  if r.n = 0 then none
  else
    match (List.range (r.n + 1 - lo)).find? fun k => seqOf (lo + k) = seq with
    | some k => some (lo + k)
    | none => if seqLater (seqOf lo) seq then some lo else none

/-- Records written by a read: the first's number and how many. -/
def logSpan (r : RasS) (seq most : Nat) : Nat × Nat :=
  match logStart r seq with
  | none => (r.n + 1, 0)
  | some k => (k, min most (r.n + 1 - k))

/-- The work of LOG_READ: RESULT holds the records written, the sequence after the last of them, and the oldest held. -/
def workLogRead (s : State) (raw : Nat) : CmdOut :=
  let c := cmdCtx raw
  let most := fld raw 12 2
  let dst := fld raw 0x10 8
  let (k, n) := logSpan s.ras (fld raw 8 4) most
  let v := packBits ((List.range n).map fun i => (smGet 0 s.ras.ring ((k + i - 1) % ringSlots), 512))
  let res := packBits [(n, 32), (seqOf (k + n), 32), (if s.ras.n = 0 then 0 else seqOf (oldestRec s.ras), 32)]
  cmdTry s [chk (most = 0 || 4096 < most) msInvalid 12, dstChk s c dst (64 * most) 0x10] fun s =>
    let r := dstWrite s c dst v (64 * n) res
    if r.status = 0 && 0 < n then { r with st := { r.st with ras := { r.st.ras with highRead := max s.ras.highRead (k + n - 1) } } } else r

/-- LOG_READ (R466). -/
def execLogRead (place : Nat) (s : State) : Host.Outcome State Fault Refusal :=
  .next (runCmd s place 0x40 (fun _ => true) workLogRead)

/-! ### Power (R296, R297, R466, R496) -/

/-- The work of PWR_CAP: it waits until a 10 ms average at or below the new cap has been measured (R497). -/
def workPwrCap (s : State) (raw : Nat) : CmdOut :=
  let w := fld raw 8 2
  cmdTry s [chk (w < 1200 || 2750 < w) msInvalid 8] fun s => { st := updPwr s fun p => { p with cap := w }, wait := true }

/-- PWR_CAP (R466). -/
def execPwrCap (place : Nat) (s : State) : Host.Outcome State Fault Refusal :=
  .next (runCmd s place 0x44 (fun _ => true) workPwrCap)

/-- Address range of a retention group. -/
def groupRange (g : Nat) : Nat × Nat := (g * 0x2000000, (g + 1) * 0x2000000)

/-- Put a retention group into a state: an OFF group that is turned on is zero with valid check bits; one that is put OFF loses its contents (R296, R297). -/
def setGroup (s : State) (st g : Nat) : State :=
  let (lo, hi) := groupRange g
  let old := nth 0 s.memS.ret g
  let s1 := { s with memS := { s.memS with ret := s.memS.ret.set g st } }
  if old = st then s
  else if old = 2 then clearBad (zeroRange s1 lo hi) [(lo, hi - lo)]
  else if st = 2 then loseRange s1 lo hi
  else s1

/-- Does an open context's map cover a group (R297)? -/
def groupMapped (s : State) (g : Nat) : Bool :=
  (List.range 8).any fun c => isOpen s c && (ctxOf s c).maps.any fun e =>
    overlaps e.pda (e.pda + e.len) (groupRange g).1 (groupRange g).2

/-- The groups that a command names. -/
def namedGroups (raw : Nat) : List Nat :=
  (List.range 32).filter fun g => bit (fld raw 8 1) (g / 8) && bit (fld raw 9 1) (g % 8)

/-- The work of PWR_RETAIN. -/
def workPwrRetain (s : State) (raw : Nat) : CmdOut :=
  let st := fld raw 10 1
  cmdTry s [chk (15 < fld raw 8 1) msInvalid 8, chk (2 < st) msInvalid 10,
      chk (st = 2 && (namedGroups raw).any (groupMapped s)) msConflict 0]
    fun s => { st := traceState ((namedGroups raw).foldl (fun s g => setGroup s st g) s) 35 0xFF }

/-- PWR_RETAIN (R466). -/
def execPwrRetain (place : Nat) (s : State) : Host.Outcome State Fault Refusal :=
  .next (runCmd s place 0x45 (fun _ => true) workPwrRetain)

end Sys2Proof.Machine
end

