-- ==== Sys2Proof/Machine/Bds.lean ====
section
/-! DEFINITION. The Box Decode and Suppression unit: BOXDEC, BOXSEL, NMS and ARGMAX (R245 to R251). -/

namespace Sys2Proof.Machine

/-! ### Parameter block (R245, R246) -/

def bdFlag (e i : Nat) : Bool := bit (par e 0 2) i
def bdCountSw (e : Nat) : Nat := par e 2 2
def bdLimit (e : Nat) : Nat := par e 4 4
def bdP (e i : Nat) : FVal := val32 (par e (8 + 4 * i) 4)

/-- Reserved fields: the flag bit an opcode names, whether it uses COUNT_SW and LIMIT, and its parameters. -/
def bdReserved (e flagBit : Nat) (usesSw usesLimit : Bool) (usesP : Nat → Bool) : List (Nat × Bool) :=
  ([(0x40, par e 0 2 &&& (0xFFFF - 2 ^ flagBit) ≠ 0),
    (0x42, if usesSw then bits (bdCountSw e) 12 3 ≠ 0 else bdCountSw e ≠ 0),
    (0x44, !usesLimit && bdLimit e ≠ 0)] : List (Nat × Bool)) ++
  ((List.range 8).map fun i => (0x48 + 4 * i, !usesP i && par e (8 + 4 * i) 4 ≠ 0)) ++ parZero e 0x28 0x40

/-- Write the output count to the shape word that COUNT_SW enables (R246). -/
def bdCount (s : State) (c e n : Nat) : State :=
  if bit (bdCountSw e) 15 then setShapeWord s c (bits (bdCountSw e) 0 12) n else s

/-- The shape word that COUNT_SW enables, as a store. -/
def bdCountIv (s : State) (c e : Nat) : List (Nat × Nat) :=
  if bit (bdCountSw e) 15 then [((ctxOf s c).swBase + 4 * bits (bdCountSw e) 0 12, 4)] else []

/-- The shared form: a run-time zero extent completes with the count written as 0 (R246); `outs` are the bytes the operation stores. -/
def bdBodyOf (mk : State → Nat → Nat → Plan) (outs : State → Nat → Nat → List (Nat × Nat)) (eff : State → Nat → Nat → Result) : Body := fun s c q =>
  let p := mk s c q.env
  match issueChecks s c p with
  | some (st, d) => if st = stZeroExtent then { st := bdCount s c q.env 0, status := st } else reject s st d
  | none => runAfter s c p (readsOf s c p.recs) (outs s c q.env ++ bdCountIv s c q.env) (fun s => eff s c q.env)

/-- An operation that writes its output records whole. -/
def bdBody (mk : State → Nat → Nat → Plan) (eff : State → Nat → Nat → Result) : Body :=
  bdBodyOf mk (fun s c e => writesOf s c (mk s c e).recs) eff

/-- Issue the head of a Face's BDS queue. -/
def bdOp (c face : Nat) (aged : Bool) (opcode : Nat) (body : Body) (s : State) : State :=
  issueOp s c ucBds face aged (isOp opcode) body

/-- A record of one of some formats, uncompressed. -/
def fmtIn (d : Desc) (l : List Nat) : Bool := l.contains d.fmtRaw && d.comp = 0

/-- Stores of selected elements bit for bit. -/
def elemPuts (d : Desc) (l : List (List Nat × Nat)) : List Put :=
  l.map fun p => let (a, b) := elemAddr d p.1; (a, b, ebits d.fmt, p.2)

/-- An index along dimension 0 alone. -/
def ix0 (k : Nat) : List Nat := [k, 0, 0, 0, 0, 0]

/-- The bytes of the first `n` entries of a rank-1 list of 32-bit elements: entries beyond a count are not written (R248, R249). -/
def entryIvs (d : Desc) (n : Nat) : List (Nat × Nat) := (List.range n).map fun k => ((elemAddr d (ix0 k)).1, 4)

/-- Do CBOX and CCLS have the form in which BOXSEL writes them (R248): u32, rank 1, a planned extent of 1 to 8,192? -/
def selList (d : Desc) : Bool := fmtIn d [0x0D] && d.rank = 1 && 1 ≤ extAt d 0 && extAt d 0 ≤ 8192

/-! ### BOXDEC (R247) -/

def boxdecPlan (s : State) (c e : Nat) : Plan :=
  let a := envRec e 0
  let dl := envRec e 1
  let b := envRec e 2
  let bad (d : Desc) : Bool := d.layout ≠ 0 || !(d.rank = 2 || d.rank = 3)
  { reserved := bdReserved e 0 false false fun i => i ≤ 4 || (bdFlag e 0 && i ≤ 6)
    recs := [drIn e 0, drIn e 1, drOut e 2 []]
    invalid := 0xE0
    broken := !fmtIn a [0] || !fmtIn dl [0, 1, 2] || !fmtIn b [0] || bad a || bad dl || bad b
    rels := [relDim s c b 0 (· == 4), relDim s c b 1 (fun n => n ≤ 1048576)] ++ relsSame s c a b ++ relsSame s c dl b
    zeroExt := [runExt s c a, runExt s c dl, runExt s c b] }

/-- The four coordinates of one box (R247). -/
def decodeBox (p : Nat → FVal) (clip : Bool) (an dl : Nat → FVal) : List FVal :=
  let cx2 := fma32f (mul32f (dl 0) (p 0)) (an 2) (an 0)
  let cy2 := fma32f (mul32f (dl 1) (p 1)) (an 3) (an 1)
  let w2 := mul32f (an 2) (exp32 (minN (mul32f (dl 2) (p 2)) (p 4)))
  let h2 := mul32f (an 3) (exp32 (minN (mul32f (dl 3) (p 3)) (p 4)))
  let cl (v top : FVal) : FVal := if clip then minN (maxN v fzero) top else v
  [cl (fma32f (fneg fhalf) w2 cx2) (p 5), cl (fma32f (fneg fhalf) h2 cy2) (p 6),
   cl (fma32f fhalf w2 cx2) (p 5), cl (fma32f fhalf h2 cy2) (p 6)]

def boxdecEff (s : State) (c e : Nat) : Result :=
  let a := envRec e 0
  let dl := envRec e 1
  let b := envRec e 2
  let box (o : List Nat) : List FVal :=
    decodeBox (bdP e) (bdFlag e 0) (fun k => valsOf s c a (k :: o)) (fun k => valsOf s c dl (k :: o))
  let ps := rawPuts b (runExt s c b) fun i => bits32 (nth .nan (box i.tail) (nth 0 i 0))
  { st := applyPuts s c ps, flags := readMany s c [a, dl] }

/-- BOXDEC at its unit. -/
def bodyBoxdec : Body := bdBody boxdecPlan boxdecEff
/-- BOXDEC (R247). -/
def execBoxdec (c : Fin 8) (face : Fin 4) (aged : Bool) (s : State) : Host.Outcome State Fault Refusal :=
  .next (bdOp c face aged 0xE0 bodyBoxdec s)

/-! ### BOXSEL (R248) -/

def boxselPlan (s : State) (c e : Nat) : Plan :=
  let sc := envRec e 0
  let cb := envRec e 1
  let cc := envRec e 2
  let cs := envRec e 3
  let pre := extAt cb 0
  { reserved := bdReserved e 1 true false fun i => i = 0
    recs := [drIn e 0, drOut e 1 [], drOut e 2 [], drOut e 3 []]
    invalid := 0xE0
    broken := !fmtIn sc [0, 1, 2, 3, 4] || sc.rank > 2 || !selList cb || !selList cc || !fmtIn cs [0] ||
      cs.rank ≠ 1 || extAt cc 0 ≠ pre || extAt cs 0 ≠ pre
    rels := [relDim s c sc 0 (fun n => n ≤ 1024),
      { dyn := sc.shapeEn, plan := extAt sc 0 * extAt sc 1 ≤ 16777216
        run := nth 0 (runExt s c sc) 0 * nth 0 (runExt s c sc) 1 ≤ 16777216 }]
    zeroExt := [runExt s c sc, runExt s c cb, runExt s c cc, runExt s c cs] }

/-- Does candidate `a` precede `b`: descending score, then ascending box, then ascending class (R248)? -/
def candLe (a b : FVal × Nat × Nat) : Bool :=
  ltX b.1 a.1 || (!ltX a.1 b.1 && (a.2.1 < b.2.1 || (a.2.1 = b.2.1 && a.2.2 ≤ b.2.2)))

/-- The qualifying pairs of BOXSEL as (score, box, class), in their order (R248). -/
def boxselPairs (s : State) (c e : Nat) : List (FVal × Nat × Nat) :=
  let sc := envRec e 0
  let pairs := (indices (runExt s c sc)).map fun i => (valsOf s c sc i, nth 0 i 1, nth 0 i 0)
  (pairs.filter fun p => !isNan p.1 && ltX (bdP e 0) p.1 && (p.2.2 ≠ 0 || !bdFlag e 1)).mergeSort candLe

def boxselEff (s : State) (c e : Nat) : Result :=
  let sc := envRec e 0
  let pre := extAt (envRec e 1) 0
  let q := boxselPairs s c e
  let out := (q.take pre).zipIdx
  let ps := elemPuts (envRec e 1) (out.map fun p => (ix0 p.2, p.1.2.1)) ++
    elemPuts (envRec e 2) (out.map fun p => (ix0 p.2, p.1.2.2)) ++
    elemPuts (envRec e 3) (out.map fun p => (ix0 p.2, bits32 p.1.1))
  let trunc := decide (pre < q.length)
  { st := bdCount (applyPuts s c ps) c e out.length, flags := readAll s c sc
    status := if trunc then 0xE1 else 0, detail := if trunc then min q.length 0xFFFFFFFF else 0 }

/-- BOXSEL at its unit: it writes the entries up to its count (R248). -/
def bodyBoxsel : Body :=
  bdBodyOf boxselPlan (fun s c e =>
    let n := min (boxselPairs s c e).length (extAt (envRec e 1) 0)
    [1, 2, 3].flatMap fun i => entryIvs (envRec e i) n) boxselEff
/-- BOXSEL (R248). -/
def execBoxsel (c : Fin 8) (face : Fin 4) (aged : Bool) (s : State) : Host.Outcome State Fault Refusal :=
  .next (bdOp c face aged 0xE1 bodyBoxsel s)

/-! ### NMS (R249) -/

/-- A u32 entry of a rank-1 list. -/
def listAt (s : State) (c : Nat) (d : Desc) (j : Nat) : Nat := elemRaw (rdCtx s c) d (ix0 j)

def nmsPlan (s : State) (c e : Nat) : Plan :=
  let b := envRec e 0
  let cb := envRec e 1
  let cc := envRec e 2
  let k := envRec e 3
  let p0 := bdP e 0
  { reserved := bdReserved e 2 true true fun i => i = 0
    recs := [drIn e 0, drIn e 1, drIn e 2, drOut e 3 []]
    invalid := 0xE0
    broken := !fmtIn b [0] || b.layout ≠ 0 || !(b.rank = 2 || b.rank = 3) || !selList cb || !selList cc || !fmtIn k [0x0D] ||
      k.rank ≠ 1 || bdLimit e < 1 || bdLimit e > 4096 || extAt k 0 < bdLimit e ||
      extAt cb 0 ≠ extAt cc 0 || !(leX fzero p0 && leX p0 fone)
    rels := [relDim s c b 0 (· == 4), relDim s c b 1 (fun n => n ≤ 1048576),
      { dyn := true, plan := true, run := nth 0 (runExt s c cb) 0 = nth 0 (runExt s c cc) 0 },
      { dyn := true, plan := true
        run := (List.range (nth 0 (runExt s c cb) 0)).all fun j => listAt s c cb j < rowCount (runExt s c b) }]
    zeroExt := [runExt s c b, runExt s c cb, runExt s c cc, runExt s c k] }

/-- area of R249. -/
def boxArea (v : List FVal) : FVal :=
  mul32f (maxN (sub32f (nth .nan v 2) (nth .nan v 0)) fzero) (maxN (sub32f (nth .nan v 3) (nth .nan v 1)) fzero)

/-- Is `b` suppressed by the kept box `a` (R249)? -/
def boxSuppressed (p0 : FVal) (a b : List FVal) : Bool :=
  let iw := maxN (sub32f (minN (nth .nan a 2) (nth .nan b 2)) (maxN (nth .nan a 0) (nth .nan b 0))) fzero
  let ih := maxN (sub32f (minN (nth .nan a 3) (nth .nan b 3)) (maxN (nth .nan a 1) (nth .nan b 1))) fzero
  let inter := mul32f iw ih
  let un := sub32f (add32f (boxArea a) (boxArea b)) inter
  ltX (mul32f p0 un) inter

/-- The loop of R249: kept positions in order, and the boxes it read. -/
def nmsLoop (p0 : FVal) (agnostic : Bool) (box : Nat → List FVal) (cls : Nat → Nat) (maxOut : Nat) : List Nat → List Nat → List FVal → List Nat × List FVal
  | [], kept, seen => (kept, seen)
  | j :: r, kept, seen =>
    if maxOut ≤ kept.length then (kept, seen)
    else
      let b := box j
      let seen' := seen ++ b
      if b.any isNan then nmsLoop p0 agnostic box cls maxOut r kept seen'
      else if kept.any (fun k => (agnostic || cls k = cls j) && boxSuppressed p0 (box k) b) then
        nmsLoop p0 agnostic box cls maxOut r kept seen'
      else nmsLoop p0 agnostic box cls maxOut r (kept ++ [j]) seen'

/-- The kept candidate positions of NMS in order, and the coordinates it read (R249). -/
def nmsRun (s : State) (c e : Nat) : List Nat × List FVal :=
  let b := envRec e 0
  let cb := envRec e 1
  let ext := runExt s c b
  let box (j : Nat) : List FVal := (List.range 4).map fun k => valsOf s c b (k :: outerOf ext (listAt s c cb j))
  nmsLoop (bdP e 0) (bdFlag e 2) box (listAt s c (envRec e 2)) (bdLimit e) (List.range (nth 0 (runExt s c cb) 0)) [] []

def nmsEff (s : State) (c e : Nat) : Result :=
  let (kept, seen) := nmsRun s c e
  { st := bdCount (applyPuts s c (elemPuts (envRec e 3) (kept.zipIdx.map fun p => (ix0 p.2, p.1)))) c e kept.length
    flags := readFlagsAll seen }

/-- NMS at its unit: it writes KEEP's entries up to its count (R249). -/
def bodyNms : Body := bdBodyOf nmsPlan (fun s c e => entryIvs (envRec e 3) (nmsRun s c e).1.length) nmsEff
/-- NMS (R249). -/
def execNms (c : Fin 8) (face : Fin 4) (aged : Bool) (s : State) : Host.Outcome State Fault Refusal :=
  .next (bdOp c face aged 0xE2 bodyNms s)

/-! ### ARGMAX (R250) -/

def argmaxPlan (s : State) (c e : Nat) : Plan :=
  let x := envRec e 0
  let v := envRec e 3
  let i := envRec e 4
  let prior := bdFlag e 3
  let outRel (d : Desc) : List Rel := relDim s c d 0 (· == 1) :: (List.range 5).map fun k => relEq s c x d (k + 1) (k + 1)
  { reserved := bdReserved e 3 false true fun _ => false
    recs := [drIn e 0] ++ (if prior then [drIn e 1, drIn e 2] else []) ++ [drOut e 3 [1], drOut e 4 [2]]
    invalid := 0xE0
    broken := !fmtIn x [0, 1, 2, 3, 4, 0x0A, 0x0B, 0x0C] || !fmtIn v [0] || !fmtIn i [0x0D] ||
      (if prior then !fmtIn (envRec e 1) [0] || !fmtIn (envRec e 2) [0x0D] else recNonZero e 1 || recNonZero e 2)
    rels := outRel v ++ outRel i ++ (if prior then relsSame s c (envRec e 1) v ++ relsSame s c (envRec e 2) i else [])
    zeroExt := [runExt s c x, runExt s c v, runExt s c i] }

/-- The better of two candidates (R250): NaN above every number, then the greater value, then the lower index. -/
def argBetter (a b : FVal × Nat) : FVal × Nat :=
  if isNan a.1 && isNan b.1 then (if b.2 < a.2 then b else a)
  else if isNan a.1 then a
  else if isNan b.1 then b
  else if ltX a.1 b.1 then b
  else if ltX b.1 a.1 then a
  else if b.2 < a.2 then b else a

def argmaxEff (s : State) (c e : Nat) : Result :=
  let x := envRec e 0
  let n := nth 0 (runExt s c x) 0
  let prior := bdFlag e 3
  let best (o : List Nat) : FVal × Nat :=
    let cs := (List.range n).map fun k => (valsOf s c x (k :: o), (bdLimit e + k) % 2 ^ 32)
    let cs := if prior then (valsOf s c (envRec e 1) (0 :: o), elemRaw (rdCtx s c) (envRec e 2) (0 :: o)) :: cs else cs
    match cs with
    | [] => (fzero, 0)
    | a :: r => r.foldl argBetter a
  let v := envRec e 3
  let i := envRec e 4
  let ps := rawPuts v (runExt s c v) (fun j => bits32 (best j.tail).1) ++ rawPuts i (runExt s c i) (fun j => (best j.tail).2)
  { st := applyPuts s c ps, flags := readMany s c (x :: if prior then [envRec e 1] else []) }

/-- ARGMAX at its unit. -/
def bodyArgmax : Body := bdBody argmaxPlan argmaxEff
/-- ARGMAX (R250). -/
def execArgmax (c : Fin 8) (face : Fin 4) (aged : Bool) (s : State) : Host.Outcome State Fault Refusal :=
  .next (bdOp c face aged 0xE3 bodyArgmax s)

end Sys2Proof.Machine
end

