-- ==== Sys2Proof/Machine/Canopy.lean ====
section
/-! DEFINITION. The Canopy: CATTN (R253 to R255, R264, R270), RAPPEND (R261 to R263, R271), the RSEQ functions (R272), their checks (R273) and the counter control (R275). -/

namespace Sys2Proof.Machine

/-! ### Shared checks (R273) -/

def stRing : Nat := 0x90
def stSeqState : Nat := 0x91
def stSeqFull : Nat := 0x92
def stCapacity : Nat := 0x93

/-- Sequence numbers of a LIST at its run-time extent. -/
def listSeqs (s : State) (c : Nat) (d : Desc) : List Nat :=
  (List.range (nth 1 (runExt s c d) 0)).map fun b => elemRaw (rdCtx s c) d [b, 0, 0, 0, 0, 0]

/-- Is a number no sequence, or a CLOSED one? -/
def seqAbsent (s : State) (c n : Nat) : Bool :=
  (ctxOf s c).ring.dirEntries ≤ n || deState (dirAt s c n) = seqClosed

/-- LIST index of the first entry that satisfies a test. -/
def firstEntry (l : List Nat) (p : Nat → Nat → Bool) : Option Nat :=
  (l.zipIdx.find? fun x => p x.1 x.2).map (·.2)

/-- Does a record break what R270 and R271 say of a Canopy operand? -/
def canFmtBad (d : Desc) : Bool := d.fmtRaw > 4 || d.layout ≠ 0 || d.comp ≠ 0 || d.ledgerEn

/-- A rule on one dimension whose planned value has a range and whose run-time value may be 0. -/
def relRange (s : State) (c : Nat) (d : Desc) (k lo hi : Nat) : Rel :=
  { dyn := d.shapeEn && d.swDim = k, plan := lo ≤ extAt d k && extAt d k ≤ hi, run := nth 1 (runExt s c d) k ≤ hi }

/-- Run-time rules judged where the planned ones are: R273 puts RING_INVALID before EXTENT_OVER_PLAN. -/
def relsFirst (p : Plan) : Plan :=
  { p with broken := p.broken || p.rels.any (fun r => !(if r.dyn then r.run else r.plan)), rels := [] }

/-- What an appended or attended sequence needs: LIST numbers with the tokens each adds, gathered by sequence (R265). -/
def needOf (s : State) (c : Nat) (l : List Nat) (t : Nat) : RingNeed :=
  l.dedup.map fun n => (n, pagesFor (ctxOf s c).ring (deLen (dirAt s c n) + t * l.count n))

/-- LIST index at which the needs of the entries so far first break the capacity. -/
def capacityAt (s : State) (c : Nat) (l : List Nat) (t : Nat) : Option Nat :=
  if capacityBad s c (needOf s c l t) then
    some (((List.range l.length).find? fun k => capacityBad s c (needOf s c (l.take (k + 1)) t)).getD 0)
  else none

/-- Tokens of a sequence once the first `b + 1` entries of a LIST have appended. -/
def lenAfter (s : State) (c : Nat) (l : List Nat) (t b : Nat) : Nat :=
  deLen (dirAt s c (nth 0 l b)) + t * (l.take (b + 1)).count (nth 0 l b)

/-- Checks 6 to 9 for a LIST whose entries add `t` tokens each. -/
def listChecks (s : State) (c : Nat) (l : List Nat) (t : Nat) (zero : Bool) : Option (Nat × Nat) :=
  firstSome [
    (firstEntry l fun n _ => seqAbsent s c n).map fun b => (stSeqState, b),
    (firstEntry l fun _ b => (ctxOf s c).ring.maxPages * 64 < lenAfter s c l t b).map fun b => (stSeqFull, b),
    (capacityAt s c l t).map fun b => (stCapacity, b),
    (if zero then some (stZeroExtent, 0) else none)]

/-- DETAIL of a swap that failed: the LIST index of the sequence, or a value the manual leaves open for a victim. -/
def swapDetail (s : State) (l : List Nat) (x : Nat × Nat) : State × Nat :=
  if x.1 ≠ stSwapFault then (s, x.2)
  else
    match firstEntry l fun n _ => n = x.2 with
    | some b => (s, b)
    | none => let (k, s) := drawFree s; (s, (Config.freeWord k).toNat % 2 ^ 32)

/-- An operation over a LIST: its checks, its swaps, then its effect (R265, R273). -/
def listOp (s : State) (c : Nat) (p : Plan) (l : List Nat) (t : Nat) (zero : Bool) (swapFail : Option Nat)
    (run : State → Result) : Result :=
  match issueChecks s c (relsFirst p) with
  | some (st, d) => reject s st d
  | none =>
    match listChecks s c l t zero with
    | some (st, d) => reject s st d
    | none =>
      match makeResident s c (needOf s c l t) swapFail with
      | (s1, some x) => let (s2, d) := swapDetail s1 l x; { st := s2, status := x.1, detail := d }
      | (s1, none) => run (l.dedup.foldl (fun s n => touchSeq s c n) s1)

/-! ### CATTN (R254, R255, R264, R270) -/

def caRetrieve (e : Nat) : Bool := bit (par e 0 1) 0
def caCausal (e : Nat) : Bool := bit (par e 0 1) 1
def caWriteSt (e : Nat) : Bool := bit (par e 0 1) 2
def caTopp (e : Nat) : Nat := par e 2 2
def caScale (e : Nat) : FVal := val32 (par e 4 4)
def caLambda (e : Nat) : FVal := val32 (par e 8 4)

/-- Parameter rules of CATTN. -/
def caParBad (e : Nat) : Bool :=
  (if caRetrieve e then !(1 ≤ caTopp e && caTopp e ≤ 256) else caTopp e ≠ 0) ||
  0x7F800000 ≤ par e 8 4 || (!caRetrieve e && par e 8 4 ≠ 0)

/-- Query heads per KV head. -/
def gqOf (g : RingCfg) (q : Desc) : Nat := extAt q 1 / g.kvh

def cattnPlan (s : State) (c e : Nat) : Plan :=
  let g := (ctxOf s c).ring
  let q := envRec e 0
  let o := envRec e 1
  let st := envRec e 2
  let l := envRec e 3
  let stRec := if caWriteSt e then [outRec e 2 deviceRegions] else []
  let stRels := if caWriteSt e then [relEq s c st q 1 1, relEq s c st q 2 2, relEq s c st q 3 3] else []
  { reserved := ([(0x40, bits (par e 0 1) 3 5 ≠ 0), (0x41, par e 1 1 ≠ 0)] : List (Nat × Bool)) ++ parZero e 0x0C 0x40
    recs := [inRec e 0 deviceRegions, outRec e 1 deviceRegions] ++ stRec ++ [inRec e 3 deviceRegions]
    parFoots := ringFoots g, invalid := stRing
    broken := !g.enabled || caParBad e || canFmtBad q || q.rank ≠ 4 || o.fmtRaw > 4 || o.comp ≠ 0 || o.rank ≠ 4 ||
      (caWriteSt e && (st.fmtRaw ≠ 0 || st.rank ≠ 4 || st.comp ≠ 0)) || (!caWriteSt e && st.raw ≠ 0) ||
      l.fmtRaw ≠ 0x0D || l.rank ≠ 1 || l.comp ≠ 0
    rels := [relDim s c q 0 fun v => v = g.d, relDim s c q 1 fun v => g.kvh ≠ 0 && v % g.kvh = 0 && 1 ≤ v / g.kvh && v / g.kvh ≤ 16,
        relRange s c q 2 1 64, relRange s c q 3 1 256] ++
      relsSame s c q o ++ (if caWriteSt e then [relDim s c st 0 fun v => v = 2] else []) ++ stRels ++ [relEq s c l q 0 3] }

/-- The stored values of one token's key or value (R257). -/
def ringVals (s : State) (c : Nat) (g : RingCfg) (f : Nat) (v : Bool) (h j : Nat) : List FVal :=
  let n := rdNum s c (rowDa g f v h j) (ringRow g)
  let w := ebits (ringFmt g)
  (List.range g.d).map fun k => decodeElem (ringFmt g) (bits n (k * w) w)

/-- 2^−E as a value. -/
def negPow (e : Int) : FVal := .fin false 1 (-e)

/-- A leaf: unnormalised output, maximum and sum. -/
abbrev Leaf := List FVal × SmSt

/-- The leaf of one page for one row (R254): the weights multiply the stored values of all 64 positions. -/
def leafOf (s : State) (c : Nat) (g : RingCfg) (f h : Nat) (q : List FVal) (scale : FVal) (vis : Nat → Bool) : Leaf :=
  let tr := rdNum s c (trailerDa g f h) 4
  let x := (List.range 64).map fun j =>
    if vis j then mul32f (mul32f (rsum (List.zipWith mul32f q (ringVals s c g f false h j))) (negPow (sext (fld tr 0 1) 8))) scale
    else .inf true
  let b := smBlock x
  if b.1 = .inf true then (List.replicate g.d fzero, b)
  else
    let p := x.map fun v => exp32 (sub32f v b.1)
    let vq := (List.range 64).map fun j => ringVals s c g f true h j
    let r := rcp32 b.2
    ((List.range g.d).map fun k =>
      mul32f (mul32f (rsum (List.zipWith (fun w v => mul32f w (nth fzero v k)) p vq)) (negPow (sext (fld tr 1 1) 8))) r, b)

/-- The empty leaf. -/
def noLeaf (d : Nat) : Leaf := (List.replicate d fzero, smNone)

/-- Two partial results joined (R192). -/
def joinLeaf (a b : Leaf) : Leaf :=
  (List.zipWith (mergeOut a.2 b.2) a.1 b.1, smMerge a.2 b.2)

/-- The score of a candidate page for one row (R264). -/
def pageScore (s : State) (c : Nat) (g : RingCfg) (f h : Nat) (lambda : FVal) (q : List FVal) : FVal :=
  let t := rdNum s c (trailerDa g f h) 256
  let mu := (List.range g.d).map fun k => decodeElem .e4m3 (fld t (0x80 + k) 1)
  let qn := sqrt32f (rsum (q.map fun v => mul32f v v))
  let dot := mul32f (rsum (List.zipWith mul32f q mu)) (negPow (sext (fld t 0 1) 8))
  fma32f lambda (mul32f qn (val32 (fld t 4 4))) dot

/-- Rank candidates: descending score, NaN below every number, ties to the lower page (R264). -/
def rankPages (l : List (Nat × FVal)) : List Nat :=
  let before (a b : Nat × FVal) : Bool :=
    if isNan a.2 then isNan b.2 && a.1 ≤ b.1
    else if isNan b.2 then true
    else ltX b.2 a.2 || (!ltX a.2 b.2 && a.1 ≤ b.1)
  (l.mergeSort before).map (·.1)

/-- One task: its entry, its sequence's slot and length, and its head group. -/
structure Task where
  b : Nat
  slot : Nat
  len : Nat
  grp : Nat
  deriving DecidableEq, Repr

/-- The pages a task attends in ascending order, the candidates it scored, and whether a score was NaN (R264). -/
def taskPages (s : State) (c e : Nat) (g : RingCfg) (k : Task) (rows : List (Nat × List FVal)) : List Nat × List Nat × Bool :=
  let n := cdiv k.len 64
  if !caRetrieve e then (List.range n, [], false)
  else
    let cands := (List.range n).filter fun lp => lp ≠ 0 && lp + 16 < n
    let sc := cands.map fun lp =>
      let f := frameOf s c k.slot (pageKey g lp k.grp)
      (lp, treeMax (rows.map fun r => pageScore s c g f r.1 (caLambda e) r.2))
    let best := (rankPages sc).take (caTopp e)
    ((List.range n).filter fun lp => !cands.contains lp || best.contains lp, cands, sc.any fun p => isNan p.2)

/-- The tasks of an operation, entry by entry (R253). -/
def tasksOf (s : State) (c : Nat) (g : RingCfg) (l : List Nat) : List Task :=
  l.zipIdx.flatMap fun (n, b) =>
    let e := dirAt s c n
    (List.range (ringGroups g)).map fun grp => ⟨b, deSlot e, deLen e, grp⟩

/-- The rows of a task: (head within the group, query head, token). -/
def taskRows (g : RingCfg) (gq t : Nat) (k : Task) : List (Nat × Nat × Nat) :=
  (List.range t).flatMap fun tok => (List.range (g.hg * gq)).map fun j => (j / gq, k.grp * g.hg * gq + j, tok)

/-- The query of a row. -/
def rowQuery (s : State) (c : Nat) (g : RingCfg) (q : Desc) (b hq tok : Nat) : List FVal :=
  (List.range g.d).map fun k => valsOf s c q [k, hq, tok, b, 0, 0]

/-- The pages every task attends and scores. -/
def taskPlan (s : State) (c e : Nat) (l : List Nat) (t : Nat) : List (Task × List Nat × List Nat × Bool) :=
  let g := (ctxOf s c).ring
  let q := envRec e 0
  (tasksOf s c g l).map fun k =>
    let rows := (taskRows g (gqOf g q) t k).map fun r => (r.1, rowQuery s c g q k.b r.2.1 r.2.2)
    (k, taskPages s c e g k rows)

/-- What reading the stored values of attended pages raises (R270): of the keys of tokens below LENGTH, and of the values of every position, which all enter the sums of R254 (assumption 51). -/
def pageFlags (s : State) (c : Nat) (g : RingCfg) (plan : List (Task × List Nat × List Nat × Bool)) : NumFlags :=
  readFlagsAll (plan.flatMap fun (k, pages, _) => pages.flatMap fun lp =>
    let f := frameOf s c k.slot (pageKey g lp k.grp)
    (List.range g.hg).flatMap fun h => (List.range 64).flatMap fun j =>
      (if 64 * lp + j < k.len then ringVals s c g f false h j else []) ++ ringVals s c g f true h j)

/-- The result of one row over a task's pages (R255). -/
def rowResult (s : State) (c e : Nat) (g : RingCfg) (t : Nat) (k : Task) (pages : List Nat) (h tok : Nat) (q : List FVal) : Leaf :=
  treeOf joinLeaf (noLeaf g.d) (pages.map fun lp =>
    leafOf s c g (frameOf s c k.slot (pageKey g lp k.grp)) h q (caScale e) fun j =>
      let n := 64 * lp + j
      n < k.len && (!caCausal e || n + t ≤ k.len + tok))

/-- Translations and leaves of an operation, counted task by task (R260, R275). -/
def countPages (s : State) (c : Nat) (g : RingCfg) (plan : List (Task × List Nat × List Nat × Bool)) : State :=
  let s1 := plan.foldl (fun s (k, pages, cands, _) =>
    (cands ++ pages).foldl (fun s lp => rlbTouch s c k.slot (pageKey g lp k.grp)) s) s
  let (k, s2) := drawFree s1
  { s2 with rs := perfAdd (perfAdd s2.rs 6 (sumNat (plan.map fun x => x.2.1.length))) 7 (Config.freeWord k).toNat }

/-- CATTN after its swaps. -/
def cattnRun (p : Plan) (s : State) (c e : Nat) (l : List Nat) : Result :=
  let g := (ctxOf s c).ring
  let q := envRec e 0
  let t := nth 1 (runExt s c q) 2
  let plan := taskPlan s c e l t
  let frames := plan.flatMap fun (k, pages, _) => pages.map fun lp => (frameDa g (frameOf s c k.slot (pageKey g lp k.grp)), frameBytes g)
  let trailers := plan.flatMap fun (k, _, cands, _) =>
    cands.map fun lp => (trailerDa g (frameOf s c k.slot (pageKey g lp k.grp)) 0, 256 * g.hg)
  runAfter s c p (readsOf s c p.recs ++ frames ++ trailers) (writesOf s c p.recs) fun s =>
    let gq := gqOf g q
    let results := plan.map fun (k, pages, _) =>
      (taskRows g gq t k).map fun r => rowResult s c e g t k pages r.1 r.2.2 (rowQuery s c g q k.b r.2.1 r.2.2)
    let at_ (i : List Nat) : Leaf :=
      let hq := nth 0 i 1
      let grp := hq / (g.hg * gq)
      let task := nth [] results (nth 0 i 3 * ringGroups g + grp)
      nth (noLeaf g.d) task (nth 0 i 2 * (g.hg * gq) + hq % (g.hg * gq))
    let fl := orFlags (orFlags (readAll s c q) (pageFlags s c g plan)) { nanIn := plan.any fun x => x.2.2.2 }
    let (s1, f) := narrowOut (countPages s c g plan) c (envRec e 1) (runExt s c (envRec e 1)) fun i => nth fzero (at_ i).1 (nth 0 i 0)
    let s2 := if caWriteSt e then (narrowOut s1 c (envRec e 2) (runExt s c (envRec e 2)) fun i =>
      if nth 0 i 0 = 0 then (at_ i).2.1 else (at_ i).2.2).1 else s1
    { st := s2, flags := orFlags fl f }

/-- CATTN at its unit. -/
def bodyCattn (swapFail : Option Nat) : Body := fun s c q =>
  let e := q.env
  let p := cattnPlan s c e
  let l := listSeqs s c (envRec e 3)
  let ext := runExt s c (envRec e 0)
  listOp s c p l 0 (nth 1 ext 2 = 0 || nth 1 ext 3 = 0) swapFail fun s => cattnRun p s c e l

/-- Issue the head of a context's Canopy queue. -/
def canopyOp (c : Nat) (aged : Bool) (kind : QOp → Bool) (body : Body) (s : State) : State :=
  issueOp s c ucCanopy 0 aged kind body

/-- CATTN (R270); `swapFail` names the swap, in the order of R265 and R266, whose PCIe completion fails (R268). -/
def execCattn (c : Fin 8) (aged : Bool) (swapFail : Option Nat) (s : State) : Host.Outcome State Fault Refusal :=
  .next (canopyOp c aged (isOp 0x90) (bodyCattn swapFail) s)

/-! ### RAPPEND (R261 to R263, R271) -/

def rappendPlan (s : State) (c e : Nat) : Plan :=
  let g := (ctxOf s c).ring
  let k := envRec e 0
  let v := envRec e 1
  let l := envRec e 2
  let src (i : Nat) : Rec := { inRec e i deviceRegions with frameUsed := true }
  let frame (i : Nat) (d : Desc) : List (Nat × Bool) := match frameReserved d with
    | some o => [(0x80 + 128 * i + o, true)]
    | none => []
  { reserved := parZero e 0 0x40 ++ (if (descReserved k).isNone then frame 0 k ++
      (if (descReserved v).isNone then frame 1 v else []) else [])
    recs := [src 0, src 1, inRec e 2 deviceRegions], parFoots := ringFoots g, invalid := stRing
    tensorBad := if frameInvalid k then some 0 else if frameInvalid v then some 1 else none
    broken := !g.enabled || canFmtBad k || canFmtBad v || k.rank ≠ 4 || v.rank ≠ 4 ||
      l.fmtRaw ≠ 0x0D || l.rank ≠ 1 || l.comp ≠ 0
    rels := [relDim s c k 0 fun x => x = g.d, relDim s c k 1 fun x => x = g.kvh, relRange s c k 2 1 65536,
        relRange s c k 3 1 1048576,
        { dyn := k.shapeEn && (k.swDim = 2 || k.swDim = 3), plan := extAt k 2 * extAt k 3 ≤ 1048576
          run := nth 1 (runExt s c k) 2 * nth 1 (runExt s c k) 3 ≤ 1048576 }] ++
      relsSame s c k v ++ [relEq s c l k 0 3] }

/-- The exponent that a page's first tokens fix (R261). -/
def appendExp (g : RingCfg) (xs : List FVal) : Int :=
  let a := amaxOf xs
  if isZero a then 0
  else max (-126) (min 126 (floorLog2Ratio (fmtMax (ringFmt g)) a - g.margin))

/-- What an append has done so far. -/
structure Append where
  st : State
  flags : NumFlags
  bad : Nat

/-- Store one token's row of one head under an exponent: the stored bits, and what narrowing recorded. -/
def storeRow (s : State) (c : Nat) (g : RingCfg) (d : Desc) (exp : Int) (idx : Nat → List Nat) (da : Nat) (a : Append) : Append :=
  let env := roundEnv s c d
  let els := (List.range g.d).map fun k =>
    narrowElem (ringFmt g) (rndAt env d (idx k)) d.ovf (fscale exp (valsOf s c d (idx k)))
  let w := ebits (ringFmt g)
  { st := wrNum a.st c da (packBits (els.map fun x => (x.1, w))) (ringRow g)
    flags := els.foldl (fun f x => orFlags f (evFlags x.2)) a.flags
    bad := a.bad + (els.filter fun x => x.2.sat || x.2.nanOut).length }

/-- The summary and norm of a full page's head (R263). -/
def writeSummary (s : State) (c : Nat) (g : RingCfg) (f h : Nat) : State :=
  let ks := (List.range 64).map fun j => ringVals s c g f false h j
  let da := trailerDa g f h
  let ek := sext (rdNum s c da 1) 8
  let mean := (List.range g.d).map fun k =>
    (narrowElem .e4m3 .rne false (mul32f (rsum (ks.map fun r => nth fzero r k)) (.fin false 1 (-6)))).1
  let norm := mul32f (treeMax (ks.map fun r => sqrt32f (rsum (r.map fun x => mul32f x x)))) (negPow ek)
  let s1 := wrNum s c (da + 2) (rdNum s c (da + 2) 1 ||| 2) 1
  wrNum (wrNum s1 c (da + 4) (bits32 norm) 4) c (da + 0x80) (packBits (mean.map fun x => (x, 8))) g.d

/-- Append the tokens of entry `b` that land in page `lp` of one head group, whose first is token `t0` and whose number is `n` (R261, R263). `s` holds the records. -/
def appendPage (s : State) (c e : Nat) (g : RingCfg) (slot b start t0 n lp grp : Nat) (a : Append) : Append :=
  let key := pageKey g lp grp
  let fresh := (walkPage a.st c slot key).isNone
  let a1 := if fresh then { a with st := allocPage a.st c slot key } else a
  let f := frameOf a1.st c slot key
  (List.range g.hg).foldl (fun (a : Append) h =>
    let head := grp * g.hg + h
    let idx (t k : Nat) : List Nat := [k, head, t, b, 0, 0]
    let toks := (List.range n).map (t0 + ·)
    let da := trailerDa g f h
    let set := bit (rdNum a.st c (da + 2) 1) 0
    let expOf (r : Nat) : Int := appendExp g (toks.flatMap fun t => (List.range g.d).map fun k => valsOf s c (envRec e r) (idx t k))
    let s1 := if set then a.st
      else wrNum a.st c da (packBits [(ofInt (expOf 0) 8, 8), (ofInt (expOf 1) 8, 8), (rdNum a.st c (da + 2) 1 ||| 1, 8)]) 3
    let ek := sext (rdNum s1 c da 1) 8
    let ev := sext (rdNum s1 c (da + 1) 1) 8
    let a2 := toks.foldl (fun (a : Append) t =>
      let j := (start + t) % 64
      storeRow s c g (envRec e 1) ev (idx t) (rowDa g f true h j)
        (storeRow s c g (envRec e 0) ek (idx t) (rowDa g f false h j) a)) { a with st := s1 }
    if (start + t0 + n) % 64 = 0 then { a2 with st := writeSummary a2.st c g f h } else a2) a1

/-- Append one LIST entry: `start` is the sequence's length before it. -/
def appendEntry (s : State) (c e : Nat) (g : RingCfg) (slot b start t : Nat) (a : Append) : Append :=
  let lp0 := start / 64
  (List.range (cdiv (start + t) 64 - lp0)).foldl (fun a i =>
    let lp := lp0 + i
    let t0 := 64 * lp - start
    let n := min (64 * (lp + 1) - start) t - t0
    (List.range (ringGroups g)).foldl (fun a grp => appendPage s c e g slot b start t0 n lp grp a) a) a

/-- Pages that an append finds allocated and goes on filling. -/
def partialFrames (s : State) (c : Nat) (g : RingCfg) (l : List Nat) : List (Nat × Nat) :=
  l.dedup.flatMap fun n =>
    let e := dirAt s c n
    if deLen e % 64 = 0 then []
    else (List.range (ringGroups g)).map fun grp => (frameDa g (frameOf s c (deSlot e) (pageKey g (deLen e / 64) grp)), frameBytes g)

/-- The rows that an append stores: of sequence `n`, whose directory entry was `d`, up to length `len`, the tables as `s` has them. -/
def appendRows (s : State) (c : Nat) (g : RingCfg) (d len : Nat) : List (Nat × Nat) :=
  (List.range (len - deLen d)).flatMap fun i =>
    let tok := deLen d + i
    (List.range (ringGroups g)).flatMap fun grp =>
      let f := frameOf s c (deSlot d) (pageKey g (tok / 64) grp)
      (List.range g.hg).flatMap fun h => [(rowDa g f false h (tok % 64), ringRow g), (rowDa g f true h (tok % 64), ringRow g)]

/-- The length that a sequence has once an append is committed. -/
def appendedLen (s : State) (c : Nat) (l : List Nat) (t n : Nat) : Nat := deLen (dirAt s c n) + t * l.count n

/-- What a failure after issue takes back: LENGTH and PAGES of every sequence, and the pages allocated (R262). -/
def appendUndo (s : State) (c : Nat) (l : List Nat) : List (Nat × Nat × Nat) :=
  l.dedup.map fun n => (physOf s c (dirDa s c n + 4), 8, fld (dirAt s c n) 4 8)

/-- RAPPEND after its swaps: the tokens, then every LENGTH together (R262). -/
def rappendRun (p : Plan) (s : State) (c e : Nat) (l : List Nat) (t : Nat) : Result :=
  let g := (ctxOf s c).ring
  runAfter s c p (readsOf s c p.recs ++ partialFrames s c g l) [] fun s =>
    let a := l.zipIdx.foldl (fun a (n, b) =>
      appendEntry s c e g (deSlot (dirAt s c n)) b (lenAfter s c l t b - t) t a) (⟨s, {}, 0⟩ : Append)
    let s1 := l.dedup.foldl (fun st n =>
      let d := dirAt st c n
      let len := appendedLen s c l t n
      putDir st c n (setFld (setFld d 4 4 len) 8 4 (pagesFor g len))) a.st
    let wp := physPieces s c (l.dedup.flatMap fun n => appendRows s1 c g (dirAt s c n) (appendedLen s c l t n))
    match badPartly s wp with
    | some line => { st := countUe (noteTraffic s [] wp) line c, status := stMemFault, detail := line }
    | none =>
      let s2 := noteTraffic (clearBad s1 wp) [] wp
      { st := { s2 with rs := perfAdd s2.rs 5 a.bad }, flags := a.flags
        aux := l.dedup.flatMap fun n => let d := dirAt s c n; [deSlot d, dePages d, pagesFor g (appendedLen s c l t n)]
        acc := { wr := wp, undo := appendUndo s c l } }

/-- RAPPEND at its unit. -/
def bodyRappend (swapFail : Option Nat) : Body := fun s c q =>
  let e := q.env
  let p := rappendPlan s c e
  let l := listSeqs s c (envRec e 2)
  let ext := runExt s c (envRec e 0)
  let t := nth 1 ext 2
  listOp s c p l t (t = 0 || nth 1 ext 3 = 0) swapFail fun s => rappendRun p s c e l t

/-- RAPPEND (R261); `swapFail` as for CATTN. -/
def execRappend (c : Fin 8) (aged : Bool) (swapFail : Option Nat) (s : State) : Host.Outcome State Fault Refusal :=
  .next (canopyOp c aged (isOp 0x91) (bodyRappend swapFail) s)

/-! ### RSEQ (R272) -/

def rqFunc (e : Nat) : Nat := par e 0 1
def rqPrio (e : Nat) : Nat := par e 1 1
def rqSeq (e : Nat) : Nat := par e 4 4
def rqLen (e : Nat) : Nat := par e 8 4

/-- An RSEQ envelope of one function; a reserved function is rejected at the OPEN row. -/
def isRseq (func : Nat) (q : QOp) : Bool := q.opcode = 0x92 && (rqFunc q.env = func || (func = 0 && 5 < rqFunc q.env))

/-- The pages that a function needs SEQ to hold, where it makes it resident. -/
def rqNeed (s : State) (c e : Nat) : RingNeed :=
  let f := rqFunc e
  if f = 0 then [(rqSeq e, 0)]
  else if f = 3 || f = 5 then [(rqSeq e, dePages (dirAt s c (rqSeq e)))]
  else []

/-- The checks of R273 for an RSEQ function. -/
def rqChecks (s : State) (c e : Nat) : Option (Nat × Nat) :=
  let g := (ctxOf s c).ring
  let f := rqFunc e
  let n := rqSeq e
  let known := n < g.dirEntries
  let d := dirAt s c n
  firstSome [
    (firstBad (([(0x40, 5 < f), (0x41, f ≠ 0 && f ≠ 2 && rqPrio e ≠ 0)] : List (Nat × Bool)) ++ parZero e 2 4 ++
      ([(0x48, f ≠ 3 && rqLen e ≠ 0)] : List (Nat × Bool)) ++ parZero e 0x0C 0x40)).map fun o => (stReserved, o),
    (if (ringFoots g).all (fun r => footOk s c r.reach r.needR r.needW r.ivs) then none else some (stAddress, 0xFF)),
    (if !g.enabled || (f = 3 && known && deState d ≠ seqClosed && deLen d < rqLen e) then some (stRing, n) else none),
    (if !known || (if f = 0 then deState d ≠ seqClosed else deState d = seqClosed) then some (stSeqState, n) else none),
    (if (f = 4 && g.swapStride = 0) || (rqNeed s c e ≠ [] && capacityBad s c (rqNeed s c e)) then some (stCapacity, n) else none)]

/-- The shared form of the functions: checks, swaps, then the function's own effect. -/
def rseqBody (swapFail : Option Nat) (eff : State → Nat → Nat → Result) : Body := fun s c q =>
  let e := q.env
  match rqChecks s c e with
  | some (st, d) => reject s st d
  | none =>
    match makeResident s c (rqNeed s c e) swapFail with
    | (s1, some x) => let (s2, d) := swapDetail s1 [] x; { st := s2, status := x.1, detail := if x.1 = stSwapFault then rqSeq e else d }
    | (s1, none) => eff s1 c e

/-- OPEN: RESIDENT, LENGTH 0, with a slot and a clear level-1 table. -/
def rseqOpen (s : State) (c e : Nat) : Result :=
  let n := rqSeq e
  let (slot, s1) := takeSlot s c
  let s2 := wrNum s1 c ((ctxOf s c).ring.l1Base + 1024 * slot) 0 1024
  { st := putDir s2 c n (packBits [(seqResident, 8), (rqPrio e, 8), (slot, 16), (0, 32), (0, 32), (0, 32), (nowNs s, 64)]) }

/-- RSEQ OPEN (R272). -/
def execRseqOpen (c : Fin 8) (aged : Bool) (swapFail : Option Nat) (s : State) : Host.Outcome State Fault Refusal :=
  .next (canopyOp c aged (isRseq 0) (rseqBody swapFail rseqOpen) s)

/-- CLOSE: frees the frames, tables and slot of a resident sequence; abandons the image of a swapped one. -/
def rseqClose (s : State) (c e : Nat) : Result :=
  let n := rqSeq e
  let d := dirAt s c n
  let s1 := if deState d = seqResident then
      rlbDropSeq (giveSlot (freePages s c (deSlot d) 0 (dePages d)) c (deSlot d)) c (deSlot d) else s
  { st := putDir s1 c n (setFld d 0 1 seqClosed) }

/-- RSEQ CLOSE (R272). -/
def execRseqClose (c : Fin 8) (aged : Bool) (s : State) : Host.Outcome State Fault Refusal :=
  .next (canopyOp c aged (isRseq 1) (rseqBody none rseqClose) s)

/-- PRIORITY: sets PRIORITY. -/
def rseqPriority (s : State) (c e : Nat) : Result :=
  { st := putDir s c (rqSeq e) (setFld (dirAt s c (rqSeq e)) 1 1 (rqPrio e)) }

/-- RSEQ PRIORITY (R272). -/
def execRseqPriority (c : Fin 8) (aged : Bool) (s : State) : Host.Outcome State Fault Refusal :=
  .next (canopyOp c aged (isRseq 2) (rseqBody none rseqPriority) s)

/-- TRUNCATE: sets LENGTH, frees the pages beyond it, and clears SUMMARY_VALID in the page it leaves partial (R263, R272). -/
def rseqTruncate (s : State) (c e : Nat) : Result :=
  let g := (ctxOf s c).ring
  let n := rqSeq e
  let d := dirAt s c n
  let len := rqLen e
  let keep := pagesFor g len
  let s1 := rlbDropSeq (freePages s c (deSlot d) keep (dePages d)) c (deSlot d)
  let s2 := if len % 64 = 0 then s1
    else (List.range (ringGroups g)).foldl (fun s grp =>
      let f := frameOf s c (deSlot d) (pageKey g (len / 64) grp)
      (List.range g.hg).foldl (fun s h =>
        let a := trailerDa g f h + 2
        wrNum s c a (rdNum s c a 1 &&& 0xFD) 1) s) s1
  { st := putDir s2 c n (setFld (setFld d 4 4 len) 8 4 keep) }

/-- RSEQ TRUNCATE (R272). -/
def execRseqTruncate (c : Fin 8) (aged : Bool) (swapFail : Option Nat) (s : State) : Host.Outcome State Fault Refusal :=
  .next (canopyOp c aged (isRseq 3) (rseqBody swapFail rseqTruncate) s)

/-- EVICT: swaps a resident sequence out. -/
def rseqEvict (swapFail : Option Nat) (s : State) (c e : Nat) : Result :=
  let n := rqSeq e
  if isResident s c n then
    match swapOut s c n (swapFail = some 0) with
    | (s1, some x) => { st := s1, status := x.1, detail := x.2 }
    | (s1, none) => { st := s1 }
  else { st := s }

/-- RSEQ EVICT (R272). -/
def execRseqEvict (c : Fin 8) (aged : Bool) (swapFail : Option Nat) (s : State) : Host.Outcome State Fault Refusal :=
  .next (canopyOp c aged (isRseq 4) (rseqBody none (rseqEvict swapFail)) s)

/-- FETCH: the sequence is resident now; LAST_ACTIVE is noted (R259). -/
def rseqFetch (s : State) (c e : Nat) : Result := { st := touchSeq s c (rqSeq e) }

/-- RSEQ FETCH (R272). -/
def execRseqFetch (c : Fin 8) (aged : Bool) (swapFail : Option Nat) (s : State) : Host.Outcome State Fault Refusal :=
  .next (canopyOp c aged (isRseq 5) (rseqBody swapFail rseqFetch) s)

/-! ### Registers (R275) -/

/-- RS_PERF_CLEAR (R275): RS_PERF_CTL is written with CLEAR 1 and the given FREEZE. -/
def execRsPerfClear (freeze : Bool) (s : State) : Host.Outcome State Fault Refusal :=
  if barOn s then .next { s with rs := { perfClear s.rs with freeze := freeze } } else .next s

end Sys2Proof.Machine
end

