-- ==== Sys2Proof/Machine/Chisel.lean ====
section
/-! DEFINITION. The Chisel's own operation CMV (R172 to R178). -/

namespace Sys2Proof.Machine

/-- Is a CMV sparse (R176)? -/
def cmvSparse (e : Nat) : Bool := bit (par e 0 1) 0

/-- The record of slice `f`'s weights. -/
def cmvW (e f : Nat) : Desc := envRec e (1 + f)

/-- The record of W_f for the checks: R45 does not apply to a packed 2:4 tile (R125, R176). -/
def cmvRec (e f : Nat) : Rec :=
  let d := cmvW e f
  { idx := 1 + f, d := d, isIn := true, isOut := false, reach := deviceRegions, packed := cmvSparse e
    foot := some (copyFoot d (cmvSparse e)) }

/-- The rules of R176 on one W_f. -/
def cmvWBad (e f : Nat) : Bool :=
  let x := envRec e 0
  let d := cmvW e f
  d.rank ≠ 2 || d.comp ≠ 0 || !pairOk x.fmt d.fmt || d.fmtRaw ≠ (cmvW e 0).fmtRaw || extAt d 1 > 16384 ||
  (cmvSparse e && (extAt d 0 % 4 ≠ 0 || d.layout ≠ 0 || strAt d 1 < packRowBytes d.fmt (extAt d 0)))

/-- Run-time columns of slice `f`. -/
def cmvN (s : State) (c e f : Nat) : Nat := nth 0 (runExt s c (cmvW e f)) 1

/-- The issue plan of a CMV (R178). A run-time K of zero is no zero extent: R176 names M and N alone, and the product term is then +0, as R117 has it of a QMM (DEDUCED, assumption 182). -/
def cmvPlan (s : State) (c : Nat) (q : QOp) : Plan :=
  let e := q.env
  let x := envRec e 0
  let y := envRec e 5
  let ws := List.range 4
  { reserved := ([(0x40, bits (par e 0 1) 1 7 ≠ 0)] : List (Nat × Bool)) ++ parZero e 1 0x40
    recs := [inRec e 0 [.stockpile]] ++ ws.map (cmvRec e) ++ [outRec e 5 deviceRegions]
    invalid := 0x30
    broken := x.rank ≠ 2 || y.rank ≠ 2 || x.comp ≠ 0 || y.comp ≠ 0 || y.fmtRaw > 0x0D || extAt x 1 < 1 || extAt x 1 > 8 ||
      extAt x 0 > 131072 || ws.any (cmvWBad e)
    rels := ws.map (fun f => relEq s c x (cmvW e f) 0 0) ++ [relEq s c x y 1 1,
      { dyn := ws.any (fun f => let d := cmvW e f; d.shapeEn && d.swDim = 1) || (y.shapeEn && y.swDim = 0)
        plan := extAt y 0 = sumNat (ws.map fun f => extAt (cmvW e f) 1)
        run := nth 0 (runExt s c y) 0 = sumNat (ws.map (cmvN s c e)) }]
    zero := nth 0 (runExt s c x) 1 = 0 || sumNat (ws.map (cmvN s c e)) = 0 }

/-- Slice and local column that write column `n` of Y (R176). -/
def cmvSlice (s : State) (c e n : Nat) : Nat × Nat :=
  ((List.range 4).foldl (fun (a : (Nat × Nat) × Bool) f =>
    if a.2 then a
    else if a.1.2 < cmvN s c e f then ((f, a.1.2), true) else ((f + 1, a.1.2 - cmvN s c e f), false)) ((0, n), false)).1

/-- One column's (K position, value) pairs for the lattice rows of one K slice (R83, R101). -/
def cmvColumn (rd : Nat → Nat) (d : Desc) (sparse : Bool) (k n slice : Nat) : List (List (Nat × FVal)) :=
  let kc := kSlice d.fmt * (if sparse then 2 else 1)
  let k0 := slice * kMax d.fmt sparse
  let row := (elemAddr d [0, n, 0, 0, 0, 0]).1
  (List.range 32).map fun r =>
    let l : List (Nat × FVal) := if sparse then
        (List.range (kc / 4)).flatMap fun j =>
          let g := (k0 + r * kc) / 4 + j
          if 4 * g < extAt d 0 then (packGroup rd d.fmt row (extAt d 0) g).getD [] else []
      else (((List.range kc).map fun j => k0 + r * kc + j).filter (· < extAt d 0)).map fun i => (i, elemVal rd d [i, n, 0, 0, 0, 0])
    l.filter fun p => p.1 < k

/-- One element of Y before its narrowing: the accumulated K slices (R177). -/
def cmvAcc (a : Nat → FVal) (cols : List (List (List (Nat × FVal)))) (scale : Int) : FVal × Bool :=
  cols.foldl (fun (acc : FVal × Bool) col =>
    let (t, f) := dotTile a col
    let (v, g) := accAdd acc.1 (fscale (-scale) t)
    (v, acc.2 || f || g)) (fzero, false)

/-- The effect of a CMV whose checks pass (R177). -/
def cmvEffect (s : State) (c : Nat) (q : QOp) : Result :=
  let e := q.env
  let rd := rdCtx s c
  let x := envRec e 0
  let y := envRec e 5
  let m := nth 0 (runExt s c x) 1
  let k := nth 0 (runExt s c x) 0
  let n := sumNat ((List.range 4).map (cmvN s c e))
  let slices := cdiv k (kMax (cmvW e 0).fmt (cmvSparse e))
  let a (r i : Nat) : FVal := elemVal rd x [i, r, 0, 0, 0, 0]
  let cols := (List.range n).map fun j =>
    let (f, j') := cmvSlice s c e j
    (f, (List.range slices).map fun t => cmvColumn rd (cmvW e f) (cmvSparse e) k j' t)
  let accs := (List.range m).map fun r => cols.map fun p =>
    cmvAcc (a r) p.2 (inScale s c x + inScale s c (cmvW e p.1))
  let out (i : List Nat) : FVal :=
    let v := (nth (fzero, false) (nth [] accs (nth 0 i 1)) (nth 0 i 0)).1
    if isZero v then fzero else v
  let rdX := (List.range m).flatMap fun r => (List.range k).map (a r)
  let rdW := cols.flatMap fun p => p.2.flatMap fun t => t.flatMap fun w => w.map (·.2)
  let bad := cmvSparse e && (List.range n).any fun j =>
    let (f, j') := cmvSlice s c e j
    let d := cmvW e f
    (List.range (cdiv k 4)).any fun g => (packGroup rd d.fmt (elemAddr d [0, j', 0, 0, 0, 0]).1 (extAt d 0) g).isNone
  let (t, fl) := narrowOut s c y (runExt s c y) out
  { st := t, status := if bad then 0x1E else 0
    flags := orFlags (orFlags (readFlagsAll (rdX ++ rdW)) { accInf := accs.any fun l => l.any (·.2) }) fl }

/-- Bytes a CMV reads: nothing of a slice without columns. -/
def cmvReads (s : State) (c : Nat) (q : QOp) : List (Nat × Nat) :=
  let e := q.env
  footAt (envRec e 0) (runExt s c (envRec e 0)) ++ (List.range 4).flatMap fun f =>
    let d := cmvW e f
    if cmvSparse e then (List.range (cmvN s c e f)).map (packedRow d) else footAt d (runExt s c d)

/-- CMV at its unit. -/
def bodyCmv : Body := fun s c q =>
  let y := envRec q.env 5
  runPlan s c (cmvPlan s c q) (cmvReads s c q) (footAt y (runExt s c y)) (fun s => cmvEffect s c q)

/-- CMV (R176, R177): up to 8 rows times a weight matrix of four slices, narrowed into Y. -/
def execCmv (c : Fin 8) (aged : Bool) (s : State) : Host.Outcome State Fault Refusal :=
  .next (issueOp s c ucChisel 0 aged (isOp 0x30) bodyCmv)

end Sys2Proof.Machine
end

