-- ==== Sys2Proof/Machine/Ckpt.lean ====
section
/-! DEFINITION. Checkpoints (R423, R460 to R462): the specification, the image with its sections and digests, CKPT_SAVE and CKPT_RESTORE, whose fabric transfers COMMAND_COMPLETION carries on. -/

namespace Sys2Proof.Machine

/-! ### The specification (R460) -/

def ckSections (v : Nat) : Nat := fld v 1 1
def ckRanges (v : Nat) : Nat := fld v 2 2
def ckFirst (v : Nat) : Nat := fld v 4 2
def ckCount (v : Nat) : Nat := fld v 8 4
def ckDest (v k : Nat) : Nat := fld v (0x10 + 8 * k) 8
def ckRange (v i : Nat) : Nat × Nat := (fld v (0x40 + 16 * i) 8, fld v (0x48 + 16 * i) 8)

/-- Is a section kind (1 to 4) named by a section mask? -/
def hasSection (mask kind : Nat) : Bool := bit mask (kind - 1)

/-- Is a copy written through the fabric? -/
def ckRemote (v k : Nat) : Bool := bit (ckDest v k) 63

/-- The fields that break *Checkpoint specification*; the lowest offset decides, a reserved bit of SECTIONS first. -/
def ckptForm (v : Nat) : Option (Nat × Nat) :=
  let n := ckRanges v
  let memory := hasSection (ckSections v) 1
  let ledger := hasSection (ckSections v) 3
  let ranges := (List.range (min n 252)).flatMap fun i =>
    [(0x40 + 16 * i, decide ((ckRange v i).1 % 64 ≠ 0)), (0x48 + 16 * i, decide ((ckRange v i).2 % 64 ≠ 0))]
  if fld v 0 1 = 0 || 4 < fld v 0 1 then some (msInvalid, 0)
  else if 16 ≤ ckSections v then some (msReserved, 1)
  else
    (firstBad (([(1, ckSections v = 0), (2, 252 < n || (!memory && n ≠ 0)),
      (8, if ledger then ckCount v = 0 || 65536 < ckFirst v + ckCount v else decide (ckCount v ≠ 0))] : List (Nat × Bool)) ++ ranges)).map
        fun o => (msInvalid, o)

/-! ### Sections (R460) -/

/-- A part of a section: a number of `n` bytes, padded with zeros to a multiple of 64. -/
def ckPart (v n : Nat) : Nat × Nat := (v % 2 ^ (8 * n), roundUp n 64)

/-- Parts one after another, as a number with its length. -/
def ckJoin (ps : List (Nat × Nat)) : Nat × Nat := (packBits (ps.map fun p => (p.1, 8 * p.2)), sumNat (ps.map (·.2)))

/-- The MEMORY section. -/
def ckMemory (s : State) (c v : Nat) : Nat × Nat :=
  ckJoin ((List.range (ckRanges v)).flatMap fun i =>
    let r := ckRange v i
    [ckPart (packBits [(r.1, 64), (r.2, 64)]) 64, ckPart (rdNum s c r.1 r.2) r.2])

/-- Sequences of a context that are not CLOSED, in ascending number. -/
def ckSeqs (s : State) (c : Nat) : List Nat :=
  if !(ctxOf s c).ring.enabled then []
  else (List.range (ctxOf s c).ring.dirEntries).filter fun n => deState (dirAt s c n) ≠ seqClosed

/-- The image of a sequence in the layout of R267: of a swapped one its swap image, of a resident one what a swap-out would write. -/
def seqImage (s : State) (c n : Nat) : Nat :=
  let g := (ctxOf s c).ring
  let e := dirAt s c n
  if deState e = seqSwapped then rdNum s c (imageDa g n) (imageBytes g (dePages e))
  else
    packBits ((packBits [(deLen e, 32), (dePrio e, 8), (0, 24), (dePages e, 32)], 512) ::
      (seqFrames s c (deSlot e) (dePages e)).map fun f => (rdNum s c (frameDa g f) (frameBytes g), 8 * frameBytes g))

/-- The geometry at the head of the RINGSTORE section. -/
def ckGeometry (g : RingCfg) : Nat :=
  packBits [(g.fmt, 8), (g.d, 8), (g.hg, 8), (g.kvh, 8), (g.margin, 8), (0, 24), (g.maxPages, 32)]

/-- The RINGSTORE section. -/
def ckRing (s : State) (c : Nat) : Nat × Nat :=
  let g := (ctxOf s c).ring
  let seqs := ckSeqs s c
  ckJoin (ckPart (setFld (ckGeometry g) 12 4 seqs.length) 64 ::
    seqs.flatMap fun n => [ckPart n 64, ckPart (seqImage s c n) (imageBytes g (dePages (dirAt s c n)))])

/-- The LEDGER section: entries as memory and the cache hold them, each with its history. -/
def ckLedger (s : State) (c v : Nat) : Nat × Nat :=
  ckJoin ((List.range (ckCount v)).flatMap fun k =>
    let e := ledgerGet s c (ckFirst v + k)
    [ckPart e 64, ckPart (rdNum s c (leHist e) (4 * leDepth e)) (4 * leDepth e)])

/-- The STATE section. -/
def ckState (s : State) (c : Nat) : Nat × Nat :=
  let x := ctxOf s c
  ckJoin [ckPart x.step.toNat 64, ckPart (packBits ((List.range 4096).map fun t => ((tallyOf s c t).toNat, 32))) 16384,
    ckPart (rdNum s c x.swBase 16384) 16384]

/-- The section of a kind. -/
def ckSection (s : State) (c v kind : Nat) : Nat × Nat :=
  if kind = 1 then ckMemory s c v else if kind = 2 then ckRing s c else if kind = 3 then ckLedger s c v else ckState s c

/-- Everything that the sections read, as context DAs. -/
def ckReads (s : State) (c v : Nat) : List (Nat × Nat) :=
  let g := (ctxOf s c).ring
  let mask := ckSections v
  (if hasSection mask 1 then (List.range (ckRanges v)).map (ckRange v) else []) ++
  (if hasSection mask 2 then (ckSeqs s c).flatMap fun n =>
    let e := dirAt s c n
    if deState e = seqSwapped then [(imageDa g n, imageBytes g (dePages e))]
    else (seqFrames s c (deSlot e) (dePages e)).map fun f => (frameDa g f, frameBytes g) else []) ++
  (if hasSection mask 3 then (List.range (ckCount v)).flatMap fun k =>
    let e := ledgerGet s c (ckFirst v + k)
    (if (ctxOf s c).ledger.any fun l => l.slot = ckFirst v + k then [] else [(entryDa s c (ckFirst v + k), 64)]) ++ [(leHist e, 4 * leDepth e)]
   else []) ++
  (if hasSection mask 4 then [((ctxOf s c).swBase, 16384)] else [])

/-! ### The image (R460) -/

/-- The digest of R424 over `n` bytes of a number. -/
def digestNum (v n : Nat) : Nat := digestBytes (bytesOf v n)

/-- Where the sections begin: header and section table, padded. -/
def ckHeadBytes (nsec : Nat) : Nat := roundUp (64 + 32 * nsec) 64

/-- The image of a save: its bytes as a number, and TOTAL. -/
def ckImage (s : State) (c v : Nat) : Nat × Nat :=
  let kinds := [1, 2, 3, 4].filter (hasSection (ckSections v))
  let secs := kinds.map fun k => (k, ckSection s c v k)
  let place := secs.foldl (fun (a : List (Nat × Nat × Nat × Nat) × Nat) p => (a.1 ++ [(p.1, a.2, p.2)], a.2 + p.2.2)) ([], ckHeadBytes kinds.length)
  let total := place.2
  let table := packBits (place.1.flatMap fun (k, o, b, n) => [(k, 64), (o, 64), (n, 64), (digestNum b n, 64)])
  let x := ctxOf s c
  let head := packBits [(0x4B434C47, 32), (1, 8), (kinds.length, 8), (0, 16), (total, 64), (Config.otpSerial.toNat, 64),
    (x.step.toNat, 32), (x.fabricJob, 16)]
  let hd := digestBytes (bytesOf head 0x38 ++ bytesOf table (32 * kinds.length))
  (packBits ([(head, 8 * 0x38), (hd, 64), (table, 8 * (ckHeadBytes kinds.length - 64))] ++ secs.map fun p => (p.2.1, 8 * p.2.2)), total)

/-! ### CKPT_SAVE (R461) -/

/-- The packets that write a copy at a node. -/
def copyPkts (s : State) (c dest img total : Nat) : List PkArgs :=
  let da := dest % 2 ^ 48
  (cutIv 4096 da total).map fun iv =>
    { ptype := ptWrite, dst := bits dest 48 15, da := iv.1, len := iv.2, job := (ctxOf s c).fabricJob
      pay := (img >>> (8 * (iv.1 - da))) % 2 ^ (8 * iv.2) }

/-- Regions that a local copy may lie in. -/
def ckptRegions (s : State) : List Region := (foremanRegions s).filter fun r => r = .host || r = .far

/-- The first local copy whose place the context may not write. -/
def destBad (s : State) (c v total : Nat) : Option (Nat × Nat) :=
  ((List.range (fld v 0 1)).find? fun k => !ckRemote v k && !footOk s c (ckptRegions s) false true [(ckDest v k % 2 ^ 48, total)]).map
    fun k => (msAddress, 0x10 + 8 * k)

/-- The first source that the context may not read. -/
def sourceBad (s : State) (c v : Nat) : Option (Nat × Nat) :=
  match (if hasSection (ckSections v) 1 then
      (List.range (ckRanges v)).find? fun i => !fwOk s c (ckRange v i).1 (ckRange v i).2 false else none) with
  | some i => some (msAddress, 0x40 + 16 * i)
  | none =>
    if hasSection (ckSections v) 3 && ((List.range (ckCount v)).any fun k =>
        let e := ledgerGet s c (ckFirst v + k)
        !fwOk s c (leHist e) (4 * leDepth e) false) then some (msAddress, 4) else none

/-- Write the copies from `k` on: local ones at once, a remote one through the fabric, which the command waits for. A failed copy is left unpredictable. -/
def saveCopies : Nat → State → Nat → Nat → Nat → Nat → Nat → CmdOut
  | 0, s, _, _, _, total, _ => { st := s, result := total }
  | m + 1, s, c, v, img, total, k =>
    if fld v 0 1 ≤ k then { st := s, result := total }
    else if ckRemote v k then
      { st := pumpTxns (addTxns s 0 c (ckptTag + k) (copyPkts s c (ckDest v k) img total)), wait := true, aux := [0, 0, 0, k, total, img, v] }
    else
      let da := ckDest v k % 2 ^ 48
      match badPartly s (physPieces s c [(da, total)]) with
      | some l => { st := loseCtx (countUe s l c) c [(da, total)], status := msFault, detail := k }
      | none => saveCopies m (fwWrite s c da img total) c v img total (k + 1)

/-- A save whose remote copy was answered goes on; a copy that failed ends it. -/
def saveStep (s : State) (t : Cmd) : CmdOut :=
  let c := cmdCtx t.raw
  let k := nth 0 t.aux 3
  if nth 0 t.aux 0 = 1 then { st := s, status := msFault, detail := k }
  else if anyTxn s c (ckptTag + k) then { st := s, wait := true, aux := t.aux }
  else saveCopies 4 s c (nth 0 t.aux 6) (nth 0 t.aux 5) (nth 0 t.aux 4) (k + 1)

/-- The work of CKPT_SAVE: the ledger is written back, the image is made, the copies are written in order. -/
def workSave (s : State) (raw : Nat) : CmdOut :=
  let c := cmdCtx raw
  let spec := fld raw 8 8
  let v := fwRead s c spec 4096
  cmdTry s [srcChk s c spec 4096 8, srcFault s c spec 4096, ckptForm v, sourceBad s c v, destBad s c v (ckImage s c v).2,
      chk (!isOpen s c) msConflict 0, chk ((ctxOf s c).queued ≠ [] || (ctxOf s c).flight ≠ [] || ckptBusy s c) msBusy 0,
      (badTouched s (physPieces s c (ckReads s c v))).map fun l => (msFault, l)]
    fun s =>
      let s := noteTraffic (ledgerWriteBack s c) (physPieces s c (ckReads s c v)) []
      let (img, total) := ckImage s c v
      saveCopies 4 s c v img total 0

/-- CKPT_SAVE (R461). -/
def execCkptSave (place : Nat) (s : State) : Host.Outcome State Fault Refusal :=
  .next (runCmd s place 0x28 (fun _ => true) workSave)

/-! ### CKPT_RESTORE (R462) -/

def rsImage (raw : Nat) : Nat := fld raw 8 6
def rsRemote (raw : Nat) : Bool := bit (fld raw 0x0E 2) 15
def rsNode (raw : Nat) : Nat := bits (fld raw 0x0E 2) 0 15
def rsMask (raw : Nat) : Nat := fld raw 0x10 1

def imSections (img : Nat) : Nat := fld img 5 1
def imTotal (img : Nat) : Nat := fld img 8 8
/-- Section s of an image: kind, offset, bytes, digest. -/
def imSection (img k : Nat) : Nat × Nat × Nat × Nat :=
  let o := 0x40 + 32 * k
  (fld img o 1, fld img (o + 8) 8, fld img (o + 0x10) 8, fld img (o + 0x18) 8)

/-- Is a header's first part one of this format: MAGIC, VERSION, a section count, a TOTAL that holds the table? -/
def imHeadOk (img : Nat) : Bool :=
  fld img 0 4 = 0x4B434C47 && fld img 4 1 = 1 && 1 ≤ imSections img && imSections img ≤ 4 && 64 + 32 * imSections img ≤ imTotal img

/-- Pass 1: the header's digest, then each section's place and digest; the failing index, 0xFF for the header. -/
def imBroken (img : Nat) : Option Nat :=
  let n := imSections img
  if !imHeadOk img || digestBytes (bytesOf img 0x38 ++ bytesOf (img >>> (8 * 0x40)) (32 * n)) ≠ fld img 0x38 8 then some 0xFF
  else (List.range n).find? fun k =>
    let (kind, o, b, d) := imSection img k
    kind = 0 || 4 < kind || o % 64 ≠ 0 || imTotal img < o + b || digestNum (fld img o b) b ≠ d

/-- The section of a kind in an image: offset and bytes. -/
def imFind (img kind : Nat) : Option (Nat × Nat) :=
  ((List.range (imSections img)).find? fun k => (imSection img k).1 = kind).map fun k => ((imSection img k).2.1, (imSection img k).2.2.1)

/-- The ranges of a MEMORY section: image offset, context DA, length; a last one with length 0 and DA 2^64 stands for a broken rest. -/
def imRanges (img : Nat) : Nat → Nat → Nat → List (Nat × Nat × Nat)
  | 0, _, _ => []
  | k + 1, o, hi =>
    if hi ≤ o then []
    else
      let n := fld img (o + 8) 8
      if hi < o + 64 + roundUp n 64 then [(o, 2 ^ 64, 0)] else (o, fld img o 8, n) :: imRanges img k (o + 64 + roundUp n 64) hi

/-- The MEMORY ranges of an image; each part is at least 64 bytes. -/
def memRanges (img : Nat) : List (Nat × Nat × Nat) :=
  match imFind img 1 with
  | none => []
  | some (o, b) => imRanges img (b / 64 + 1) o (o + b)

/-- The entries of a LEDGER section: image offset of each; a part is at least 64 bytes. -/
def imEntries (img : Nat) : Nat → Nat → Nat → List Nat
  | 0, _, _ => []
  | k + 1, o, hi => if hi ≤ o then [] else o :: imEntries img k (o + 64 + roundUp (4 * leDepth (fld img o 64)) 64) hi

/-- The LEDGER entries of an image. -/
def ledgerEntries (img : Nat) : List Nat :=
  match imFind img 3 with
  | none => []
  | some (o, b) => imEntries img (b / 64 + 1) o (o + b)

/-- The sequences of a RINGSTORE section: image offset of each one's 64 bytes. -/
def imSeqs (img : Nat) (g : RingCfg) : Nat → Nat → List Nat
  | 0, _ => []
  | k + 1, o => o :: imSeqs img g k (o + 64 + roundUp (imageBytes g (fld img (o + 64 + 8) 4)) 64)

/-- The RINGSTORE sequences of an image. -/
def ringSeqs (img : Nat) (g : RingCfg) : List Nat :=
  match imFind img 2 with
  | none => []
  | some (o, _) => imSeqs img g (fld img (o + 12) 4) (o + 64)

def sqNum (img o : Nat) : Nat := fld img o 4
def sqPages (img o : Nat) : Nat := fld img (o + 64 + 8) 4
def sqLen (img o : Nat) : Nat := fld img (o + 64) 4

/-- How many sequences become resident: the longest run from the first for which slots, frames and tables last. -/
def residentCount (s : State) (c img : Nat) (seqs : List Nat) : Nat :=
  let g := (ctxOf s c).ring
  let u := (ctxOf s c).ringUse
  let fits (k : Nat) : Bool :=
    let ps := (seqs.take k).map (sqPages img)
    u.slots.length + k ≤ g.slots && framesHeld u + sumNat ps ≤ g.frameCount && tablesHeld u + sumNat (ps.map tablesFor) ≤ g.l2Count
  ((List.range seqs.length).takeWhile fun k => fits (k + 1)).length

/-- The checks of pass 2 on the RINGSTORE section: the geometry and the sequences' own data, every sequence CLOSED, room for all. -/
def ringChecks (s : State) (c img : Nat) : List (Option (Nat × Nat)) :=
  match imFind img 2 with
  | none => []
  | some (o, b) =>
    let g := (ctxOf s c).ring
    let want := bytesOf (ckGeometry g) 12
    let seqs := ringSeqs img g
    let bad (p : Nat × Nat) : Bool :=
      let q := p.1
      g.dirEntries ≤ sqNum img q || sqPages img q ≠ pagesFor g (sqLen img q) || g.maxPages * ringGroups g < sqPages img q ||
      o + b < q + 64 + imageBytes g (sqPages img q) || (p.2 ≠ 0 && sqNum img q ≤ sqNum img (nth 0 seqs (p.2 - 1)))
    [((List.range 12).find? fun k => fld img (o + k) 1 ≠ nth 0 want k).map fun k => (msInvalid, o + k),
     chk (b / 64 < fld img (o + 12) 4) msInvalid (o + 12),
     (seqs.zipIdx.find? bad).map fun p => (msInvalid, p.1),
     chk (ckSeqs s c ≠ []) msConflict 0,
     chk (residentCount s c img seqs < seqs.length && g.swapStride = 0) msResource 0]

/-- Every check of pass 2 (R462). -/
def restoreChecks (s : State) (raw img : Nat) : List (Option (Nat × Nat)) :=
  let c := cmdCtx raw
  let mask := rsMask raw
  let absent := [1, 2, 3, 4].find? fun k => hasSection mask k && (imFind img k).isNone
  (absent.map fun _ => (msInvalid, 0x10)) ::
  (if hasSection mask 1 then
    [((memRanges img).find? fun r => r.2.1 = 2 ^ 64).map (fun r => (msInvalid, r.1)),
     ((memRanges img).find? fun r => !fwOk s c r.2.1 r.2.2 true).map fun r => (msAddress, r.1)] else []) ++
  (if hasSection mask 2 then ringChecks s c img else []) ++
  (if hasSection mask 3 then
    [chk (65536 < (ledgerEntries img).length) msInvalid (((imFind img 3).map (·.1)).getD 0),
     ((ledgerEntries img).find? fun o => let e := fld img o 64; !fwOk s c (leHist e) (4 * leDepth e) true).map fun o => (msAddress, o + 0x10)]
   else []) ++
  (if hasSection mask 4 then [chk (((imFind img 4).map (·.2)).getD 0 ≠ 64 + 2 * 16384) msInvalid (((imFind img 4).map (·.1)).getD 0)] else [])

/-- Restore one sequence as RESIDENT. Its LAST_ACTIVE is not in the image: a free value. -/
def seqResidentIn (img : Nat) (c : Nat) (s : State) (o : Nat) : State :=
  let g := (ctxOf s c).ring
  let n := sqNum img o
  let pages := sqPages img o
  let (slot, s) := takeSlot s c
  let s := (List.range pages).foldl (fun s k => allocPage s c slot k) s
  let s := (List.range pages).foldl (fun s k =>
    wrNum s c (frameDa g (frameOf s c slot k)) (fld img (o + 128 + k * frameBytes g) (frameBytes g)) (frameBytes g)) s
  let (k, s) := drawFree s
  putDir s c n (packBits [(seqResident, 8), (fld img (o + 64 + 4) 1, 8), (slot, 16), (sqLen img o, 32), (pages, 32), (0, 32),
    ((Config.freeWord k).toNat, 64)])

/-- Restore one sequence as SWAPPED: its image is written, and its directory entry; LAST_ACTIVE is a free value. -/
def seqSwappedIn (img : Nat) (c : Nat) (s : State) (o : Nat) : State :=
  let g := (ctxOf s c).ring
  let n := sqNum img o
  let pages := sqPages img o
  let s := wrNum s c (imageDa g n) (fld img (o + 64) (imageBytes g pages)) (imageBytes g pages)
  let (k, s) := drawFree s
  putDir s c n (packBits [(seqSwapped, 8), (fld img (o + 64 + 4) 1, 8), (0, 16), (sqLen img o, 32), (pages, 32), (0, 32),
    ((Config.freeWord k).toNat, 64)])

/-- The first ledger slot that an image's entries go to: the image does not hold LEDGER_FIRST, so it is a free value below 65,537 − entries. -/
def ledgerSlot (k count : Nat) : Nat := (Config.freeWord k).toNat % (65537 - count)

/-- Restore the LEDGER section. -/
def restoreLedger (s : State) (c img : Nat) : State :=
  let es := ledgerEntries img
  let (k, s) := drawFree s
  let first := ledgerSlot k es.length
  es.zipIdx.foldl (fun s p =>
    let e := fld img p.1 64
    let s := wrNum s c (leHist e) (fld img (p.1 + 64) (4 * leDepth e)) (4 * leDepth e)
    ledgerStore s c (first + p.2) 1 e) s

/-- Apply the selected sections (R462). -/
def restoreApply (s : State) (raw img : Nat) : CmdOut :=
  let c := cmdCtx raw
  let mask := rsMask raw
  let seqs := if hasSection mask 2 then ringSeqs img (ctxOf s c).ring else []
  let keep := residentCount s c img seqs
  let s := if seqs = [] then s else noteTraffic s [] (physPieces s c (ringAreas (ctxOf s c).ring))
  let s := if hasSection mask 1 then
      (memRanges img).foldl (fun s r => fwWrite s c r.2.1 (fld img (r.1 + 64) r.2.2) r.2.2) s else s
  let s := (seqs.take keep).foldl (seqResidentIn img c) s
  let s := (seqs.drop keep).foldl (seqSwappedIn img c) s
  let s := if hasSection mask 3 then restoreLedger s c img else s
  let s := if hasSection mask 4 then
      (let o := ((imFind img 4).map (·.1)).getD 0
       let s := updCtx s c fun x => { x with step := BitVec.ofNat 32 (fld img o 4) }
       let s := setTallies s c 0 4096 (fld img (o + 64) 16384)
       fwWrite s c (ctxOf s c).swBase (fld img (o + 64 + 16384) 16384) 16384) else s
  { st := s, result := packBits [(keep, 32), (seqs.length - keep, 32)] }

/-- The intervals that a restore writes at addresses the image or the context names. -/
def restoreWrites (s : State) (raw img : Nat) : List (Nat × Nat) :=
  let c := cmdCtx raw
  (if hasSection (rsMask raw) 1 then (memRanges img).map (·.2) else []) ++
  (if hasSection (rsMask raw) 3 then (ledgerEntries img).map fun o => (leHist (fld img o 64), 4 * leDepth (fld img o 64)) else []) ++
  (if hasSection (rsMask raw) 4 then [((ctxOf s c).swBase, 16384)] else [])

/-- Both passes over a whole image (R462). -/
def restoreImage (s : State) (raw img : Nat) : CmdOut :=
  let c := cmdCtx raw
  match imBroken img with
  | some k => cmdFail s msFault k
  | none =>
    cmdTry s (restoreChecks s raw img) fun s =>
      match (restoreWrites s raw img).find? fun iv => (badPartly s (physPieces s c [iv])).isSome with
      | some iv =>
        let l := (badPartly s (physPieces s c [iv])).getD 0
        { st := loseCtx (countUe s l c) c [iv], status := msFault, detail := l }
      | none => restoreApply s raw img

/-- The transactions that read the image. -/
def readTag : Nat := ckptTag + 4

/-- Ask a node for bytes of the image. -/
def askImage (s : State) (raw n : Nat) : State :=
  let c := cmdCtx raw
  pumpTxns (addTxns s 0 c readTag ((cutIv 65536 (rsImage raw) n).map fun iv =>
    { ptype := ptReadReq, dst := rsNode raw, da := iv.1, aux := iv.2, job := (ctxOf s c).fabricJob }))

/-- What has been read of the image through the fabric. -/
def imageGot (s : State) (raw n : Nat) : Nat :=
  let m := (s.fab.reads.filter fun r => r.ctx = cmdCtx raw && r.opIndex = readTag).foldl (fun m r => memWr m r.da r.data r.len)
    (⟨[], []⟩ : Memory)
  memRd m (rsImage raw) n

/-- The part of the image at an offset range that a failure names: the header, or the first section it meets. -/
def failIndex (img lo len : Nat) : Nat :=
  if lo < 64 + 32 * imSections img then 0xFF
  else ((List.range (imSections img)).find? fun k => let (_, o, b, _) := imSection img k; overlaps lo (lo + len) o (o + b)).getD 0xFF

/-- A restore from another node goes on: first the header, then the whole image, then both passes. -/
def restoreStep (s : State) (t : Cmd) : CmdOut :=
  let c := cmdCtx t.raw
  let phase := nth 0 t.aux 3
  if nth 0 t.aux 0 = 1 then
    { st := dropTxns s c readTag, status := msFault
      detail := if phase = 0 then 0xFF else failIndex (imageGot s t.raw 0xC0) (nth 0 t.aux 1 - rsImage t.raw) (nth 0 t.aux 2) }
  else if anyTxn s c readTag then { st := s, wait := true, aux := t.aux }
  else if phase = 0 then
    let h := imageGot s t.raw 64
    if imHeadOk h then { st := askImage (dropTxns s c readTag) t.raw (imTotal h), wait := true, aux := [0, 0, 0, 1] }
    else cmdFail (dropTxns s c readTag) msFault 0xFF
  else
    let img := imageGot s t.raw (imTotal (imageGot s t.raw 64))
    restoreImage (dropTxns s c readTag) t.raw img

/-- The work of CKPT_RESTORE on an image that the context reads itself: a fault met while reading is the header's or a section's. -/
def restoreLocal (s : State) (raw : Nat) : CmdOut :=
  let c := cmdCtx raw
  let a := rsImage raw
  let h := fwRead s c a 64
  if (badTouched s (fwPieces s c a 64)).isSome || !imHeadOk h then cmdFail s msFault 0xFF
  else
    cmdTry s [srcChk s c a (imTotal h) 8] fun s =>
      let img := fwRead s c a (imTotal h)
      if (badTouched s (fwPieces s c a (64 + 32 * imSections img))).isSome then cmdFail s msFault 0xFF
      else
        match (List.range (imSections img)).find? fun k =>
            let (_, o, b, _) := imSection img k
            b ≠ 0 && o + b ≤ imTotal h && (badTouched s (fwPieces s c (a + o) b)).isSome with
        | some k => cmdFail s msFault k
        | none => restoreImage (noteTraffic s (fwPieces s c a (imTotal h)) []) raw img

/-- The work of CKPT_RESTORE. -/
def workRestore (s : State) (raw : Nat) : CmdOut :=
  let c := cmdCtx raw
  cmdTry s [chk (16 ≤ rsMask raw) msReserved 0x10, chk (rsMask raw = 0) msInvalid 0x10,
      if rsRemote raw then none else srcChk s c (rsImage raw) 64 8,
      chk (!isOpen s c || !ctxQuiet s c) msConflict 0, chk (ckptBusy s c) msBusy 0]
    fun s =>
      if rsRemote raw then { st := askImage s raw 64, wait := true, aux := [0, 0, 0, 0] } else restoreLocal s raw

/-- CKPT_RESTORE (R462). -/
def execCkptRestore (place : Nat) (s : State) : Host.Outcome State Fault Refusal :=
  .next (runCmd s place 0x29 (fun _ => true) workRestore)

end Sys2Proof.Machine
end

