-- ==== Sys2Proof/Machine/Firmware.lean ====
section
/-! DEFINITION. Firmware regions (R369, R444 to R446), image verification (R479, R480), retirement and anti-rollback (R481), and calibration (R447, R486 to R488). -/

namespace Sys2Proof.Machine

/-! ### Images (R479, R480) -/

/-- Bank capacity of a region in bytes (R444). -/
def bankBytes (r : Nat) : Nat := nth 0 [0xC00000, 0x400000, 0x100000, 0x100000, 0x400000] r

/-- Are bytes `lo` to `hi` of an image zero? -/
def imgZero (img lo hi : Nat) : Bool := fld img lo (hi - lo) = 0

/-- Is an image's key one whose hash OTP holds, and not revoked (R480)? -/
def imgKeyOk (img : Nat) : Bool :=
  let k := fld img 6 1
  k < 4 && Config.sha384 (fld img 0x70 97) 97 = Config.otpKeyHash k && !bit Config.otpRevoked.toNat k

/-- Does the image's signature over its first 256 bytes verify (R479, R480)? -/
def imgSigned (img : Nat) : Bool :=
  Config.signatureGood (fld img 0x70 97) (Config.sha384 (fld img 0 0x100) 0x100) (fld img 0x100 96)

/-- The checks of R480 on an image of `len` bytes for a region with an anti-rollback counter: the DETAIL of the first failure. -/
def imgCheck (r img len counter : Nat) : Option Nat :=
  let size := fld img 0x14 4
  if len < 512 || fld img 0 4 ≠ 0x4D494C47 || fld img 4 1 ≠ 1 || fld img 5 1 ≠ r || fld img 8 4 ≠ 0x00010384 ||
      !imgZero img 7 8 || !imgZero img 0x18 0x40 || !imgZero img 0xD1 0x100 || !imgZero img 0x160 0x200 then some 3
  else if bankBytes r < 512 + size || bankBytes r < len then some 4
  else if !imgKeyOk img || !imgSigned img then some 1
  else if len < 512 + size || fld img 0x40 48 ≠ Config.sha384 (fld img 0x200 size) size then some 1
  else if fld img 0x10 4 < counter then some 2
  else none

/-- The bank that holds a verified image. -/
def imgBank (img len : Nat) : Bank := ⟨img % 2 ^ (8 * len), len, fld img 0x0C 4, fld img 0x10 4⟩

/-- Change a region. -/
def updRegion (s : State) (r : Nat) (f : FwRegion → FwRegion) : State :=
  { s with flash := { s.flash with regions := updAt s.flash.regions r f } }

/-! ### FW_STAGE, FW_ACTIVATE, FW_STATUS (R445, R446) -/

/-- Is an update of a region refused: an earlier one still runs, or the old image has not retired (R446)? -/
def regionBusy (s : State) (raw : Nat) : Bool :=
  (s.mbx.taken.any fun t => t.begun && (cmdOp t.raw = 8 || cmdOp t.raw = 9) && fld t.raw 8 1 = fld raw 8 1) ||
    (regionFw s (fld raw 8 1)).old

/-- Stage an image: the inactive bank takes it, or is marked empty where a check fails. -/
def stageImage (s : State) (r img len : Nat) : CmdOut :=
  match imgCheck r img len (regionFw s r).counter with
  | some d =>
    let s1 := updRegion s r fun g => { g with banks := g.banks.set (1 - g.active) ⟨0, 0, 0, 0⟩, staged := false }
    { st := logErr s1 11 1 0x17 0xFF r, status := msRejected, detail := d }
  | none =>
    let b := imgBank img len
    { st := updRegion s r fun g => { g with banks := g.banks.set (1 - g.active) b, staged := true }, result := b.version }

/-- The work of FW_STAGE. -/
def workFwStage (s : State) (raw : Nat) : CmdOut :=
  let r := fld raw 8 1
  let src := fld raw 0x10 8
  let len := fld raw 0x18 4
  cmdTry s [chk (4 < r) msInvalid 8, srcChk s 0xFF src len 0x10, chk (regionBusy s raw) msBusy 0, srcFault s 0xFF src len]
    fun s => stageImage s r (fwRead s 0xFF src len) len

/-- FW_STAGE (R445). -/
def execFwStage (place : Nat) (s : State) : Host.Outcome State Fault Refusal :=
  .next (runCmd s place 0x08 (fun _ => true) workFwStage)

/-- A codec operation in flight stays on the old image. -/
def markOld (f : Flight) : Flight := if f.cls = ucVcc then { f with old := true } else f

/-- Change every feed. -/
def mapFeeds (s : State) (g : Feed → Feed) : State := { s with tap := { s.tap with feeds := s.tap.feeds.map g } }

/-- Everything that runs on a region's image at its activation stays on the old one until it ends: of a live set, the sessions of its encoded streams (R369, R444). -/
def keepOld (s : State) (r : Nat) : State :=
  if r = 1 then
    let t := (List.range 8).foldl (fun t c => updCtx t c fun x => { x with flight := x.flight.map markOld }) s
    mapFeeds t fun f => if f.live && feedBusy f && f.streams.any (fun x => x.kind = 0) then { f with oldVcc := true } else f
  else if r = 2 then
    mapFeeds s fun f => if feedBusy f then { f with oldTap := true } else f
  else s

/-- Activate the staged image of a region: sessions of the codec that start from now on take it (R369). -/
def activateImage (s : State) (r : Nat) : State :=
  let before := activeVersion s r
  let s := keepOld (updRegion s r fun g => { g with active := 1 - g.active, staged := false, old := true }) r
  if r = 1 then { s with vcc := { s.vcc with version := activeVersion s 1, oldImage := some before } } else s

/-- The work of FW_ACTIVATE. -/
def workFwActivate (s : State) (raw : Nat) : CmdOut :=
  let r := fld raw 8 1
  cmdTry s [chk (4 < r) msInvalid 8, chk (regionBusy s raw) msBusy 0, chk (!(regionFw s r).staged) msConflict 0]
    fun s => { st := activateImage s r }

/-- FW_ACTIVATE (R445). -/
def execFwActivate (place : Nat) (s : State) : Host.Outcome State Fault Refusal :=
  .next (runCmd s place 0x09 (fun _ => true) workFwActivate)

/-- The work of FW_STATUS. -/
def workFwStatus (s : State) (raw : Nat) : CmdOut :=
  let r := fld raw 8 1
  let g := regionFw s r
  cmdTry s [chk (4 < r) msInvalid 8] fun s =>
    { st := s
      result := packBits [(activeVersion s r, 32), (if g.staged then (bankOf g (1 - g.active)).version else 0, 32), (if g.old then 3 else 0, 8)] }

/-- FW_STATUS (R445). -/
def execFwStatus (place : Nat) (s : State) : Host.Outcome State Fault Refusal :=
  .next (runCmd s place 0x0A (fun _ => true) workFwStatus)

/-! ### Retirement (R445, R481) -/

/-- Has a region's new image taken effect, with nothing left on the old one? Region 4 takes effect at a BIST run, which retires the old one itself. -/
def mayRetire (s : State) (r : Nat) : Bool :=
  (regionFw s r).old && (match r with
    | 0 => s.mbx.fwState = 2 && s.flash.bootBank = (regionFw s 0).active
    | 1 => !(s.ctxs.any fun x => x.flight.any (·.old)) && !(s.tap.feeds.any fun f => f.oldVcc && feedBusy f)
    | 2 => !s.tap.feeds.any fun f => f.oldTap && feedBusy f
    | 3 => !s.ctxs.any fun x => x.flight.any fun f => f.cls = ucCanopy
    | _ => false)

/-- The old image of a region retires; the anti-rollback counter, of 64 fuses, rises to the active image's SVN and is never lowered (R481). -/
def retireImage (s : State) (r : Nat) : State :=
  let s := updRegion s r fun g => { g with old := false, counter := max g.counter (min (bankOf g g.active).svn 64) }
  if r = 1 then { s with vcc := { s.vcc with oldImage := none } } else s

/-- IMAGE_RETIRE (R445, R481). -/
def execImageRetire (region : Fin 5) (s : State) : Host.Outcome State Fault Refusal :=
  if mayRetire s region then .next (retireImage s region) else .next s

/-! ### Calibration (R447, R486 to R488) -/

/-- Is an item code known (R486)? -/
def calKnown (i : Nat) : Bool :=
  i = 1 || (0x10 ≤ i && i < 0x14) || (0x20 ≤ i && i < 0x24) || (0x30 ≤ i && i < 0x34) || (0x40 ≤ i && i < 0x48) ||
    (0x50 ≤ i && i < 0x53) || i = 0x60 || (0x70 ≤ i && i < 0x80)

/-- The factory value of an item. -/
def calFactory (i : Nat) : Int := (Config.otpCalibration i).toInt

/-- Factory limits of an item. -/
def calLimits (i : Nat) : Int × Int :=
  let f := calFactory i
  if i = 1 then (800, f)
  else if i < 0x14 then (900, f)
  else if i < 0x24 then (f - 25, f + 25)
  else if i < 0x34 then (-3000, 3000)
  else if i < 0x48 then (-2000, 2000)
  else if i = 0x50 then (-5000, 5000)
  else if i = 0x51 then (-10000, 10000)
  else if i = 0x52 then (-500, 500)
  else if i = 0x60 then (-20000, 20000)
  else (-20, 20)

/-- The copy of the user page in force: the valid one whose SEQ is later by the rule of R149 (R488). -/
def calInForce (s : State) : Option Nat :=
  let a := nth ⟨false, 0, []⟩ s.flash.cal 0
  let b := nth ⟨false, 0, []⟩ s.flash.cal 1
  if a.valid && b.valid then (if waitMet b.seq a.seq then some 1 else some 0)
  else if a.valid then some 0
  else if b.valid then some 1
  else none

/-- The user page in force; empty where neither copy is valid. -/
def calPage (s : State) : CalPage :=
  match calInForce s with
  | some k => nth ⟨false, 0, []⟩ s.flash.cal k
  | none => ⟨false, 0, []⟩

/-- The user offset of an item. -/
def calOffset (s : State) (i : Nat) : Int := (smGet (0 : W32) (calPage s).ents i).toInt

/-- The effective value of an item: factory plus offset, clamped to the limits (R447). -/
def calEff (s : State) (i : Nat) : Int :=
  let (lo, hi) := calLimits i
  max lo (min hi (calFactory i + calOffset s i))

/-- The work of CAL_READ. -/
def workCalRead (s : State) (raw : Nat) : CmdOut :=
  let i := fld raw 8 2
  cmdTry s [chk (!calKnown i) msInvalid 8] fun s =>
    { st := s, result := packBits [(ofInt (calFactory i) 32, 32), (ofInt (calOffset s i) 32, 32), (ofInt (calEff s i) 32, 32)] }

/-- CAL_READ (R447). -/
def execCalRead (place : Nat) (s : State) : Host.Outcome State Fault Refusal :=
  .next (runCmd s place 0x0C (fun _ => true) workCalRead)

/-- Write the other copy of the page with SEQ + 1 (R488). -/
def writeCal (s : State) (f : SMap W32 → SMap W32) : State :=
  let p := calPage s
  let k := match calInForce s with
    | some 0 => 1
    | _ => 0
  { s with flash := { s.flash with cal := s.flash.cal.set k ⟨true, p.seq + 1, f p.ents⟩ } }

/-- The work of CAL_WRITE. -/
def workCalWrite (s : State) (raw : Nat) : CmdOut :=
  let i := fld raw 8 2
  let mode := fld raw 0x10 1
  cmdTry s [chk (mode < 2 && !calKnown i) msInvalid 8, chk (2 < mode) msInvalid 0x10,
      chk (s.mbx.taken.any fun t => t.begun && cmdOp t.raw = 0x0D) msBusy 0]
    fun s => { st := writeCal s fun m => if mode = 0 then smSet 0 m i (BitVec.ofNat 32 (fld raw 12 4)) else if mode = 1 then smDel m i else [] }

/-- CAL_WRITE (R447, R488). -/
def execCalWrite (place : Nat) (s : State) : Host.Outcome State Fault Refusal :=
  .next (runCmd s place 0x0D (fun _ => true) workCalWrite)

end Sys2Proof.Machine
end

