-- ==== Sys2Proof/Machine/Repair.lean ====
section
/-! DEFINITION. The Borer (R448, R523, R524), failures, fencing and live repair (R449, R525, R526), and the label (R450, R489 to R491). -/

namespace Sys2Proof.Machine

/-! ### Units under test (R523) -/

/-- Is a unit class with an instance a BIST unit? -/
def bistUnit (cls inst : Nat) : Bool :=
  match cls with
  | 1 => inst = 0 | 2 => inst = 0 | 3 => inst = 0 | 6 => inst = 0 | 0x0B => inst = 0
  | 4 => inst ≤ 3 | 5 => inst ≤ 3 | 9 => inst ≤ 3 | 0x0D => inst ≤ 3 | 0x10 => inst ≤ 3
  | 7 => inst ≤ 5 | 8 => inst ≤ 15 | 0x0C => inst ≤ 15 | 0x0A => inst = 4 || inst = 5
  | _ => false

/-- Does an operation use a unit under test? -/
def usesUnit (cls inst : Nat) (q : QOp) : Bool :=
  q.cls = cls && (match cls with
    | 4 => q.inst % 8 = inst | 5 => q.inst % 8 = inst | 9 => q.inst % 8 = inst | 0x0D => q.inst % 8 = inst
    | 7 => q.inst % 8 = inst | 0x0A => q.inst % 8 = inst
    | _ => true)

/-- Must a BIST_RUN wait for a quieter unit (R448): an operation queued or in flight on it, a feed that runs, or, for the Quarry and for class 0x10, any package? -/
def unitBusy (s : State) (cls inst : Nat) : Bool :=
  s.ctxs.any (fun x => x.queued.any (usesUnit cls inst) || x.flight.any fun f => usesUnit cls inst f.op) ||
  ((cls = 1 || cls = 0x10) && s.ctxs.any fun x => x.pkgs ≠ []) ||
  ((cls = 0x0B || cls = 0x0C) && s.tap.feeds.any fun f => feedBusy f && (cls = 0x0B || f.live)) ||
  s.fenced.contains (cls, inst)

/-- The domains that a test powers. -/
def bistDomains (cls inst : Nat) : List Nat :=
  if cls = 1 then planeDomains
  else if cls = 0x10 then [10 * inst, 10 * inst + 1]
  else if cls = 8 then [56, 57, 58]
  else if cls = 0x0C then (if inst < 12 then [46] else [47])
  else unitDomains cls inst 0

/-- Re-initialisation after a run (R524). -/
def unitReset (s : State) (cls inst : Nat) : State :=
  match cls with
  | 1 => { s with quarry := { s.quarry with lattice := resetQuarry.lattice, lastMatrix := none, lastCtx := 0, freeze := false } }
  | 3 => { s with chiselCmv := true }
  | 5 => { s with cru := { s.cru with freeze := false } }
  | 6 => { s with stash := { s.stash with mask := 0 } }
  | 8 => { s with rlb := s.rlb.map fun _ => [], rs := { s.rs with freeze := false } }
  | 9 => { s with spl := { s.spl with freeze := false } }
  | 0x0B => { s with tap := { s.tap with served := State.reset.tap.served, perf := { s.tap.perf with freeze := false } } }
  | 0x0C => { s with vcc := { s.vcc with lastDec := State.reset.vcc.lastDec, lastEnc := State.reset.vcc.lastEnc, perf := { s.vcc.perf with freeze := false } } }
  | 0x10 =>
    let lo := inst * 0x10000000
    let s := clearPlane (clearPlane (zeroRange s lo (lo + 0x10000000)) (2 * inst)) (2 * inst + 1)
    clearBad s [(lo, 0x10000000)]
  | _ => s

/-! ### Failures (R525, R526) -/

/-- A Face is lost: a cause of relay-only. -/
def loseFace (s : State) (f : Nat) : State := relayEnter (updPwr s fun p => { p with faces := p.faces.set f false }) causeFace

/-- The repair byte of a plane (R105). -/
def colByte (s : State) (p : Nat) : Nat := fld s.quarry.colRepair.toNat p 1

/-- One faulty column of a plane: the free spare takes its place, a second one loses the Face; a faulty spare that is free is remembered, since no later failure of the plane can use it. -/
def columnFail (s : State) (p col : Nat) : State :=
  let b := colByte s p
  if b = 0 then
    (if col = 32 then { s with quarry := { s.quarry with spareBad := insertUnique s.quarry.spareBad p } }
     else if s.quarry.spareBad.contains p then loseFace s (p / 2)
     else
       let v := setFld s.quarry.colRepair.toNat p 1 (128 + col)
       repairEvent { s with quarry := { s.quarry with colRepair := BitVec.ofNat 64 v } } 1 (p + 8 * col))
  else if b = 128 + col then s
  else loseFace s (p / 2)

/-- Does a column's failure take the plane's second repair (R105)? -/
def columnLost (s : State) (p col : Nat) : Bool :=
  (colByte s p = 0 && col ≠ 32 && s.quarry.spareBad.contains p) || (colByte s p ≠ 0 && colByte s p ≠ 128 + col)

/-- Bank of a Stockpile line number over all Faces, 128 a Face (R292). -/
def lineBank (line : Nat) : Nat := spBankAll (64 * line)

/-- Recorded rows of a bank with the factory's (R295). -/
def bankRows (s : State) (b : Nat) : Nat := Config.otpSpareRows b + (s.flash.rows.filter fun l => lineBank l = b).length

/-- Would the rows of some lines, recorded with those already there, need more than a bank's sixteen spares (R295, R525)? -/
def rowsOver (s : State) (lines : List Nat) : Bool :=
  let rows := lines.foldl insertUnique s.flash.rows
  lines.any fun l => 16 < Config.otpSpareRows (lineBank l) + (rows.filter fun k => lineBank k = lineBank l).length

/-- One faulty Stockpile row: recorded for the next start-up, or replaced at once during start-up; beyond sixteen spares the Face is lost. -/
def rowFail (s : State) (line : Nat) : State :=
  if s.flash.rows.contains line then s
  else
    let s := { s with flash := { s.flash with rows := insertUnique s.flash.rows line } }
    let s := if s.mode = .startUp then s else { s with memS := { s.memS with rowsRecorded := insertUnique s.memS.rowsRecorded line } }
    let s := repairEvent s 2 line
    if 16 < bankRows s (lineBank line) then loseFace s (line / 2 ^ 22) else s

/-- The cores that do the work of one core: the Canopy's sixteen, the decode cores, the encode cores. -/
def coreKind (cls inst : Nat) : List Nat :=
  if cls = 8 then List.range 16 else if inst < 12 then List.range 12 else [12, 13, 14, 15]

/-- Fence a unit: its own domains stay down until a module reset. -/
def fenceUnit (s : State) (cls inst : Nat) : State :=
  if s.fenced.contains (cls, inst) then s
  else
    let s := logErr { s with fenced := (cls, inst) :: s.fenced } 8 2 cls 0xFF (cls + 256 * inst)
    (fenceDomains cls inst).foldl domFall s

/-- A core is disabled; the last of its kind fences the unit. -/
def coreFail (s : State) (cls inst : Nat) : State :=
  if s.coresOff.contains (cls, inst) then s
  else
    let s := { s with coresOff := (cls, inst) :: s.coresOff }
    if (coreKind cls inst).all fun k => s.coresOff.contains (cls, k) then fenceUnit s cls inst
    else repairEvent (logErr s 8 2 cls 0xFF (cls + 256 * inst)) 5 (cls + 256 * inst)

/-- Is a failure of a unit the loss of its Face: Face units, Sump words, Stockpile logic, a second column (R525)? -/
def faceLossOf (s : State) (cls inst : Nat) (o : BistOutcome) : Bool :=
  cls = 4 || cls = 5 || cls = 9 || cls = 0x0D || (cls = 7 && inst ≤ 3) ||
  (cls = 0x10 && (o.sump || o.logicFail || rowsOver s (o.lines.map (·.val)))) ||
  (cls = 1 && (o.columns.foldl (fun (a : State × Bool) p => (columnFail a.1 p.1 p.2, a.2 || columnLost a.1 p.1 p.2)) (s, false)).2)

/-- What a failed run does (R525). -/
def bistFail (s : State) (cls inst : Nat) (o : BistOutcome) : State :=
  let loss := faceLossOf s cls inst o
  let s := logErr s 12 (if loss then 3 else 2) cls 0xFF (cls + 256 * inst)
  if cls = 1 then
    let s := o.columns.foldl (fun s p => columnFail s p.1 p.2) s
    if o.logicFail && o.columns = [] then fenceUnit s 1 0 else s
  else if cls = 0x10 then
    let s := o.lines.foldl (fun s l => rowFail s l.val) s
    if loss then loseFace s inst else s
  else if loss then loseFace s inst
  else if cls = 8 || cls = 0x0C then coreFail s cls inst
  else fenceUnit s cls inst

/-- The parts of an outcome that a KIND runs: logic for 1 and 3, memory for 2 and 3. -/
def kindOutcome (kind : Nat) (o : BistOutcome) : BistOutcome :=
  { o with logicFail := o.logicFail && kind ≠ 2, badWords := (if kind = 1 then 0 else o.badWords)
           lines := (if kind = 1 then [] else o.lines), sump := o.sump && kind ≠ 1 }

/-- Did a run fail? -/
def bistBad (o : BistOutcome) : Bool := o.logicFail || o.badWords ≠ 0 || o.columns ≠ [] || o.lines ≠ [] || o.sump

/-- A run that passes returns a disabled core to service (R526). -/
def bistPass (s : State) (cls inst : Nat) : State :=
  if s.coresOff.contains (cls, inst) then
    repairEvent { s with coresOff := s.coresOff.filter fun u => u ≠ (cls, inst) } 5 (cls + 256 * inst)
  else s

/-- One run of a unit: power, test, re-initialisation, its failure or pass; the Quarry planes fall again without an open context (R495, R524). -/
def runBist (s : State) (cls inst : Nat) (o : BistOutcome) : State :=
  let s := (bistDomains cls inst).foldl domRise s
  let s := unitReset s cls inst
  let s := if bistBad o then bistFail s cls inst o else bistPass s cls inst
  if anyOpen s then s else planeDomains.foldl domFall s

/-- RESULT of BIST_RUN: pass or fail, and the signature or the number of failing words. -/
def bistResult (kind : Nat) (o : BistOutcome) : Nat :=
  packBits [(b2n (bistBad o), 32), (if kind = 2 then o.badWords else o.signature.toNat, 64)]

/-- The work of BIST_RUN: a fence that arises closes every open context before the command completes (R526). -/
def workBist (o : BistOutcome) (s : State) (raw : Nat) : CmdOut :=
  let cls := fld raw 8 1
  let inst := fld raw 9 1
  let kind := fld raw 10 1
  cmdTry s [chk (!((1 ≤ cls && cls ≤ 0x0D) || cls = 0x10)) msInvalid 8, chk (!bistUnit cls inst) msInvalid 9, chk (kind = 0 || 3 < kind) msInvalid 10,
      chk (unitBusy s cls inst) msConflict 0, chk (!o.stored) msFault 1]
    fun s =>
      let o := kindOutcome kind o
      let t := withHealth s (runBist s cls inst o)
      let t := if (regionFw t 4).old then retireImage t 4 else t
      if t.fenced ≠ s.fenced && anyOpen t then
        { st := ((List.range 8).filter (isOpen t)).foldl closeBegin t, wait := true, aux := [bistResult kind o] }
      else { st := t, result := bistResult kind o }

/-- BIST_RUN (R448, R523 to R526). -/
def execBistRun (place : Nat) (outcome : BistOutcome) (s : State) : Host.Outcome State Fault Refusal :=
  .next (runCmd s place 0x10 (fun _ => true) (workBist outcome))

/-! ### REPAIR (R312 to R314, R372, R449) -/

/-- The near-tier bytes that mapping out one more channel withdraws (R27). -/
def withdrawn (s : State) (ch : Nat) : Nat × Nat :=
  let hi := if s.memS.globalMode then nearBase + nearSize - 0x60000000 * s.memS.mapped.length
    else nearBase + (ch / 64 + 1) * faceSpan - 0x60000000 * mappedInFace s (ch / 64)
  (hi - 0x60000000, hi)

/-- Does an open context's map cover them (R314)? -/
def withdrawnMapped (s : State) (ch : Nat) : Bool :=
  let (lo, hi) := withdrawn s ch
  (List.range 8).any fun c => isOpen s c && (ctxOf s c).maps.any fun e => overlaps e.pda (e.pda + e.len) lo hi

/-- Would one more map-out exceed the budget of a list: 4 a stack, 16 a module (R312)? -/
def overBudget (mapped : List Nat) (ch : Nat) : Bool := 4 ≤ (mapped.filter fun k => k / 32 = ch / 32).length || 16 ≤ mapped.length

/-- Map out a channel in service: every line keeps its DA, and bad lines stay poisoned (R314). -/
def mapOut (s : State) (ch : Nat) : State :=
  repairEvent { s with memS := { s.memS with mapped := insertUnique s.memS.mapped ch }
                       flash := { s.flash with outChans := insertUnique s.flash.outChans ch } } 3 ch

/-- The work of REPAIR MAP_OUT. -/
def workMapOut (s : State) (raw : Nat) : CmdOut :=
  let ch := fld raw 9 1
  cmdTry s [chk (s.memS.mapped.contains ch || withdrawnMapped s ch) msConflict 0, chk (overBudget s.memS.mapped ch) msResource 0]
    fun s => { st := withHealth s (mapOut s ch) }

/-- REPAIR_MAP_OUT (R449). -/
def execRepairMapOut (place : Nat) (s : State) : Host.Outcome State Fault Refusal :=
  .next (runCmd s place 0x11 (fun r => fld r 8 1 = 1) workMapOut)

/-- The work of REPAIR UNMAP: the channel leaves the repair record, with effect from the next start-up. -/
def workUnmap (s : State) (raw : Nat) : CmdOut :=
  let ch := fld raw 9 1
  if s.flash.outChans.contains ch then
    { st := withHealth s (repairEvent { s with flash := { s.flash with outChans := s.flash.outChans.filter (· ≠ ch) } } 6 ch) }
  else { st := s }

/-- REPAIR_UNMAP (R449). -/
def execRepairUnmap (place : Nat) (s : State) : Host.Outcome State Fault Refusal :=
  .next (runCmd s place 0x11 (fun r => fld r 8 1 = 2) workUnmap)

/-- The work of REPAIR LANE_SWAP: the lane moves to the spare; the physical lane it leaves stays good. -/
def workLaneSwap (s : State) (raw : Nat) : CmdOut :=
  let port := fld raw 9 1
  let lane := fld raw 10 1
  let p := portOf s port
  cmdTry s [chk (15 < port) msInvalid 9, chk (3 < lane) msInvalid 10, chk (p.st ≠ 2 || p.spareFor ≠ 7 || !bit p.laneOk 4) msConflict 0]
    fun s => { st := withHealth s (laneSwapped (updPort s port fun p => { p with spareFor := lane }) port lane) }

/-- REPAIR_LANE_SWAP (R449). -/
def execRepairLaneSwap (place : Nat) (s : State) : Host.Outcome State Fault Refusal :=
  .next (runCmd s place 0x11 (fun r => fld r 8 1 = 3) workLaneSwap)

/-! ### The label (R450, R489 to R491) -/

/-- The work of LABEL_UPDATE: its note replaces the one held, and its request the pending one; it waits for the drawing that carries it. -/
def workLabel (s : State) (raw : Nat) : CmdOut :=
  let n := fld raw 8 1
  let note := bytesOf (fld raw 0x10 n) n
  cmdTry s [chk (32 < n) msInvalid 8,
      ((List.range n).find? fun k => fld raw (0x10 + k) 1 < 0x20 || 0x7E < fld raw (0x10 + k) 1).map fun k => (msInvalid, 0x10 + k)]
    fun s => { st := requestLabel (updLabel s fun l => { l with note := note }), wait := true }

/-- LABEL_UPDATE (R450). -/
def execLabelUpdate (place : Nat) (s : State) : Host.Outcome State Fault Refusal :=
  .next (runCmd s place 0x14 (fun _ => true) workLabel)

/-- The fields that a drawing shows: node (0x10000 without a fabric record), tray slot, serial number, health code, mode, last fault, note (R489). -/
def labelFields (s : State) : List Nat :=
  [if s.fab.recValid then s.fab.node else 0x10000, s.aoc.slot, Config.otpSerial.toNat, healthCode s, modeCode s.mode, s.ras.lastFault] ++
    s.aoc.label.note

/-- A drawing begins: STATE 1, the generation rises, and it draws what is current (R490). -/
def beginDrawing (s : State) : State :=
  let s := updMbx s fun m => { m with taken := m.taken.map fun t => if labelWaits t then { t with aux := [1] } else t }
  let fields := labelFields s
  updLabel s fun l => { l with updating := true, gen := l.gen + 1, busy := true, drawing := fields, pend := false, clearFirst := false }

/-- A drawing ends: STATE 0, the fields are recorded, and the LABEL_UPDATE whose note it carried completes. After step 10 of start-up this is step 11 (R477). -/
def endDrawing (s : State) : State :=
  let done (t : Cmd) : Cmd := if cmdOp t.raw = 0x14 && t.begun && t.ready.isNone && t.aux = [1] then { t with ready := some (msOk, 0, 0) } else t
  let s := updMbx s fun m => { m with taken := m.taken.map done }
  let s := updLabel s fun l => { l with updating := false, busy := false, drawn := l.drawing }
  if s.aoc.lastStep = 10 then { s with aoc := { s.aoc with lastStep := 11 } } else s

/-- LABEL_DRAWING (R490): the drawing in progress ends; with none, the pending request begins to be drawn, unless the panel is below 0 °C or above 50 °C. -/
def execLabelDrawing (cold : Bool) (s : State) : Host.Outcome State Fault Refusal :=
  if !s.aoc.on then .next s
  else if s.aoc.label.busy then .next (endDrawing s)
  else if s.aoc.label.pend && !cold then .next (beginDrawing s)
  else .next s

end Sys2Proof.Machine
end

