-- ==== Sys2Proof/Machine/FabCmds.lean ====
section
/-! DEFINITION. Foreman commands on the fabric: the fabric record (R388, R463), routes, tunnels and ports (R464). -/

namespace Sys2Proof.Machine

/-! ### The fabric record (R463) -/

def frTorus (r : Nat) : Bool := bit (fld r 5 1) 1
def frMaster (r : Nat) : Bool := bit (fld r 5 1) 0
def frRoutes (r : Nat) : Nat := fld r 0x16 2
def frPort (r p : Nat) : Nat := fld r (0x40 + 8 * p) 8
def frRoute (r n : Nat) : Nat := fld r (0x100 + 8 * n) 8

/-- Torus extents of a record. -/
def frExt (r : Nat) : List Nat := (List.range (fld r 9 1)).map fun d => fld r (10 + 2 * d) 2

/-- Does a route table entry carry a reserved bit (R382)? -/
def routeReserved (e : Nat) : Bool := bits e 35 5 ≠ 0 || bits e 46 17 ≠ 0

/-- Does a port's entry break the record's table? -/
def portBad (r p : Nat) : Bool :=
  let e := frPort r p
  3 < e % 256 || bits e 11 4 ≠ 0 || e / 65536 ≠ 0 || (frTorus r && bit e 15 && fld r 9 1 ≤ bits e 8 2)

/-- The digest of a record: bytes 0x000 to 0x0F7, then the route table (R424, R463). -/
def frDigest (r : Nat) : Nat := digestBytes (bytesOf r 0xF8 ++ bytesOf (r >>> 0x800) (8 * frRoutes r))

/-- The first offset of a record of `len` bytes that breaks its table or its DIGEST. -/
def recordBad (r len : Nat) : Option Nat :=
  let nd := fld r 9 1
  firstBad (([(0x00, fld r 0 4 ≠ 0x52464C47), (0x04, fld r 4 1 ≠ 1), (0x05, 4 ≤ fld r 5 1), (0x07, bit (fld r 6 2) 15),
      (0x09, if frTorus r then nd = 0 || 3 < nd else nd ≠ 0),
      (0x0A, frTorus r && ((frExt r).contains 0 || 32768 < prodNat (frExt r))),
      (0x10, fld r 0x10 4 ≠ 0 && (fld r 0x10 4 < 100 || 10000000 < fld r 0x10 4)),
      (0x16, frRoutes r = 0 || 32768 < frRoutes r || len ≠ 256 + 8 * frRoutes r)] : List (Nat × Bool)) ++
    (List.range 16).map (fun p => (0x40 + 8 * p, portBad r p)) ++
    ([(0xF8, fld r 0xF8 8 ≠ frDigest r)] : List (Nat × Bool)) ++
    (List.range (frRoutes r)).map fun n => (0x100 + 8 * n, routeReserved (frRoute r n)))

/-- A port takes its part of the record: PMD 3 disables it. -/
def recordPort (r : Nat) (p : Nat) (x : Port) : Port :=
  let x := { x with cfg := frPort r p }
  if frPort r p % 256 = 3 then { x with st := 3, width := 0 } else x

/-- The route table of a record; entries beyond it route nothing. -/
def recordRoutes (r : Nat) : SMap Nat :=
  (List.range (frRoutes r)).foldl (fun m n => smSet 0 m n (frRoute r n)) []

/-- A field whose value 0 stands for a default. -/
def orDefault (v d : Nat) : Nat := if v = 0 then d else v

/-- Apply a record (R388, R463). -/
def applyRecord (s : State) (r : Nat) : State :=
  updFab s fun f =>
    { f with
      node := bits (fld r 6 2) 0 15, recValid := true, hopLimit := orDefault (fld r 8 1) 64, timeoutUs := orDefault (fld r 0x10 4) 10000
      torus := frTorus r, ext := frExt r, routes := recordRoutes r, ports := f.ports.zipIdx.map fun p => recordPort r p.2 p.1
      sbr := { f.sbr with master := frMaster r, cableNs := orDefault (fld r 0x14 2) 5 } }

/-- The work of FAB_RECORD. -/
def workFabRecord (s : State) (raw : Nat) : CmdOut :=
  let c := cmdCtx raw
  let src := fld raw 8 8
  let len := fld raw 0x10 4
  let r := fwRead s c src len
  cmdTry s [chk (len < 264 || 262400 < len || len % 8 ≠ 0) msInvalid 0x10, srcChk s c src len 8,
      chk (s.mbx.taken.any fun t => t.begun && cmdOp t.raw = 0x30) msBusy 0, srcFault s c src len,
      (recordBad r len).map fun o => (msInvalid, o)]
    fun s =>
      let t := { s with flash := { s.flash with fabRec := r, fabLen := len } }
      if s.fab.recValid then { st := t } else { st := requestLabel (applyRecord t r), result := 1 }

/-- FAB_RECORD (R463). -/
def execFabRecord (place : Nat) (s : State) : Host.Outcome State Fault Refusal :=
  .next (runCmd s place 0x30 (fun _ => true) workFabRecord)

/-! ### Routes (R464) -/

/-- The work of FAB_ROUTE. -/
def workFabRoute (s : State) (raw : Nat) : CmdOut :=
  let c := cmdCtx raw
  let first := fld raw 8 2
  let count := fld raw 10 2
  let src := fld raw 0x10 8
  let v := fwRead s c src (8 * count)
  cmdTry s [chk (32768 ≤ first) msInvalid 8, chk (count = 0 || 32768 < first + count) msInvalid 10, srcChk s c src (8 * count) 0x10,
      srcFault s c src (8 * count),
      firstSome ((List.range count).map fun k => chk (routeReserved (fld v (8 * k) 8)) msReserved (8 * k + (if bits (fld v (8 * k) 8) 35 5 ≠ 0 then 4 else 5)))]
    fun s => { st := updFab s fun f => { f with routes := (List.range count).foldl (fun m k => smSet 0 m (first + k) (fld v (8 * k) 8)) f.routes } }

/-- FAB_ROUTE (R464). -/
def execFabRoute (place : Nat) (s : State) : Host.Outcome State Fault Refusal :=
  .next (runCmd s place 0x31 (fun _ => true) workFabRoute)

/-! ### Tunnels (R396, R464) -/

/-- The first field of a tunnel block that breaks *Tunnel parameters*. -/
def tunnelBad (b : Nat) : Option Nat :=
  let tg := fld b 0x40 4
  let dt := fld b 0x44 4
  firstBad [(0x00, 1 < fld b 0 1), (0x01, fld b 1 1 ≠ 4 && fld b 1 1 ≠ 6), (0x02, 63 < fld b 2 1), (0x03, 1 < fld b 3 1),
    (0x04, 4095 < fld b 4 2), (0x06, fld b 6 2 < 1280 || 9000 < fld b 6 2), (0x08, fld b 8 2 = 0), (0x0A, fld b 0x0A 2 = 0),
    (0x0C, fld b 0x0C 2 = 0 || 100 < fld b 0x0C 2), (0x38, fld b 0x38 8 = 0 || fld b 0x38 8 % 65536 ≠ 0),
    (0x40, tg ≠ 0 && (tg < 100 || 100000 < tg)), (0x44, dt ≠ 0 && (dt < 10 || 60000 < dt))]

/-- The work of FAB_TUNNEL open: the tunnel comes up when a PROBE is answered (R401). -/
def workTunOpen (s : State) (raw : Nat) : CmdOut :=
  let c := cmdCtx raw
  let t := fld raw 8 1
  let src := fld raw 0x10 8
  let b := fwRead s c src 96
  cmdTry s [chk (63 < t) msInvalid 8, srcChk s c src 96 0x10, srcFault s c src 96, (tunnelBad b).map fun o => (msInvalid, o),
      chk (!fwPhysOk s (foremanRegions s) (fld b 0x30 8) (fld b 0x38 8)) msAddress 0x30,
      chk (regionOf s (fld b 0x30 8) ≠ some .near) msInvalid 0x30, chk (tunOf s t).opened msConflict 0]
    fun s => { st := updTun s t fun _ => { noTunnel with opened := true, blk := b, lastSent := jouHdr 2 t 0 0 0 0 (nowUs s) 0 } }

/-- FAB_TUNNEL_OPEN (R464). -/
def execFabTunnelOpen (place : Nat) (s : State) : Host.Outcome State Fault Refusal :=
  .next (runCmd s place 0x32 (fun r => fld r 9 1 = 1) workTunOpen)

/-- The work of FAB_TUNNEL close. -/
def workTunClose (s : State) (raw : Nat) : CmdOut :=
  let t := fld raw 8 1
  cmdTry s [chk (63 < t) msInvalid 8, chk (!(tunOf s t).opened) msConflict 0]
    fun s => { st := updTun (tunnelDown s t) t fun _ => noTunnel }

/-- FAB_TUNNEL_CLOSE (R401, R464). -/
def execFabTunnelClose (place : Nat) (s : State) : Host.Outcome State Fault Refusal :=
  .next (runCmd s place 0x32 (fun r => fld r 9 1 = 2) workTunClose)

/-! ### Ports (R371, R385, R464) -/

/-- Take a port down where it is up, and leave it in a state. -/
def stopPort (s : State) (p st : Nat) : State :=
  if (portOf s p).st = 2 then portDown s p st else updPort s p fun x => { x with st := st }

/-- The shared work of FAB_PORT: the port ends down (0) or training (1). -/
def workFabPort (st : Nat) (s : State) (raw : Nat) : CmdOut :=
  cmdTry s [chk (15 < fld raw 8 1) msInvalid 8] fun s => { st := withHealth s (stopPort s (fld raw 8 1) st) }

/-- FAB_PORT_DISABLE (R464). -/
def execFabPortDisable (place : Nat) (s : State) : Host.Outcome State Fault Refusal :=
  .next (runCmd s place 0x33 (fun r => fld r 9 1 = 1) (workFabPort 0))

/-- The work of FAB_PORT enable: a port that is down trains; one in service goes on. -/
def workPortEnable (s : State) (raw : Nat) : CmdOut :=
  let p := fld raw 8 1
  cmdTry s [chk (15 < p) msInvalid 8] fun s =>
    { st := if (portOf s p).st = 2 then s else updPort s p fun x => { x with st := 1 } }

/-- FAB_PORT_ENABLE (R464). -/
def execFabPortEnable (place : Nat) (s : State) : Host.Outcome State Fault Refusal :=
  .next (runCmd s place 0x33 (fun r => fld r 9 1 = 2) workPortEnable)

/-- FAB_PORT_RETRAIN (R464). -/
def execFabPortRetrain (place : Nat) (s : State) : Host.Outcome State Fault Refusal :=
  .next (runCmd s place 0x33 (fun r => fld r 9 1 = 3) (workFabPort 1))

end Sys2Proof.Machine
end

