-- ==== Sys2Proof/Machine/TraceCmds.lean ====
section
/-! DEFINITION. Foreman commands on the trace unit: TRACE_CONFIG and TRACE_CTRL (R466, R484, R528, R530). -/

namespace Sys2Proof.Machine

/-- Change the trace unit. -/
def updTrc (s : State) (f : TrcS → TrcS) : State := { s with trc := f s.trc }

/-- The trace unit's domain. -/
def traceDomain : Nat := 51

/-- May a trace buffer lie at an address: near tier, far tier or host window (R528)? -/
def tracePlace (s : State) (a : Nat) : Bool :=
  regionOf s a = some .near || regionOf s a = some .far || regionOf s a = some .host

/-- The work of TRACE_CONFIG. -/
def workTraceConfig (s : State) (raw : Nat) : CmdOut :=
  let base := fld raw 8 8
  let n := fld raw 0x10 8
  let src := fld raw 0x18 8
  cmdTry s [chk (base % 4096 ≠ 0) msInvalid 8, chk (n % 4096 ≠ 0 || n < 0x10000 || 0x1000000000 < n) msInvalid 0x10,
      chk (2 ^ 44 ≤ src) msReserved (if bits src 44 4 ≠ 0 then 0x1D else if bits src 48 8 ≠ 0 then 0x1E else 0x1F),
      chk (!fwPhysOk s (foremanRegions s) base n) msAddress 8, chk (!tracePlace s base) msInvalid 8,
      chk (s.trc.st ≠ 0) msConflict 0, chk (bits src 42 2 ≠ 0) msLocked 0]
    fun s => { st := updTrc s fun t => { t with configured := true, base := base, bytes := n, sources := src } }

/-- TRACE_CONFIG (R466, R528): the debug lock is always set, so restricted sources are refused (R484). -/
def execTraceConfig (place : Nat) (s : State) : Host.Outcome State Fault Refusal :=
  .next (runCmd s place 0x3C (fun _ => true) workTraceConfig)

/-- START: tracing begins at record 0 with a START record; while the buffer is away it begins suspended. -/
def traceStart (s : State) : State :=
  let s := domRise s traceDomain
  let away := (bufferDomains s).find? fun d => !(if d = pcieDomain then s.hostUp else domIsOn s d)
  let s := updTrc s fun t =>
    { t with st := (if away.isNone then 1 else 2), n := 0, staged := [], suspDomain := away.getD 0, suspAt := s.elapsed, suspLost := 0 }
  traceOwn s 36 0xF5 s.trc.sources

/-- The work of TRACE_CTRL START. -/
def workTraceStart (s : State) (_raw : Nat) : CmdOut :=
  cmdTry s [chk (!s.trc.configured) msConflict 0] fun s => { st := traceStart s }

/-- TRACE_START (R466, R528). -/
def execTraceStart (place : Nat) (s : State) : Host.Outcome State Fault Refusal :=
  .next (runCmd s place 0x3D (fun r => fld r 8 1 = 1) workTraceStart)

/-- STOP: every staged record is written, then the STOP record; what a suspended unit still holds cannot be written and is lost. -/
def traceStop (s : State) : State :=
  let s :=
    if s.trc.st = 1 then (let s := traceDrain s; traceOwn s 36 0xF6 (min s.trc.n 0xFFFFFFFF))
    else updTrc s fun t => { t with lost := t.lost + BitVec.ofNat 64 t.staged.length }
  domFall (updTrc s fun t => { t with st := 0, staged := [], suspDomain := 0 }) traceDomain

/-- The work of TRACE_CTRL STOP. -/
def workTraceStop (s : State) (_raw : Nat) : CmdOut := { st := if s.trc.st = 0 then s else traceStop s }

/-- TRACE_STOP (R466, R528). -/
def execTraceStop (place : Nat) (s : State) : Host.Outcome State Fault Refusal :=
  .next (runCmd s place 0x3D (fun r => fld r 8 1 = 2) workTraceStop)

/-- The work of TRACE_CTRL FLUSH: staged records are written, and tracing goes on. -/
def workTraceFlush (s : State) (_raw : Nat) : CmdOut := { st := if s.trc.st = 1 then traceDrain s else s }

/-- TRACE_FLUSH (R466, R528). -/
def execTraceFlush (place : Nat) (s : State) : Host.Outcome State Fault Refusal :=
  .next (runCmd s place 0x3D (fun r => fld r 8 1 = 3) workTraceFlush)

end Sys2Proof.Machine
end

