-- ==== Sys2Proof/Machine/Complete.lean ====
section
/-! DEFINITION. Ends: OPERATION_COMPLETION (R142, R143, R149, R419) and COMMAND_COMPLETION (R432 to R434, R437), with what the waiting commands still do. -/

namespace Sys2Proof.Machine

/-! ### Operations -/

/-- The unit classes that run the operations of a queue one after another, so that these complete in queue order (R14, R95, R154, R180; assumption 15). -/
def serialClass (cls : Nat) : Bool := [1, 2, 3, 4, 5, 9, 13].contains cls

/-- Is an earlier operation of the same queue still in flight at a unit that runs one at a time? -/
def behindOther (l : List Flight) (f : Flight) : Bool :=
  serialClass f.op.cls && (l.takeWhile fun g => g.op.opIndex ≠ f.op.opIndex).any (sameQueue f)

/-- The flight of an operation whose work is done, which no hazard holds and whose turn it is in its queue. -/
def endedFlight (s : State) (c i : Nat) : Option Flight :=
  let l := (ctxOf s c).flight
  l.find? fun f => f.op.opIndex = i && f.ended && !f.held && !behindOther l f

/-- An operation completes: a fabric operation's PF_TALLY is signalled at the latest now, then its signals, record, event, halt and package end follow. -/
def finishOp (s : State) (c : Nat) (f : Flight) : State :=
  let s := pfSignal s c f
  completeOp s c f fun t => lowWater s t c

/-- OPERATION_COMPLETION (R143): an operation of a context that has ended completes; stash operations that waited for it begin (R209). -/
def execOperationCompletion (c : Fin 8) (opIndex : Nat) (s : State) : Host.Outcome State Fault Refusal :=
  match endedFlight s c opIndex with
  | none => .next s
  | some f => .next (stashKick (finishOp s c f))

/-! ### Commands -/

/-- A close that waits: it ends once every operation in flight is over (R454). -/
def closeStep (s : State) (t : Cmd) : CmdOut :=
  if closeReady s (cmdCtx t.raw) then { st := closeEnd s (cmdCtx t.raw) } else { st := s, wait := true, aux := t.aux }

/-- A self-test that fenced a unit ends once every open context is closed (R526). -/
def bistStep (s : State) (t : Cmd) : CmdOut :=
  let open_ := (List.range 8).filter (isOpen s)
  if open_.all (closeReady s) then { st := open_.foldl closeEnd s, result := nth 0 t.aux 0 }
  else { st := s, wait := true, aux := t.aux }

/-- The next part of a command that has begun and waits. PWR_CAP and LABEL_UPDATE are ended by the rows that they wait for. -/
def cmdStep (s : State) (t : Cmd) : CmdOut :=
  if cmdOp t.raw = 0x19 then closeStep s t
  else if cmdOp t.raw = 0x10 then bistStep s t
  else if cmdOp t.raw = 0x28 then saveStep s t
  else if cmdOp t.raw = 0x29 then restoreStep s t
  else { st := s, wait := true, aux := t.aux }

/-- May a completion be posted: earlier commands of its target have completed, but for a command turned away busy and a replaced label update (R434). -/
def mayPost (s : State) (i : Nat) (t : Cmd) (status : Nat) : Bool :=
  status = msBusy || status = msSuperseded || (match cmdTarget t.raw with
    | none => true
    | some g => (s.mbx.taken.take i).all fun u => cmdTarget u.raw ≠ some g)

/-- A command that names no command of the table begins and is refused (R440). -/
def beginUnknown (s : State) (i : Nat) (t : Cmd) : State :=
  if noSuchCmd t.raw && cmdMayBegin s i then
    match cmdChecks s t.raw with
    | some (st, d) => cmdRecord i (cmdFail s st d)
    | none => s
  else s

/-- The work of a command that has begun goes on. -/
def advanceCmd (s : State) (i : Nat) (t : Cmd) : State :=
  if t.begun && t.ready.isNone then cmdRecord i (cmdStep s t) else beginUnknown s i t

/-- Post a finished command's completion; the Foreman then takes what the rings permit. -/
def finishCmd (s : State) (i : Nat) : State :=
  match s.mbx.taken[i]? with
  | none => s
  | some t =>
    match t.ready with
    | none => s
    | some r => if mayPost s i t r.1 then pumpSq (postCompletion s i t r) else s

/-- COMMAND_COMPLETION (R432): the Foreman carries on the taken command at a place and, when its work is finished, posts its completion. -/
def execCommandCompletion (place : Nat) (s : State) : Host.Outcome State Fault Refusal :=
  if s.mbx.fwState ≠ 2 then .next s
  else
    match s.mbx.taken[place]? with
    | none => .next s
    | some t => .next (finishCmd (advanceCmd s place t) place)

end Sys2Proof.Machine
end

