-- ==== Sys2Proof/Machine/Control.lean ====
section
/-! DEFINITION. The sequencer's own steps: control operations (R155 to R157), package start (R135), envelope dispatch (R138, R146), and the wait limit (R160). -/

namespace Sys2Proof.Machine

/-- The control operation at the dispatch point of a context, when it may execute: its envelope passes R138, and its waits are met (R155). -/
def controlReady (s : State) (c opcode : Nat) : Option (Pkg × Nat) :=
  match nextEnv s c with
  | none => none
  | some (p, e) =>
    let x := ctxOf s c
    if envOpcode e = opcode && (envCheck p x.nextIndex x.nextOff e).isNone && (envFault s c p x.nextOff).isNone &&
        waitsMet s c e && domIsOn s 44 then some (p, e)
    else none

/-- A control operation executes at its place: it ends with the status its action gives (R155). -/
def controlDone (s : State) (c e : Nat) (status detail : Nat) : State :=
  let q := mkOp (ctxOf s c) e
  endAtOnce (advanceDispatch s c e) c q 0 status detail

/-- First reserved byte of a parameter block that is reserved whole. -/
def allReserved (e : Nat) : Option Nat := firstBad (parZero e 0 0x40)

/-- The eight entries of TALLY_SET and SHAPE_SET. -/
def setEntry (e k : Nat) : Nat := par e (8 * k) 8

/-- Offset of the first entry with a reserved value (R155). -/
def setReserved (e : Nat) : Option Nat :=
  firstBad ((List.range 8).map fun k => (0x40 + 8 * k, entryReserved (setEntry e k)))

/-- Indices of the enabled entries, in order. -/
def setIndices (e : Nat) : List Nat :=
  ((List.range 8).filter fun k => bit (setEntry e k) 15).map fun k => bits (setEntry e k) 0 12

/-- Is a set operation invalid: no enabled entry, or two that name one index (R155)? -/
def setInvalid (e : Nat) : Bool := setIndices e = [] || !(setIndices e).Nodup

/-- Enabled entries as (index, value). -/
def setPairs (e : Nat) : List (Nat × Nat) :=
  ((List.range 8).filter fun k => bit (setEntry e k) 15).map fun k => (bits (setEntry e k) 0 12, bits (setEntry e k) 32 32)

/-- NOP (R155): nothing beyond its waits and signals. -/
def execNop (c : Fin 8) (s : State) : Host.Outcome State Fault Refusal :=
  match controlReady s c 0x00 with
  | none => .next s
  | some (_, e) =>
    match allReserved e with
    | some o => .next (controlDone s c e stReserved o)
    | none => .next (controlDone s c e stOk 0)

/-- STEP_ADVANCE (R156): once every earlier operation has completed, write back the ledger and add 1 to STEP. -/
def execStepAdvance (c : Fin 8) (s : State) : Host.Outcome State Fault Refusal :=
  match controlReady s c 0x01 with
  | none => .next s
  | some (_, e) =>
    if (ctxOf s c).queued = [] && (ctxOf s c).flight = [] then
      match allReserved e with
      | some o => .next (controlDone s c e stReserved o)
      | none =>
        let s1 := ledgerWriteBack s c
        let s2 := updCtx s1 c fun x => { x with step := x.step + 1 }
        .next (controlDone (traceState s2 0 c) c e stOk 0)
    else .next s

/-- TALLY_SET (R155, R157): every enabled tally takes its VALUE. -/
def execTallySet (c : Fin 8) (s : State) : Host.Outcome State Fault Refusal :=
  match controlReady s c 0x02 with
  | none => .next s
  | some (_, e) =>
    match setReserved e with
    | some o => .next (controlDone s c e stReserved o)
    | none =>
      if setInvalid e then .next (controlDone s c e stControl 0)
      else .next (controlDone ((setPairs e).foldl (fun s p => setTally s c p.1 (BitVec.ofNat 32 p.2)) s) c e stOk 0)

/-- SHAPE_SET (R155, R41): every enabled shape word takes its VALUE, as one 32-bit access each. -/
def execShapeSet (c : Fin 8) (s : State) : Host.Outcome State Fault Refusal :=
  match controlReady s c 0x03 with
  | none => .next s
  | some (_, e) =>
    match setReserved e with
    | some o => .next (controlDone s c e stReserved o)
    | none =>
      if setInvalid e then .next (controlDone s c e stControl 0)
      else
        let ivs := (setPairs e).map fun p => ((ctxOf s c).swBase + 4 * p.1, 4)
        match badPartly s (physPieces s c ivs) with
        | some l => .next (controlDone (countUe s l c) c e stMemFault l)
        | none => .next (controlDone ((setPairs e).foldl (fun s p => setShapeWord s c p.1 p.2) s) c e stOk 0)

/-- PACKAGE_START (R135): the header of the package at the front is checked; it runs, or it ends with ENVELOPE_INVALID in its report. -/
def execPackageStart (c : Fin 8) (s : State) : Host.Outcome State Fault Refusal :=
  let x := ctxOf s c
  match x.pkgs with
  | [] => .next s
  | p :: _ =>
    if x.st = .idle && !p.started && domIsOn s 44 then
      let h := rdNum s c p.da 64
      let ok := headerOk s c p.da
      let s := noteTraffic s (physPieces s c [(p.da, 64)]) []
      if ok then
        let p' := { p with started := true, opCount := fld h 8 4, bytes := fld h 0xC 4, compBase := bits (fld h 0x10 8) 0 48
                           gen := fld h 0x18 4, waitLimit := fld h 0x1C 4 }
        .next (updCtx s c fun x =>
          { x with st := .running, pkgs := p' :: x.pkgs.tail, nextIndex := 0, nextOff := 64, halt := none
                   haltStatus := 0, failed := [] })
      else .next (endPkg s c { p with gen := fld h 0x18 4 } 2 stEnvelope)
    else .next s

/-- ENVELOPE_DISPATCH (R138, R146): the next envelope of the running package is checked and placed in its unit's queue when an entry is free; one that fails ends at once. Control operations stay at the dispatch point for their own rows. -/
def execEnvelopeDispatch (c : Fin 8) (s : State) : Host.Outcome State Fault Refusal :=
  match nextEnv s c with
  | none => .next s
  | some (p, e) =>
    let x := ctxOf s c
    if !domIsOn s 44 then .next s else
    match envFault s c p x.nextOff with
    | some l => .next (rejectEnv (countUe s l c) c e stMemFault l)
    | none =>
      match envCheck p x.nextIndex x.nextOff e with
      | some (st, d) => .next (rejectEnv s c e st d)
      | none =>
        let q := mkOp x e
        if q.cls = 0 then .next s
        else if (x.queued.filter fun r => r.cls = q.cls && r.inst = q.inst).length < queueDepth q.cls then
          .next (traceState (advanceDispatch (updCtx s c fun x => { x with queued := x.queued ++ [q] }) c e) 0 c)
        else .next s

/-- WAIT_TIMEOUT (R160): the head of a unit instance's queue, or with class 0 the control operation at the dispatch point, whose waits have stayed unmet for WAIT_LIMIT, ends with WAIT_TIMEOUT. The command stands for the interval having passed. -/
def execWaitTimeout (c : Fin 8) (cls : Fin 14) (inst : Nat) (s : State) : Host.Outcome State Fault Refusal :=
  let x := ctxOf s c
  let limit := match runningPkg x with
    | some p => p.waitLimit
    | none => 0
  if limit = 0 then .next s
  else if cls.val = 0 then
    match nextEnv s c with
    | none => .next s
    | some (p, e) =>
      if envOpcode e < 0x10 && (envCheck p x.nextIndex x.nextOff e).isNone && !waitsMet s c e then
        .next (controlDone s c e stWaitTimeout (timeoutDetail s c e))
      else .next s
  else
    match headOf x cls inst with
    | none => .next s
    | some q =>
      if !frozen x q && !waitsMet s c q.env then
        .next (endAtOnce (updCtx s c fun x => { x with queued := dropFirst (fun r => r.cls = q.cls && r.inst = q.inst) x.queued })
          c q q.cls stWaitTimeout (timeoutDetail s c q.env))
      else .next s

end Sys2Proof.Machine
end

