-- ==== Sys2Proof/Machine/Time.lean ====
section
/-! DEFINITION. System time (R508 to R512): sources, the discipline of OFFSET, validity and its error bound, PPS_IN (R475), and the rows TIME_READ, TIME_CONFIG (R465), PTP_MESSAGE_RECEIVE, TIME_HOLDOVER_EXPIRY, PPS_EDGE and TIM_ELAPSED_READ. -/

namespace Sys2Proof.Machine

/-- Change the time logic. -/
def updTime (s : State) (f : TimeS → TimeS) : State := { s with time := f s.time }

/-- System time: the counter plus OFFSET (R509). -/
def sysTime (s : State) : W64 := s.elapsed + s.time.offset

/-- Two seconds in nanoseconds. -/
def holdoverNs : Nat := 2000000000

/-- Has a PTP estimate been accepted within the last 2 s (R509)? -/
def ptpFresh (s : State) : Bool :=
  match s.time.lastPtp with
  | none => false
  | some t => decide (nowNs s ≤ t + holdoverNs)

/-- The source in use: the configured one while it delivers, or by R509's automatic choice; 0 none, 1 sideband, 2 PTP. -/
def sourceNow (s : State) : Nat :=
  let sb := s.fab.sbr.timeValid
  match s.time.config with
  | 1 => if sb then 1 else 0
  | 2 => if ptpFresh s then 2 else 0
  | 3 => if ptpFresh s then 2 else if sb then 1 else 0
  | _ => 0

/-- The TIME_STATE event where validity or the source in use has changed (R437, R509, R511). -/
def timeChanged (before s : State) : State :=
  if before.time.valid = s.time.valid && before.time.source = s.time.source then s
  else postEvent s 0x89 0xFF 0 (b2n s.time.valid + s.time.source * 256)

/-- Choose the source again. -/
def chooseSource (s : State) : State := updTime s fun t => { t with source := sourceNow s }

/-- Discipline OFFSET from an estimate of the present system time: a first or large error steps it, any other is slewed (R510). -/
def discipline (s : State) (est : W64) (errNs : Nat) : State :=
  let e := (est - sysTime s).toInt
  let step := !s.time.valid || 100000 < e.natAbs
  updTime s fun t =>
    { t with offset := if step then t.offset + BitVec.ofInt 64 e else t.offset, slew := if step then 0 else e
             valid := true, lastEst := some (nowNs s), errNs := errNs }

/-- An estimate from a source: it disciplines while its source is the one in use. -/
def takeEstimate (s : State) (src : Nat) (est : W64) (errNs : Nat) : State :=
  if s.time.source = src then discipline s est errNs else s

/-- The error bound reported: that of the last estimate, grown by 50 ns per millisecond since (R511); all ones while time is invalid. -/
def errorBound (s : State) : Nat :=
  if !s.time.valid then 0xFFFFFFFF
  else
    let since := match s.time.lastEst with
      | some t => nowNs s - t
      | none => 0
    min (s.time.errNs + 50 * since / 1000000) 0xFFFFFFFF

/-! ### Commands (R465) -/

/-- The 64 bytes of TIME_READ. -/
def timeData (s : State) : Nat :=
  packBits [(nowNs s, 64), (s.boot, 32), (s.time.source, 8), (b2n s.time.valid, 8), (0, 16), (s.time.offset.toNat, 64), (errorBound s, 32)]

/-- The work of TIME_READ. -/
def workTimeRead (s : State) (raw : Nat) : CmdOut :=
  let c := cmdCtx raw
  let dst := fld raw 8 8
  cmdTry s [dstChk s c dst 64 8] fun s => dstWrite s c dst (timeData s) 64 0

/-- TIME_READ (R465). -/
def execTimeRead (place : Nat) (s : State) : Host.Outcome State Fault Refusal :=
  .next (runCmd s place 0x38 (fun _ => true) workTimeRead)

/-- The work of TIME_CONFIG. -/
def workTimeConfig (s : State) (raw : Nat) : CmdOut :=
  let source := fld raw 8 1
  let domain := fld raw 9 1
  let ports := fld raw 10 1
  cmdTry s [chk (4 ≤ ports) msReserved 10, chk (3 < source) msInvalid 8, chk (127 < domain) msInvalid 9] fun s =>
    { st := timeChanged s (chooseSource (updTime s fun t => { t with config := source, domain := domain, ports := ports })) }

/-- TIME_CONFIG (R465, R509). -/
def execTimeConfig (place : Nat) (s : State) : Host.Outcome State Fault Refusal :=
  .next (runCmd s place 0x39 (fun _ => true) workTimeConfig)

/-! ### PTP and holdover (R509, R511) -/

/-- Does the time logic listen to PTP on an Ethernet port and in a domain? -/
def ptpListens (s : State) (port domain : Nat) : Bool :=
  bit s.time.ports port && s.time.domain = domain && (s.time.config = 2 || s.time.config = 3) && domIsOn s (59 + port)

/-- PTP_MESSAGE_RECEIVE (R509 to R511): a message on a port and in a domain completes the standard's exchange; `estimate` is the system time it gives for now, `asymmetry` the measured path delay asymmetry bound in nanoseconds. -/
def execPtpMessageReceive (port : Fin 2) (domain : BitVec 8) (estimate : BitVec 64) (asymmetry : Nat) (s : State) :
    Host.Outcome State Fault Refusal :=
  if !ptpListens s port domain.toNat then .next s
  else
    let s1 := chooseSource (updTime s fun t => { t with lastPtp := some (nowNs s) })
    .next (timeChanged s (takeEstimate s1 2 estimate (asymmetry / 2 + 8)))

/-- Time becomes invalid. -/
def loseTime (s : State) : State := updTime s fun t => { t with valid := false, lastEst := none, lastPtp := none, slew := 0 }

/-- TIME_HOLDOVER_EXPIRY (R511): 2 s have passed since the last accepted estimate; system time becomes invalid. -/
def execTimeHoldoverExpiry (s : State) : Host.Outcome State Fault Refusal :=
  if s.time.valid then .next (timeChanged s (chooseSource (loseTime s))) else .next s

/-- TIM_ELAPSED_READ (R513): a read of the counter, which latches OFFSET. -/
def execTimElapsedRead (s : State) : Host.Outcome State Fault Refusal :=
  if !barOn s then .next s
  else .next { updTime s fun t => { t with latch := t.offset } with hif := { s.hif with rdStatus := 0, rdData := nowNs s } }

/-! ### PPS_IN (R475, R510) -/

/-- One second in nanoseconds. -/
def secNs : Nat := 1000000000

/-- Are two edges one second apart within 200 µs? -/
def secApart (a b : Nat) : Bool := secNs ≤ b - a + 200000 && b - a ≤ secNs + 200000

/-- Does discipline by PPS act: locked, and a source is valid? -/
def ppsUsed (s : State) : Bool := s.aoc.ppsLocked && s.time.valid && s.time.source ≠ 0

/-- Error of an edge as the nearest whole second of system time. -/
def ppsError (s : State) : Int :=
  let r := (sysTime s).toNat % secNs
  if 2 * r < secNs then -(r : Int) else (secNs : Int) - r

/-- Is an edge within 1 µs of the one predicted: a whole second of valid system time, otherwise one second of the counter after the last? -/
def ppsInWindow (s : State) : Bool :=
  if s.time.valid then (ppsError s).natAbs ≤ 1000
  else
    let d := (nowNs s - s.aoc.ppsEdges.headD 0) % secNs
    d ≤ 1000 || secNs ≤ d + 1000

/-- Change the AOC. -/
def updAoc (s : State) (f : AocS → AocS) : State := { s with aoc := f s.aoc }

/-- Saturating count of an AOC input counter. -/
def sat32 (n : Nat) : Nat := min (n + 1) 0xFFFFFFFF

/-- Count an accepted event of an input, with its time. -/
def countEvent (s : State) (n : Nat) : State :=
  updAoc s fun a => { a with events := updAt a.events n sat32, lastEvent := a.lastEvent.set n (some (nowNs s)) }

/-- Count a dropped event of an input. -/
def countDropped (s : State) (n : Nat) : State := updAoc s fun a => { a with dropped := updAt a.dropped n sat32 }

/-- An input holds a level that ends its STUCK state. -/
def unstick (s : State) (n : Nat) (level : Bool) : State :=
  withHealth s (updAoc s fun a => { a with stuck := a.stuck.set n false, level := a.level.set n level })

/-- An edge before acquisition: three consecutive edges a second apart lock. -/
def ppsAcquire (s : State) : State :=
  updAoc s fun a =>
    let es := (nowNs s :: a.ppsEdges).take 3
    { a with ppsEdges := es
             ppsLocked := match es with
               | [c, b, d] => secApart b c && secApart d b
               | _ => false }

/-- PPS_EDGE (R475, R510): a rising edge of PPS_IN now: used for acquisition, accepted, or ignored and counted. -/
def execPpsEdge (s : State) : Host.Outcome State Fault Refusal :=
  if !s.aoc.on then .next s
  else if !s.aoc.ppsLocked then .next (ppsAcquire (updAoc s fun a => { a with level := a.level.set 3 true }))
  else if !ppsInWindow s then .next (countDropped (updAoc s fun a => { a with level := a.level.set 3 true }) 3)
  else
    let s1 := countEvent (unstick s 3 true) 3
    let s2 := updAoc s1 fun a => { a with ppsEdges := (nowNs s :: a.ppsEdges).take 3 }
    .next (if ppsUsed s then updTime s2 fun t => { t with slew := ppsError s } else s2)

end Sys2Proof.Machine
end

