-- ==== Sys2Proof/Machine/Sideband.lean ====
section
/-! DEFINITION. The sideband ring (R390 to R393): frames, insertion, the master's frames, TIME frames; and CTRL packets to the Foreman (R379, R399). -/

namespace Sys2Proof.Machine

/-! ### Frames (R391) -/

/-- Change the ring's state. -/
def updSbr (s : State) (f : SbrS → SbrS) : State := updFab s fun x => { x with sbr := f x.sbr }

def rgType (f : Nat) : Nat := fld f 0 1
def rgHops (f : Nat) : Nat := fld f 1 1
def rgSrc (f : Nat) : Nat := fld f 2 1
def rgLen (f : Nat) : Nat := fld f 4 1

/-- Is a frame whole: its length is its header's, its CRC-32C good, its TYPE one of the five? -/
def ringGood (len f : Nat) : Bool :=
  12 ≤ len && rgLen f ≤ 56 && len = 12 + rgLen f && 1 ≤ rgType f && rgType f ≤ 5 &&
    crc32c (bytesOf f (len - 4)) = fld f (len - 4) 4

/-- A frame of `len` header and payload bytes with its CRC. -/
def withCrc (f len : Nat) : Nat := f % 2 ^ (8 * len) + crc32c (bytesOf f len) * 2 ^ (8 * len)

/-- Drive a frame onto RING_OUT. -/
def ringOut (s : State) (f len : Nat) : State := updSbr s fun r => { r with outFrame := withCrc f len, outLen := len + 4 }

/-- A frame that this station originates: HOPS 255, to every station. -/
def ringOriginate (s : State) (type len payload : Nat) : State :=
  ringOut s (packBits [(type, 8), (255, 8), (s.fab.sbr.station, 8), (0xFF, 8), (len, 8), (0, 24), (payload, 8 * len)]) (8 + len)

/-- Does this station remove a frame: its own, or one whose HOPS runs out? A station without a number owns none. -/
def ringRemoves (s : State) (f : Nat) : Bool :=
  rgHops f ≤ 1 || (rgSrc f = s.fab.sbr.station && (s.fab.sbr.master || s.fab.sbr.station ≠ 0))

/-- Forward a frame with HOPS decremented, unless this station removes it or is not in the ring. -/
def ringForward (s : State) (f : Nat) : State :=
  if !s.fab.sbr.inserted || ringRemoves s f then s
  else ringOut s (setFld f 1 1 (rgHops f - 1)) (8 + rgLen f)

/-- Does the receiver listen: it may lock from start-up step 3 on (R477)? -/
def ringListens (s : State) : Bool := s.aoc.on && s.mode ≠ .offOrReset

/-- A bad frame is removed and counted. -/
def ringBad (s : State) : State := fabCount s fcSbrBad 1

/-- RING_FRAME_RECEIVE (R391): a frame other than TIME: removed as bad, or taken note of and forwarded; DISCOVER gives the station its number. -/
def execRingFrameReceive (len frame : Nat) (s : State) : Host.Outcome State Fault Refusal :=
  if !ringListens s then .next s
  else if !ringGood len frame then .next (ringBad s)
  else if rgType frame = 1 then .next s
  else
    let s := updSbr s fun r => { r with locked := true }
    if rgType frame = 3 && s.fab.sbr.inserted && !s.fab.sbr.master && !ringRemoves s frame then
      let n := fld frame 8 1
      let s1 := updSbr s fun r => { r with station := n }
      .next (ringOut s1 (setFld (setFld frame 1 1 (rgHops frame - 1)) 8 1 ((n + 1) % 256)) (8 + rgLen frame))
    else .next (ringForward s frame)

/-! ### Joining and leaving (R390, R392) -/

/-- Count a relay movement, saturating. -/
def relayMoved (r : SbrS) : SbrS := { r with moves := min (r.moves + 1) 65535 }

/-- The relays close: the module leaves the ring (R390). -/
def closeRelays (s : State) : State :=
  if s.fab.sbr.relayOpen then updSbr s fun r => { relayMoved r with relayOpen := false, inserted := false, station := 0 } else s

/-- RING_INSERT (R392): the receiver has held lock, and a window or a quiet ring permits: the relays open and the module joins the ring. -/
def execRingInsert (s : State) : Host.Outcome State Fault Refusal :=
  if ringListens s && s.mbx.fwState ≠ 3 && !s.fab.sbr.relayOpen then
    .next (updSbr s fun r => { relayMoved r with relayOpen := true, inserted := true, locked := true })
  else .next s

/-- RING_LOCK_LOST (R392): LOCKED clears; in relay-only the relays are open only while the sideband is trained (R15). -/
def execRingLockLost (s : State) : Host.Outcome State Fault Refusal :=
  let s1 := updSbr s fun r => { r with locked := false }
  .next (if s.mode = .relayOnly then closeRelays s1 else s1)

/-- Is the module master of the ring, and in it? -/
def ringMaster (s : State) : Bool := ringListens s && s.fab.sbr.master && s.fab.sbr.inserted

/-- INSERT_WINDOW (R392): the master broadcasts a window; when it starts is the master's own (free value). -/
def execInsertWindow (s : State) : Host.Outcome State Fault Refusal :=
  if ringMaster s then
    let (k, s1) := drawFree s
    .next (ringOriginate s1 2 2 ((Config.freeWord k).toNat % 65536))
  else .next s

/-- DISCOVER (R391): the master numbers the stations from 1. -/
def execDiscover (s : State) : Host.Outcome State Fault Refusal :=
  if ringMaster s then .next (ringOriginate s 3 1 1) else .next s

/-! ### TIME frames (R393) -/

def tfTime (f : Nat) : Nat := fld f 8 8
def tfCorr (f : Nat) : Nat := fld f 0x10 4
def tfSeq (f : Nat) : Nat := fld f 0x14 2

/-- TIME_FRAME_SEND (R393): the master sends its system time while it is valid. -/
def execTimeFrameSend (s : State) : Host.Outcome State Fault Refusal :=
  if ringMaster s && s.time.valid then
    let q := (s.fab.sbr.timeSeq + 1) % 65536
    let s1 := updSbr s fun r => { r with timeSeq := q }
    .next (ringOriginate s1 1 14 (packBits [((sysTime s).toNat, 64), (0, 32), (q, 16)]))
  else .next s

/-- The TIME frame as it leaves: CORR grows by the residence time and the upstream cable delay. -/
def timeForward (s : State) (f residence : Nat) : State :=
  ringForward s (setFld f 0x10 4 ((tfCorr f + residence + s.fab.sbr.cableNs) % 2 ^ 32))

/-- The estimate of system time at a TIME frame's arrival (R393). -/
def timeEstimate (s : State) (f : Nat) : W64 := BitVec.ofNat 64 (tfTime f + tfCorr f + s.fab.sbr.cableNs)

/-- A good TIME frame of another station: noted, used as an estimate, forwarded. What this station knows of the cable delays configured upstream, its error bound's part, is open. -/
def takeTimeFrame (s : State) (f residence : Nat) : State :=
  let (k, s0) := drawFree s
  let s1 := updSbr (fabCount s0 fcSbrTime 1) fun r => { r with locked := true, timeValid := true, timeSeq := tfSeq f }
  let s2 := takeEstimate (chooseSource s1) 1 (timeEstimate s f) (4 * s.fab.sbr.station + (Config.freeWord k).toNat)
  timeForward (timeChanged s s2) f residence

/-- TIME_FRAME_RECEIVE (R393, R510): a TIME frame arrives, and leaves after `residence` nanoseconds where it is forwarded. -/
def execTimeFrameReceive (len frame : Nat) (residence : BitVec 32) (s : State) : Host.Outcome State Fault Refusal :=
  if !ringListens s then .next s
  else if !ringGood len frame then .next (ringBad s)
  else if rgType frame ≠ 1 || (s.fab.sbr.master && rgSrc frame = s.fab.sbr.station) then .next s
  else .next (takeTimeFrame s frame residence.toNat)

/-- TIME_FRAME_TIMEOUT (R393, R509): no TIME frame for 3 ms. -/
def execTimeFrameTimeout (s : State) : Host.Outcome State Fault Refusal :=
  .next (timeChanged s (chooseSource (updSbr s fun r => { r with timeValid := false })))

/-! ### CTRL packets (R379, R389, R399) -/

/-- The received CTRL packet at a place, when it is for this module. -/
def ctrlOf (s : State) (i : Nat) : Option RxPkt :=
  match s.fab.rx[i]? with
  | none => none
  | some r => if forMe s r && pkType r.pkt = ptCtrl then some r else none

/-- The REMOTE_ERROR event that a CTRL packet of subtype 1 brings (R399): destination node and ACK status, and the DA. Which context's operation it was the packet does not say: a free value. -/
def postRemoteError (s : State) (pay : Nat) : State :=
  let (k, s1) := drawFree s
  postEvent s1 0x86 ((Config.freeWord k).toNat % 256) (fld pay 0x10 8) (packBits [(fld pay 8 2, 16), (fld pay 2 1, 8)])

/-- CTRL (R379): the packet goes to the Foreman, which posts a REMOTE_ERROR; other subtypes are firmware-defined. -/
def execCtrl (i : Nat) (s : State) : Host.Outcome State Fault Refusal :=
  match ctrlOf s i with
  | none => .next s
  | some r =>
    let s1 := takeRx s i r
    if pkAux r.pkt = 1 && 32 ≤ pkLen r.pkt then .next (postRemoteError s1 r.pkt.pay) else .next s1

end Sys2Proof.Machine
end

