-- ==== Sys2Proof/Machine/Reset.lean ====
section
/-! DEFINITION. Reset scopes and reset inputs (R468 to R475): module reset and its causes, the host-interface reset, the PCIe link, the reset button, stuck inputs, SYNC_IN, the heartbeat, and the input's voltage events (R17, R18, R541). -/

namespace Sys2Proof.Machine

/-! ### Module reset (R468, R469, R485) -/

/-- Bits of AOC_RESET_CAUSE. -/
def rcCold : Nat := 0
def rcUndervolt : Nat := 1
def rcTray : Nat := 2
def rcButton : Nat := 3
def rcHost : Nat := 4

/-- Power and heat after a module reset: the sensors' readings, the calibration applied and the level count go on; the demands, the emergency and the cap start anew. -/
def warmPwr (p : PwrS) : PwrS :=
  { resetPwr with vin := p.vin, vinHigh := p.vinHigh, pin := p.pin, tj := p.tj, sensorFail := p.sensorFail, vcore := p.vcore, qMax := p.qMax, fMax := p.fMax
                  alert := p.alert, steps := p.steps, domAt := p.domAt }

/-- The host interface after its island's reset (R33, R471): what reads over PCIe and I2C returned is the reader's. -/
def warmHif (h : HifS) (on : Bool) : HifS := { resetHif with on := on, perst := h.perst, rdStatus := h.rdStatus, rdData := h.rdData, i2c := h.i2c }

/-- Contents of memory that a module reset does not keep: the Stockpile, both tiers, mailbox memory (R485). -/
def loseDevice (s : State) : State :=
  let s := loseRange s 0 0x40000000
  let s := loseRange s nearBase (nearBase + nearSize)
  let s := loseRange s farBase (farBase + farSize)
  loseRange s mboxBase (mboxBase + mboxSize)

/-- Bad words and lines outside device memory stay: the host's own. -/
def hostBad (s : State) : List BadRange := s.memS.bad.filter fun b => hostBase ≤ b.addr

/-- Module reset (R468, R485): every island and domain but the management island is cleared; the elapsed-time counter, the boot count, the AOC, sticky fields, the error path and flash survive; pending label requests are discarded (R491). -/
def resetModule (s : State) : State :=
  let m := loseDevice s
  { State.reset with
    mem := m.mem, free := m.free, elapsed := s.elapsed, boot := s.boot, flash := s.flash, pending := s.pending, wakes := s.wakes
    memS := { resetMem with bad := hostBad s }
    aoc := { s.aoc with label := { s.aoc.label with pend := false, note := [] } }
    ras := { s.ras with sevSeen := false }
    time := { resetTime with offset := s.time.offset }
    pwr := warmPwr s.pwr, hif := warmHif s.hif false }

/-- A cause of module reset is asserted: it is recorded, and the module goes into reset at once, from every mode (R469). -/
def assertCause (s : State) (k : Nat) : State :=
  let s := updAoc s fun a => { a with causes := a.causes ||| 2 ^ k, seen := a.seen ||| 2 ^ k }
  if s.mode = .offOrReset then s else resetModule s

/-- A cause is deasserted. -/
def dropCause (s : State) (k : Nat) : State := updAoc s fun a => { a with causes := a.causes - (if bit a.causes k then 2 ^ k else 0) }

/-- MODULE_RESET (R470): a write of MBX_RESET with KEY 0xC3 and MODULE_RESET 1. -/
def execModuleReset (value : BitVec 64) (s : State) : Host.Outcome State Fault Refusal :=
  if barOn s && bits value.toNat 8 8 = 0xC3 && bit value.toNat 1 then .next (assertCause s rcHost) else .next s

/-- INPUT_UNDERVOLT (R18, R469): below 40 V for 1 ms, in any mode. -/
def execInputUndervolt (s : State) : Host.Outcome State Fault Refusal :=
  if s.aoc.on then .next (assertCause s rcUndervolt) else .next s

/-- RAIL_FAULT (R541): the bus out of regulation is treated as input below 40 V. -/
def execRailFault (s : State) : Host.Outcome State Fault Refusal :=
  if s.aoc.on then .next (withHealth s (assertCause s rcUndervolt)) else .next s

/-- INPUT_LOW (R17, R504): below 44 V for 1 ms once start-up has begun (R476): logged, and a cause of relay-only. -/
def execInputLow (s : State) : Host.Outcome State Fault Refusal :=
  if s.mode = .offOrReset then .next s
  else .next (withHealth s (relayEnter (logErr s 10 3 0x16 0xFF 63) causeInput))

/-- INPUT_DIP (R541): an interruption of 100 µs or less changes nothing. -/
def execInputDip (s : State) : Host.Outcome State Fault Refusal := .next s

/-- May module reset be released: no input holds it (R469, R472, R473)? HOST, UNDERVOLT and COLD end with the conditions that this command stands for. -/
def mayRelease (s : State) : Bool := s.aoc.on && s.mode = .offOrReset && !bit s.aoc.causes rcTray && !bit s.aoc.causes rcButton

/-- MODULE_RESET_RELEASE (R469, R477): the input has held 46 V for 10 ms and no cause is left: start-up step 3. -/
def execModuleResetRelease (s : State) : Host.Outcome State Fault Refusal :=
  if mayRelease s then
    let s1 := updAoc s fun a => { a with cause := a.seen, seen := 0, causes := 0, lastStep := 3 }
    let s2 := { s1 with boot := (s.boot + 1) % 2 ^ 32, mode := .startUp, hif := { s.hif with on := true } }
    .next (withHealth s (fwStateChg (domRise (domRise s2 50) 63)))
  else .next s

/-! ### Inputs (R472 to R475) -/

/-- 100 ms, the minimum spacing of a reset input's events. -/
def inputSpacing : Nat := 100000000

/-- An event of an input: accepted, or dropped when it comes sooner than `spacing` after the last accepted one (R474). -/
def inputEvent (s : State) (n spacing : Nat) : State :=
  match nth none s.aoc.lastEvent n with
  | some t => if nowNs s < t + spacing then countDropped s n else countEvent s n
  | none => countEvent s n

/-- The level of an input after its filter. -/
def inputLevel (s : State) (n : Nat) (v : Bool) : State := updAoc s fun a => { a with level := a.level.set n v }

/-- TRAY_RESET_ASSERT (R472). -/
def execTrayResetAssert (s : State) : Host.Outcome State Fault Refusal :=
  if s.aoc.on then .next (assertCause (inputEvent (inputLevel s 0 true) 0 inputSpacing) rcTray) else .next s

/-- TRAY_RESET_DEASSERT (R472, R474). -/
def execTrayResetDeassert (s : State) : Host.Outcome State Fault Refusal :=
  if s.aoc.on then .next (dropCause (unstick s 0 false) rcTray) else .next s

/-- RESET_BUTTON_CLOSE (R473): a closure counts; while the button is ignored it causes no reset. -/
def execResetButtonClose (s : State) : Host.Outcome State Fault Refusal :=
  if !s.aoc.on then .next s
  else
    let s1 := inputEvent (inputLevel s 2 true) 2 inputSpacing
    .next (if s.aoc.buttonIgnored then s1 else assertCause s1 rcButton)

/-- RESET_BUTTON_OPEN (R473, R474). -/
def execResetButtonOpen (s : State) : Host.Outcome State Fault Refusal :=
  if s.aoc.on then .next (dropCause (unstick s 2 false) rcButton) else .next s

/-- The error of a stuck input (R514). -/
def stuckError (s : State) (n : Nat) : State := logErr s 14 2 0x16 0xFF n

/-- BUTTON_STUCK (R473, R474): held for 8 s: stuck and ignored, its cause gone, an error recorded. -/
def execButtonStuck (s : State) : Host.Outcome State Fault Refusal :=
  if s.aoc.on && nth false s.aoc.level 2 && !s.aoc.buttonIgnored then
    let s1 := updAoc s fun a => { a with buttonStuck := true, buttonIgnored := true, stuck := a.stuck.set 2 true }
    .next (withHealth s (stuckError (inputEvent (dropCause s1 rcButton) 2 inputSpacing) 2))
  else .next s

/-- BUTTON_IGNORED_CLEAR (R473): the button has been seen open for 200 ms. -/
def execButtonIgnoredClear (s : State) : Host.Outcome State Fault Refusal :=
  if s.aoc.on && !nth false s.aoc.level 2 then .next (updAoc s fun a => { a with buttonIgnored := false }) else .next s

/-- The spacing of an input's events (*Input filters*). -/
def spacingOf (n : Nat) : Nat := if n ≤ 2 then inputSpacing else if n = 4 then 10000 else 0

/-- What a stuck timeout does beyond its STUCK bit and error: PPS_IN acquires anew (R475), a stuck I2C bus is released, others produce one event. -/
def stuckEvent (s : State) (n : Nat) : State :=
  if n = 3 then updAoc (countEvent s 3) fun a => { a with ppsLocked := false, ppsEdges := [] }
  else if n = 5 then countDropped s 5
  else inputEvent s n (spacingOf n)

/-- INPUT_STUCK (R474, R475): an input has stayed at one level for its timeout. TRAY_RESET_N and PERST_N are stuck only while asserted, SYNC_IN only after its first edge; the button's own timeout is BUTTON_STUCK. -/
def execInputStuck (n : Fin 6) (s : State) : Host.Outcome State Fault Refusal :=
  if !s.aoc.on || n.val = 2 || (n.val < 2 && !nth false s.aoc.level n) || (n.val = 4 && nth none s.aoc.lastEvent 4 = none) || nth false s.aoc.stuck n then .next s
  else .next (withHealth s (stuckError (stuckEvent (updAoc s fun a => { a with stuck := a.stuck.set n true }) n) n))

/-- SYNC_EDGE (R474): an accepted rising edge of SYNC_IN latches the counter; one within 10 µs of the last accepted edge is dropped. -/
def execSyncEdge (s : State) : Host.Outcome State Fault Refusal :=
  if !s.aoc.on then .next s
  else
    let s1 := unstick s 4 true
    let near : Bool := match nth none s.aoc.lastEvent 4 with
      | some t => nowNs s < t + 10000
      | none => false
    .next (if near then countDropped s1 4 else updAoc (countEvent s1 4) fun a => { a with syncStamp := s.elapsed })

/-! ### The PCIe link and PERST_N (R471, R477, R507) -/

/-- Host-window address that a tracked range reaches. -/
def hostTouched (s : State) (c : Nat) (h : Hazard) : Option Nat :=
  ((physPieces s c [(h.lo, h.hi - h.lo)]).find? fun p => hostBase ≤ p.1).map (·.1)

/-- The first byte of the host window that an operation in flight transfers, or waits to transfer. -/
def hostAt (s : State) (c : Nat) (f : Flight) : Option Nat :=
  match (f.acc.rd ++ f.acc.wr).find? fun p => hostBase ≤ p.1 && p.1 < 2 ^ 47 with
  | some p => some p.1
  | none => f.ranges.findSome? (hostTouched s c)

/-- An operation whose host-window transfer runs ends with MEMORY_FAULT (R471). -/
def hostFlight (s : State) (c : Nat) (f : Flight) : State :=
  match hostAt s c f with
  | some a => if stillGood f then failFlight s c f stMemFault (a / 64 * 64) else s
  | none => s

/-- Transfers of one context with the host window end. -/
def endHostFlights (s : State) (c : Nat) : State := (ctxOf s c).flight.foldl (fun s f => hostFlight s c f) s

/-- The link is down: a trace buffer in the host window is away, transfers end, and the rings must be enabled anew (R471, R530). -/
def linkDown (s : State) : State :=
  if !s.hostUp then s
  else
    let s := { traceSuspend s pcieDomain with hostUp := false }
    loseRings ((List.range 8).foldl endHostFlights s)

/-- Transactions and read bytes of the Foreman's own go. -/
def dropForeman (s : State) : State :=
  updFab s fun f => { f with txns := f.txns.filter (fun t => t.half = 2 || t.opIndex < ckptTag), reads := f.reads.filter fun r => r.opIndex < ckptTag }

/-- Commands outstanding are abandoned (R428). -/
def abandonCmds (s : State) : State := dropForeman (updMbx s fun m => { m with taken := [], enable := false, checked := false })

/-- The MBX_ registers' reset by PERST_N (R426, R471): rings, interrupts and scratch registers; what the Foreman itself holds stays. -/
def perstMbx (m : MbxS) : MbxS :=
  { resetMbx with heartbeat := m.heartbeat, fwState := m.fwState, iface := m.iface, lost := m.lost, eventMask := m.eventMask
                  autoRetainUs := m.autoRetainUs, ended := m.ended, vectors := m.vectors }

/-- PERST_ASSERT (R471, R474): the host-interface island resets and nothing else. -/
def execPerstAssert (s : State) : Host.Outcome State Fault Refusal :=
  if !s.aoc.on then .next s
  else
    let s1 := updAoc (inputEvent (inputLevel s 1 true) 1 inputSpacing) fun a => { a with perstSeen := true }
    let s2 := abandonCmds (linkDown s1)
    .next { s2 with hif := { warmHif s2.hif s2.hif.on with perst := true }, mbx := perstMbx s2.mbx }

/-- PERST_RELEASE (R474, R477): the link may train again. -/
def execPerstRelease (s : State) : Host.Outcome State Fault Refusal :=
  if s.aoc.on then .next (unstick { s with hif := { s.hif with perst := false } } 1 false) else .next s

/-- PCIE_LINK_UP (R507): the link has trained. -/
def execPcieLinkUp (s : State) : Host.Outcome State Fault Refusal :=
  if s.hif.on && !s.hif.perst && s.mode ≠ .offOrReset then
    .next (traceResume { s with hostUp := true, aoc := { s.aoc with lastStep := max s.aoc.lastStep 4 } })
  else .next s

/-- PCIE_LINK_DOWN (R471). -/
def execPcieLinkDown (s : State) : Host.Outcome State Fault Refusal := .next (linkDown s)

/-! ### Heartbeat and power of the management island -/

/-- HEARTBEAT_TICK (R427): each millisecond that the Foreman runs. -/
def execHeartbeatTick (s : State) : Host.Outcome State Fault Refusal :=
  if s.mbx.fwState = 2 then .next (updMbx s fun m => { m with heartbeat := m.heartbeat + 1 }) else .next s

/-- The label after loss of power: its record stays in non-volatile memory; one that was drawing begins with a full clear (R491). -/
def coldLabel (l : LabelS) : LabelS := { resetLabel with updating := l.updating, gen := l.gen, drawn := l.drawn, clearFirst := l.updating }

/-- The cold reset of the management island (R468): all but flash, the boot count, the persisted log and the label's record; `slot` and `valid` are what the straps' samples gave (R474). -/
def coldReset (s : State) (slot : Nat) (valid : Bool) : State :=
  let m := loseDevice s
  { State.reset with
    mem := m.mem, free := m.free, boot := s.boot, flash := s.flash, pending := s.pending
    memS := { resetMem with bad := hostBad s }
    ras := { resetRas with persisted := s.ras.persisted }
    pwr := { resetPwr with vin := s.pwr.vin }
    hif := { resetHif with rdStatus := s.hif.rdStatus, rdData := s.hif.rdData, i2c := s.hif.i2c }
    aoc := { resetAoc with slot := slot, slotValid := valid, label := coldLabel s.aoc.label } }

/-- MGMT_POWER_ON (R468, R476, R477): steps 1 and 2 of start-up; straps that do not agree are logged. -/
def execMgmtPowerOn (slot : BitVec 2) (slotValid : Bool) (s : State) : Host.Outcome State Fault Refusal :=
  let s1 := coldReset s slot.toNat slotValid
  .next (if slotValid then s1 else logErr s1 14 2 0x16 0xFF 0)

/-- MGMT_POWER_LOSS (R390, R491, R537): everything loses power, the relays close, the alert pin is released, the label keeps what it shows. -/
def execMgmtPowerLoss (s : State) : Host.Outcome State Fault Refusal :=
  let s1 := resetModule s
  .next { s1 with aoc := { s1.aoc with on := false, label := { s1.aoc.label with busy := false } }, pwr := { s1.pwr with alert := false } }

end Sys2Proof.Machine
end

