-- ==== Sys2Proof/Machine/StartUp.lean ====
section
/-! DEFINITION. Start-up (R477, R478, R482, R485, R520): bank selection, step by step to relay-and-report or relay-only; recovery without firmware (R483); the Foreman's restart (R428). -/

namespace Sys2Proof.Machine

/-! ### Step 5: the boot ROM (R480 to R483) -/

/-- Does a bank of region 0 verify? `bad` says that the checks on its image fail. -/
def bankBoots (s : State) (k : Nat) (bad : Bool) : Bool :=
  let g := regionFw s 0
  (bankOf g k).len ≠ 0 && g.counter ≤ (bankOf g k).svn && !bad

/-- The bank that the boot ROM boots: the active one, or the other where the active one does not verify or has failed twice; none where neither verifies. -/
def bootSelect (s : State) (bad0 bad1 : Bool) : Option Nat :=
  let a := (regionFw s 0).active
  let ok (k : Nat) : Bool := bankBoots s k (if k = 0 then bad0 else bad1)
  if ok a && s.flash.failedBoots < 2 then some a
  else if ok (1 - a) then some (1 - a)
  else if ok a then some a
  else none

/-- A fallback records the other bank as active and is logged (R482). -/
def bootBank (s : State) (k : Nat) : State :=
  let s1 := { s with flash := { s.flash with bootBank := k } }
  if k = (regionFw s 0).active then s1
  else
    let s2 := updRegion s1 0 fun g => { g with active := k, staged := false, old := false }
    logErr { s2 with flash := { s2.flash with failedBoots := 0 } } 11 2 0x17 0xFF 0

/-- Step of *Start-up sequence* reached. -/
def reachStep (s : State) (n : Nat) : State := updAoc s fun a => { a with lastStep := max a.lastStep n }

/-- Neither bank verifies (R483): FW_STATE 3, the label, Face 0's Stockpile powered and zeroed. -/
def bootFails (s : State) : State :=
  let s1 := domRise (setFwState s 3) 2
  requestLabel (clearBad (zeroRange s1 0 0x10000000) [(0, 0x10000000)])

/-! ### Step 6: records, calibration, label, domains -/

/-- A persisted record is committed again as the start-up's own, with FROM_FLASH (R520). -/
def replayRecord (s : State) (rec : Nat) : State :=
  let rec' := setFld rec 3 1 (fld rec 3 1 ||| 2)
  let r := putRecord (countOverwritten s.ras) rec'
  let sev := fld rec 2 1
  let r := { r with lastFault := if bit (fld rec 3 1) 2 then seqOf r.n else r.lastFault, sevSeen := r.sevSeen || sev = 1 || sev = 3 }
  errorLogged { s with ras := r } (fld rec 1 1) (seqOf r.n)

/-- The latest 64 persisted records, in their order. -/
def replayLog (s : State) : State := (s.ras.persisted.drop (s.ras.persisted.length - 64)).foldl replayRecord s

/-- The calibration in force applies; without a valid page an error is logged, whose severity the manual leaves between two (R488, R514). -/
def applyCal (s : State) : State :=
  let s1 := updPwr s fun p =>
    { p with vcore := (List.range 4).map fun f => (calEff s (0x20 + f)).toNat
             qMax := (calEff s 1).toNat
             fMax := (List.range 4).map fun f => (calEff s (0x10 + f)).toNat }
  match calInForce s with
  | some _ => s1
  | none => let (k, s2) := drawFree s1; logErr s2 15 (if Config.freeBit k then 1 else 2) 0x17 0xFF 0

/-- The start-up drawing begins; while another draws, or the panel is outside its temperatures, it is pending (R490). -/
def startLabel (s : State) (cold : Bool) : State :=
  let s1 := requestLabel s
  if s.aoc.label.busy || cold then s1 else beginDrawing s1

/-- The domains that power up at step 6 (R494). -/
def step6Domains : List Nat :=
  ((List.range 4).flatMap fun f => [10 * f + 2, 10 * f + 4, 10 * f + 5, 10 * f + 6, 10 * f + 7, 10 * f + 8, 10 * f + 9]) ++ [48, 61]

/-- Step 6. -/
def step6 (s : State) (cold : Bool) : State :=
  reachStep (step6Domains.foldl domRise (startLabel (applyCal (replayLog s)) cold)) 6

/-! ### Step 7: self-test and repair (R105, R295, R478, R525) -/

/-- One unit's logic and memory BIST at start-up. -/
def startBist (s : State) (b : Fin 17 × Fin 16 × BistOutcome) : State :=
  let o := kindOutcome 3 b.2.2
  if bistUnit b.1 b.2.1 && bistBad o then bistFail s b.1 b.2.1 o else s

/-- A bank that needs more than 16 spare rows loses its Face, which is logged with severity 3 (R17, R295, R525). -/
def spareRows (s : State) : State :=
  (List.range 512).foldl (fun s b =>
    if 16 < bankRows s b && nth true s.pwr.faces (b / 128) then loseFace (logErr s 12 3 0x10 0xFF (0x10 + 256 * (b / 128))) (b / 128) else s) s

/-- Step 7: factory column repairs, the Borer's runs, spare rows. The demand domains and the Quarry planes are powered for their own tests. -/
def step7 (s : State) (bist : List (Fin 17 × Fin 16 × BistOutcome)) : State :=
  let s1 := { s with quarry := { s.quarry with colRepair := Config.otpColRepair, spareBad := [] } }
  let s2 := (planeDomains ++ demandDomains).foldl domRise s1
  let s3 := spareRows (bist.foldl startBist s2)
  reachStep ((planeDomains ++ demandDomains).foldl domFall s3) 7

/-! ### Step 8: memories (R302, R306, R312) -/

/-- An event of class NEAR about a channel (KEY 0), its channel in INFO (R514, R518). -/
def logChannel (s : State) (ch : Nat) : State :=
  let (k, s) := drawFree s
  reportError s ⟨1, 2, 0x11, (Config.errorInstance 1 ch).toNat, 0xFF, 0, (Config.errorInfo 1 ch (Config.freeWord k)).toNat⟩

/-- A channel is mapped out at start-up; one beyond the budget is a cause of relay-only, which is logged (R17). A channel that the repair record does not list yet enters it. -/
def startMapOut (s : State) (ch : Nat) : State :=
  if s.memS.mapped.contains ch then s
  else if overBudget s.memS.mapped ch then relayEnter (logChannel s ch) causeMemory
  else
    let s1 := { s with memS := { s.memS with mapped := insertUnique s.memS.mapped ch } }
    if s.flash.outChans.contains ch then s1
    else repairEvent { s1 with flash := { s1.flash with outChans := insertUnique s1.flash.outChans ch } } 3 ch

/-- The far tier fails training: withdrawn, and logged. -/
def startFar (s : State) (fails : Bool) : State := if fails then logErr (withdrawFar s) 2 2 0x12 0xFF 0 else s

/-- A failed near-tier row, by channel and place in it (R299), is repaired by hard post-package repair while its stack's repair resources last; a channel with a row that cannot be repaired is mapped out (R302). A repair is permanent, and a row once repaired needs no other. -/
def startRowRepair (s : State) (row : Nat) : State :=
  let stack := stackOf (bits row 0 8)
  if s.flash.rowRepairs.contains row then s
  else
    let s1 := { s with flash := { s.flash with nearRows := insertUnique s.flash.nearRows row } }
    if (s.flash.rowRepairs.filter fun r => stackOf (bits r 0 8) = stack).length < Config.stackRepairs stack then
      { s1 with flash := { s1.flash with rowRepairs := insertUnique s1.flash.rowRepairs row } }
    else startMapOut s1 (bits row 0 8)

/-- Step 8: post-package repair, map-out, the far tier, every Stockpile and near-tier line zero with valid check bits, the far tier's contents open (R485). -/
def step8 (s : State) (dead : List (Fin 256)) (rows : List (BitVec 29)) (farFail : Bool) : State :=
  let s0 := (s.flash.nearRows ++ rows.map (·.toNat)).foldl startRowRepair s
  let s1 := (s0.flash.outChans ++ dead.map (·.val)).foldl startMapOut s0
  let s2 := startFar ([42, 43, 54, 55].foldl domRise s1) farFail
  let s3 := zeroRange (zeroRange (loseRange s2 farBase (farBase + farSize)) 0 0x40000000) nearBase (nearBase + nearSize)
  let bad := s3.memS.bad.filter fun b => hostBase ≤ b.addr
  reachStep { s3 with memS := { s3.memS with bad := bad } } 8

/-! ### Steps 9 and 10 -/

/-- Every port that the record does not disable begins to train (R371, R388). -/
def trainPorts (s : State) : State :=
  updFab s fun f => { f with ports := f.ports.map fun p => if p.st = 0 then { p with st := 1 } else p }

/-- Step 9: the fabric record, or node 0x7FFF without one; ports. -/
def step9 (s : State) : State :=
  let s1 := if s.flash.fabLen ≠ 0 then applyRecord s s.flash.fabRec else s
  reachStep ([40, 41, 52, 53, 49, 62, 59, 60].foldl domRise (trainPorts s1)) 9

/-- The firmware that runs shows its interface version and takes a newly active codec image; an activated BIST image has taken effect and the old one retires (R369, R427, R445). -/
def foremanUp (s : State) : State :=
  let s1 := updMbx { s with vcc := { s.vcc with version := activeVersion s 1 } } fun m => { m with iface := 1 }
  let s2 := if (regionFw s1 4).old then retireImage s1 4 else s1
  setFwState { s2 with flash := { s2.flash with failedBoots := 0 } } 2

/-- The mode that start-up ends in, with the HBM stacks in self-refresh: relay-only where a cause has arisen (R18). -/
def startMode (s : State) : State :=
  if s.relayCause = 0 then setMode (setSelfRef s true) .relayAndReport 0
  else
    let s1 := { s with ras := closeAllCoal 32 s.ras }
    setMode (relayOffDomains.foldl domFall s1) .relayOnly s.relayCause

/-- Step 10: the sequencer's domain, MODE 2 or 4, and the Foreman serves. -/
def step10 (s : State) : State := foremanServes (reachStep (startMode (foremanUp (domRise s 44))) 10)

/-- Steps 6 to 10. -/
def startRest (s : State) (o : StartOutcome) : State := step10 (step9 (step8 (step7 (step6 s o.cold) o.bist) o.deadChans o.nearRows o.farFail))

/-- A booted image starts; one that does not reach FW_STATE 2 counts against its bank (R482). -/
def startImage (s : State) (o : StartOutcome) : State :=
  let s1 := setFwState s 1
  if o.reaches then startRest s1 o else { s1 with flash := { s1.flash with failedBoots := s1.flash.failedBoots + 1 } }

/-- START_UP (R477): steps 4 to 10 from the release of reset, with the outcome that the hardware gives. -/
def execStartUp (outcome : StartOutcome) (s : State) : Host.Outcome State Fault Refusal :=
  if s.mode ≠ .startUp || s.mbx.fwState ≠ 0 then .next s
  else
    let s1 := reachStep s 5
    match bootSelect s outcome.badBank0 outcome.badBank1 with
    | none => .next (withHealth s (bootFails s1))
    | some k => .next (withHealth s (startImage (bootBank s1 k) outcome))

/-! ### Recovery (R483) -/

/-- Set a scratch register. -/
def setScratch (s : State) (n : Nat) (v : W64) : State := updMbx s fun m => { m with scratch := m.scratch.set n v }

/-- Does the recovery path have an image to check: no firmware, and the key? -/
def recovers (s : State) (value : BitVec 64) : Bool := s.mbx.fwState = 3 && value.toNat = 0x52454356

/-- The length that MBX_SCRATCH0 gives. -/
def recoveryLen (s : State) : Nat := (nth (0 : W64) s.mbx.scratch 0).toNat

/-- The checks of R480 on the image at DA 0, which lies within Face 0's Stockpile. -/
def recoveryCheck (s : State) : Option Nat :=
  let n := recoveryLen s
  imgCheck 0 (rdPhys s 0 (min n 0x10000000)) n (regionFw s 0).counter

/-- The image enters bank 0, which becomes active. -/
def installRecovery (s : State) : State :=
  let b := imgBank (rdPhys s 0 (recoveryLen s)) (recoveryLen s)
  let s1 := updRegion s 0 fun g => { g with banks := g.banks.set 0 b, active := 0, staged := false, old := false }
  { s1 with flash := { s1.flash with bootBank := 0, failedBoots := 0 } }

/-- RECOVERY_IMAGE_LOAD (R483): a write of MBX_SCRATCH1; the key starts the boot ROM's check, and an image that passes continues start-up at step 6. -/
def execRecoveryImageLoad (value : BitVec 64) (outcome : StartOutcome) (s : State) : Host.Outcome State Fault Refusal :=
  if !barOn s then .next s
  else if !recovers s value then .next (setScratch s 1 value)
  else
    match recoveryCheck s with
    | some d => .next (setScratch (setScratch s 2 (BitVec.ofNat 64 d)) 1 0)
    | none =>
      let s1 := setScratch (installRecovery s) 1 0
      .next (withHealth s (if s.mode = .startUp then startImage s1 outcome else foremanServes (foremanUp (setFwState s1 1))))

/-! ### Foreman restart (R428) -/

/-- Every open context ends as under CTX_CLOSE, its CTX_ENDED to come. -/
def restartCloses (s : State) : State :=
  let open_ := (List.range 8).filter (isOpen s)
  let s1 := open_.foldl closeNow s
  updMbx s1 fun m => { m with ended := m.ended ++ open_ }

/-- The Foreman boots again; in start-up it leaves the rest of the sequence to START_UP. -/
def restartBoot (s : State) (bad0 bad1 : Bool) : State :=
  let s1 := setFwState s 0
  if s.mode = .startUp then s1
  else
    match bootSelect s bad0 bad1 with
    | none => setFwState s1 3
    | some k => foremanServes (foremanUp (setFwState (bootBank s1 k) 1))

/-- The restart is logged; the manual leaves its severity between two (R514). -/
def logRestart (s : State) : State :=
  let (k, s1) := drawFree s
  logErr s1 11 (if Config.freeBit k then 1 else 2) 0x17 0xFF 0

/-- FOREMAN_RESTART (R428): a write of MBX_RESET with KEY 0xC3 and FOREMAN_RESTART 1 (and no module reset, which includes it); the banks' checks go as `badBank0` and `badBank1` say. -/
def execForemanRestart (value : BitVec 64) (badBank0 badBank1 : Bool) (s : State) : Host.Outcome State Fault Refusal :=
  let v := value.toNat
  if barOn s && bits v 8 8 = 0xC3 && bit v 0 && !bit v 1 then
    .next (withHealth s (logRestart (restartBoot (restartCloses (abandonCmds s)) badBank0 badBank1)))
  else .next s

end Sys2Proof.Machine
end

