-- ==== Sys2Proof/Machine/Thermal.lean ====
section
/-! DEFINITION. The input cap (R496, R497), junction and stack temperatures (R315, R316, R501 to R503), automatic retention (R296), and the patrol scrubbers (R294, R301). -/

namespace Sys2Proof.Machine

/-- The thermal and power logic acts once module reset is released. -/
def powered (s : State) : Bool := s.aoc.on && s.mode ≠ .offOrReset

/-- A thermal event whose severity the manual leaves between 0 and 2 (R514). -/
def thermalNote (s : State) (key : Nat) : State :=
  let (k, s1) := drawFree s
  logErr s1 9 (if Config.freeBit k then 0 else 2) 0x16 0xFF key

/-- A thermal emergency: logged as fatal, and a cause of relay-only (R17, R501, R315). -/
def thermalEmergency (s : State) (key : Nat) : State :=
  relayEnter (logErr (updPwr s fun p => { p with emergency := true }) 9 3 0x16 0xFF key) causeThermal

/-! ### Face junctions (R501) -/

/-- Readings in use: a sensor outside −40 to 150 °C is ignored (m°C). -/
def usableSensors (l : List Int) : List Int := l.filter fun t => decide (-40000 ≤ t ∧ t ≤ 150000)

/-- The row of *Face junction thresholds* in force after a reading: 2 from 100 °C until below 97 °C, 1 from 95 °C until below 92 °C. -/
def junctionRow (old : Nat) (t : Int) : Nat :=
  if 100000 ≤ t || (old = 2 && 97000 ≤ t) then 2
  else if 95000 ≤ t || (1 ≤ old && 92000 ≤ t) then 1
  else 0

/-- Record a Face junction temperature. -/
def setJunction (s : State) (f : Nat) (t : Int) : State :=
  updPwr s fun p =>
    let since : Option Nat := if t ≤ 105000 then none else (nth none p.hotSince f).orElse fun _ => some (nowNs s)
    { p with tj := p.tj.set f t, sensorFail := p.sensorFail.set f false, jRow := p.jRow.set f (junctionRow (nth 0 p.jRow f) t)
             hotSince := p.hotSince.set f since }

/-- Is a Face in thermal emergency: above 105 °C at L12, or for 10 ms? -/
def junctionEmergency (s : State) (f : Nat) : Bool :=
  match nth none s.pwr.hotSince f with
  | none => false
  | some t => lqOf s f = levelTop || decide (t + 10000000 ≤ nowNs s)

/-- The hardware trip at 110 °C: the Face's domains lose power, relay-only follows. -/
def junctionTrip (s : State) (f : Nat) : State :=
  let s1 := ((List.range 10).map (10 * f + ·)).foldl domFall s
  relayEnter (logErr (updPwr s1 fun p => { p with tripped := true }) 9 3 0x16 0xFF f) causeThermal

/-- A reading with a usable sensor: thresholds, alert, emergency, trip. -/
def actOnJunction (s : State) (f : Nat) (t : Int) : State :=
  let s1 := setJunction s f t
  let s2 := driveAlert (levelChange s 2 s1)
  let s3 := if nth 0 s.pwr.jRow f < nth 0 s1.pwr.jRow f then thermalNote s2 f else s2
  let s4 := if junctionEmergency s3 f && !s3.pwr.emergency then thermalEmergency s3 f else s3
  if 110000 ≤ t then junctionTrip s4 f else s4

/-- FACE_JUNCTION_READING (R501, R486): the sixteen sensors of a Face, in m°C; the highest usable one, corrected, is the Face junction. Without one the Face is held at L12. -/
def execFaceJunctionReading (face : Fin 4) (sensors : List Int) (s : State) : Host.Outcome State Fault Refusal :=
  if !powered s then .next s
  else
    let good := usableSensors sensors
    let s1 := if good.length < sensors.length then thermalNote s face else s
    match good.max? with
    | none => .next (withHealth s (levelChange s1 2 (updPwr s1 fun p => { p with sensorFail := p.sensorFail.set face true })))
    | some t => .next (withHealth s (driveAlert (actOnJunction s1 face (t + calEff s (0x30 + face)))))

/-- JUNCTION_THROTTLE_STEP (R501): the level that cause 2 demands of a Face rises by one while a row holds, and falls by one after its release. -/
def execJunctionThrottleStep (face : Fin 4) (s : State) : Host.Outcome State Fault Refusal :=
  if !powered s then .next s
  else
    let l := nth 0 s.pwr.jLevel face
    let l' := if 1 ≤ nth 0 s.pwr.jRow face then min (l + 1) levelTop else l - 1
    .next (levelChange s 2 (updPwr s fun p => { p with jLevel := p.jLevel.set face l' }))

/-! ### Neighbours (R502) -/

/-- How much hotter a Face is than its coolest neighbour, in m°C; a pair both below 60 °C is ignored. -/
def hotterBy (s : State) (f : Nat) : Int :=
  let t (k : Nat) : Int := nth 0 s.pwr.tj k
  let pairs := (neighbours ++ neighbours.map fun p => (p.2, p.1)).filter fun p => p.1 = f && !(t p.1 < 60000 && t p.2 < 60000)
  (pairs.map fun p => t f - t p.2).foldl max 0

/-- Raise the hotter Face: L_F first, then L_Q once L_F has reached L8. -/
def neighbourUp (p : PwrS) (f : Nat) : PwrS :=
  if nth 0 p.nLf f < 8 then { p with nLf := updAt p.nLf f (· + 1) }
  else { p with nLq := updAt p.nLq f fun l => min (l + 1) levelTop }

/-- Release: one level falls; which of the two falls first is open. -/
def neighbourDown (lqFirst : Bool) (p : PwrS) (f : Nat) : PwrS :=
  if 0 < nth 0 p.nLq f && (lqFirst || nth 0 p.nLf f = 0) then { p with nLq := updAt p.nLq f (· - 1) }
  else { p with nLf := updAt p.nLf f (· - 1) }

/-- NEIGHBOUR_THROTTLE_STEP (R502): beyond 20 °C the hotter Face's levels rise, beyond 15 °C they hold, otherwise they fall. -/
def execNeighbourThrottleStep (face : Fin 4) (s : State) : Host.Outcome State Fault Refusal :=
  if !powered s then .next s
  else if 20000 < hotterBy s face then .next (levelChange s 3 (updPwr s fun p => neighbourUp p face))
  else if 15000 < hotterBy s face then .next s
  else
    let (k, s1) := drawFree s
    .next (levelChange s1 3 (updPwr s1 fun p => neighbourDown (Config.freeBit k) p face))

/-! ### HBM stacks and far-tier packages (R315, R316) -/

/-- Step of *Near-tier thermal steps* after a reading: 2 from 90 °C until below 87 °C, 1 from 85 °C until below 82 °C. -/
def stackStepOf (old : Nat) (t : Int) : Nat :=
  if 90000 ≤ t || (old = 2 && 87000 ≤ t) then 2
  else if 85000 ≤ t || (1 ≤ old && 82000 ≤ t) then 1
  else 0

/-- MEM_STACK_TEMP's byte for a temperature; below 0 °C the unsigned register's value is open. -/
def stackByte (k : Nat) (t : Int) : Nat := if t < 0 then (Config.freeWord k).toNat % 255 else (wholeCelsius t).toNat % 256

/-- The domain of an HBM stack. -/
def stackDomain (stack : Nat) : Nat := 10 * (stack / 2) + 7 + stack % 2

/-- HBM_TEMP_READING (R315): a stack's temperature in m°C, corrected by its calibration item; an emergency above 95 °C with step 2 in force. -/
def execHbmTempReading (stack : Fin 8) (reading : Int) (s : State) : Host.Outcome State Fault Refusal :=
  if !powered s || !domIsOn s (stackDomain stack) then .next s
  else
    let t := reading + calEff s (0x40 + stack)
    let (k, s0) := drawFree s
    let old := nth 0 s.memS.stackStep stack
    let new := stackStepOf old t
    let m := { s0.memS with stackStep := s0.memS.stackStep.set stack new, stackTemp := s0.memS.stackTemp.set stack (stackByte k t) }
    let s1 := driveAlert (levelChange s0 4 { s0 with memS := m })
    let s2 := if old < new then thermalNote s1 (8 + stack) else s1
    .next (withHealth s (driveAlert (if 95000 < t && old = 2 && !s2.pwr.emergency then thermalEmergency s2 (8 + stack) else s2)))

/-- FAR_TEMP_REPORT (R316): a package reports its temperature in m°C and its refresh multiplier; above 105 °C it throttles its IOD's packages, until 100 °C or less. -/
def execFarTempReport (pkg : Fin 16) (reading : Int) (mult : Nat) (s : State) : Host.Outcome State Fault Refusal :=
  if !powered s || !domIsOn s (if pkg.val < 8 then 43 else 55) then .next s
  else
    let hot : Bool := if 105000 < reading then true else if reading ≤ 100000 then false else nth false s.memS.farHot pkg
    .next { s with memS := { s.memS with farHot := s.memS.farHot.set pkg hot, farMult := s.memS.farMult.set pkg mult } }

/-- THERM_ALERT_RELEASE (R503): 1 s after the last condition cleared. -/
def execThermAlertRelease (s : State) : Host.Outcome State Fault Refusal :=
  if alertCond s then .next s else .next (updPwr s fun p => { p with alert := false })

/-! ### Power (R496, R497) -/

/-- A PWR_CAP that waits completes once an average at or below the cap is measured (R466, R497). -/
def capDone (cap pin : Nat) (t : Cmd) : Cmd :=
  if cmdOp t.raw = 0x44 && t.begun && t.ready.isNone && pin ≤ cap then { t with ready := some (msOk, 0, 0) } else t

/-- Above 54 V for longer than 10 s an error of class POWER is logged, once for each such time; its severity is open between those below FATAL (R514, R538). -/
def inputHigh (s : State) (vin : Nat) : State :=
  if vin ≤ 5400 then updPwr s fun p => { p with vinHigh := none }
  else
    match s.pwr.vinHigh with
    | none => updPwr s fun p => { p with vinHigh := some (nowNs s, false) }
    | some (t, logged) =>
      if logged || nowNs s ≤ t + 10000000000 then s
      else
        let (k, s1) := drawFree (updPwr s fun p => { p with vinHigh := some (t, true) })
        logErr s1 10 (if Config.freeBit k then 1 else 2) 0x16 0xFF 63

/-- POWER_SAMPLE (R496, R497, R538): the calibrated input voltage in 10 mV and the 10 ms average of input power in W. -/
def execPowerSample (vin pin : BitVec 16) (s : State) : Host.Outcome State Fault Refusal :=
  if !s.aoc.on then .next s
  else
    let s1 := updPwr (inputHigh s vin.toNat) fun p => { p with vin := vin.toNat, pin := pin.toNat }
    .next (updMbx s1 fun m => { m with taken := m.taken.map (capDone s.pwr.cap pin.toNat) })

/-- CAP_LEVEL_STEP (R497): the cap level rises by one while the average exceeds the cap in force, and falls by one while it stays below 95 % of it. -/
def execCapLevelStep (s : State) : Host.Outcome State Fault Refusal :=
  if !powered s then .next s
  else
    let l := s.pwr.capLevel
    let cap := capInForce s
    let l' := if cap < s.pwr.pin then min (l + 1) levelTop else if 100 * s.pwr.pin < 95 * cap then l - 1 else l
    .next (levelChange s 1 (updPwr s fun p => { p with capLevel := l' }))

/-! ### Retention and scrubbing (R294, R296, R301) -/

/-- RETENTION_AUTO_ENTRY (R296): an ON group that no one has accessed for the idle interval enters RETAIN. -/
def execRetentionAutoEntry (group : Fin 32) (s : State) : Host.Outcome State Fault Refusal :=
  if s.mbx.autoRetainUs ≠ 0 && nth 0 s.memS.ret group = 0 && domIsOn s (10 * (group.val / 8) + 2) then
    .next { s with memS := { s.memS with ret := s.memS.ret.set group 1 } }
  else .next s

/-- A corrected error that a scrubber found: counted, and reported with what located it. -/
def scrubCorrected (s : State) (cls line info : Nat) : State :=
  let e : ErrEvent := ⟨cls, 0, 0x10 + cls, (Config.errorInstance cls line).toNat, 0xFF, line, info⟩
  reportError (eventEffect s e) e

/-- STOCKPILE_SCRUB (R294): the scrubber reads a line; `corrected` is the bit of a single-bit error that it finds and corrects. -/
def execStockpileScrub (line : Fin 16777216) (corrected : Option (Fin 576)) (s : State) : Host.Outcome State Fault Refusal :=
  let a := 64 * line.val
  if !domIsOn s (10 * (a / 0x10000000) + 2) || retOf s a = 2 then .next s
  else
    let s1 := noteTraffic s [(a, 64)] []
    let s2 := if (badTouched s [(a, 64)]).isSome then countUe s1 a else s1
    .next (withHealth s (match corrected with
      | some b => scrubCorrected s2 0 a b
      | none => s2))

/-- NEAR_SCRUB (R301): the scrubber reads a near-tier line; `corrected` says that it finds and corrects an error. -/
def execNearScrub (line : Fin 6442450944) (corrected : Bool) (s : State) : Host.Outcome State Fault Refusal :=
  let a := nearBase + 64 * line.val
  if regionOf s a ≠ some .near || !domIsOn s (stackDomain ((nearPlace s a).1 / 32)) then .next s
  else
    let s1 := noteTraffic s [(a, 64)] []
    let s2 := if (badTouched s [(a, 64)]).isSome then noteUeRow (countUe s1 a) a else s1
    let (k, s3) := drawFree s2
    .next (withHealth s (if corrected then scrubCorrected s3 1 a (Config.freeWord k).toNat else s2))

end Sys2Proof.Machine
end

