-- ==== Sys2Proof/Machine/Vcc.lean ====
section
/-! DEFINITION. The Video Codec Cluster: what its operations share (R368), VDEC (R357 to R361), VCC_PICTURE (R352), and the counter control (R370). -/

namespace Sys2Proof.Machine

/-! ### Shared parts -/

def stVcc : Nat := 0xD0
/-- Count in a VCC counter. -/
def vccAdd (s : State) (k n : Nat) : State := { s with vcc := { s.vcc with perf := perfAdd s.vcc.perf k n } }

/-- A format of frame samples. -/
def frameFmt (f : Nat) : Bool := f = 0x0C || f ≤ 2

/-- Is a record of one format and rank, and uncompressed? -/
def rawRec (d : Desc) (fmtOk : Bool) (rank : Nat) : Bool := fmtOk && d.rank = rank && d.comp = 0

/-- Is a record one of VDEC's frames: dense, without a ledger entry (R357, R359)? -/
def frameRec (d : Desc) (rank : Nat) : Bool := rawRec d (frameFmt d.fmtRaw) rank && d.layout = 0 && !d.ledgerEn

/-- INFO's sixteen words (R360). -/
def infoPuts (d : Desc) (ws : List Nat) : List Put := rawPuts d (planned d) fun i => nth 0 ws (nth 0 i 0)

/-- Write the count of COUNT_SW where it is enabled (R360, R41). -/
def putCount (s : State) (c sw v : Nat) : State := if bit sw 15 then setShapeWord s c (bits sw 0 12) v else s

/-- The planned footprints of an operation's records as ranges of whole lines (R166, R368). -/
def vccRanges (e : Nat) : List Hazard :=
  let outs := if envOpcode e = 0xD0 then [1, 2, 3, 4, 5] else [2, 3, 4, 5]
  (List.range 6).flatMap fun r =>
    let d := envRec e r
    if d.raw = 0 then [] else hazardOf (footprint d) (outs.contains r)

/-- May an operation begin: fewer than 8 in flight that have not completed, and none of its context's that it clashes with (R368)? -/
def vccRoom (s : State) (c : Nat) (q : QOp) : Bool :=
  sumNat (s.ctxs.map fun x => (x.flight.filter fun f => f.cls = ucVcc).length) < 8 &&
  !(ctxOf s c).flight.any fun f => f.cls = ucVcc && rangesClash (vccRanges q.env) f.ranges

/-- Issue the head of a context's VCC queue; the cores then go to the sessions that wait (R352). -/
def vccOp (c : Nat) (aged : Bool) (opcode : Nat) (body : Body) (s : State) : State :=
  vccGrant (issueOp s c ucVcc 0 aged (fun q => isOp opcode q && vccRoom s c q) body)

/-- A VCC operation whose pictures are still to come: it stays in flight, and its session opens (R352). -/
def inPictures (c : Nat) (q : QOp) (p : VccProgress) (r : Result) : Result :=
  { r with
    st := if p.left = 0 then r.st else vccOpen r.st (.op (Fin.ofNat 8 c) q.opIndex)
    ended := p.left = 0, aux := p.toAux, ranges := vccRanges q.env }

/-! ### VDEC (R357 to R361) -/

def vdFrames (e : Nat) : Bool := bit (par e 0 1) 0
def vdMot (e : Nat) : Bool := bit (par e 0 1) 1
def vdMotionOnly (e : Nat) : Bool := bit (par e 0 1) 2
def vdDraws (e : Nat) : Bool := bit (par e 0 1) 3
def vdGrain (e : Nat) : Nat := b2n (bit (par e 0 1) 4)
def vdCont (e : Nat) : Nat := par e 1 1
def vdCores (e : Nat) : Nat := par e 2 1
def vdF (e : Nat) : Nat := par e 4 2
def vdStride (e : Nat) : Nat := par e 6 1
def vdSw (e : Nat) : Nat := par e 0xC 2

/-- Records of VDEC (R357). -/
def vdRecs (e : Nat) : List Rec :=
  [inRec e 0 storeRegions] ++ (if vdFrames e then [outRec e 1 deviceRegions, outRec e 2 deviceRegions] else []) ++
  (if vdMot e then [outRec e 3 deviceRegions] else []) ++ [outRec e 4 deviceRegions, outRec e 5 [.near]]

def vdecPlan (s : State) (c e : Nat) : Plan :=
  let y := envRec e 1
  let ch := envRec e 2
  let m := envRec e 3
  { reserved := ([(0x40, bits (par e 0 1) 5 3 ≠ 0), (0x43, par e 3 1 ≠ 0), (0x4D, bits (vdSw e) 12 3 ≠ 0), (0x4F, par e 0xF 1 ≠ 0)] :
        List (Nat × Bool)) ++ parZero e 0x1C 0x20 ++ parZero e 0x28 0x40
    recs := vdRecs e, invalid := stVcc
    broken := !(1 ≤ vdCont e && vdCont e ≤ 3) || !(1 ≤ vdCores e && vdCores e ≤ 12) || vdF e < 1 || vdStride e < 1 || 2 < par e 7 1 ||
      (vdMotionOnly e && vdFrames e) || (!vdFrames e && !vdMot e) ||
      (!vdDraws e && (par e 7 1 ≠ 0 || par e 0xE 1 ≠ 0)) || (vdDraws e && par e 8 4 ≠ 0) ||
      !rawRec (envRec e 0) ((envRec e 0).fmtRaw = 0x0C) 1 || (vdFrames e && (!frameRec y 3 || !frameRec ch 4)) ||
      (vdMot e && !rawRec m (m.fmtRaw = 0x0D) 3) ||
      !rawRec (envRec e 4) ((envRec e 4).fmtRaw = 0x0D) 1 || !rawRec (envRec e 5) ((envRec e 5).fmtRaw = 0x0C) 1
    rels := (if vdFrames e then [relDim s c y 2 fun v => v = vdF e, relDim s c ch 0 fun v => v = 2, relDim s c ch 3 fun v => v = vdF e] else []) ++
      (if vdMot e then [relDim s c m 2 fun v => v = vdF e] else []) ++ [relDim s c (envRec e 4) 0 fun v => v = 16]
    zeroExt := (vdRecs e).map fun r => runExt s c r.d }

/-- Pixels of a rotated plane: does an odd rotation exchange the axes? -/
def rotDims (r w h : Nat) : Nat × Nat := if r % 2 = 1 then (h, w) else (w, h)

/-- What VDEC chooses from its stream: f_0, rotation and mirror (R358). -/
structure VdecPick where
  f0 : Nat
  rot : Nat
  mir : Bool

/-- The choice of f_0, rotation and mirror (R329, R330, R332, R358). -/
def vdecPick (e : Nat) (h : StreamHead) : VdecPick :=
  let span := (vdF e - 1) * vdStride e + 1
  let d (m : Nat) : Nat := drawOf (par e 0x10 8) (par e 0x18 4) (par e 0x20 8) m
  if vdDraws e then
    let r := pickRot (par e 0xE 1) (d 3)
    ⟨startFrame (par e 7 1) (d 0) h.frames span, r.1, r.2⟩
  else ⟨par e 8 4, 0, false⟩

/-- What VDEC refuses before it writes (R357): headers that do not parse are damage, and no refusal (R361). -/
def vdecRefusal (e : Nat) (h : StreamHead) (p : VdecPick) : Option (Nat × Nat) :=
  let y := envRec e 1
  let ch := envRec e 2
  let m := envRec e 3
  let (mw, mh) := rotDims p.rot (cdiv h.w 8) (cdiv h.h 8)
  let span := (vdF e - 1) * vdStride e + 1
  let need := (cdiv (h.w * h.h * 3) 2 * (if h.depth = 10 then 2 else 1) + cdiv h.w 8 * cdiv h.h 8 * 8) * 17
  if h.damage ≠ 0 then none
  else firstSome [
    (if containerBad (vdCont e) h then some (0xD2, 1) else none),
    (if streamBad (vdCont e) h ≠ 0 then some (0xD2, streamBad (vdCont e) h) else none),
    (if (vdFrames e && (extAt y 0 < h.w || extAt y 1 < h.h || extAt ch 1 < cdiv h.w 2 || extAt ch 2 < cdiv h.h 2)) ||
        (vdMot e && (extAt m 0 < mw || extAt m 1 < mh)) then some (0xD2, 4) else none),
    (if extAt (envRec e 5) 0 < need then some (0xD3, need) else none),
    (if h.frames < p.f0 + span || h.frames < span then some (0xD2, 5) else none)]

/-- The stored bits of a code (R359). -/
def codeBits (f depth k : Nat) : Nat :=
  if f = 0x0C then (if depth = 10 then min ((k + 2) / 4) 255 else k)
  else (narrowElem ((fmtOfCode f).getD .fp32) .rne false (divSticky (fnat k) (fnat (2 ^ depth - 1)))).1

/-- Negate a 14-bit motion component (R358). -/
def neg14 (v : Int) : Int := if v = -8192 then 8191 else -v

/-- A written motion word of one block, from its unit's word, under a rotation and mirror (R356, R358). -/
def motionWord (raw r : Nat) (mirror : Bool) : Nat :=
  let intra := bit raw 29
  let vx := if intra then 0 else sext (bits raw 0 14) 14
  let vy := if intra then 0 else sext (bits raw 14 14) 14
  let (x, y) := if r = 1 then (vy, neg14 vx) else if r = 2 then (neg14 vx, neg14 vy) else if r = 3 then (neg14 vy, vx) else (vx, vy)
  let x := if mirror then neg14 x else x
  ofInt x 14 + ofInt y 14 * 2 ^ 14 + b2n (bit raw 28) * 2 ^ 28 + b2n intra * 2 ^ 29 + 2 ^ 30

/-- The coded unit that covers luma sample (8bx, 8by) of a decoded picture (R356). -/
def decodedBlock (cont bytes len idx bx bY : Nat) : CodedUnit :=
  codedUnit ((readHead cont bytes len).codec = 2) fun k => Config.decodedUnit cont bytes len idx (8 * bx) (8 * bY) k

/-- How the decoding of the selection ends: the damage code (0 none), and each item of Config.decodeRun. -/
def vdecDamage (e bytes len : Nat) (h : StreamHead) (p : VdecPick) : Nat :=
  if h.damage ≠ 0 then h.damage else Config.decodeRun (vdCont e) bytes len p.f0 (p.f0 + (vdF e - 1) * vdStride e) 0 % 8

/-- Pictures that the session of a VDEC decodes: none of a stream whose headers do not parse (R361). -/
def vdecPictures (e bytes len : Nat) (h : StreamHead) (p : VdecPick) : Nat :=
  if h.damage ≠ 0 then 0 else Config.decodeRun (vdCont e) bytes len p.f0 (p.f0 + (vdF e - 1) * vdStride e) 2

/-- VDEC once its stream is accepted: the selected frames and their motion; those not decoded before a failure are zeros (R358, R359, R361). -/
def vdecEff (s : State) (c e bytes len : Nat) (h : StreamHead) (p : VdecPick) : Result :=
  let cont := vdCont e
  let last := p.f0 + (vdF e - 1) * vdStride e
  let damage := vdecDamage e bytes len h p
  let where_ := Config.decodeRun cont bytes len p.f0 last 1
  let idx (i : Nat) : Nat := p.f0 + i * vdStride e
  let good (i : Nat) : Bool := damage = 0 || (h.damage = 0 && Config.frameWhole cont bytes len p.f0 last (idx i))
  let code (pl i x y : Nat) : Nat := Config.decodedSample cont bytes len (vdGrain e) (idx i) [pl, x, y] % 2 ^ h.depth
  let dy := envRec e 1
  let dc := envRec e 2
  let dm := envRec e 3
  let yPuts := if !vdFrames e then [] else rawPuts dy (runExt s c dy) fun i =>
    let x := nth 0 i 0
    let y := nth 0 i 1
    let n := nth 0 i 2
    if x < h.w && y < h.h && good n then codeBits dy.fmtRaw h.depth (code 0 n x y) else 0
  let cPuts := if !vdFrames e then [] else rawPuts dc (runExt s c dc) fun i =>
    let x := nth 0 i 1
    let y := nth 0 i 2
    let n := nth 0 i 3
    if x < cdiv h.w 2 && y < cdiv h.h 2 && good n then codeBits dc.fmtRaw h.depth (code (1 + nth 0 i 0) n x y) else 0
  let mPuts := if !vdMot e then [] else rawPuts dm (runExt s c dm) fun i =>
    let n := nth 0 i 2
    let img := rotImg ⟨cdiv h.w 8, cdiv h.h 8, fun x y => motionWord (unitWord (decodedBlock cont bytes len (idx n) x y)) p.rot p.mir⟩ p.rot p.mir
    if nth 0 i 0 < img.w && nth 0 i 1 < img.h && good n then img.px (nth 0 i 0) (nth 0 i 1) else 0
  let written := ((List.range (vdF e)).filter good).length
  let info := infoPuts (envRec e 4) [h.w, h.h, h.depth, h.colour, vdecPictures e bytes len h p, written, damage,
    if damage = 0 then 0xFFFFFFFF else where_, 0, s.vcc.version, p.f0, p.rot + 4 * b2n p.mir]
  let s1 := putCount (applyPuts s c (yPuts ++ cPuts ++ mPuts ++ info)) c (vdSw e) written
  { st := vccAdd s1 4 (b2n (damage ≠ 0)), status := if damage = 0 then stOk else 0xD1
    detail := if damage = 0 then 0 else damage + where_ % 2 ^ 32 * 2 ^ 32 }

/-- The pictures of a VDEC as its session will decode them (R352, R353). -/
def vdecProgress (e bytes len : Nat) (h : StreamHead) (p : VdecPick) : VccProgress :=
  ⟨vdecPictures e bytes len h p, false, vdCores e, unitCount h, cdiv h.w (max 1 h.ctb), divCode (divisionOf h), h.w * h.h, []⟩

/-- VDEC at its unit. A fault reading SRC is met like any other (R361). -/
def bodyVdec : Body := fun s c q =>
  let e := q.env
  let p := vdecPlan s c e
  match issueChecks s c p with
  | some (st, d) => reject s st d
  | none =>
    let src := envRec e 0
    let len := nth 1 (runExt s c src) 0
    let bytes := rdNum s c src.base len
    let h := readHead (vdCont e) bytes len
    let pick := vdecPick e h
    match if (badTouched s (physPieces s c [(src.base, len)])).isSome then none else vdecRefusal e h pick with
    | some (st, d) => reject (if st = 0xD2 then vccAdd s 5 1 else s) st d
    | none =>
      let r := runAfter s c p (readsOf s c p.recs) (writesOf s c (p.recs.filter fun x => x.idx ≠ 5)) fun s => vdecEff s c e bytes len h pick
      if r.status = stMemFault then r else inPictures c q (vdecProgress e bytes len h pick) r

/-- VDEC (R357). -/
def execVdec (c : Fin 8) (aged : Bool) (s : State) : Host.Outcome State Fault Refusal :=
  .next (vccOp c aged 0xD0 bodyVdec s)

/-! ### Pictures (R352) and registers (R370) -/

/-- The cores of an entry held their grant for cycles of their own (free); its picture's boundaries have run, and it waits for its next grant. -/
def endGrant (s : State) (e : VccEntry) : State :=
  let busy := if s.vcc.perf.freeze then s.vcc.busy else s.vcc.busy.zipIdx.map fun x => if e.cores.contains x.2 then x.1 + Config.freeWord (s.free + x.2) else x.1
  { s with
    free := s.free + 16
    vcc := { s.vcc with
      busy := busy
      sess := s.vcc.sess.map fun x => if x.slot = e.slot then { x with cores := [], bounds := x.bounds.map boundRun } else x } }

/-- An operation's session has completed a picture: its counters (R370), and the operation ends with its last. -/
def opPicture (s : State) (c i : Nat) : State :=
  match sessFlight s c i with
  | none => s
  | some f =>
    let p := progressOf f.aux
    let s1 := if p.enc then vccAdd (vccAdd s 2 1) 3 (nth 0 p.bytes 0) else vccAdd (vccAdd s 0 1) 1 p.samples
    let p' := { p with left := p.left - 1, bytes := p.bytes.tail }
    updCtx s1 c fun x => { x with flight := x.flight.map fun g =>
      if g.cls = ucVcc && g.op.opIndex = i && !g.ended then { g with aux := p'.toAux, ended := p'.left = 0 } else g }

/-- What a session's picture does: a live stream decodes its next frame, an operation has one picture fewer to go. -/
def sessPicture (s : State) (w : VccSession) : State :=
  match w with
  | .live c id j =>
    match feedOf s c id with
    | some f => decodeLive s f j
    | none => s
  | .op c i => opPicture s c i

/-- VCC_PICTURE (R352): a session that holds cores completes one picture; its cores then go to the sessions that wait. -/
def execVccPicture (session : VccSession) (s : State) : Host.Outcome State Fault Refusal :=
  let t := vccGrant s
  match (sessTable t).find? fun e => e.who = session && e.cores ≠ [] with
  | some e => if domIsOn s 46 then .next (vccGrant (sessPicture (endGrant t e) session)) else .next s
  | none => .next s

/-- VCC_PERF_CLEAR (R370): VCC_PERF_CTL is written with CLEAR 1 and the given FREEZE. -/
def execVccPerfClear (freeze : Bool) (s : State) : Host.Outcome State Fault Refusal :=
  if barOn s then .next { s with vcc := { s.vcc with perf := { perfClear s.vcc.perf with freeze := freeze }, busy := s.vcc.busy.map fun _ => 0 } } else .next s

end Sys2Proof.Machine
end

