-- ==== Sys2Proof/Machine/Regs.lean ====
section
/-! DEFINITION. The register map of BAR0 as it reads (R32, and each block's own rule), register writes under their access codes (R7), the AOC block over I2C (R493), and BAR2 (R33). -/

namespace Sys2Proof.Machine

/-! ### Register values, block by block -/

/-- One of a list of counters. -/
def counterAt (l : List W64) (k : Nat) : Nat := (nth (0 : W64) l k).toNat

/-- *_PERF_CTL as it reads: FREEZE. -/
def perfCtl (freeze : Bool) : Nat := 2 * b2n freeze

/-- MBX_STATUS, MBX_CTRL and their neighbours (R426). -/
def mbxReg (s : State) (o : Nat) : Nat :=
  let m := s.mbx
  match o with
  | 0x00 => packBits [(0x00010384, 32), (boardRev, 8), (0xB1, 8)]
  | 0x08 => Config.otpSerial.toNat
  | 0x10 => packBits [(m.fwState, 2), (0, 2), (modeCode s.mode, 3), (0, 1), (m.iface, 8), (0, 8), (0, 8), (m.heartbeat.toNat, 32)]
  | 0x18 => packBits [(b2n m.enable, 1), (b2n (m.taken = []), 1), (0, 6), (m.sqLog2, 4), (m.cqLog2, 4), (b2n m.ringLost, 1)]
  | 0x20 => m.sqBase
  | 0x28 => m.cqBase
  | 0x30 => m.sqTail
  | 0x38 => m.sqHead
  | 0x40 => m.cqTail
  | 0x48 => m.cqHead
  | 0x50 => m.irq.toNat
  | 0x58 => m.irqEn.toNat
  | 0x68 => counterAt m.scratch 0
  | 0x70 => counterAt m.scratch 1
  | 0x78 => counterAt m.scratch 2
  | 0x80 => counterAt m.scratch 3
  | _ => 0

/-- HIF_BAR2_APn (R33). -/
def apReg (s : State) (n : Nat) : Nat := let a := nth (0, false) s.hif.aps n; a.1 + b2n a.2

/-- PHASE of the array: idle, or one of load, stream and tail while an operation executes. -/
def qryPhase (s : State) : Nat := if windowOpen s then 0 else 1 + (Config.freeWord s.free).toNat % 3

/-- Does the drain engine execute a drain or fill? -/
def drainBusy (s : State) : Bool :=
  s.ctxs.any fun x => x.flight.any fun f => f.cls = ucDrain && (f.op.opcode = 0x12 || f.op.opcode = 0x13) && executing f

/-- The Quarry block (R108). -/
def qryReg (s : State) (o : Nat) : Nat :=
  let q := s.quarry
  match o with
  | 0x00 => packBits [(b2n (qryPhase s ≠ 0), 1), (qryPhase s, 2), (b2n (drainBusy s), 1), (q.lastCtx, 3), (b2n q.lattice.sparse, 1),
      (q.lattice.fmt, 8), (b2n q.lattice.valid, 1)]
  | 0x08 => q.colRepair.toNat
  | 0x10 => perfCtl q.freeze
  | 0x18 => q.loadCyc.toNat
  | 0x20 => q.streamCyc.toNat
  | 0x28 => q.stallCyc.toNat
  | 0x30 => q.idleCyc.toNat
  | 0x38 => q.gatedCubes.toNat
  | 0x40 => q.keepHit.toNat
  | 0x48 => q.keepMiss.toNat
  | 0x50 => q.sumpCe.toNat
  | 0x58 => q.drainCyc.toNat
  | _ => 0

/-- The OSQ block (R171). -/
def osqReg (s : State) (o : Nat) : Nat :=
  let x := ctxOf s (o / 16)
  if 0x80 ≤ o then 0
  else if o % 16 = 0 then
    packBits [(ctxStCode x.st, 3), (0, 5), (x.pkgs.length - 1, 8), (min 65535 x.queued.length, 16), (x.haltStatus, 8)]
  else packBits [(x.halt.getD 0, 32), (x.nextIndex, 32)]

/-- The stash block (R215). -/
def stashReg (s : State) (o : Nat) : Nat :=
  if o < 0x200 then counterAt s.stash.cnt (o / 8) else if o = 0x200 then s.stash.mask else 0

/-- The Crusher block (R237). -/
def cruReg (s : State) (o : Nat) : Nat :=
  if o < 0x100 then (if o % 0x40 < 0x38 then counterAt s.cru.cnt (7 * (o / 0x40) + o % 0x40 / 8) else 0)
  else if o = 0x100 then perfCtl s.cru.freeze else 0

/-- RS_CTXn_USE: zero while the context is closed. -/
def rsUse (s : State) (c : Nat) : Nat :=
  let u := (ctxOf s c).ringUse
  if isOpen s c then packBits [(u.slots.length, 13), (0, 3), (framesHeld u, 29)] else 0

/-- The Canopy and Ringstore block (R275). -/
def rsReg (s : State) (o : Nat) : Nat :=
  if o < 0x40 then counterAt s.rs.cnt (o / 8)
  else if o = 0x40 then perfCtl s.rs.freeze
  else if 0x80 ≤ o && o < 0xC0 then rsUse s ((o - 0x80) / 8) else 0

/-- The Splitter block (R291). -/
def splReg (s : State) (o : Nat) : Nat :=
  if o < 0x40 then counterAt s.spl.cnt (o / 8) else if o = 0x40 then perfCtl s.spl.freeze else 0

/-- MEM_STATUS. -/
def memStatus (s : State) : Nat :=
  let m := s.memS
  packBits [(b2n m.globalMode, 1), (b2n (m.farHot.any id), 1), (b2n m.farWithdrawn, 1), (0, 5),
    (bitsOf (m.stackStep.map fun t => 1 ≤ t), 8), (packBits (m.stackStep.map fun t => (t, 2)), 16), (m.mapped.length, 8)]

/-- MEM_NEAR_MAPOUTk. -/
def mapoutReg (s : State) (k : Nat) : Nat := bitsOf ((List.range 64).map fun j => s.memS.mapped.contains (64 * k + j))

/-- The memory block (R317). -/
def memReg (s : State) (o : Nat) : Nat :=
  let m := s.memS
  match o with
  | 0x00 => memStatus s
  | 0x08 => packBits (m.ret.map fun t => (t, 2))
  | 0x10 => packBits (m.stackTemp.map fun t => (t, 8))
  | 0x18 => perfCtl m.freeze
  | 0x20 => mapoutReg s 0
  | 0x28 => mapoutReg s 1
  | 0x30 => mapoutReg s 2
  | 0x38 => mapoutReg s 3
  | 0x40 => m.spCe.toNat
  | 0x48 => m.spUe.toNat
  | 0x50 => m.nearCe.toNat
  | 0x58 => m.nearUe.toNat
  | 0x60 => m.farCe.toNat
  | 0x68 => m.farUe.toNat
  | 0x70 => m.nearRd.toNat
  | 0x78 => m.nearWr.toNat
  | 0x80 => m.farRd.toNat
  | 0x88 => m.farWr.toNat
  | 0x90 => m.agedGrants.toNat
  | _ => 0

/-- The Taproot block (R348). -/
def tapReg (s : State) (o : Nat) : Nat :=
  if o < 0x100 then feedReg s (o / 32) (o % 32 / 8)
  else if o < 0x170 then counterAt s.tap.perf.cnt ((o - 0x100) / 8)
  else if o = 0x170 then perfCtl s.tap.perf.freeze else 0

/-- VCC_STATUS (R370): the cores that hold a grant, open sessions, and the version that new sessions use. -/
def vccStatus (s : State) : Nat := packBits [(busyCores s, 16), (vccSessions s, 8), (0, 8), (s.vcc.version, 32)]

/-- The codec block (R370). -/
def vccReg (s : State) (o : Nat) : Nat :=
  if o = 0 then vccStatus s
  else if o < 0x38 then counterAt s.vcc.perf.cnt (o / 8 - 1)
  else if o = 0x38 then perfCtl s.vcc.perf.freeze
  else if o < 0xC0 then counterAt s.vcc.busy ((o - 0x40) / 8) else 0

/-- FAB_PORTn_STATUS. -/
def portReg (p : Port) : Nat :=
  packBits [(p.st, 2), (0, 2), (p.width, 4), (0, 8), (p.retrains, 16), (b2n p.peerUnassigned, 1), (0, 3), (p.spareFor, 3), (p.laneOk, 5),
    (p.peerPort, 4), (p.peerNode, 15)]

/-- SBR_STATUS. -/
def sbrReg (r : SbrS) : Nat :=
  packBits [(b2n r.relayOpen, 1), (b2n r.locked, 1), (b2n r.inserted, 1), (b2n r.master, 1), (b2n r.timeValid, 1), (0, 3),
    (if r.master then 0 else r.station, 8), (0, 16), (r.timeSeq, 16), (r.moves, 16)]

/-- The fabric block (R402). -/
def fabReg (s : State) (o : Nat) : Nat :=
  if o < 0x80 then portReg (portOf s (o / 8))
  else if o = 0x80 then packBits [(s.fab.node, 15), (0, 1), (b2n s.fab.recValid, 1)]
  else if o = 0x88 then sbrReg s.fab.sbr
  else if o < 0xF0 then counterAt s.fab.perf.cnt ((o - 0x90) / 8)
  else if o = 0xF0 then perfCtl s.fab.perf.freeze else 0

/-- The collective block (R425). -/
def colReg (s : State) (o : Nat) : Nat :=
  if o < 0x38 then counterAt s.fab.col.cnt (o / 8) else if o = 0x38 then perfCtl s.fab.col.freeze else 0

/-- LEVEL_n of an input: the reset inputs hold their filtered levels; those of PPS_IN, SYNC_IN and the I2C lines between edges are the tray's own. -/
def levelBit (s : State) (n : Nat) : Bool := if n < 3 then nth false s.aoc.level n else Config.freeBit (s.free + n)

/-- AOC_INPUT_STATUS. -/
def inputReg (s : State) : Nat :=
  let a := s.aoc
  packBits ((List.range 6).flatMap (fun n => [(b2n (levelBit s n), 1), (b2n (nth false a.stuck n), 1)]) ++
    [(0, 4), (b2n a.buttonStuck, 1), (b2n a.buttonIgnored, 1), (b2n a.ppsLocked, 1), (b2n a.slotValid, 1), (a.slot, 2)])

/-- The AOC block (R493). -/
def aocReg (s : State) (o : Nat) : Nat :=
  let a := s.aoc
  if o = 0 then packBits [(a.cause, 5), (0, 3), (b2n a.perstSeen, 1)]
  else if o = 8 then packBits [(s.boot, 32), (b2n a.label.updating, 1), (b2n a.label.busy, 1), (0, 6), (a.lastStep, 8)]
  else if o = 0x10 then inputReg s
  else if o = 0x18 then a.syncStamp.toNat
  else if o < 0x50 && o % 8 = 0 then packBits [(nth 0 a.dropped ((o - 0x20) / 8), 32), (nth 0 a.events ((o - 0x20) / 8), 32)]
  else 0

/-- THM_FACEf. -/
def faceReg (s : State) (f : Nat) : Nat :=
  packBits [(ofInt (wholeCelsius (nth 0 s.pwr.tj f)) 8, 8), (lqOf s f, 4), (lfOf s f, 4), (fclkOf s f, 12), (0, 4), (railOf s f, 10), (0, 6),
    (causesOf s f, 6), (b2n (nth false s.pwr.sensorFail f), 1)]

/-- CLK_STATUS. -/
def clkReg (s : State) : Nat :=
  packBits [(qclkOf s, 11), (0, 1), (globalLevel s, 4), (bitsOf ((List.range 4).map fun f => lqOf s f = globalLevel s), 4), (0, 12), (vclkOf s, 11)]

/-- TIM_STATUS: in holdover while valid with no source in use (R511). -/
def timReg (s : State) : Nat :=
  let t := s.time
  packBits [(b2n t.valid, 1), (t.source, 2), (b2n (t.valid && t.source = 0), 1), (t.config, 2), (b2n (ppsUsed s), 1), (0, 1), (errorBound s, 32)]

/-- The power and time block (R513). -/
def pwrReg (s : State) (o : Nat) : Nat :=
  let p := s.pwr
  match o with
  | 0x00 => packBits [(capInForce s, 16), (p.pin, 16), (p.vin, 16), (p.capLevel, 4), (b2n (0 < p.capLevel), 1)]
  | 0x08 => bitsOf s.domOn
  | 0x10 => s.wakes.toNat
  | 0x18 => clkReg s
  | 0x20 => faceReg s 0
  | 0x28 => faceReg s 1
  | 0x30 => faceReg s 2
  | 0x38 => faceReg s 3
  | 0x40 => packBits [(b2n p.alert, 1), (b2n p.emergency, 1), (b2n p.tripped, 1)]
  | 0x48 => p.steps.toNat
  | 0x50 => nowNs s
  | 0x58 => s.time.latch.toNat
  | 0x60 => timReg s
  | _ => 0

/-- A capture set's registers. -/
def captureReg (c : Capture) (k : Nat) : Nat :=
  match k with
  | 0 => packBits [(c.boot, 32), (c.ev.inst, 8), (c.ev.src, 8), (c.ev.ctx, 8), (c.ev.sev, 2), (0, 5), (b2n c.valid, 1)]
  | 1 => c.ev.key
  | 2 => c.time.toNat
  | _ => 0

/-- The RAS block (R531). -/
def rasReg (s : State) (o : Nat) : Nat :=
  let r := s.ras
  match o with
  | 0x00 => packBits [(healthCode s, 16), (0, 16), (r.lastFault, 32)]
  | 0x10 => r.records.toNat
  | 0x18 => r.droppedEvents.toNat
  | 0x20 => r.overflowLost.toNat
  | 0x28 => packBits [(r.fifo.length, 7), (0, 1), (r.highWater, 8), (r.table.length, 6)]
  | _ => if 0x100 ≤ o && o < 0x300 then captureReg (nth noCapture r.first ((o - 0x100) / 32)) (o % 32 / 8) else 0

/-- The trace block (R531). -/
def trcReg (s : State) (o : Nat) : Nat :=
  let t := s.trc
  match o with
  | 0x00 => packBits [(t.st, 2), (0, 6), (t.suspDomain, 8), (t.staged.length, 12), (0, 4), (if t.st = 0 && t.n = 0 then 0 else (t.n + 1) % 2 ^ 32, 32)]
  | 0x08 => t.written.toNat
  | 0x10 => t.lost.toNat
  | _ => 0

/-- A unit register by its block (R24). -/
def unitReg (s : State) (o : Nat) : Nat :=
  let k := o % 0x1000
  match o / 0x1000 with
  | 0x100 => qryReg s k
  | 0x101 => osqReg s k
  | 0x102 => stashReg s k
  | 0x103 => cruReg s k
  | 0x104 => rsReg s k
  | 0x105 => splReg s k
  | 0x106 => memReg s k
  | 0x107 => tapReg s k
  | 0x108 => vccReg s k
  | 0x109 => fabReg s k
  | 0x10A => colReg s k
  | 0x10B => aocReg s k
  | 0x10C => pwrReg s k
  | 0x10D => rasReg s k
  | 0x10E => trcReg s k
  | _ => 0

/-- What a read of the register at a BAR0 offset, a multiple of 8, returns; reserved offsets read as zero (R9, R32). -/
def regValue (s : State) (o : Nat) : Nat :=
  if o < 0x2000 then mbxReg s o
  else if o < 0x2080 then apReg s ((o - 0x2000) / 8)
  else if 0x10000 ≤ o && o < 0x20000 then rdPhys s (mboxBase + (o - 0x10000)) 8
  else unitReg s o

/-- I2C_REGISTER_READ (R493): the tray reads a register of the AOC block; the write of the offset and the repeated start are two start conditions of input 5. -/
def execI2cRegisterRead (addr : BitVec 7) (offset : BitVec 16) (s : State) : Host.Outcome State Fault Refusal :=
  if !s.aoc.on || addr.toNat ≠ 0x60 + s.aoc.slot then .next s
  else
    let v := if offset.toNat < 0x1000 && offset.toNat % 8 = 0 then aocReg s offset.toNat else 0
    .next { countEvent (countEvent (unstick s 5 true) 5) 5 with hif := { s.hif with i2c := v } }

/-! ### Register writes (R7) -/

/-- FREEZE and CLEAR of a block's control register. -/
def perfWrite (p : Perf) (v : Nat) : Perf := { (if bit v 0 then perfClear p else p) with freeze := bit v 1 }

/-- Zero the Quarry counters. -/
def qryZero (q : QuarryS) : QuarryS :=
  { q with loadCyc := 0, streamCyc := 0, stallCyc := 0, idleCyc := 0, gatedCubes := 0, keepHit := 0, keepMiss := 0, sumpCe := 0, drainCyc := 0 }

/-- Zero the memory block's traffic counters. -/
def memZero (m : MemS) : MemS := { m with nearRd := 0, nearWr := 0, farRd := 0, farWr := 0, agedGrants := 0 }

/-- QRY_PERF_CLEAR (R108): QRY_PERF_CTL is written with CLEAR 1 and the given FREEZE. -/
def execQryPerfClear (freeze : Bool) (s : State) : Host.Outcome State Fault Refusal :=
  if barOn s then .next { s with quarry := { qryZero s.quarry with freeze := freeze } } else .next s

/-- MEM_PERF_CLEAR (R317): MEM_PERF_CTL is written with CLEAR 1 and the given FREEZE. -/
def execMemPerfClear (freeze : Bool) (s : State) : Host.Outcome State Fault Refusal :=
  if barOn s then .next { s with memS := { memZero s.memS with freeze := freeze } } else .next s

/-- A ring base takes its bits 47:6, unless the rings are enabled (R426, R430). -/
def baseWrite (v : Nat) : Nat := bits v 6 42 * 64

/-- Hardware mailbox registers with no row of their own: ring bases, interrupt enables, scratch (R426, R430). -/
def mbxWrite (s : State) (o v : Nat) : State :=
  match o with
  | 0x20 => if s.mbx.enable then s else updMbx s fun m => { m with sqBase := baseWrite v }
  | 0x28 => if s.mbx.enable then s else updMbx s fun m => { m with cqBase := baseWrite v }
  | 0x58 => irqUpdate (updMbx s fun m => { m with irqEn := BitVec.ofNat 64 (v % 16) })
  | 0x68 => setScratch s 0 (BitVec.ofNat 64 v)
  | 0x78 => setScratch s 2 (BitVec.ofNat 64 v)
  | 0x80 => setScratch s 3 (BitVec.ofNat 64 v)
  | _ => s

/-- Size of an aperture. -/
def apSize (s : State) : Nat := 2 ^ (s.hif.bar2Log2 - 4)

/-- An aperture register: TARGET's bits below the aperture size read back as zero (R33). -/
def apWrite (s : State) (n v : Nat) : State :=
  { s with hif := { s.hif with aps := s.hif.aps.set n (bits v 0 48 / apSize s * apSize s, bit v 0) } }

/-- A feed register: LOW is cleared by a 1 (R348). -/
def feedWrite (s : State) (c m v : Nat) : State :=
  if bit v 16 then mapFeeds s fun f => if f.ctx = c && f.id = m then { f with low := false } else f else s

/-- Unit registers with no row of their own: FREEZE of the counter blocks, CTX_MASK, LOW, PERST_SEEN (R7). -/
def unitWrite (s : State) (o v : Nat) : State :=
  match o with
  | 0x100010 => { s with quarry := { (if bit v 0 then qryZero s.quarry else s.quarry) with freeze := bit v 1 } }
  | 0x102200 => stashCtl s (bit v 8) (v % 256)
  | 0x103100 => { s with cru := perfWrite s.cru v }
  | 0x104040 => { s with rs := perfWrite s.rs v }
  | 0x105040 => { s with spl := perfWrite s.spl v }
  | 0x106018 => { s with memS := { (if bit v 0 then memZero s.memS else s.memS) with freeze := bit v 1 } }
  | 0x107170 => { s with tap := { s.tap with perf := perfWrite s.tap.perf v } }
  | 0x108038 =>
    { s with vcc := { s.vcc with perf := perfWrite s.vcc.perf v, busy := if bit v 0 then s.vcc.busy.map fun _ => 0 else s.vcc.busy } }
  | 0x1090F0 => updFab s fun f => { f with perf := perfWrite f.perf v }
  | 0x10A038 => updFab s fun f => { f with col := perfWrite f.col v }
  | 0x10B000 => if bit v 8 then updAoc s fun a => { a with perstSeen := false } else s
  | _ => if 0x107000 ≤ o && o < 0x107100 then feedWrite s ((o - 0x107000) / 32) (o % 32 / 8) v else s

/-- Mailbox memory takes any write (R429). -/
def mboxWrite (s : State) (o v : Nat) : State := wrPhys s (mboxBase + (o - 0x10000)) v 8

/-- REGISTER_WRITE (R7, R24): a 64-bit write at a BAR0 offset to a register with no row of its own, or to mailbox memory; read-only, reserved and unaligned places take nothing. -/
def execRegisterWrite (offset : BitVec 24) (value : BitVec 64) (s : State) : Host.Outcome State Fault Refusal :=
  let o := offset.toNat
  let v := value.toNat
  if !barOn s || o % 8 ≠ 0 then .next s
  else if o < 0x2000 then .next (mbxWrite s o v)
  else if o < 0x2080 then .next (apWrite s ((o - 0x2000) / 8) v)
  else if 0x10000 ≤ o && o < 0x20000 then .next (mboxWrite s o v)
  else .next (unitWrite s o v)

/-! ### BAR2 (R33) -/

/-- BAR2_RESIZE (R33): sizes 64 GiB to 2 TiB; every aperture register takes its reset value for the new size. -/
def execBar2Resize (size : Fin 6) (s : State) : Host.Outcome State Fault Refusal :=
  if barOn s then
    .next { s with hif := { s.hif with
      bar2Log2 := 36 + size, aps := (List.range 16).map fun n => (nearBase + n * 2 ^ (32 + size.val), true) } }
  else .next s

/-- What a read over PCIe returned: 0 successful, 1 Unsupported Request, 2 poisoned. -/
def readBack (s : State) (status data : Nat) : State := { s with hif := { s.hif with rdStatus := status, rdData := data } }

/-- Unsupported Request: a read returns no data, a write is dropped. -/
def bar2Ur (s : State) (write : Bool) : State := if write then s else readBack s 1 0

/-- A refused access is logged in class HOST (R21, R297, R514). -/
def bar2Refuse (s : State) (write : Bool) (da : Nat) : State := bar2Ur (logErr s 7 1 0x15 0xFF (da % 2 ^ 48)) write

/-- The DA that an offset of BAR2 reaches; none through a disabled aperture. -/
def bar2Da (s : State) (addr : Nat) : Option Nat :=
  let a := nth (0, false) s.hif.aps (addr / apSize s)
  if a.2 then some (a.1 + addr % apSize s) else none

/-- Does a region's memory have power? -/
def regionOn (s : State) (r : Region) (da : Nat) : Bool :=
  match r with
  | .stockpile => domIsOn s (10 * (da / 0x10000000) + 2)
  | .near =>
    let faces := if s.memS.globalMode then List.range 4 else [(da - nearBase) / faceSpan]
    faces.all fun f => domIsOn s (10 * f + 7) && domIsOn s (10 * f + 8)
  | .far => domIsOn s 43 && domIsOn s 55
  | .sump => let p := (da - sumpBase) / 0x400000; domIsOn s (10 * (p / 2) + p % 2)
  | _ => true

/-- The region of a BAR2 access: one that BAR2 reaches, for its first and its last byte. -/
def bar2Region (s : State) (da n : Nat) : Option Region :=
  match regionOf s da, regionOf s (da + n - 1) with
  | some r, some r' => if r = r' && [Region.stockpile, .sump, .near, .far].contains r then some r else none
  | _, _ => none

/-- Memory as the host may see it: of each ledger entry that the cache holds, the value in the cache or the stale one in memory (R75). -/
def hostView (s : State) : State :=
  (cachedLines s).zipIdx.foldl (fun t p => if Config.freeBit (s.free + p.2) then wrNum t p.1.1 (entryDa s p.1.1 p.1.2.slot) p.1.2.entry 64 else t) s

/-- A BAR2 read of memory: poisoned where it meets an uncorrectable error, whose data are open (R294, R301, R305). -/
def bar2Read (s : State) (da n : Nat) : State :=
  match badTouched s [(da, n)] with
  | some line =>
    let (k, s1) := drawFree (countUe (noteTraffic s [(da, n)] []) line)
    readBack s1 2 (Config.freeWord k).toNat
  | none =>
    let v := rdPhys (hostView s) da n
    let (_, s1) := drawFree (noteTraffic s [(da, n)] [])
    readBack s1 0 v

/-- Count an uncorrectable error that a host write met. -/
def countHostUe (s : State) (line : Nat) : State :=
  let m := s.memS
  { s with memS :=
    if line < 0x40000000 then { m with spUe := m.spUe + 1 }
    else if line < farBase then { m with nearUe := m.nearUe + 1 } else { m with farUe := m.farUe + 1 } }

/-- A BAR2 write to memory: one of part of a faulty word or line is dropped, logged and counted; a write of the whole clears the fault (R294, R301, R305). -/
def bar2Write (s : State) (da n data : Nat) : State :=
  match badPartly s [(da, n)] with
  | some line => logErr (countHostUe (noteTraffic s [] [(da, n)]) line) 7 1 0x15 0xFF da
  | none => ledgerHostWrite (wrPhys (noteTraffic (clearBad s [(da, n)]) [] [(da, n)]) da data n) da n data

/-- A byte of the Sump window (R22). -/
def windowByte (s : State) (a : Nat) : Nat := windowSlot s (a / 8 * 8) / 256 ^ (a % 8) % 256

/-- Store a byte into the Sump window: bits 63:48 of a slot take nothing. -/
def windowPut (s : State) (a b : Nat) : State :=
  if 6 ≤ a % 8 then s
  else
    let k := (a - sumpBase) / 8
    { s with sump := smSet 0 s.sump k (BitVec.ofNat 48 (setFld (smGet 0 s.sump k).toNat (a % 8) 1 b)) }

/-- Does an access touch an accumulator with a double-bit error (R94)? -/
def windowFaulty (s : State) (da n : Nat) : Bool :=
  s.sumpBad.any fun k => overlaps da (da + n) (sumpBase + 8 * k) (sumpBase + 8 * k + 8)

/-- Is an accumulator's 48 bits written whole by a window write, which renews its check bits? -/
def windowWhole (da n k : Nat) : Bool := da ≤ sumpBase + 8 * k && sumpBase + 8 * k + 6 ≤ da + n

/-- The Sump window through BAR2, when it is open (R22, R23). -/
def bar2Window (s : State) (write : Bool) (da n data : Nat) : State :=
  if write then renewSump ((List.range n).foldl (fun s j => windowPut s (da + j) (fld data j 1)) s) (windowWhole da n)
  else if windowFaulty s da n then let (k, s1) := drawFree s; readBack s1 2 (Config.freeWord k).toNat
  else readBack s 0 (ofBytes ((List.range n).map fun j => windowByte s (da + j)))

/-- An access to memory without power: a write is lost; whether a read completes successfully, with the open contents, or as unsupported the manual does not say. -/
def bar2Dark (s : State) (write : Bool) (da n : Nat) : State :=
  if write then s
  else
    let (k, s1) := drawFree s
    if Config.freeBit k then readBack s1 0 (rdPhys s da n) else readBack s1 1 0

/-- An access to a region. -/
def bar2Go (s : State) (r : Region) (write : Bool) (da n data : Nat) : State :=
  if !regionOn s r da then bar2Dark s write da n
  else if r = .sump then (if windowOpen s then bar2Window s write da n data else bar2Refuse s write da)
  else if r = .stockpile && retOf s da = 2 then bar2Refuse s write da
  else if write then bar2Write s da n data else bar2Read s da n

/-- BAR2_ACCESS (R33): a read or write of `len` bytes at a byte offset of BAR2, within 4 KiB; what a read returns is kept. -/
def execBar2Access (write : Bool) (addr len data : Nat) (s : State) : Host.Outcome State Fault Refusal :=
  if !barOn s || len = 0 || 4096 < addr % 4096 + len || 2 ^ s.hif.bar2Log2 < addr + len then .next s
  else
    match bar2Da s addr with
    | none => .next (bar2Ur s write)
    | some da =>
      match bar2Region s da len with
      | none => .next (bar2Refuse s write da)
      | some r => .next (withHealth s (bar2Go s r write da len data))

end Sys2Proof.Machine
end

