-- ==== Sys2Proof/Machine/Splitter.lean ====
section
/-! DEFINITION. The Splitter: the count block (R278, R279), EROUTE (R280 to R284), COMPACT (R286), MGATE (R287 to R289) and its counter control (R291). -/

namespace Sys2Proof.Machine

/-! ### Count block and shared checks (R276 to R279) -/

def stSplit : Nat := 0xA0
def cbSw (e : Nat) : Nat := bits (par e 0x30 2) 0 12
def cbEn (e : Nat) : Bool := bit (par e 0x30 2) 15
def cbRows (e : Nat) : Nat := par e 0x32 2
def cbSplit (e : Nat) : Nat := par e 0x34 1
/-- The null index. -/
def nullIdx : Nat := 0xFFFFFFFF

/-- Reserved fields of a Splitter parameter block, the count block included. -/
def splReserved (e : Nat) (own : List (Nat × Bool)) : List (Nat × Bool) :=
  own ++ ([(0x71, bits (par e 0x30 2) 12 3 ≠ 0)] : List (Nat × Bool)) ++ parZero e 0x35 0x40

/-- Count block rules; `last` is how many words follow the first (R278). -/
def countBad (e last : Nat) (splits : Bool) : Bool :=
  64 < cbSplit e || (!splits && cbSplit e ≠ 0) ||
  (if cbSplit e = 0 then cbRows e ≠ 0 else !(1 ≤ cbRows e && cbRows e ≤ 16384)) ||
  (cbEn e && 4095 < cbSw e + last)

/-- An input record of a Splitter. -/
def splIn (e i : Nat) : Rec := inRec e i deviceRegions
/-- An output record of a Splitter: its frame is reserved (R276). -/
def splOut (e i : Nat) : Rec := { outRec e i deviceRegions with frameless := true }

/-- The issue plan of a Splitter operation; its first record's run-time extents decide ZERO_EXTENT (R279). -/
def splPlan (s : State) (c e : Nat) (own : List (Nat × Bool)) (recs : List Rec) (broken : Bool) (rels : List Rel) : Plan :=
  { reserved := splReserved e own, recs := recs, invalid := stSplit
    broken := broken || recs.any (fun r => r.d.ledgerEn || r.d.comp ≠ 0), rels := rels, zeroExt := [runExt s c (envRec e 0)] }

/-- The words of a count with its split words (R278). -/
def splitWords (e n : Nat) : List (Nat × Nat) :=
  if !cbEn e then []
  else (cbSw e, n) :: (List.range (cbSplit e)).map fun i => (cbSw e + 1 + i, min (n - i * cbRows e) (cbRows e))

/-- Write shape words, each as one access (R41, R278). -/
def putWords (s : State) (c : Nat) (ws : List (Nat × Nat)) : State := ws.foldl (fun s w => setShapeWord s c w.1 w.2) s

/-- What a Splitter operation computes: its stores, its count words, flags, status and DETAIL, and what its counters gain. -/
structure SplitOut where
  puts : List Put
  words : List (Nat × Nat)
  flags : NumFlags := {}
  status : Nat := 0
  detail : Nat := 0
  gains : List (Nat × Nat) := []

/-- Run a Splitter operation: checks, outputs, then shape words last (R277, R279). -/
def splRun (s : State) (c : Nat) (p : Plan) (writes : List (Nat × Nat)) (zeros : List Nat) (eff : State → SplitOut) : Result :=
  match issueChecks s c p with
  | some (st, d) =>
    if st = stZeroExtent then { st := putWords s c (zeros.map fun k => (k, 0)), status := st } else reject s st d
  | none =>
    let wordIvs := zeros.map fun k => ((ctxOf s c).swBase + 4 * k, 4)
    runAfter s c p (readsOf s c p.recs) (writes ++ wordIvs) fun s =>
      let o := eff s
      let s1 := putWords (applyPuts s c o.puts) c o.words
      { st := { s1 with spl := o.gains.foldl (fun q g => perfAdd q g.1 g.2) s1.spl }
        status := o.status, flags := o.flags, detail := o.detail }

/-- Issue the head of a Face's Splitter queue. -/
def splitOp (c face : Nat) (aged : Bool) (opcode : Nat) (body : Body) (s : State) : State :=
  issueOp s c ucSplitter face aged (isOp opcode) body

/-! ### EROUTE (R280 to R284) -/

def erFunc (e : Nat) : Nat := par e 0 1
def erTopk (e : Nat) : Nat := par e 1 1
def erSpill (e : Nat) : Nat := par e 2 1
def erNorm (e : Nat) : Bool := bit (par e 3 1) 0
def erBias (e : Nat) : Bool := bit (par e 3 1) 1
def erStat (e : Nat) : Bool := bit (par e 3 1) 2
def erCap (e : Nat) : Nat := par e 4 4
def erScale (e : Nat) : FVal := val32 (par e 8 4)

/-- Does a record's SHAPE_REF setting equal another's (R280)? -/
def sameRef (a b : Desc) : Bool := a.shapeEn = b.shapeEn && a.swIndex = b.swIndex && a.swDim = b.swDim

/-- The plan of EROUTE (R280): a FUNC out of range is SPLIT_INVALID; a record whose enabling bit is 0 is neither checked nor touched (R277). -/
def eroutePlan (s : State) (c e : Nat) : Plan :=
  let x := envRec e 0
  let d := envRec e 2
  let ne := extAt x 0
  let two (r : Desc) (f : Nat) : Bool := r.fmtRaw = f && r.rank = 2
  splPlan s c e (([(0x43, bits (par e 3 1) 3 5 ≠ 0)] : List (Nat × Bool)) ++ parZero e 0xC 0x30)
    ([splIn e 0] ++ (if erBias e then [splIn e 1] else []) ++ [splOut e 2, splOut e 3, splOut e 4] ++ (if erStat e then [splOut e 5] else []))
    (2 < erFunc e || 2 < x.fmtRaw || x.layout ≠ 0 || x.rank ≠ 2 || !(1 ≤ ne && ne ≤ 1024) || !(1 ≤ extAt x 1 && extAt x 1 ≤ 262144) ||
      (x.shapeEn && x.swDim ≠ 1) ||
      (erBias e && !((envRec e 1).fmtRaw = 0 && (envRec e 1).rank = 1)) ||
      !two d 0x0D || extAt d 0 ≠ erCap e || extAt d 1 ≠ ne || d.shapeEn ||
      !two (envRec e 3) 0x0D || !two (envRec e 4) 0 ||
      [envRec e 3, envRec e 4].any (fun r => extAt r 0 ≠ erTopk e || extAt r 1 ≠ extAt x 1 || !sameRef r x) ||
      (erStat e && !two (envRec e 5) 0) ||
      !(1 ≤ erTopk e && erTopk e ≤ 8) || 8 < erSpill e || !(1 ≤ erCap e && erCap e ≤ 16384) ||
      !(0 < par e 8 4 && par e 8 4 < 0x7F800000) || 16 < erTopk e + erSpill e || ne < erTopk e + erSpill e ||
      countBad e ne false)
    ((if erBias e then [relDim s c (envRec e 1) 0 fun v => v = ne] else []) ++
     (if erStat e then [relDim s c (envRec e 5) 0 fun v => v = 2, relDim s c (envRec e 5) 1 fun v => v = ne] else []))

/-- Scores of one token's row (R281). -/
def routeScores (func : Nat) (scale : FVal) (row : List FVal) : List FVal :=
  let xs := row.map fun x => mul32f scale x
  match func with
  | 0 => let st := smRow xs; xs.map (smOut st)
  | 1 => xs.map sigmoid32
  | _ => xs

/-- Ranking: experts by descending key, ties to the lower number (R281). -/
def rankExperts (u : List FVal) (dr : Nat) : List Nat :=
  let before (a b : FVal × Nat) : Bool := ltX b.1 a.1 || (!ltX a.1 b.1 && a.2 ≤ b.2)
  ((u.zipIdx.mergeSort before).map (·.2)).take dr

/-- One token of EROUTE: its scores and its ranking, empty for a NaN token. -/
structure Token where
  scores : List FVal
  ranking : List Nat
  isNan : Bool
  deriving DecidableEq, Repr

/-- Examine experts from the pointer on (R282): the expert found with the tries made, and how many were examined. -/
def tryExperts (cap spill : Nat) (fill : List Nat) : List Nat → Nat → Nat → Option (Nat × Nat) × Nat
  | [], _, used => (none, used)
  | e :: r, tries, used =>
    if nth 0 fill e < cap then (some (e, tries), used + 1)
    else if spill < tries + 1 then (none, used + 1)
    else tryExperts cap spill fill r (tries + 1) (used + 1)

/-- The assignment's state (R282): fills, pointers, dispatched (expert, slot, token), choices (rank, token, slot, expert), residuals and spills. -/
structure Assign where
  fill : List Nat
  ptr : List Nat
  disp : List (Nat × Nat × Nat)
  slots : List (Nat × Nat × Nat × Nat)
  resid : Nat
  spilled : Nat
  deriving DecidableEq, Repr

/-- One choice of one token (R282). -/
def assignOne (cap spill : Nat) (toks : List Token) (r : Nat) (a : Assign) (t : Nat) : Assign :=
  let p := nth 0 a.ptr t
  let (found, used) := tryExperts cap spill a.fill ((nth ⟨[], [], true⟩ toks t).ranking.drop p) 0 0
  let a1 := { a with ptr := updAt a.ptr t (· + used) }
  match found with
  | none => { a1 with resid := a1.resid + 1 }
  | some (e, tries) =>
    let k := nth 0 a1.fill e
    { a1 with
      fill := updAt a1.fill e (· + 1), disp := a1.disp ++ [(e, k, t)], slots := a1.slots ++ [(r, t, e * cap + k, e)]
      spilled := if 0 < tries then a1.spilled + 1 else a1.spilled }

/-- The whole assignment, pass by pass (R282). -/
def assignAll (cap spill topk ne : Nat) (toks : List Token) : Assign :=
  (List.range topk).foldl (fun a r => (List.range toks.length).foldl (assignOne cap spill toks r) a)
    ⟨List.replicate ne 0, toks.map fun _ => 0, [], [], 0, 0⟩

/-- The gate of a token's expert (R283). -/
def gateOf (norm : Bool) (topk : Nat) (k : Token) (e : Nat) : FVal :=
  let sc := nth fzero k.scores e
  if !norm then sc
  else
    let sum := rsum ((k.ranking.take topk).map fun x => nth fzero k.scores x)
    if isZero sum then fzero else mul32f sc (rcp32 sum)

def erouteEff (s : State) (c e : Nat) : SplitOut :=
  let x := envRec e 0
  let ext := runExt s c x
  let ne := nth 1 ext 0
  let nt := nth 1 ext 1
  let row (t : Nat) : List FVal := (List.range ne).map fun k => valsOf s c x [k, t, 0, 0, 0, 0]
  let bias := (List.range ne).map fun k => valsOf s c (envRec e 1) [k, 0, 0, 0, 0, 0]
  let toks := (List.range nt).map fun t =>
    let sc := routeScores (erFunc e) (erScale e) (row t)
    let u := if erBias e then List.zipWith add32f sc bias else sc
    let bad := sc.any isNan || u.any isNan
    (⟨sc, if bad then [] else rankExperts u (erTopk e + erSpill e), bad⟩ : Token)
  let a := assignAll (erCap e) (erSpill e) (erTopk e) ne toks
  let find (r t : Nat) : Option (Nat × Nat × Nat × Nat) := a.slots.find? fun z => z.1 = r && z.2.1 = t
  let disp := rawPuts (envRec e 2) (planned (envRec e 2)) fun i =>
    ((a.disp.find? fun z => z.1 = nth 0 i 1 && z.2.1 = nth 0 i 0).map (·.2.2)).getD nullIdx
  let slot := rawPuts (envRec e 3) (runExt s c (envRec e 3)) fun i => ((find (nth 0 i 0) (nth 0 i 1)).map (·.2.2.1)).getD nullIdx
  let gate := rawPuts (envRec e 4) (runExt s c (envRec e 4)) fun i =>
    match find (nth 0 i 0) (nth 0 i 1) with
    | some z => bits32 (gateOf (erNorm e) (erTopk e) (nth ⟨[], [], true⟩ toks (nth 0 i 1)) z.2.2.2)
    | none => 0
  let stat := if !erStat e then [] else rawPuts (envRec e 5) (runExt s c (envRec e 5)) fun i =>
    if nth 0 i 0 = 0 then bits32 (fnat (nth 0 a.fill (nth 0 i 1)))
    else bits32 (rsum (toks.map fun k => if k.isNan then fzero else nth fzero k.scores (nth 0 i 1)))
  { puts := disp ++ slot ++ gate ++ stat
    words := if cbEn e then (a.fill ++ [a.resid]).zipIdx.map (fun p => (cbSw e + p.2, p.1)) else []
    flags := orFlags (readAll s c x) (if erBias e then readAll s c (envRec e 1) else {})
    detail := a.resid + a.spilled * 2 ^ 32
    gains := [(0, sumNat a.fill), (1, a.spilled), (2, a.resid)] }

/-- EROUTE at its unit. -/
def bodyEroute : Body := fun s c q =>
  let e := q.env
  let outs := [footprint (envRec e 2)] ++ ([3, 4] ++ (if erStat e then [5] else [])).map fun i => footAt (envRec e i) (runExt s c (envRec e i))
  let zeros := if cbEn e then (List.range (extAt (envRec e 0) 0 + 1)).map (cbSw e + ·) else []
  splRun s c (eroutePlan s c e) outs.flatten zeros fun s => erouteEff s c e

/-- EROUTE (R280). -/
def execEroute (c : Fin 8) (face : Fin 4) (aged : Bool) (s : State) : Host.Outcome State Fault Refusal :=
  .next (splitOp c face aged 0xA0 bodyEroute s)

/-! ### COMPACT (R286) -/

def cpInvert (e : Nat) : Bool := bit (par e 0 1) 0
def cpInv (e : Nat) : Bool := bit (par e 0 1) 1

/-- An index list: format 0x0D, rank 1. -/
def isIdxList (d : Desc) : Bool := d.fmtRaw = 0x0D && d.rank = 1

def compactPlan (s : State) (c e : Nat) : Plan :=
  let m := envRec e 0
  splPlan s c e (([(0x40, bits (par e 0 1) 2 6 ≠ 0)] : List (Nat × Bool)) ++ parZero e 1 0x30)
    ([splIn e 0, splOut e 1] ++ (if cpInv e then [splOut e 2] else []))
    (!(m.fmtRaw ≤ 4 || (0x0A ≤ m.fmtRaw && m.fmtRaw ≤ 0x0D)) || m.layout ≠ 0 || m.rank ≠ 1 ||
      !(1 ≤ extAt m 0 && extAt m 0 ≤ 16777216) || !isIdxList (envRec e 1) || extAt (envRec e 1) 0 < extAt m 0 ||
      (cpInv e && !isIdxList (envRec e 2)) || countBad e (cbSplit e) true)
    (if cpInv e then relsSame s c (envRec e 2) m else [])

def compactEff (s : State) (c e : Nat) : SplitOut :=
  let m := envRec e 0
  let n := nth 1 (runExt s c m) 0
  let kept := (List.range n).filter fun i => !isZero (valsOf s c m [i, 0, 0, 0, 0, 0]) != cpInvert e
  let list := rawPuts (envRec e 1) (planned (envRec e 1)) fun i => nth nullIdx kept (nth 0 i 0)
  let inv := if cpInv e then rawPuts (envRec e 2) (runExt s c (envRec e 2)) (fun i =>
    let k := kept.idxOf (nth 0 i 0)
    if k < kept.length then k else nullIdx) else []
  { puts := list ++ inv, words := splitWords e kept.length, flags := readAll s c m, gains := [(3, n), (4, kept.length)] }

/-- Count words of COMPACT and MGATE, in order. -/
def countIdx (e : Nat) : List Nat := if cbEn e then (List.range (1 + cbSplit e)).map (cbSw e + ·) else []

/-- COMPACT at its unit. -/
def bodyCompact : Body := fun s c q =>
  let e := q.env
  let outs := footprint (envRec e 1) ++ (if cpInv e then footAt (envRec e 2) (runExt s c (envRec e 2)) else [])
  splRun s c (compactPlan s c e) outs (countIdx e) fun s => compactEff s c e

/-- COMPACT (R286). -/
def execCompact (c : Fin 8) (face : Fin 4) (aged : Bool) (s : State) : Host.Outcome State Fault Refusal :=
  .next (splitOp c face aged 0xA1 bodyCompact s)

/-! ### MGATE (R287 to R289) -/

def mgPx (e : Nat) : Nat := par e 1 1
def mgPy (e : Nat) : Nat := par e 2 1
def mgPt (e : Nat) : Nat := par e 3 1
def mgQuorum (e : Nat) : Nat := par e 4 2
def mgThr (e : Nat) : Nat := par e 8 4
def mgMaxRun (e : Nat) : Nat := par e 0xC 1

/-- Is a block static (R287)? -/
def blockStatic (thr w : Nat) : Bool :=
  bit w 30 && !bit w 29 && !bit w 31 && (bit w 28 || (sext (bits w 0 14) 14).natAbs + (sext (bits w 14 14) 14).natAbs ≤ thr)

/-- Tokens of a motion map (R288). -/
def mgTokens (e : Nat) : Nat := extAt (envRec e 0) 0 / mgPx e * (extAt (envRec e 0) 1 / mgPy e) * (extAt (envRec e 0) 2 / mgPt e)

def mgatePlan (s : State) (c e : Nat) : Plan :=
  let m := envRec e 0
  let size (v : Nat) : Bool := 1 ≤ v && v ≤ 16
  splPlan s c e (([(0x40, par e 0 1 ≠ 0)] : List (Nat × Bool)) ++ parZero e 6 8 ++ parZero e 0xD 0x30)
    [splIn e 0, splOut e 1, splOut e 2]
    (!size (mgPx e) || !size (mgPy e) || !size (mgPt e) || mgQuorum e < 1 || mgPx e * mgPy e * mgPt e < mgQuorum e || mgMaxRun e < 1 ||
      m.fmtRaw ≠ 0x0D || m.rank ≠ 3 || m.shapeEn || extAt m 0 % mgPx e ≠ 0 || extAt m 1 % mgPy e ≠ 0 || extAt m 2 % mgPt e ≠ 0 ||
      16777216 < mgTokens e || !isIdxList (envRec e 1) || extAt (envRec e 1) 0 < mgTokens e || !isIdxList (envRec e 2) ||
      countBad e (cbSplit e) true)
    [relDim s c (envRec e 2) 0 fun v => v = mgTokens e]

/-- The classification's state (R288): run and source by position, active tokens, map. -/
structure Gate where
  run : List Nat
  src : List Nat
  act : List Nat
  map : List Nat
  deriving DecidableEq, Repr

def mgateEff (s : State) (c e : Nat) : SplitOut :=
  let m := envRec e 0
  let bx := extAt m 0
  let bY := extAt m 1
  let tx := bx / mgPx e
  let ty := bY / mgPy e
  let word (x y f : Nat) : Nat := elemRaw (rdCtx s c) m [x, y, f, 0, 0, 0]
  let statics (t : Nat) : Nat :=
    let cx := t % tx
    let cy := t / tx % ty
    let ct := t / (tx * ty)
    ((indices [mgPx e, mgPy e, mgPt e]).filter fun i =>
      blockStatic (mgThr e) (word (cx * mgPx e + nth 0 i 0) (cy * mgPy e + nth 0 i 1) (ct * mgPt e + nth 0 i 2))).length
  let g := (List.range (mgTokens e)).foldl (fun (g : Gate) t =>
    let p := t % (tx * ty)
    let still := decide (tx * ty ≤ t) && decide (mgQuorum e ≤ statics t) && decide (nth 0 g.run p < mgMaxRun e)
    if still then { g with run := updAt g.run p (· + 1), map := g.map ++ [nth 0 g.src p] }
    else
      let n := g.act.length
      { run := g.run.set p 0, src := g.src.set p n, act := g.act ++ [t], map := g.map ++ [n] })
    ⟨List.replicate (tx * ty) 0, List.replicate (tx * ty) 0, [], []⟩
  let words := (indices [bx, bY, extAt m 2]).map fun i => word (nth 0 i 0) (nth 0 i 1) (nth 0 i 2)
  let invalid := words.zipIdx.filter fun p => bit p.1 31
  let act := rawPuts (envRec e 1) (planned (envRec e 1)) fun i => nth nullIdx g.act (nth 0 i 0)
  let map := rawPuts (envRec e 2) (runExt s c (envRec e 2)) fun i => nth 0 g.map (nth 0 i 0)
  { puts := act ++ map, words := splitWords e g.act.length
    status := if invalid = [] then stOk else 0xA1
    detail := ((invalid.head?).map (·.2)).getD 0
    gains := [(5, mgTokens e), (6, mgTokens e - g.act.length), (7, invalid.length)] }

/-- MGATE at its unit. -/
def bodyMgate : Body := fun s c q =>
  let e := q.env
  splRun s c (mgatePlan s c e) (footprint (envRec e 1) ++ footAt (envRec e 2) (runExt s c (envRec e 2))) (countIdx e) fun s =>
    mgateEff s c e

/-- MGATE (R288). -/
def execMgate (c : Fin 8) (face : Fin 4) (aged : Bool) (s : State) : Host.Outcome State Fault Refusal :=
  .next (splitOp c face aged 0xA2 bodyMgate s)

/-! ### Registers (R291) -/

/-- SPL_PERF_CLEAR (R291): SPL_PERF_CTL is written with CLEAR 1 and the given FREEZE. -/
def execSplPerfClear (freeze : Bool) (s : State) : Host.Outcome State Fault Refusal :=
  if barOn s then .next { s with spl := { perfClear s.spl with freeze := freeze } } else .next s

end Sys2Proof.Machine
end

