-- ==== Sys2Proof/Machine/Venc.lean ====
section
/-! DEFINITION. VENC (R362 to R367): its input stage, the structure and rate of its stream, its motion search, and the operation. -/

namespace Sys2Proof.Machine

/-! ### VENC's input stage (R363) -/

/-- Coefficients c[f][−3..4] of the 8-tap filter, phases 0 to 15 (R363). -/
def sincRows0 : List (List Int) := [
  [0, 0, 0, 128, 0, 0, 0, 0],
  [0, 1, -2, 128, 2, -1, 0, 0],
  [0, 1, -3, 127, 4, -1, 0, 0],
  [-1, 2, -5, 127, 6, -2, 1, 0],
  [-1, 2, -7, 128, 8, -3, 1, 0],
  [-1, 3, -8, 126, 10, -3, 1, 0],
  [-1, 3, -10, 127, 12, -4, 1, 0],
  [-1, 4, -11, 125, 14, -5, 2, 0],
  [-1, 4, -12, 125, 16, -6, 2, 0],
  [-1, 5, -13, 122, 19, -6, 2, 0],
  [-2, 5, -14, 123, 21, -7, 2, 0],
  [-2, 6, -15, 120, 24, -8, 3, 0],
  [-2, 6, -16, 120, 26, -9, 3, 0],
  [-2, 6, -17, 119, 28, -9, 3, 0],
  [-2, 7, -18, 117, 31, -10, 3, 0],
  [-2, 7, -19, 115, 34, -11, 4, 0]]

/-- Coefficients c[f][−3..4] of the 8-tap filter, phases 16 to 31 (R363). -/
def sincRows1 : List (List Int) := [
  [-2, 7, -19, 115, 36, -12, 4, -1],
  [-2, 7, -20, 113, 39, -12, 4, -1],
  [-2, 8, -21, 111, 41, -13, 5, -1],
  [-2, 8, -21, 109, 44, -14, 5, -1],
  [-2, 8, -21, 107, 47, -15, 5, -1],
  [-2, 8, -22, 105, 50, -15, 5, -1],
  [-2, 8, -22, 103, 52, -16, 6, -1],
  [-2, 8, -22, 101, 55, -17, 6, -1],
  [-2, 8, -22, 98, 58, -17, 6, -1],
  [-2, 8, -22, 97, 60, -18, 6, -1],
  [-2, 8, -22, 94, 63, -19, 7, -1],
  [-2, 8, -22, 91, 66, -19, 7, -1],
  [-2, 8, -22, 89, 69, -20, 7, -1],
  [-2, 8, -22, 87, 71, -20, 7, -1],
  [-2, 8, -22, 84, 74, -20, 7, -1],
  [-2, 8, -22, 82, 77, -21, 8, -2]]

/-- Coefficients c[f][−3..4] of the 8-tap filter, phases 32 to 47 (R363). -/
def sincRows2 : List (List Int) := [
  [-2, 8, -21, 79, 79, -21, 8, -2],
  [-2, 8, -21, 77, 82, -22, 8, -2],
  [-1, 7, -20, 74, 84, -22, 8, -2],
  [-1, 7, -20, 71, 87, -22, 8, -2],
  [-1, 7, -20, 69, 89, -22, 8, -2],
  [-1, 7, -19, 66, 91, -22, 8, -2],
  [-1, 7, -19, 63, 94, -22, 8, -2],
  [-1, 6, -18, 60, 97, -22, 8, -2],
  [-1, 6, -17, 58, 98, -22, 8, -2],
  [-1, 6, -17, 55, 101, -22, 8, -2],
  [-1, 6, -16, 52, 103, -22, 8, -2],
  [-1, 5, -15, 50, 105, -22, 8, -2],
  [-1, 5, -15, 47, 107, -21, 8, -2],
  [-1, 5, -14, 44, 109, -21, 8, -2],
  [-1, 5, -13, 41, 111, -21, 8, -2],
  [-1, 4, -12, 39, 113, -20, 7, -2]]

/-- Coefficients c[f][−3..4] of the 8-tap filter, phases 48 to 63 (R363). -/
def sincRows3 : List (List Int) := [
  [-1, 4, -12, 36, 115, -19, 7, -2],
  [0, 4, -11, 34, 115, -19, 7, -2],
  [0, 3, -10, 31, 117, -18, 7, -2],
  [0, 3, -9, 28, 119, -17, 6, -2],
  [0, 3, -9, 26, 120, -16, 6, -2],
  [0, 3, -8, 24, 120, -15, 6, -2],
  [0, 2, -7, 21, 123, -14, 5, -2],
  [0, 2, -6, 19, 122, -13, 5, -1],
  [0, 2, -6, 16, 125, -12, 4, -1],
  [0, 2, -5, 14, 125, -11, 4, -1],
  [0, 1, -4, 12, 127, -10, 3, -1],
  [0, 1, -3, 10, 126, -8, 3, -1],
  [0, 1, -3, 8, 128, -7, 2, -1],
  [0, 1, -2, 6, 127, -5, 2, -1],
  [0, 0, -1, 4, 127, -3, 1, 0],
  [0, 0, -1, 2, 128, -2, 1, 0]]

/-- Filter coefficients of a phase (R363). -/
def sincRow (f : Nat) : List Int := nth [] (sincRows0 ++ sincRows1 ++ sincRows2 ++ sincRows3) f

/-- One output position along an axis: the first tap's centre and the phase (R363). -/
def tapAt (o wIn wOut : Nat) : Int × Nat :=
  let s := Int.fdiv (((2 * o + 1) * wIn * 64 : Nat) - (wOut * 64 : Nat) : Int) (2 * wOut)
  (Int.fdiv s 64, (Int.emod s 64).toNat)

/-- Eight taps over a line of integers. -/
def tapSum (p : Nat → Int) (o wIn wOut : Nat) : Int :=
  let (x0, f) := tapAt o wIn wOut
  ((sincRow f).zipIdx.map fun q => q.1 * p (clampIdx (x0 + (q.2 : Int) - 3) wIn)).foldl (· + ·) 0

/-- Scale one plane of codes to OUT_W × OUT_H (R363). -/
def encScale (depth : Nat) (i : Img) (ow oh : Nat) : Img :=
  let a := transpose (halveX oh 16 (transpose (halveX ow 16 i)))
  let hx (o y : Nat) : Int := tapSum (fun x => (a.px x y : Int)) o a.w ow
  ⟨ow, oh, fun x y =>
    (max 0 (min (((2 : Int) ^ depth) - 1) (Int.fdiv (tapSum (fun r => hx x r) y a.h oh + 8192) 16384))).toNat⟩

def veRgb (e : Nat) : Bool := bit (par e 0 1) 0
def veMot (e : Nat) : Bool := bit (par e 0 1) 1
def veWpp (e : Nat) : Bool := bit (par e 0 1) 2
def veCodec (e : Nat) : Nat := par e 1 1
def veDepth (e : Nat) : Nat := par e 2 1
def veW (e : Nat) : Nat := par e 4 2
def veH (e : Nat) : Nat := par e 6 2
def veRot (e : Nat) : Nat := bits (par e 8 1) 0 2
def veMirror (e : Nat) : Bool := bit (par e 8 1) 2
def veGop (e : Nat) : Nat := par e 0xB 1
def veMatrix (e : Nat) : Nat := bits (par e 0xF 1) 0 2
def veFull (e : Nat) : Bool := bit (par e 0xF 1) 2
def veSw (e : Nat) : Nat := par e 0x1C 2

/-- The code of an input sample: a NaN becomes 0 (R363). -/
def inputCode (depth : Nat) (v : FVal) (pixel : Bool) : Nat :=
  if pixel then (rintX v).toNat
  else if isNan v then 0
  else (rintX (mulX (maxX fzero (minX v fone)) (fnat (2 ^ depth - 1)))).toNat

/-- Code of one RGB channel's luma or chroma (R363). -/
def rgbCode (e plane : Nat) (rc gc bc : Nat) : Nat :=
  let d := veDepth e
  let (kr, kb) := krKb (veMatrix e)
  let k := yccConst (veMatrix e) (veFull e) d
  let inv := dec32 1 (2 ^ d - 1)
  let unit (x : Nat) : FVal := mul32f (fnat x) inv
  let ten (x : Nat) : FVal := dec32 x 10000
  let r := unit rc
  let b := unit bc
  let y := fma32f (ten kb) b (fma32f (ten (10000 - kr - kb)) (unit gc) (mul32f (ten kr) r))
  let cb := mul32f (sub32f b y) (dec32 10000 (2 * (10000 - kb)))
  let cr := mul32f (sub32f r y) (dec32 10000 (2 * (10000 - kr)))
  let ySc := if veFull e then fnat (2 ^ d - 1) else fnat (219 * 2 ^ (d - 8))
  let cSc := if veFull e then fnat (2 ^ d - 1) else fnat (224 * 2 ^ (d - 8))
  let v := if plane = 0 then fma32f y ySc k.yOff else fma32f (if plane = 1 then cb else cr) cSc k.cOff
  (max 0 (min ((2 : Int) ^ d - 1) (rintX v))).toNat

/-- One plane of codes of an input frame of its run-time extents, before rotation (R40, R363). -/
def inputPlane (s : State) (c e frame plane : Nat) : Img :=
  let a := envRec e 0
  let b := envRec e 1
  let d := veDepth e
  let px (r : Desc) (i : List Nat) : Nat := inputCode d (valsOf s c r i) (r.fmtRaw = 0x0C)
  let ext := runExt s c a
  if veRgb e then
    let w := nth 1 ext 1
    let h := nth 1 ext 2
    let full (p x y : Nat) : Nat :=
      rgbCode e p (px a [0, x, y, frame, 0, 0]) (px a [1, x, y, frame, 0, 0]) (px a [2, x, y, frame, 0, 0])
    if plane = 0 then ⟨w, h, full 0⟩
    else ⟨w / 2, h / 2, fun x y =>
      (full plane (2 * x) (2 * y) + full plane (2 * x + 1) (2 * y) + full plane (2 * x) (2 * y + 1) + full plane (2 * x + 1) (2 * y + 1) + 2) / 4⟩
  else if plane = 0 then ⟨nth 1 ext 0, nth 1 ext 1, fun x y => px a [x, y, frame, 0, 0, 0]⟩
  else ⟨nth 1 ext 0 / 2, nth 1 ext 1 / 2, fun x y => px b [plane - 1, x, y, frame, 0, 0]⟩

/-- One plane of codes as the encoder receives it. -/
def encPlane (s : State) (c e frame plane : Nat) : Img :=
  let i := rotImg (inputPlane s c e frame plane) (veRot e) (veMirror e)
  encScale (veDepth e) i (if plane = 0 then veW e else veW e / 2) (if plane = 0 then veH e else veH e / 2)

/-- Every code the encoder receives, frame by frame and plane by plane. -/
def encCodes (s : State) (c e frames : Nat) : List Nat :=
  (List.range frames).flatMap fun n => (List.range 3).flatMap fun p =>
    let i := encPlane s c e n p
    (indices [i.w, i.h]).map fun x => i.px (nth 0 x 0) (nth 0 x 1)

/-! ### Structure and rate of the stream (R364) -/

def veTiles (e : Nat) : Nat := par e 9 1 * par e 0xA 1
def veIntra (e : Nat) : Nat := max 1 (par e 0xC 2)
def veSizeTarget (e : Nat) : Bool := par e 0xE 1 = 1
def veTarget (e : Nat) : Nat := par e 0x18 4

/-- Pictures strictly between two coded ones in decode order: the middle one, then each half (R364). -/
def dyadic : Nat → Nat → Nat → List Nat
  | 0, _, _ => []
  | fuel + 1, a, b =>
    if b ≤ a + 1 then []
    else
      let m := (a + b) / 2
      m :: (dyadic fuel a m ++ dyadic fuel m b)

/-- Pictures after an anchor up to the last of its stretch: the next anchor GOP + 1 on, or the last, and then what lies between (R364). -/
def anchorsFrom (gop last : Nat) : Nat → Nat → List Nat
  | 0, _ => []
  | fuel + 1, a =>
    if last ≤ a then []
    else
      let b := min (a + gop + 1) last
      b :: (dyadic 8 a b ++ anchorsFrom gop last fuel b)

/-- The stretch of an intra period, in decode order: its IDR picture first. -/
def stretchOrder (gop first last : Nat) : List Nat := first :: anchorsFrom gop last (last - first) first

/-- Display indices of a stream's pictures in decode order (R364). -/
def decodeOrder (e frames : Nat) : List Nat :=
  (List.range (cdiv frames (veIntra e))).flatMap fun p =>
    stretchOrder (veGop e) (p * veIntra e) (min frames ((p + 1) * veIntra e) - 1)

/-- Picture types: 0 an IDR picture or key frame, 1 an anchor that refers forward, 2 a B picture (R364). -/
def picType (e frames n : Nat) : Nat :=
  let first := n / veIntra e * veIntra e
  if n = first then 0
  else if (n - first) % (veGop e + 1) = 0 || n + 1 = min frames (first + veIntra e) then 1 else 2

/-- The pictures that a picture may refer to (R364): with GOP 0 up to 4 previous ones of its intra period; an anchor the anchor before it; a B picture the coded pictures on both sides of it in its group. -/
def picRefs (e frames n : Nat) : List Nat :=
  let first := n / veIntra e * veIntra e
  let last := min frames (first + veIntra e) - 1
  let g := veGop e + 1
  match picType e frames n with
  | 0 => []
  | 1 => if veGop e = 0 then ((List.range 4).map fun k => n - 1 - k).filter (fun m => first ≤ m) |>.eraseDups else [first + (n - first - 1) / g * g]
  | _ =>
    let a := first + (n - first) / g * g
    let b := min (a + g) last
    let before := a :: (dyadic 8 a b).takeWhile (· ≠ n) ++ [b]
    let below := (before.filter (· < n)).foldl max a
    let above := (before.filter (n < ·)).foldl min b
    [below, above]

/-- A picture as it is coded: display index, type, QP, and the display indices it may refer to. -/
structure EncPic where
  disp : Nat
  kind : Nat
  qp : Nat
  refs : List Nat

/-- As the encoder's functions take it. -/
def EncPic.key (p : EncPic) : List Nat := [p.disp, p.kind, p.qp] ++ p.refs

/-- The highest QP of a codec (R362). -/
def qpTop (e : Nat) : Nat := if veCodec e = 0 then 51 else 255

/-- The QP of a type after a picture of `len` bytes (R364): under RC 1 it rises by 1 above 1.25 × TARGET_BYTES and falls by 1 below 0.8 × TARGET_BYTES, within its range. -/
def qpAfter (e qp len : Nat) : Nat :=
  if !veSizeTarget e then qp
  else if 5 * veTarget e < 4 * len then min (qpTop e) (qp + 1)
  else if 5 * len < 4 * veTarget e then qp - 1
  else qp

/-- The pictures of a stream in decode order with their QPs; each type starts at its given QP (R364). -/
def encPictures (e frames : Nat) (len : EncPic → Nat) : List EncPic :=
  ((decodeOrder e frames).foldl (fun (a : List EncPic × List Nat) n =>
    let k := picType e frames n
    let p : EncPic := ⟨n, k, nth 0 a.2 k, picRefs e frames n⟩
    (a.1 ++ [p], updAt a.2 k fun q => qpAfter e q (len p))) ([], [par e 0x10 2, par e 0x12 2, par e 0x14 2])).1

/-! ### Motion search (R365) -/

/-- What the search of one block reads: the luma plane and the reference's, both at one pyramid level, the block, and the cost of a vector's bits. -/
structure SearchBlock where
  cur : Img
  ref : Int → Int → Nat
  x : Nat
  y : Nat
  w : Nat
  h : Nat
  bits : Int × Int → Nat

/-- Sum of absolute differences plus the estimated bits (R365): a vector in units of 1/u of the level's samples. -/
def searchCost (b : SearchBlock) (u : Nat) (v : Int × Int) : Nat :=
  sumNat ((indices [min b.w (b.cur.w - b.x), min b.h (b.cur.h - b.y)]).map fun i =>
    let x := b.x + nth 0 i 0
    let y := b.y + nth 0 i 1
    ((b.cur.px x y : Int) - (b.ref (u * x + v.1) (u * y + v.2) : Int)).natAbs) + b.bits v

/-- The first candidate of least cost. -/
def searchBest (b : SearchBlock) (u : Nat) (l : List (Int × Int)) : Int × Int :=
  match l with
  | [] => (0, 0)
  | a :: r => r.foldl (fun m v => if searchCost b u v < searchCost b u m then v else m) a

/-- The vectors of a square about one: from −n to n in steps. -/
def searchSquare (v : Int × Int) (n step : Nat) : List (Int × Int) :=
  let side := (List.range (2 * n / step + 1)).map fun k => ((k * step : Nat) : Int) - n
  side.flatMap fun y => side.map fun x => (v.1 + x, v.2 + y)

/-- Twice a vector. -/
def twice (v : Int × Int) : Int × Int := (2 * v.1, 2 * v.2)

/-- The 1/4 level (R365): every 4th position within ±256, the zero and the co-located vector, then ±3 about the best. -/
def searchQuarter (b : SearchBlock) (coloc : Int × Int) : Int × Int :=
  searchBest b 1 (searchSquare (searchBest b 1 ((0, 0) :: coloc :: searchSquare (0, 0) 256 4)) 3 1)

/-- The 1/2 level (R365): ±8 about twice the level above's best, and the spatial neighbours' vectors. -/
def searchHalf (b : SearchBlock) (above : Int × Int) (near : List (Int × Int)) : Int × Int :=
  searchBest b 1 (searchSquare (twice above) 8 1 ++ near)

/-- A vector in quarter samples held to the range at full resolution, ±1,024 samples (R365). -/
def holdRange (v : Int × Int) : Int × Int := (max (-4096) (min 4096 v.1), max (-4096) (min 4096 v.2))

/-- Full resolution (R365): ±4 samples about twice the level above's best and the standard's predicted vectors, then half and quarter samples, in quarter samples: no eighth-sample vector is used. -/
def searchFull (b : SearchBlock) (above : Int × Int) (predicted : List (Int × Int)) : Int × Int :=
  let whole := (searchSquare (twice above) 4 1).map fun v => (4 * v.1, 4 * v.2)
  let a := searchBest b 4 ((whole ++ predicted).map holdRange)
  let half := searchBest b 4 ((searchSquare a 2 2).map holdRange)
  searchBest b 4 ((searchSquare half 1 1).map holdRange)

/-- What an encode session's search is run on: firmware version, parameters, codes, and the luma plane of each input frame. -/
structure EncSession where
  e : Nat
  fw : Nat
  ps : Nat
  codes : List Nat
  luma : Nat → Img
  pics : List EncPic

/-- The luma that the search of a picture refers to, at a pyramid level (R365). -/
def refLevel (z : EncSession) (r l : Nat) : Img :=
  levelImg ⟨veW z.e, veH z.e, fun x y => Config.encodedReference z.fw z.ps z.codes r (4 * x) (4 * y)⟩ l

/-- A block of a pyramid level. -/
def searchBlock (z : EncSession) (p : EncPic) (r l x y w h : Nat) : SearchBlock :=
  let ref := refLevel z r l
  { cur := levelImg (z.luma p.disp) l, x := x, y := y, w := w, h := h
    ref := fun a b => ref.px (clampIdx a ref.w) (clampIdx b ref.h)
    bits := fun v => Config.vectorBits z.fw (veCodec z.e) p.qp (v.1 * 4 * (2 : Int) ^ l) (v.2 * 4 * (2 : Int) ^ l) }

/-- The 1/4-level vector of a 16 × 16 block, for the coded picture that `k` others precede; its co-located candidate is the previous coded picture's (R365). -/
def quarterVector (z : EncSession) (r bx bY : Nat) : Nat → Int × Int
  | 0 => (0, 0)
  | k + 1 =>
    match z.pics[k]? with
    | none => (0, 0)
    | some p =>
      if p.kind = 0 then (0, 0)
      else searchQuarter (searchBlock z p r 2 (16 * bx) (16 * bY) 16 16) (quarterVector z (nth 0 ((z.pics[k - 1]?.map (·.refs)).getD []) 0) bx bY k)

/-- The 1/2-level vectors of a picture's 16 × 16 blocks in raster order: each has its left, upper-left, upper and upper-right neighbours' vectors as candidates (R365). -/
def halfVectors (z : EncSession) (p : EncPic) (k r : Nat) : List (Int × Int) :=
  let cols := cdiv (cdiv (veW z.e) 2) 16
  let rows := cdiv (cdiv (veH z.e) 2) 16
  (List.range (cols * rows)).foldl (fun done n =>
    let bx := n % cols
    let bY := n / cols
    let near := (if bx = 0 then [] else [n - 1]) ++
      (if bY = 0 then [] else (if bx = 0 then [] else [n - cols - 1]) ++ [n - cols] ++ if bx + 1 = cols then [] else [n - cols + 1])
    done ++ [searchHalf (searchBlock z p r 1 (16 * bx) (16 * bY) 16 16) (quarterVector z r (bx / 2) (bY / 2) (k + 1)) (near.map fun m => nth (0, 0) done m)]) []

/-- The vector of a partition of the k-th coded picture, in quarter samples (R365). -/
def partitionVector (z : EncSession) (p : EncPic) (k r x y w h : Nat) : Int × Int :=
  let cols := cdiv (cdiv (veW z.e) 2) 16
  let above := nth (0, 0) (halfVectors z p k r) (y / 32 * cols + x / 32)
  let ref (a b : Int) : Nat := Config.encodedReference z.fw z.ps z.codes r a b
  searchFull { searchBlock z p r 0 x y w h with ref := ref, bits := fun v => Config.vectorBits z.fw (veCodec z.e) p.qp v.1 v.2 } above
    (Config.predictedVectors z.fw z.ps z.codes p.key x y)

/-- The unit that an encode session chose for the block at (bx, by): the standard's choices are the encoder's own, its vector is the search's (R356, R365). -/
def encodedBlock (z : EncSession) (k : Nat) (p : EncPic) (bx bY : Nat) : CodedUnit :=
  let item (n : Nat) : Nat := Config.encodedUnit z.fw z.ps z.codes p.key (8 * bx) (8 * bY) n
  let u := codedUnit false item
  let r := item 24
  let v := partitionVector z p k r (item 20) (item 21) (item 22) (item 23)
  { u with mvx := v.1, mvy := v.2, dist := max 1 (max p.disp r - min p.disp r), intraOnly := p.kind = 0 || u.intraOnly }

/-! ### VENC (R362 to R367) -/

/-- Records of VENC (R362). -/
def veRecs (e : Nat) : List Rec :=
  [inRec e 0 deviceRegions] ++ (if veRgb e then [] else [inRec e 1 deviceRegions]) ++ [outRec e 2 storeRegions] ++
  (if veMot e then [outRec e 3 deviceRegions] else []) ++ [outRec e 4 deviceRegions, outRec e 5 [.near]]

/-- Frames, planned. -/
def veFrames (e : Nat) : Nat := if veRgb e then extAt (envRec e 0) 3 else extAt (envRec e 0) 2
/-- Frames at run time. -/
def veRunFrames (s : State) (c e : Nat) : Nat := nth 1 (runExt s c (envRec e 0)) (if veRgb e then 3 else 2)

/-- A chroma dimension of half a luma dimension, planned and at run time (R362). -/
def relHalf (s : State) (c : Nat) (a b : Desc) (ka kb : Nat) : Rel :=
  { dyn := (a.shapeEn && a.swDim = ka) || (b.shapeEn && b.swDim = kb)
    plan := 2 * extAt a ka = extAt b kb
    run := 2 * nth 1 (runExt s c a) ka = nth 1 (runExt s c b) kb }

def vencPlan (s : State) (c e : Nat) : Plan :=
  let a := envRec e 0
  let b := envRec e 1
  let m := envRec e 3
  let depth := veDepth e
  let size (v : Nat) : Bool := v % 2 = 0 && 16 ≤ v && v ≤ 8192
  let even (v : Nat) : Bool := decide (v % 2 = 0)
  let inFmt (d : Desc) : Bool := (d.fmtRaw = 0x0C && depth = 8) || d.fmtRaw ≤ 2
  let tile (v : Nat) : Bool := 1 ≤ v && v ≤ 4
  let qpMax := if veCodec e = 0 then 51 else 255
  let fd := if veRgb e then 3 else 2
  let need := cdiv (veW e * veH e * 3) 2 * (if depth = 10 then 2 else 1) * 6
  { reserved := ([(0x40, bits (par e 0 1) 3 5 ≠ 0), (0x48, bits (par e 8 1) 3 5 ≠ 0), (0x4F, bits (par e 0xF 1) 3 5 ≠ 0)] :
        List (Nat × Bool)) ++ parZero e 0x16 0x18 ++ ([(0x5D, bits (veSw e) 12 3 ≠ 0)] : List (Nat × Bool)) ++ parZero e 0x1E 0x40
    recs := veRecs e, invalid := stVcc
    broken := 1 < veCodec e || !(depth = 8 || depth = 10) || !(1 ≤ par e 3 1 && par e 3 1 ≤ 4) || !size (veW e) || !size (veH e) ||
      !tile (par e 9 1) || !tile (par e 0xA 1) || !(veGop e = 0 || veGop e = 1 || veGop e = 3 || veGop e = 7) || (veCodec e = 1 && veGop e ≠ 0) ||
      !(1 ≤ par e 0xC 2 && par e 0xC 2 ≤ 1024) || 1 < par e 0xE 1 || 2 < veMatrix e ||
      qpMax < par e 0x10 2 || qpMax < par e 0x12 2 || qpMax < par e 0x14 2 || (veGop e = 0 && par e 0x14 2 ≠ 0) ||
      (par e 0xE 1 = 0 && par e 0x18 4 ≠ 0) || (veWpp e && (veCodec e ≠ 0 || par e 9 1 ≠ 1 || par e 0xA 1 ≠ 1)) ||
      cdiv (veW e) 64 * cdiv (veH e) 64 < veTiles e ||
      !rawRec a (inFmt a) (if veRgb e then 4 else 3) || (if veRgb e then b.raw ≠ 0 else !rawRec b (inFmt b) 4) ||
      !rawRec (envRec e 2) ((envRec e 2).fmtRaw = 0x0C) 1 || (veMot e && !rawRec m (m.fmtRaw = 0x0D) 3) ||
      !rawRec (envRec e 4) ((envRec e 4).fmtRaw = 0x0D) 1 || !rawRec (envRec e 5) ((envRec e 5).fmtRaw = 0x0C) 1
    rels := (if veRgb e then [relDim s c a 0 fun v => v = 3, relDim s c a 1 even, relDim s c a 2 even]
        else [relDim s c a 0 even, relDim s c a 1 even, relDim s c b 0 fun v => v = 2, relHalf s c b a 1 0,
          relHalf s c b a 2 1, relEq s c b a 3 2]) ++
      (if veMot e then [relDim s c m 0 fun v => v = cdiv (veW e) 8, relDim s c m 1 fun v => v = cdiv (veH e) 8, relEq s c m a 2 fd] else []) ++
      [relDim s c (envRec e 4) 0 fun v => v = 16]
    between := if extAt (envRec e 5) 0 < need then some (0xD3, need) else none
    zeroExt := (veRecs e).map fun r => runExt s c r.d }

/-- The parameters that an encoded stream depends on: all but CORES and COUNT_SW (R366). -/
def encParams (e frames : Nat) : Nat := setFld (setFld (envParam e) 3 1 0) 0x1C 2 0 + frames * 2 ^ 512

/-- The encode session of an operation. -/
def encSession (s : State) (c e : Nat) : EncSession :=
  let frames := veRunFrames s c e
  let codes := encCodes s c e frames
  let ps := encParams e frames
  let fw := s.vcc.version
  ⟨e, fw, ps, codes, fun n => encPlane s c e n 0, encPictures e frames fun p => Config.encodedLength fw ps codes p.key⟩

/-- What the parameter sets or the sequence header describe, the colour that MATRIX signals among it (R364). -/
def setsKey (e : Nat) : List Nat :=
  [veCodec e, veW e, veH e, veDepth e, veMatrix e, b2n (veFull e), par e 9 1, par e 0xA 1, b2n (veWpp e)]

/-- The bytes of one picture in its container (R364): before a random access picture the parameter sets or the sequence header; in IVF, all of it behind one frame header of its length and display index. -/
def picBytes (z : EncSession) (p : EncPic) : Nat × Nat :=
  let own := Config.encodedLength z.fw z.ps z.codes p.key
  let sets := if p.kind = 0 then Config.encodedSetsLength z.fw (setsKey z.e) else 0
  let body := (if p.kind = 0 then Config.encodedSets z.fw (setsKey z.e) % 2 ^ (8 * sets) else 0) +
    Config.encodedPicture z.fw z.ps z.codes p.key % 2 ^ (8 * own) * 2 ^ (8 * sets)
  if veCodec z.e = 1 then (packBits [(sets + own, 32), (p.disp, 64)] + body * 2 ^ 96, sets + own + 12) else (body, sets + own)

/-- The pictures of a stream that fit whole in a capacity, with their bytes, in decode order (R367). -/
def fitPictures (z : EncSession) (cap : Nat) : List EncPic → Nat → List (EncPic × Nat × Nat)
  | [], _ => []
  | p :: r, used =>
    let b := picBytes z p
    if used + b.2 ≤ cap then (p, b) :: fitPictures z cap r (used + b.2) else []

/-- Pictures that an encoder's units divide into (R353). -/
def vencUnits (e : Nat) : Nat := if veWpp e then cdiv (veH e) 64 else veTiles e

/-- The pictures of a VENC as its session will encode them (R352, R353). -/
def vencProgress (e : Nat) (done : List (EncPic × Nat × Nat)) : VccProgress :=
  ⟨done.length, true, par e 3 1, vencUnits e, cdiv (veW e) 64, divCode (if veWpp e then .rows else if 1 < veTiles e then .tiles else .whole),
    veW e * veH e, done.map (·.2.2)⟩

/-- The pictures that fit in DST (R367), after the file header of an IVF stream. -/
def vencDone (s : State) (c e : Nat) : List (EncPic × Nat × Nat) :=
  let z := encSession s c e
  fitPictures z (nth 1 (runExt s c (envRec e 2)) 0) z.pics (if veCodec e = 1 then 32 else 0)

/-- VENC whose checks pass. -/
def vencEff (s : State) (c e : Nat) : Result :=
  let z := encSession s c e
  let done := vencDone s c e
  let cap := nth 1 (runExt s c (envRec e 2)) 0
  let dst := (envRec e 2).base
  let head := if veCodec e = 1 then min 32 cap else 0
  let s1 := if head = 0 then s else wrNum s c dst (setFld (Config.encodedHeader z.fw z.ps) 24 4 done.length) head
  let (s2, used) := done.foldl (fun (p : State × Nat) d => (wrNum p.1 c (dst + p.2) d.2.1 d.2.2, p.2 + d.2.2)) (s1, head)
  let dm := envRec e 3
  let mot := if !veMot e then [] else rawPuts dm (runExt s c dm) fun i =>
    match (done.zipIdx).find? fun d => d.1.1.disp = nth 0 i 2 with
    | some d => motionWord (unitWord (encodedBlock z d.2 d.1.1 (nth 0 i 0) (nth 0 i 1))) 0 false
    | none => 0
  let info := infoPuts (envRec e 4) [veW e, veH e, veDepth e, veMatrix e + 4 * b2n (veFull e) + 8, 0, done.length, 0, 0xFFFFFFFF, used,
    z.fw, 0, veRot e + 4 * b2n (veMirror e)]
  let s3 := putCount (applyPuts s2 c (mot ++ info)) c (veSw e) used
  let nan := (veRecs e).any fun r => r.isIn && (readAll s c r.d).nanIn
  { st := vccAdd s3 3 head, status := if done.length < veRunFrames s c e then 0xD4 else stOk, flags := { nanIn := nan } }

/-- The bytes that a VENC writes: of DST only those of the stream (R367). -/
def vencWrites (s : State) (c e : Nat) : List (Nat × Nat) :=
  let used := (if veCodec e = 1 then min 32 (nth 1 (runExt s c (envRec e 2)) 0) else 0) + sumNat ((vencDone s c e).map (·.2.2))
  writesOf s c ((veRecs e).filter fun x => x.idx ≠ 2 && x.idx ≠ 5) ++ (if used = 0 then [] else [((envRec e 2).base, used)])

/-- VENC at its unit. -/
def bodyVenc : Body := fun s c q =>
  let e := q.env
  let p := vencPlan s c e
  match issueChecks s c p with
  | some (st, d) => reject s st d
  | none =>
    let r := runAfter s c p (readsOf s c p.recs) (vencWrites s c e) fun s => vencEff s c e
    if r.status = stMemFault then r else inPictures c q (vencProgress e (vencDone s c e)) r

/-- VENC (R362). -/
def execVenc (c : Fin 8) (aged : Bool) (s : State) : Host.Outcome State Fault Refusal :=
  .next (vccOp c aged 0xD1 bodyVenc s)

end Sys2Proof.Machine
end

