-- ==== Sys2Proof/Machine/Dispatch.lean ====
section
/-! DEFINITION. One arm per command: a direct call of its meaning. -/

namespace Sys2Proof.Machine

def exec (i : Instr) (s : State) : Host.Outcome State Fault Refusal :=
  match i with
  | .nop c => Sys2Proof.Machine.execNop c s
  | .stepAdvance c => Sys2Proof.Machine.execStepAdvance c s
  | .tallySet c => Sys2Proof.Machine.execTallySet c s
  | .shapeSet c => Sys2Proof.Machine.execShapeSet c s
  | .qmm c aged => Sys2Proof.Machine.execQmm c aged s
  | .qmmBatch c aged => Sys2Proof.Machine.execQmmBatch c aged s
  | .qdrain c aged => Sys2Proof.Machine.execQdrain c aged s
  | .qfill c aged => Sys2Proof.Machine.execQfill c aged s
  | .qzero c aged => Sys2Proof.Machine.execQzero c aged s
  | .cmv c aged => Sys2Proof.Machine.execCmv c aged s
  | .ew c face aged => Sys2Proof.Machine.execEw c face aged s
  | .act c face aged => Sys2Proof.Machine.execAct c face aged s
  | .actBwd c face aged => Sys2Proof.Machine.execActBwd c face aged s
  | .norm c face aged => Sys2Proof.Machine.execNorm c face aged s
  | .normBwd c face aged => Sys2Proof.Machine.execNormBwd c face aged s
  | .smx c face aged => Sys2Proof.Machine.execSmx c face aged s
  | .smxBwd c face aged => Sys2Proof.Machine.execSmxBwd c face aged s
  | .smxMerge c face aged => Sys2Proof.Machine.execSmxMerge c face aged s
  | .red c face aged => Sys2Proof.Machine.execRed c face aged s
  | .cvt c face aged => Sys2Proof.Machine.execCvt c face aged s
  | .split3 c face aged => Sys2Proof.Machine.execSplit3 c face aged s
  | .esAcc c face aged => Sys2Proof.Machine.execEsAcc c face aged s
  | .esFinal c face aged => Sys2Proof.Machine.execEsFinal c face aged s
  | .gather c face aged => Sys2Proof.Machine.execGather c face aged s
  | .scatter c face aged => Sys2Proof.Machine.execScatter c face aged s
  | .scatterAdd c face aged => Sys2Proof.Machine.execScatterAdd c face aged s
  | .adamw c face aged => Sys2Proof.Machine.execAdamw c face aged s
  | .cgq c face aged => Sys2Proof.Machine.execCgq c face aged s
  | .cgdq c face aged => Sys2Proof.Machine.execCgdq c face aged s
  | .cprobe c face aged => Sys2Proof.Machine.execCprobe c face aged s
  | .sput c aged => Sys2Proof.Machine.execSput c aged s
  | .sget c aged => Sys2Proof.Machine.execSget c aged s
  | .sraise c aged => Sys2Proof.Machine.execSraise c aged s
  | .sfree c aged => Sys2Proof.Machine.execSfree c aged s
  | .hcopy c die engine aged => Sys2Proof.Machine.execHcopy c die engine aged s
  | .hset c die engine aged => Sys2Proof.Machine.execHset c die engine aged s
  | .cattn c aged swapFail => Sys2Proof.Machine.execCattn c aged swapFail s
  | .rappend c aged swapFail => Sys2Proof.Machine.execRappend c aged swapFail s
  | .rseqOpen c aged swapFail => Sys2Proof.Machine.execRseqOpen c aged swapFail s
  | .rseqClose c aged => Sys2Proof.Machine.execRseqClose c aged s
  | .rseqPriority c aged => Sys2Proof.Machine.execRseqPriority c aged s
  | .rseqTruncate c aged swapFail => Sys2Proof.Machine.execRseqTruncate c aged swapFail s
  | .rseqEvict c aged swapFail => Sys2Proof.Machine.execRseqEvict c aged swapFail s
  | .rseqFetch c aged swapFail => Sys2Proof.Machine.execRseqFetch c aged swapFail s
  | .eroute c face aged => Sys2Proof.Machine.execEroute c face aged s
  | .compact c face aged => Sys2Proof.Machine.execCompact c face aged s
  | .mgate c face aged => Sys2Proof.Machine.execMgate c face aged s
  | .cwrite c half aged => Sys2Proof.Machine.execCwrite c half aged s
  | .cread c half aged => Sys2Proof.Machine.execCread c half aged s
  | .csignal c half aged => Sys2Proof.Machine.execCsignal c half aged s
  | .crs c half aged => Sys2Proof.Machine.execCrs c half aged s
  | .cag c half aged => Sys2Proof.Machine.execCag c half aged s
  | .car c half aged => Sys2Proof.Machine.execCar c half aged s
  | .ca2aDispatch c half aged => Sys2Proof.Machine.execCa2aDispatch c half aged s
  | .ca2aCombine c half aged => Sys2Proof.Machine.execCa2aCombine c half aged s
  | .cpermute c half aged => Sys2Proof.Machine.execCpermute c half aged s
  | .cledger c half aged => Sys2Proof.Machine.execCledger c half aged s
  | .cdigest c half aged => Sys2Proof.Machine.execCdigest c half aged s
  | .tfeed c aged => Sys2Proof.Machine.execTfeed c aged s
  | .tlive c aged => Sys2Proof.Machine.execTlive c aged s
  | .tstop c aged => Sys2Proof.Machine.execTstop c aged s
  | .tstate c aged => Sys2Proof.Machine.execTstate c aged s
  | .vdec c aged => Sys2Proof.Machine.execVdec c aged s
  | .venc c aged => Sys2Proof.Machine.execVenc c aged s
  | .boxdec c face aged => Sys2Proof.Machine.execBoxdec c face aged s
  | .boxsel c face aged => Sys2Proof.Machine.execBoxsel c face aged s
  | .nms c face aged => Sys2Proof.Machine.execNms c face aged s
  | .argmax c face aged => Sys2Proof.Machine.execArgmax c face aged s
  | .packageStart c => Sys2Proof.Machine.execPackageStart c s
  | .envelopeDispatch c => Sys2Proof.Machine.execEnvelopeDispatch c s
  | .waitTimeout c cls inst => Sys2Proof.Machine.execWaitTimeout c cls inst s
  | .operationCompletion c opIndex => Sys2Proof.Machine.execOperationCompletion c opIndex s
  | .hazardRangeRelease c die engine => Sys2Proof.Machine.execHazardRangeRelease c die engine s
  | .prefetchSignal c opIndex => Sys2Proof.Machine.execPrefetchSignal c opIndex s
  | .taprootSample c feed => Sys2Proof.Machine.execTaprootSample c feed s
  | .batchPublish c feed => Sys2Proof.Machine.execBatchPublish c feed s
  | .liveDatagramReceive port udpPort len data => Sys2Proof.Machine.execLiveDatagramReceive port udpPort len data s
  | .liveTick c feed => Sys2Proof.Machine.execLiveTick c feed s
  | .vccPicture session => Sys2Proof.Machine.execVccPicture session s
  | .imageRetire region => Sys2Proof.Machine.execImageRetire region s
  | .sqDoorbell value => Sys2Proof.Machine.execSqDoorbell value s
  | .cqDoorbell value => Sys2Proof.Machine.execCqDoorbell value s
  | .ringEnable value => Sys2Proof.Machine.execRingEnable value s
  | .ringDisable value => Sys2Proof.Machine.execRingDisable value s
  | .mbxIrqClear value => Sys2Proof.Machine.execMbxIrqClear value s
  | .moduleReset value => Sys2Proof.Machine.execModuleReset value s
  | .foremanRestart value badBank0 badBank1 => Sys2Proof.Machine.execForemanRestart value badBank0 badBank1 s
  | .recoveryImageLoad value outcome => Sys2Proof.Machine.execRecoveryImageLoad value outcome s
  | .eventsLost => Sys2Proof.Machine.execEventsLost s
  | .identify place => Sys2Proof.Machine.execIdentify place s
  | .health place => Sys2Proof.Machine.execHealth place s
  | .cfgGet place => Sys2Proof.Machine.execCfgGet place s
  | .cfgSet place => Sys2Proof.Machine.execCfgSet place s
  | .fwStage place => Sys2Proof.Machine.execFwStage place s
  | .fwActivate place => Sys2Proof.Machine.execFwActivate place s
  | .fwStatus place => Sys2Proof.Machine.execFwStatus place s
  | .calRead place => Sys2Proof.Machine.execCalRead place s
  | .calWrite place => Sys2Proof.Machine.execCalWrite place s
  | .bistRun place outcome => Sys2Proof.Machine.execBistRun place outcome s
  | .repairMapOut place => Sys2Proof.Machine.execRepairMapOut place s
  | .repairUnmap place => Sys2Proof.Machine.execRepairUnmap place s
  | .repairLaneSwap place => Sys2Proof.Machine.execRepairLaneSwap place s
  | .labelUpdate place => Sys2Proof.Machine.execLabelUpdate place s
  | .ctxOpen place => Sys2Proof.Machine.execCtxOpen place s
  | .ctxClose place => Sys2Proof.Machine.execCtxClose place s
  | .ctxQuery place => Sys2Proof.Machine.execCtxQuery place s
  | .ctxMap place => Sys2Proof.Machine.execCtxMap place s
  | .pkgSubmit place => Sys2Proof.Machine.execPkgSubmit place s
  | .pkgRetry place => Sys2Proof.Machine.execPkgRetry place s
  | .pkgSkip place => Sys2Proof.Machine.execPkgSkip place s
  | .pkgAbort place => Sys2Proof.Machine.execPkgAbort place s
  | .tallyRead place => Sys2Proof.Machine.execTallyRead place s
  | .tallySetCmd place => Sys2Proof.Machine.execTallySetCmd place s
  | .ledgerRead place => Sys2Proof.Machine.execLedgerRead place s
  | .ledgerWrite place => Sys2Proof.Machine.execLedgerWrite place s
  | .stashWrite place => Sys2Proof.Machine.execStashWrite place s
  | .ckptSave place => Sys2Proof.Machine.execCkptSave place s
  | .ckptRestore place => Sys2Proof.Machine.execCkptRestore place s
  | .fabRecord place => Sys2Proof.Machine.execFabRecord place s
  | .fabRoute place => Sys2Proof.Machine.execFabRoute place s
  | .fabTunnelOpen place => Sys2Proof.Machine.execFabTunnelOpen place s
  | .fabTunnelClose place => Sys2Proof.Machine.execFabTunnelClose place s
  | .fabPortDisable place => Sys2Proof.Machine.execFabPortDisable place s
  | .fabPortEnable place => Sys2Proof.Machine.execFabPortEnable place s
  | .fabPortRetrain place => Sys2Proof.Machine.execFabPortRetrain place s
  | .timeRead place => Sys2Proof.Machine.execTimeRead place s
  | .timeConfig place => Sys2Proof.Machine.execTimeConfig place s
  | .traceConfig place => Sys2Proof.Machine.execTraceConfig place s
  | .traceStart place => Sys2Proof.Machine.execTraceStart place s
  | .traceStop place => Sys2Proof.Machine.execTraceStop place s
  | .traceFlush place => Sys2Proof.Machine.execTraceFlush place s
  | .logRead place => Sys2Proof.Machine.execLogRead place s
  | .pwrCap place => Sys2Proof.Machine.execPwrCap place s
  | .pwrRetain place => Sys2Proof.Machine.execPwrRetain place s
  | .bar2Access write addr len data => Sys2Proof.Machine.execBar2Access write addr len data s
  | .bar2Resize size => Sys2Proof.Machine.execBar2Resize size s
  | .timElapsedRead => Sys2Proof.Machine.execTimElapsedRead s
  | .qryPerfClear freeze => Sys2Proof.Machine.execQryPerfClear freeze s
  | .clearPeak mask => Sys2Proof.Machine.execClearPeak mask s
  | .cruPerfClear freeze => Sys2Proof.Machine.execCruPerfClear freeze s
  | .rsPerfClear freeze => Sys2Proof.Machine.execRsPerfClear freeze s
  | .splPerfClear freeze => Sys2Proof.Machine.execSplPerfClear freeze s
  | .memPerfClear freeze => Sys2Proof.Machine.execMemPerfClear freeze s
  | .tapPerfClear freeze => Sys2Proof.Machine.execTapPerfClear freeze s
  | .vccPerfClear freeze => Sys2Proof.Machine.execVccPerfClear freeze s
  | .fabPerfClear freeze => Sys2Proof.Machine.execFabPerfClear freeze s
  | .colPerfClear freeze => Sys2Proof.Machine.execColPerfClear freeze s
  | .rasFirstClr value => Sys2Proof.Machine.execRasFirstClr value s
  | .hwReset => Sys2Proof.Machine.execHwReset s
  | .registerWrite offset value => Sys2Proof.Machine.execRegisterWrite offset value s
  | .i2cRegisterRead addr offset => Sys2Proof.Machine.execI2cRegisterRead addr offset s
  | .mgmtPowerOn slot slotValid => Sys2Proof.Machine.execMgmtPowerOn slot slotValid s
  | .mgmtPowerLoss => Sys2Proof.Machine.execMgmtPowerLoss s
  | .inputUndervolt => Sys2Proof.Machine.execInputUndervolt s
  | .inputLow => Sys2Proof.Machine.execInputLow s
  | .inputDip => Sys2Proof.Machine.execInputDip s
  | .moduleResetRelease => Sys2Proof.Machine.execModuleResetRelease s
  | .startUp outcome => Sys2Proof.Machine.execStartUp outcome s
  | .trayResetAssert => Sys2Proof.Machine.execTrayResetAssert s
  | .trayResetDeassert => Sys2Proof.Machine.execTrayResetDeassert s
  | .perstAssert => Sys2Proof.Machine.execPerstAssert s
  | .perstRelease => Sys2Proof.Machine.execPerstRelease s
  | .resetButtonClose => Sys2Proof.Machine.execResetButtonClose s
  | .resetButtonOpen => Sys2Proof.Machine.execResetButtonOpen s
  | .buttonStuck => Sys2Proof.Machine.execButtonStuck s
  | .buttonIgnoredClear => Sys2Proof.Machine.execButtonIgnoredClear s
  | .inputStuck n => Sys2Proof.Machine.execInputStuck n s
  | .ppsEdge => Sys2Proof.Machine.execPpsEdge s
  | .syncEdge => Sys2Proof.Machine.execSyncEdge s
  | .heartbeatTick => Sys2Proof.Machine.execHeartbeatTick s
  | .labelDrawing cold => Sys2Proof.Machine.execLabelDrawing cold s
  | .faceJunctionReading face sensors => Sys2Proof.Machine.execFaceJunctionReading face sensors s
  | .junctionThrottleStep face => Sys2Proof.Machine.execJunctionThrottleStep face s
  | .neighbourThrottleStep face => Sys2Proof.Machine.execNeighbourThrottleStep face s
  | .hbmTempReading stack reading => Sys2Proof.Machine.execHbmTempReading stack reading s
  | .farTempReport pkg reading mult => Sys2Proof.Machine.execFarTempReport pkg reading mult s
  | .thermAlertRelease => Sys2Proof.Machine.execThermAlertRelease s
  | .powerSample vin pin => Sys2Proof.Machine.execPowerSample vin pin s
  | .capLevelStep => Sys2Proof.Machine.execCapLevelStep s
  | .domainWake d => Sys2Proof.Machine.execDomainWake d s
  | .domainIdlePowerDown d => Sys2Proof.Machine.execDomainIdlePowerDown d s
  | .retentionAutoEntry group => Sys2Proof.Machine.execRetentionAutoEntry group s
  | .stockpileScrub line corrected => Sys2Proof.Machine.execStockpileScrub line corrected s
  | .nearScrub line corrected => Sys2Proof.Machine.execNearScrub line corrected s
  | .timeFrameReceive len frame residence => Sys2Proof.Machine.execTimeFrameReceive len frame residence s
  | .timeFrameSend => Sys2Proof.Machine.execTimeFrameSend s
  | .timeFrameTimeout => Sys2Proof.Machine.execTimeFrameTimeout s
  | .ptpMessageReceive port domain estimate asymmetry => Sys2Proof.Machine.execPtpMessageReceive port domain estimate asymmetry s
  | .timeHoldoverExpiry => Sys2Proof.Machine.execTimeHoldoverExpiry s
  | .ringFrameReceive len frame => Sys2Proof.Machine.execRingFrameReceive len frame s
  | .ringInsert => Sys2Proof.Machine.execRingInsert s
  | .insertWindow => Sys2Proof.Machine.execInsertWindow s
  | .discover => Sys2Proof.Machine.execDiscover s
  | .linkFrameReceive port fec len frame => Sys2Proof.Machine.execLinkFrameReceive port fec len frame s
  | .ackReport port => Sys2Proof.Machine.execAckReport port s
  | .laneSwap port lane => Sys2Proof.Machine.execLaneSwap port lane s
  | .widthChange port lanes => Sys2Proof.Machine.execWidthChange port lanes s
  | .portDown port => Sys2Proof.Machine.execPortDown port s
  | .portInit port peer peerPort recordValid lanes => Sys2Proof.Machine.execPortInit port peer peerPort recordValid lanes s
  | .packetForward place => Sys2Proof.Machine.execPacketForward place s
  | .write place => Sys2Proof.Machine.execWrite place s
  | .readReq place => Sys2Proof.Machine.execReadReq place s
  | .readRsp place => Sys2Proof.Machine.execReadRsp place s
  | .ack place => Sys2Proof.Machine.execAck place s
  | .signal place => Sys2Proof.Machine.execSignal place s
  | .coll place => Sys2Proof.Machine.execColl place s
  | .ctrl place => Sys2Proof.Machine.execCtrl place s
  | .remoteTimeout tag c opIndex node => Sys2Proof.Machine.execRemoteTimeout tag c opIndex node s
  | .ethernetFrameReceive port len frame => Sys2Proof.Machine.execEthernetFrameReceive port len frame s
  | .jouData port ce len data => Sys2Proof.Machine.execJouData port ce len data s
  | .jouAck port len data => Sys2Proof.Machine.execJouAck port len data s
  | .probe port len data => Sys2Proof.Machine.execProbe port len data s
  | .jouAckTimer tun => Sys2Proof.Machine.execJouAckTimer tun s
  | .jouRetransmit tun seq timeout => Sys2Proof.Machine.execJouRetransmit tun seq timeout s
  | .jouFenceRelease tun => Sys2Proof.Machine.execJouFenceRelease tun s
  | .tunnelDown tun => Sys2Proof.Machine.execTunnelDown tun s
  | .errorEvent cls sev src inst ctx key info => Sys2Proof.Machine.execErrorEvent cls sev src inst ctx key info s
  | .coalesceClose entry => Sys2Proof.Machine.execCoalesceClose entry s
  | .logCommit => Sys2Proof.Machine.execLogCommit s
  | .commandCompletion place => Sys2Proof.Machine.execCommandCompletion place s
  | .pcieLinkUp => Sys2Proof.Machine.execPcieLinkUp s
  | .pcieLinkDown => Sys2Proof.Machine.execPcieLinkDown s
  | .railFault => Sys2Proof.Machine.execRailFault s
  | .liveFrameIncomplete c feed stream frame => Sys2Proof.Machine.execLiveFrameIncomplete c feed stream frame s
  | .ringLockLost => Sys2Proof.Machine.execRingLockLost s

end Sys2Proof.Machine
end

