-- ==== Sys2Proof/Machine/Tick.lean ====
section
/-! DEFINITION. What one nanosecond brings when no command waits: the elapsed-time counter (R508), the slewing of OFFSET (R510), the Quarry's idle cycles (R108) and the collectives' wait counter (R425). -/

namespace Sys2Proof.Machine

/-- 20 µs: at 50 ppm a slew moves OFFSET by one nanosecond in that time. -/
def slewEvery : Nat := 20000

/-- A step of one nanosecond towards zero error, at most one every 20 µs (R510). -/
def slewTick (s : State) : State :=
  let t := s.time
  if t.slew = 0 || nowNs s < t.slewAt + slewEvery then s
  else
    let d : Int := if 0 < t.slew then 1 else -1
    updTime s fun t => { t with offset := t.offset + BitVec.ofInt 64 d, slew := t.slew - d, slewAt := nowNs s }

/-- COL_PEER_WAIT_NS counts while a collective is in flight. -/
def waitTick (s : State) : State := if s.fab.insts = [] then s else updFab s fun f => { f with col := perfAdd f.col 4 1 }

/-- QRY_IDLE_CYC goes on while the Quarry has power and its counters run (R108); how many Quarry cycles of a nanosecond had no matrix instruction in load or stream is timing, a free value (assumption 30). -/
def idleTick (s : State) : State :=
  if s.quarry.freeze || !unitOn s ucQuarry 0 0x10 then s
  else { s with quarry := { s.quarry with idleCyc := s.quarry.idleCyc + Config.freeWord s.free }, free := s.free + 1 }

/-- One nanosecond with the management island powered. -/
def tick (s : State) : State :=
  if s.aoc.on then idleTick (waitTick (slewTick { s with elapsed := s.elapsed + 1 })) else s

end Sys2Proof.Machine
end

