-- ==== Sys2Proof/WellFormed.lean ====
section
/-! DEFINITION. Well-formed commands: what an operand of each row must keep to be something that can arrive at the module. -/

namespace Sys2Proof

/-- Bytes that arrive: a length in range, and a value of that many bytes. -/
def bytesCheck (lo hi len data : Nat) : List (String × Bool) :=
  [("length", lo ≤ len && len ≤ hi), ("data", data < 256 ^ len)]

/-- A session names an operation by its index (R137). -/
def sessionCheck : VccSession → List (String × Bool)
  | .live _ _ _ => []
  | .op _ i => [("index", i < 2 ^ 32)]

/-- An outcome of start-up tests each unit once and lists each dead channel and each failed row once. -/
def outcomeCheck (o : StartOutcome) : List (String × Bool) :=
  [("units", decide (o.bist.map fun b => (b.1, b.2.1)).Nodup), ("channels", decide o.deadChans.Nodup), ("rows", decide o.nearRows.Nodup)]

/-- BAR0 offsets whose writes have rows of their own: MBX_CTRL, MBX_SQ_TAIL, MBX_CQ_HEAD, MBX_IRQ, MBX_RESET, MBX_SCRATCH1, RAS_FIRST_CLR and RAS_FIFO. -/
def ownRow : List Nat := [0x18, 0x30, 0x48, 0x50, 0x60, 0x70, 0x10D008, 0x10D028]

/-- The checks of each row's operands, by name. -/
def checks (i : Instr) : List (String × Bool) :=
  match i with
  | .nop _ => []
  | .stepAdvance _ => []
  | .tallySet _ => []
  | .shapeSet _ => []
  | .qmm _ _ => []
  | .qmmBatch _ _ => []
  | .qdrain _ _ => []
  | .qfill _ _ => []
  | .qzero _ _ => []
  | .cmv _ _ => []
  | .ew _ _ _ => []
  | .act _ _ _ => []
  | .actBwd _ _ _ => []
  | .norm _ _ _ => []
  | .normBwd _ _ _ => []
  | .smx _ _ _ => []
  | .smxBwd _ _ _ => []
  | .smxMerge _ _ _ => []
  | .red _ _ _ => []
  | .cvt _ _ _ => []
  | .split3 _ _ _ => []
  | .esAcc _ _ _ => []
  | .esFinal _ _ _ => []
  | .gather _ _ _ => []
  | .scatter _ _ _ => []
  | .scatterAdd _ _ _ => []
  | .adamw _ _ _ => []
  | .cgq _ _ _ => []
  | .cgdq _ _ _ => []
  | .cprobe _ _ _ => []
  | .sput _ _ => []
  | .sget _ _ => []
  | .sraise _ _ => []
  | .sfree _ _ => []
  | .hcopy _ _ _ _ => []
  | .hset _ _ _ _ => []
  | .cattn _ _ _ => []
  | .rappend _ _ _ => []
  | .rseqOpen _ _ _ => []
  | .rseqClose _ _ => []
  | .rseqPriority _ _ => []
  | .rseqTruncate _ _ _ => []
  | .rseqEvict _ _ _ => []
  | .rseqFetch _ _ _ => []
  | .eroute _ _ _ => []
  | .compact _ _ _ => []
  | .mgate _ _ _ => []
  | .cwrite _ _ _ => []
  | .cread _ _ _ => []
  | .csignal _ _ _ => []
  | .crs _ _ _ => []
  | .cag _ _ _ => []
  | .car _ _ _ => []
  | .ca2aDispatch _ _ _ => []
  | .ca2aCombine _ _ _ => []
  | .cpermute _ _ _ => []
  | .cledger _ _ _ => []
  | .cdigest _ _ _ => []
  | .tfeed _ _ => []
  | .tlive _ _ => []
  | .tstop _ _ => []
  | .tstate _ _ => []
  | .vdec _ _ => []
  | .venc _ _ => []
  | .boxdec _ _ _ => []
  | .boxsel _ _ _ => []
  | .nms _ _ _ => []
  | .argmax _ _ _ => []
  | .packageStart _ => []
  | .envelopeDispatch _ => []
  | .waitTimeout _ _ inst => [("instance", inst < 64)]
  | .operationCompletion _ opIndex => [("index", opIndex < 2 ^ 32)]
  | .hazardRangeRelease _ _ _ => []
  | .prefetchSignal _ opIndex => [("index", opIndex < 2 ^ 32)]
  | .taprootSample _ _ => []
  | .batchPublish _ _ => []
  | .liveDatagramReceive _ _ len data => bytesCheck 0 65535 len data
  | .liveTick _ _ => []
  | .vccPicture session => sessionCheck session
  | .imageRetire _ => []
  | .sqDoorbell _ => []
  | .cqDoorbell _ => []
  | .ringEnable value => [("enable", value.getLsbD 0)]
  | .ringDisable value => [("disable", !value.getLsbD 0)]
  | .mbxIrqClear _ => []
  | .moduleReset value => [("key", value.extractLsb' 8 8 = 0xC3), ("bit", value.getLsbD 1)]
  | .foremanRestart value _ _ => [("key", value.extractLsb' 8 8 = 0xC3), ("bit", value.getLsbD 0 && !value.getLsbD 1)]
  | .recoveryImageLoad _ outcome => outcomeCheck outcome
  | .eventsLost => []
  | .identify place => [("place", place < 64)]
  | .health place => [("place", place < 64)]
  | .cfgGet place => [("place", place < 64)]
  | .cfgSet place => [("place", place < 64)]
  | .fwStage place => [("place", place < 64)]
  | .fwActivate place => [("place", place < 64)]
  | .fwStatus place => [("place", place < 64)]
  | .calRead place => [("place", place < 64)]
  | .calWrite place => [("place", place < 64)]
  | .bistRun place _ => [("place", place < 64)]
  | .repairMapOut place => [("place", place < 64)]
  | .repairUnmap place => [("place", place < 64)]
  | .repairLaneSwap place => [("place", place < 64)]
  | .labelUpdate place => [("place", place < 64)]
  | .ctxOpen place => [("place", place < 64)]
  | .ctxClose place => [("place", place < 64)]
  | .ctxQuery place => [("place", place < 64)]
  | .ctxMap place => [("place", place < 64)]
  | .pkgSubmit place => [("place", place < 64)]
  | .pkgRetry place => [("place", place < 64)]
  | .pkgSkip place => [("place", place < 64)]
  | .pkgAbort place => [("place", place < 64)]
  | .tallyRead place => [("place", place < 64)]
  | .tallySetCmd place => [("place", place < 64)]
  | .ledgerRead place => [("place", place < 64)]
  | .ledgerWrite place => [("place", place < 64)]
  | .stashWrite place => [("place", place < 64)]
  | .ckptSave place => [("place", place < 64)]
  | .ckptRestore place => [("place", place < 64)]
  | .fabRecord place => [("place", place < 64)]
  | .fabRoute place => [("place", place < 64)]
  | .fabTunnelOpen place => [("place", place < 64)]
  | .fabTunnelClose place => [("place", place < 64)]
  | .fabPortDisable place => [("place", place < 64)]
  | .fabPortEnable place => [("place", place < 64)]
  | .fabPortRetrain place => [("place", place < 64)]
  | .timeRead place => [("place", place < 64)]
  | .timeConfig place => [("place", place < 64)]
  | .traceConfig place => [("place", place < 64)]
  | .traceStart place => [("place", place < 64)]
  | .traceStop place => [("place", place < 64)]
  | .traceFlush place => [("place", place < 64)]
  | .logRead place => [("place", place < 64)]
  | .pwrCap place => [("place", place < 64)]
  | .pwrRetain place => [("place", place < 64)]
  | .bar2Access _ addr len data => [("length", 0 < len && addr % 4096 + len ≤ 4096), ("data", data < 256 ^ len)]
  | .bar2Resize _ => []
  | .timElapsedRead => []
  | .qryPerfClear _ => []
  | .clearPeak _ => []
  | .cruPerfClear _ => []
  | .rsPerfClear _ => []
  | .splPerfClear _ => []
  | .memPerfClear _ => []
  | .tapPerfClear _ => []
  | .vccPerfClear _ => []
  | .fabPerfClear _ => []
  | .colPerfClear _ => []
  | .rasFirstClr _ => []
  | .hwReset => []
  | .registerWrite offset _ => [("aligned", offset.toNat % 8 = 0), ("row", !ownRow.contains offset.toNat)]
  | .i2cRegisterRead addr offset => [("address", 0x60 ≤ addr.toNat && addr.toNat < 0x64), ("offset", offset.toNat < 0x1000 && offset.toNat % 8 = 0)]
  | .mgmtPowerOn _ _ => []
  | .mgmtPowerLoss => []
  | .inputUndervolt => []
  | .inputLow => []
  | .inputDip => []
  | .moduleResetRelease => []
  | .startUp outcome => outcomeCheck outcome
  | .trayResetAssert => []
  | .trayResetDeassert => []
  | .perstAssert => []
  | .perstRelease => []
  | .resetButtonClose => []
  | .resetButtonOpen => []
  | .buttonStuck => []
  | .buttonIgnoredClear => []
  | .inputStuck _ => []
  | .ppsEdge => []
  | .syncEdge => []
  | .heartbeatTick => []
  | .labelDrawing _ => []
  | .faceJunctionReading _ sensors => [("sensors", sensors.length = 16)]
  | .junctionThrottleStep _ => []
  | .neighbourThrottleStep _ => []
  | .hbmTempReading _ _ => []
  | .farTempReport _ _ _ => []
  | .thermAlertRelease => []
  | .powerSample _ _ => []
  | .capLevelStep => []
  | .domainWake _ => []
  | .domainIdlePowerDown _ => []
  | .retentionAutoEntry _ => []
  | .stockpileScrub _ _ => []
  | .nearScrub _ _ => []
  | .timeFrameReceive len frame _ => bytesCheck 12 68 len frame
  | .timeFrameSend => []
  | .timeFrameTimeout => []
  | .ptpMessageReceive _ _ _ _ => []
  | .timeHoldoverExpiry => []
  | .ringFrameReceive len frame => bytesCheck 12 68 len frame
  | .ringInsert => []
  | .insertWindow => []
  | .discover => []
  | .linkFrameReceive _ _ len frame => bytesCheck 1 4144 len frame
  | .ackReport _ => []
  | .laneSwap _ _ => []
  | .widthChange _ _ => []
  | .portDown _ => []
  | .portInit _ _ _ _ _ => []
  | .packetForward _ => []
  | .write _ => []
  | .readReq _ => []
  | .readRsp _ => []
  | .ack _ => []
  | .signal _ => []
  | .coll _ => []
  | .ctrl _ => []
  | .remoteTimeout tag _ opIndex _ => [("index", opIndex < 2 ^ 32), ("tag", tag.all (· < 65536))]
  | .ethernetFrameReceive _ len frame => bytesCheck 64 9216 len frame
  | .jouData _ _ len data => bytesCheck 0 65535 len data
  | .jouAck _ len data => bytesCheck 0 65535 len data
  | .probe _ len data => bytesCheck 0 65535 len data
  | .jouAckTimer _ => []
  | .jouRetransmit _ _ _ => []
  | .jouFenceRelease _ => []
  | .tunnelDown _ => []
  | .errorEvent _ _ _ _ ctx _ _ => [("context", ctx.toNat < 8 || ctx = 0xFF)]
  | .coalesceClose _ => []
  | .logCommit => []
  | .commandCompletion place => [("place", place < 64)]
  | .pcieLinkUp => []
  | .pcieLinkDown => []
  | .railFault => []
  | .liveFrameIncomplete _ _ _ _ => []
  | .ringLockLost => []

/-- Is a command well-formed? -/
def wf (i : Instr) : Bool := (checks i).all (·.2)

/-- The names of the checks that a command fails. -/
def failing (i : Instr) : List String := ((checks i).filter fun p => !p.2).map (·.1)

end Sys2Proof
end

