-- ==== Sys2Proof/Safety.lean ====
section
/-! DEFINITION. What holds of the block at all times: the invariant of its states, and the modes that only a module reset leaves. -/

namespace Sys2Proof.Machine

/-- BAR2's size is one of R33's, and its sixteen apertures start at multiples of the aperture size, the sixteenth of BAR2. -/
def apsOk (h : HifS) : Prop :=
  36 ≤ h.bar2Log2 ∧ h.bar2Log2 ≤ 41 ∧ h.aps.length = 16 ∧ ∀ a ∈ h.aps, 2 ^ (h.bar2Log2 - 4) ∣ a.1

/-- The invariant that every step keeps: memory in canonical form; eight contexts (R168); at most 64 commands outstanding (R433); legal apertures (R33); while off or in reset the host-interface island has no power and the Foreman does not run (R15, R427, R471); an asserted TRAY_RESET_N is a cause that holds the module in reset (R472); each context's tallies list no zero and rise by index; twelve counts of lost events, sixteen capture sets, 32 retention groups and six inputs (R439, R515, R296, R474). -/
structure Inv (s : State) : Prop where
  memory : memWf s.mem = true
  contexts : s.ctxs.length = 8
  commands : s.mbx.taken.length ≤ 64
  apertures : apsOk s.hif
  stopped : s.mode = .offOrReset → s.hif.on = false ∧ s.mbx.fwState = 0
  tray : nth false s.aoc.level 0 = true → bit s.aoc.causes rcTray = true ∧ s.mode = .offOrReset
  tallies : ∀ x ∈ s.ctxs, smWf 0 x.tallies = true
  tables : s.mbx.lost.length = 12 ∧ s.ras.first.length = 16 ∧ s.memS.ret.length = 32 ∧ s.aoc.stuck.length = 6

/-- The modes in which the module serves no one: relay-only, and off or in reset (R15, R17, R18). -/
def Away (s : State) : Prop := s.mode = .relayOnly ∨ s.mode = .offOrReset

/-! ### What a statement about an operation says -/

/-- The head `q` of the queue of a unit instance and context may issue: it is of the row's kind, not frozen, its waits are met, the domains that execute it have power, and the arbitration of the unit that executes it selects it (R147, R158, R161, R175, R495). -/
structure MayIssue (s : State) (c cls inst : Nat) (aged : Bool) (kind : QOp → Bool) (q : QOp) : Prop where
  head : headOf (ctxOf s c) cls inst = some q
  kind : kind q = true
  thawed : frozen (ctxOf s c) q = false
  waits : waitsMet s c q.env = true
  power : headPowered s c q = true
  turn : selected s c q aged = true

/-- The state in which a unit runs an operation: its head is taken, the context is the one served last, and the issue is traced. -/
def atUnit (s : State) (c : Nat) (q : QOp) : State :=
  traceEvent (takeHead s c q) (traceSource q.cls q.inst) 1 c (packBits [(q.opIndex, 32), (q.opcode, 8), (q.inst, 8)])

/-- The state after an issue: the unit's result, the contents that a race with an operation in flight makes unpredictable, and the operation in flight with its status, flags and DETAIL (R98, R154). -/
def inFlight (s : State) (c : Nat) (q : QOp) (r : Result) : State := putFlight r.st c (flightOf s q r)

/-- Every check of a plan passes, and no line that it reads, or writes in part, holds an uncorrectable error (R114, R144). -/
structure Passes (s : State) (c : Nat) (p : Plan) (reads writes : List (Nat × Nat)) : Prop where
  checks : issueChecks s c p = none
  reads : badTouched s (physPieces s c reads) = none
  writes : badPartly s (physPieces s c writes) = none

/-- What an operation that passes does: the commit of the ledger entries it names, its effect, whole faulty words that it overwrites, its traffic, and the overlap rule (R72, R36). -/
def ranOp (s : State) (c : Nat) (p : Plan) (reads writes : List (Nat × Nat)) (eff : State → Result) : Result :=
  let r := eff (touchAll s c p.recs)
  let rd := physPieces s c reads
  let wr := physPieces s c writes
  { r with st := scrambleOverlap (noteTraffic (clearBad r.st wr) rd wr) c p
           acc := { r.acc with rd := r.acc.rd ++ rd, wr := r.acc.wr ++ wr } }

/-- A command issues an operation that runs as its plan and effect say. -/
def RunsAs (i : Instr) (c cls inst : Nat) (aged : Bool) (kind : State → QOp → Bool) (plan : State → QOp → Plan)
    (reads writes : State → QOp → List (Nat × Nat)) (eff : QOp → State → Result) : Prop :=
  ∀ s q, MayIssue s c cls inst aged (kind s) q →
    Passes (atUnit s c q) c (plan (atUnit s c q) q) (reads (atUnit s c q) q) (writes (atUnit s c q) q) →
    exec i s = .next (inFlight s c q (ranOp (atUnit s c q) c (plan (atUnit s c q) q) (reads (atUnit s c q) q)
      (writes (atUnit s c q) q) (eff q)))

/-- The records of a plan say what is read and what is written. -/
def RunsRecs (i : Instr) (c cls inst : Nat) (aged : Bool) (opcode : Nat) (plan : State → QOp → Plan) (eff : QOp → State → Result) : Prop :=
  RunsAs i c cls inst aged (fun _ => isOp opcode) plan (fun s q => readsOf s c (plan s q).recs) (fun s q => writesOf s c (plan s q).recs) eff

/-- A command issues an operation that its unit's body answers as `eff` says, where `ok` holds of it at the unit. -/
def AnswersAs (i : Instr) (c cls inst : Nat) (aged : Bool) (kind : State → QOp → Bool) (ok : State → QOp → Prop)
    (eff : State → QOp → Result) : Prop :=
  ∀ s q, MayIssue s c cls inst aged (kind s) q → ok (atUnit s c q) q →
    exec i s = .next (inFlight s c q (eff (atUnit s c q) q))

/-- What a Splitter operation's outputs make of a state: its stores, its count words, and its counters (R277 to R279, R291). -/
def splitResult (s : State) (c : Nat) (o : SplitOut) : Result :=
  let s1 := putWords (applyPuts s c o.puts) c o.words
  { st := { s1 with spl := o.gains.foldl (fun q g => perfAdd q g.1 g.2) s1.spl }, status := o.status, flags := o.flags, detail := o.detail }

/-- The rows of DST that a SCATTER or SCATTER_ADD writes: those that its index list names (R195). -/
def movedTo (s : State) (c e : Nat) : List (Nat × Nat) :=
  rowSpans (envRec e 2) (runExt s c (envRec e 2)) (namedRows (idxList s c (envRec e 1)) (runExt s c (envRec e 2)))

/-- What a box operation writes of its output records: BOXSEL and NMS only the entries up to their count (R246, R248, R249). -/
def boxWrites (s : State) (c opcode e : Nat) : List (Nat × Nat) :=
  if opcode = 0xE0 then writesOf s c (boxdecPlan s c e).recs
  else if opcode = 0xE1 then
    [1, 2, 3].flatMap fun i => entryIvs (envRec e i) (min (boxselPairs s c e).length (extAt (envRec e 1) 0))
  else if opcode = 0xE2 then entryIvs (envRec e 3) (nmsRun s c e).1.length
  else writesOf s c (argmaxPlan s c e).recs

/-- The addresses of shape words. -/
def wordIvs (s : State) (c : Nat) (l : List Nat) : List (Nat × Nat) := l.map fun k => ((ctxOf s c).swBase + 4 * k, 4)

/-- What EROUTE writes besides shape words. -/
def routeWrites (s : State) (c e : Nat) : List (Nat × Nat) :=
  ([footprint (envRec e 2)] ++ ([3, 4] ++ (if erStat e then [5] else [])).map fun i => footAt (envRec e i) (runExt s c (envRec e i))).flatten

/-- The shape words that EROUTE writes. -/
def routeWords (e : Nat) : List Nat := if cbEn e then (List.range (extAt (envRec e 0) 0 + 1)).map (cbSw e + ·) else []

/-- A stash operation that passes its checks and need not wait, its entry `e` and extents `ext` read at issue, and whose transfer, where it has one, meets no faulty line (R205, R208, R209). -/
structure StashRuns (s : State) (c op : Nat) (q : QOp) (e : Nat) (ext : List Nat) : Prop where
  checks : stashChecks s c op q.env = none
  entry : e = handleAt s c (stHandle q.env)
  extents : ext = stashExt s c op q.env
  free : stashHolds s c op q.env e ext = false

/-- A stash operation runs: its handle and granules change at its issue; where it has bytes to move they move at once (R206, R207, R213). -/
def RunsStash (i : Instr) (c op : Nat) (aged : Bool) : Prop :=
  ∀ (s u v : State) (q : QOp) (e : Nat) (ext : List Nat), MayIssue s c ucStash 0 aged (fun q => isOp op q && stashRoom s) q →
    u = atUnit s c q → StashRuns u c op q e ext → v = stashApply u c op q.env e ext →
    (stashMoves op q.env e ext = false → exec i s = .next (inFlight s c q (stashFlight u c op q.env e ext v))) ∧
    (stashMoves op q.env e ext = true → badTouched v (physPieces v c (stashReads v c op q.env e ext)) = none →
      badPartly v (physPieces v c (stashWrites v c op q.env e ext)) = none →
      exec i s = .next (inFlight s c q (stashEnd (stashFlight u c op q.env e ext v)
        (ranOp v c (stashPlan v c op q.env e) (stashReads v c op q.env e ext) (stashWrites v c op q.env e ext)
          fun w => stashEff w c op q.env e ext) c op q.env e)))

/-- Handles are released one after another, restoring nothing (R204, R207). -/
def freeHandles (s : State) (c first count : Nat) : State :=
  (List.range count).foldl (fun s j => freeHandle s c (first + j) (handleAt s c (first + j))) s

/-- A collective's instance begins: CLEDGER first touches its ledger entries (R405, R420). -/
def startColl (s : State) (c : Nat) (q : QOp) (cseq : Nat) : State :=
  let s := if q.opcode = 0xB8 then touchLedger s c q.env else s
  addInst s (mkInst s c q cseq)

/-! ### What a statement about a Foreman command says -/

/-- The state in which the Foreman works on a command: its beginning is traced. -/
def begun (s : State) (raw : Nat) : State := traceState s 40 (cmdCtx raw)

/-- The command `t` at a place of the taken ones begins: it is of the row's opcode and action, its turn has come, and it passes the checks of every command (R432, R434, R440). -/
structure Begins (s : State) (place op : Nat) (kind : Nat → Bool) (t : Cmd) : Prop where
  taken : s.mbx.taken[place]? = some t
  opcode : cmdOp t.raw = op
  kind : kind t.raw = true
  turn : cmdMayBegin s place = true
  checks : cmdChecks (begun s t.raw) t.raw = none

/-- The state in which a command's work is done with OK: `u` is what its work made of the state, which notes its reads too. -/
def doneOk (u : State) (place : Nat) (reads : List (Nat × Nat)) (detail result : Nat) : State :=
  updCmd (noteTraffic u reads []) place fun t => { t with begun := true, ready := some (msOk, detail, result), aux := [] }

/-- The state in which a command has done its part and waits for what ends it. -/
def waits (u : State) (place : Nat) (reads : List (Nat × Nat)) (aux : List Nat) : State :=
  updCmd (noteTraffic u reads []) place fun t => { t with begun := true, ready := none, aux := aux }

/-- A command of a row, where `ok` holds as it begins, ends its work with OK: `eff` is the state it makes, `res` its RESULT. -/
def CompletesAs (i : Nat → Instr) (op : Nat) (kind : Nat → Bool) (ok : State → Nat → Prop) (eff : State → Nat → State)
    (res : State → Nat → Nat) : Prop :=
  ∀ s place t, Begins s place op kind t → ok (begun s t.raw) t.raw →
    exec (i place) s = .next (doneOk (eff (begun s t.raw) t.raw) place (cmdReads (begun s t.raw) t.raw) 0 (res (begun s t.raw) t.raw))

/-- A command of a row, where `ok` holds as it begins, does its part and waits: `eff` is the state it makes, `aux` what it waits with. -/
def WaitsAs (i : Nat → Instr) (op : Nat) (kind : Nat → Bool) (ok : State → Nat → Prop) (eff : State → Nat → State)
    (aux : State → Nat → List Nat) : Prop :=
  ∀ s place t, Begins s place op kind t → ok (begun s t.raw) t.raw →
    exec (i place) s = .next (waits (eff (begun s t.raw) t.raw) place (cmdReads (begun s t.raw) t.raw) (aux (begun s t.raw) t.raw))

/-- Any command of an opcode. -/
def anyKind : Nat → Bool := fun _ => true

/-- The highest log record that was ever read is number `n` (R519). -/
def readUpTo (u : State) (n : Nat) : State := { u with ras := { u.ras with highRead := n } }

/-- A range that the Foreman may write for a command, with no faulty word or line written in part. -/
structure MayWrite (s : State) (ctx a n : Nat) : Prop where
  reach : fwOk s ctx a n true = true
  whole : badPartly s (fwPieces s ctx a n) = none

/-- A range that the Foreman may read for a command, with no faulty word or line. -/
structure MayRead (s : State) (ctx a n : Nat) : Prop where
  reach : fwOk s ctx a n false = true
  whole : badTouched s (fwPieces s ctx a n) = none

/-! ### Rows by what they touch -/

/-- The rows that issue an operation at a unit of the module's own, the fabric engines apart. -/
def unitRows (c : Fin 8) (face : Fin 4) (die : Fin 6) (engine : Fin 8) (aged : Bool) (fail : Option Nat) : List Instr :=
  [Instr.qmm c aged, Instr.qmmBatch c aged, Instr.qdrain c aged, Instr.qfill c aged, Instr.qzero c aged, Instr.cmv c aged] ++
  [Instr.ew c face aged, Instr.act c face aged, Instr.actBwd c face aged, Instr.norm c face aged, Instr.normBwd c face aged, Instr.smx c face aged, Instr.smxBwd c face aged,
    Instr.smxMerge c face aged, Instr.red c face aged, Instr.cvt c face aged, Instr.split3 c face aged, Instr.esAcc c face aged, Instr.esFinal c face aged,
    Instr.gather c face aged, Instr.scatter c face aged, Instr.scatterAdd c face aged, Instr.adamw c face aged] ++
  [Instr.cgq c face aged, Instr.cgdq c face aged, Instr.cprobe c face aged, Instr.sput c aged, Instr.sget c aged, Instr.sraise c aged, Instr.sfree c aged,
    Instr.hcopy c die engine aged, Instr.hset c die engine aged, Instr.cattn c aged fail, Instr.rappend c aged fail] ++
  [Instr.rseqOpen c aged fail, Instr.rseqClose c aged, Instr.rseqPriority c aged, Instr.rseqTruncate c aged fail, Instr.rseqEvict c aged fail, Instr.rseqFetch c aged fail] ++
  [Instr.eroute c face aged, Instr.compact c face aged, Instr.mgate c face aged, Instr.tfeed c aged, Instr.tlive c aged, Instr.tstop c aged, Instr.tstate c aged,
    Instr.vdec c aged, Instr.venc c aged, Instr.boxdec c face aged, Instr.boxsel c face aged, Instr.nms c face aged, Instr.argmax c face aged]

/-- A row that issues an operation whose records are planned by `plan`. -/
structure RecordRow where
  row : Instr
  cls : Nat
  inst : Nat
  opcode : Nat
  plan : State → QOp → Plan

/-- The rows whose operation's records, read at issue, say what it reads and writes, each with its unit class, instance, opcode and plan. -/
def recordRows (c : Fin 8) (face : Fin 4) (aged : Bool) : List RecordRow :=
  [⟨Instr.qdrain c aged, ucDrain, 0, 0x12, fun s q => drainPlan s c q false⟩, ⟨Instr.qfill c aged, ucDrain, 0, 0x13, fun s q => drainPlan s c q true⟩,
    ⟨Instr.qzero c aged, ucDrain, 0, 0x14, fun s q => zeroPlan s c q⟩, ⟨Instr.qmmBatch c aged, ucQuarry, 0, 0x11, fun s q => batchPlan s c q⟩,
    ⟨Instr.cmv c aged, ucChisel, 0, 0x30, fun s q => cmvPlan s c q⟩] ++
  [⟨Instr.ew c face aged, ucDressing, face, 0x40, fun s q => ewPlan s c q.env⟩, ⟨Instr.act c face aged, ucDressing, face, 0x41, fun s q => actPlan s c q.env⟩,
    ⟨Instr.actBwd c face aged, ucDressing, face, 0x42, fun s q => actBwdPlan s c q.env⟩,
    ⟨Instr.norm c face aged, ucDressing, face, 0x43, fun s q => normPlan s c q.env⟩,
    ⟨Instr.normBwd c face aged, ucDressing, face, 0x44, fun s q => normBwdPlan s c q.env⟩,
    ⟨Instr.smx c face aged, ucDressing, face, 0x45, fun s q => smxPlan s c q.env⟩,
    ⟨Instr.smxBwd c face aged, ucDressing, face, 0x46, fun s q => smxBwdPlan s c q.env⟩,
    ⟨Instr.smxMerge c face aged, ucDressing, face, 0x47, fun s q => smxMergePlan s c q.env⟩,
    ⟨Instr.red c face aged, ucDressing, face, 0x48, fun s q => redPlan s c q.env⟩,
    ⟨Instr.cvt c face aged, ucDressing, face, 0x49, fun s q => cvtPlan s c q.env⟩,
    ⟨Instr.split3 c face aged, ucDressing, face, 0x4A, fun s q => split3Plan s c q.env⟩] ++
  [⟨Instr.esAcc c face aged, ucDressing, face, 0x4B, fun s q => esAccPlan s c q.env⟩,
    ⟨Instr.esFinal c face aged, ucDressing, face, 0x4C, fun s q => esFinalPlan s c q.env⟩,
    ⟨Instr.gather c face aged, ucDressing, face, 0x4D, fun s q => gatherPlan s c q.env⟩,
    ⟨Instr.scatter c face aged, ucDressing, face, 0x4E, fun s q => scatterPlan s c q.env⟩,
    ⟨Instr.scatterAdd c face aged, ucDressing, face, 0x4F, fun s q => scatterAddPlan s c q.env⟩,
    ⟨Instr.adamw c face aged, ucDressing, face, 0x50, fun s q => adamwPlan s c q.env⟩,
    ⟨Instr.cgq c face aged, ucCrusher, face, 0x70, fun s q => cgqPlan s c q.env⟩, ⟨Instr.cgdq c face aged, ucCrusher, face, 0x71, fun s q => cgdqPlan s c q.env⟩,
    ⟨Instr.cprobe c face aged, ucCrusher, face, 0x72, fun s q => cprobePlan s c q.env⟩] ++
  [⟨Instr.eroute c face aged, ucSplitter, face, 0xA0, fun s q => eroutePlan s c q.env⟩,
    ⟨Instr.compact c face aged, ucSplitter, face, 0xA1, fun s q => compactPlan s c q.env⟩,
    ⟨Instr.mgate c face aged, ucSplitter, face, 0xA2, fun s q => mgatePlan s c q.env⟩,
    ⟨Instr.boxdec c face aged, ucBds, face, 0xE0, fun s q => boxdecPlan s c q.env⟩, ⟨Instr.boxsel c face aged, ucBds, face, 0xE1, fun s q => boxselPlan s c q.env⟩,
    ⟨Instr.nms c face aged, ucBds, face, 0xE2, fun s q => nmsPlan s c q.env⟩, ⟨Instr.argmax c face aged, ucBds, face, 0xE3, fun s q => argmaxPlan s c q.env⟩]

/-- A row of the Foreman's commands: its opcode, and which commands of that opcode are the row's. -/
structure CommandRow where
  row : Nat → Instr
  opcode : Nat
  kind : Nat → Bool

/-- The rows of the Foreman's commands, each with its opcode and the commands of that opcode that are the row's. -/
def commandRows (o : BistOutcome) : List CommandRow :=
  [⟨Instr.identify, 0x01, anyKind⟩, ⟨Instr.health, 0x02, anyKind⟩, ⟨Instr.cfgGet, 0x03, anyKind⟩, ⟨Instr.cfgSet, 0x04, anyKind⟩, ⟨Instr.fwStage, 0x08, anyKind⟩,
    ⟨Instr.fwActivate, 0x09, anyKind⟩, ⟨Instr.fwStatus, 0x0A, anyKind⟩, ⟨Instr.calRead, 0x0C, anyKind⟩, ⟨Instr.calWrite, 0x0D, anyKind⟩,
    ⟨(Instr.bistRun · o), 0x10, anyKind⟩, ⟨Instr.repairMapOut, 0x11, fun r => fld r 8 1 = 1⟩, ⟨Instr.repairUnmap, 0x11, fun r => fld r 8 1 = 2⟩,
    ⟨Instr.repairLaneSwap, 0x11, fun r => fld r 8 1 = 3⟩, ⟨Instr.labelUpdate, 0x14, anyKind⟩] ++
  [⟨Instr.ctxOpen, 0x18, anyKind⟩, ⟨Instr.ctxClose, 0x19, anyKind⟩, ⟨Instr.ctxQuery, 0x1A, anyKind⟩, ⟨Instr.ctxMap, 0x1B, anyKind⟩, ⟨Instr.pkgSubmit, 0x20, anyKind⟩,
    ⟨Instr.pkgRetry, 0x21, fun r => fld r 8 1 = 1⟩, ⟨Instr.pkgSkip, 0x21, fun r => fld r 8 1 = 2⟩, ⟨Instr.pkgAbort, 0x21, fun r => fld r 8 1 = 3⟩,
    ⟨Instr.tallyRead, 0x22, anyKind⟩, ⟨Instr.tallySetCmd, 0x23, anyKind⟩, ⟨Instr.ledgerRead, 0x24, anyKind⟩, ⟨Instr.ledgerWrite, 0x25, anyKind⟩,
    ⟨Instr.stashWrite, 0x26, anyKind⟩, ⟨Instr.ckptSave, 0x28, anyKind⟩, ⟨Instr.ckptRestore, 0x29, anyKind⟩] ++
  [⟨Instr.fabRecord, 0x30, anyKind⟩, ⟨Instr.fabRoute, 0x31, anyKind⟩, ⟨Instr.fabTunnelOpen, 0x32, fun r => fld r 9 1 = 1⟩,
    ⟨Instr.fabTunnelClose, 0x32, fun r => fld r 9 1 = 2⟩, ⟨Instr.fabPortDisable, 0x33, fun r => fld r 9 1 = 1⟩, ⟨Instr.fabPortEnable, 0x33, fun r => fld r 9 1 = 2⟩,
    ⟨Instr.fabPortRetrain, 0x33, fun r => fld r 9 1 = 3⟩, ⟨Instr.timeRead, 0x38, anyKind⟩, ⟨Instr.timeConfig, 0x39, anyKind⟩, ⟨Instr.traceConfig, 0x3C, anyKind⟩,
    ⟨Instr.traceStart, 0x3D, fun r => fld r 8 1 = 1⟩, ⟨Instr.traceStop, 0x3D, fun r => fld r 8 1 = 2⟩, ⟨Instr.traceFlush, 0x3D, fun r => fld r 8 1 = 3⟩,
    ⟨Instr.logRead, 0x40, anyKind⟩, ⟨Instr.pwrCap, 0x44, anyKind⟩, ⟨Instr.pwrRetain, 0x45, anyKind⟩]

/-- Rows that store no byte of memory, whatever the state: control operations, doorbells, register accesses, ring frames, pins and readings. -/
def quietRows (c : Fin 8) (z : Bool) (v : BitVec 64) (n len f : Nat) (port : Fin 16) : List Instr :=
  [Instr.nop c, Instr.tallySet c, Instr.sqDoorbell v, Instr.cqDoorbell v, Instr.ringDisable v, Instr.mbxIrqClear v, Instr.heartbeatTick] ++
  [Instr.qryPerfClear z, Instr.cruPerfClear z, Instr.rsPerfClear z, Instr.splPerfClear z, Instr.memPerfClear z, Instr.tapPerfClear z, Instr.vccPerfClear z, Instr.fabPerfClear z,
    Instr.colPerfClear z, Instr.clearPeak (v.setWidth 8), Instr.rasFirstClr v, Instr.hwReset, Instr.timElapsedRead, Instr.i2cRegisterRead (v.setWidth 7) (v.setWidth 16)] ++
  [Instr.ackReport port, Instr.ringFrameReceive len f, Instr.ringInsert, Instr.ringLockLost, Instr.insertWindow, Instr.discover, Instr.timeFrameSend, Instr.linkFrameReceive port n len f] ++
  [Instr.inputDip, Instr.trayResetDeassert, Instr.resetButtonOpen, Instr.buttonIgnoredClear, Instr.buttonStuck, Instr.perstRelease, Instr.ppsEdge, Instr.syncEdge, Instr.thermAlertRelease,
    Instr.powerSample (v.setWidth 16) (v.setWidth 16), Instr.labelDrawing z]

/-- An address that the trace unit does not store to: tracing does not run, or the address lies outside its buffer. -/
def untraced (s : State) (a : Nat) : Prop := s.trc.st ≠ 1 ∨ (32 ≤ s.trc.bytes ∧ (a < s.trc.base ∨ s.trc.base + s.trc.bytes ≤ a))

/-- An address that no operation of a context in flight writes: a race takes nothing there (R98, R154). -/
def unraced (s : State) (c a : Nat) : Prop := ∀ g ∈ (ctxOf s c).flight, ∀ p ∈ g.acc.wr, a < p.1 ∨ p.1 + p.2 ≤ a

/-- The state of everything but the units, but for the PCIe addresses of the writes that last left for the host: the mode, the management island, power, the host interface, flash, time, the mailbox, domains and counts. -/
structure SameSystem (s t : State) : Prop where
  mode : t.mode = s.mode
  relayCause : t.relayCause = s.relayCause
  aoc : t.aoc = s.aoc
  pwr : t.pwr = s.pwr
  hif : { t.hif with posted := s.hif.posted } = s.hif
  flash : t.flash = s.flash
  time : t.time = s.time
  mbx : t.mbx = s.mbx
  fenced : t.fenced = s.fenced
  coresOff : t.coresOff = s.coresOff
  domOn : t.domOn = s.domOn
  wakes : t.wakes = s.wakes
  elapsed : t.elapsed = s.elapsed
  boot : t.boot = s.boot
  hostUp : t.hostUp = s.hostUp
  pending : t.pending = s.pending

/-- A run of `n` steps from a state. -/
def runSteps : Nat → State → Host.Outcome State Fault Refusal
  | 0, s => .next s
  | n + 1, s =>
    match step s with
    | .next t => runSteps n t
    | .fault r => .fault r
    | .refused r => .refused r

end Sys2Proof.Machine
end

