-- ==== Sys2Proof/Certificates/Slice0/Obligations.lean ====
section
/-! DEFINITION. The statements about the block. -/

open Sys2Proof Sys2Proof.Machine

/-! ### One step -/

/-- A step takes the command at the front of the queue and is that command's meaning on the state with the rest of the queue; on an empty queue one nanosecond passes (the model's own choice, assumption 10). -/
def Obligations.StepTakesFront : Prop :=
  (∀ (s : State) (c : Instr) (rest : List Instr), s.pending = c :: rest → step s = exec c { s with pending := rest }) ∧
  (∀ s : State, s.pending = [] → step s = .next (tick s))

/-! ### Operations at their units -/

/-- The operations of the array, its drain engine, the Chisel and the Crushers run when their checks pass: QMM (by route on the Chisel where it says so) and QMM_BATCH; QDRAIN, QFILL and QZERO; CMV, CGQ, CGDQ and CPROBE. -/
def Obligations.MatrixVectorOpsRun : Prop :=
  (∀ (c : Fin 8) (aged : Bool),
    AnswersAs (.qmm c aged) c ucQuarry 0 aged (fun _ => isOp 0x10)
      (fun u q => Passes u c (qmmPlan u c q) (qmmReads u c q) [])
      (fun u q => { ranOp u c (qmmPlan u c q) (qmmReads u c q) [] (fun v => qmmEffect v c q) with
        ucls := some (if routesToChisel u c q then ucChisel else ucQuarry) }) ∧
    RunsAs (.qmmBatch c aged) c ucQuarry 0 aged (fun _ => isOp 0x11)
      (fun s q => batchPlan s c q) (fun s q => batchReads s c q) (fun _ _ => []) (fun q s => batchEffect s c q)) ∧
  (∀ (c : Fin 8) (aged : Bool),
    RunsRecs (.qdrain c aged) c ucDrain 0 aged 0x12 (fun s q => drainPlan s c q false) (fun q s => drainEffect s c q) ∧
    RunsRecs (.qfill c aged) c ucDrain 0 aged 0x13 (fun s q => drainPlan s c q true) (fun q s => fillEffect s c q) ∧
    RunsRecs (.qzero c aged) c ucDrain 0 aged 0x14 (fun s q => zeroPlan s c q)
      (fun q s => { st := zeroSlots s (absSlot s c (par q.env 0 1)) (par q.env 2 2)
                    acc := { sumpWr := [⟨64 * absSlot s c (par q.env 0 1), 64 * par q.env 2 2, 0, 256⟩] } })) ∧
  (∀ (c : Fin 8) (face : Fin 4) (aged : Bool),
    RunsAs (.cmv c aged) c ucChisel 0 aged (fun _ => isOp 0x30) (fun s q => cmvPlan s c q) (fun s q => cmvReads s c q)
      (fun s q => footAt (envRec q.env 5) (runExt s c (envRec q.env 5))) (fun q s => cmvEffect s c q) ∧
    RunsRecs (.cgq c face aged) c ucCrusher face aged 0x70 (fun s q => cgqPlan s c q.env) (fun q s => cgqEff s c q.inst q.env) ∧
    RunsRecs (.cgdq c face aged) c ucCrusher face aged 0x71 (fun s q => cgdqPlan s c q.env) (fun q s => cgdqEff s c q.inst q.env) ∧
    RunsRecs (.cprobe c face aged) c ucCrusher face aged 0x72 (fun s q => cprobePlan s c q.env) (fun q s => cprobeEff s c q.inst q.env))

/-- The operations of the Dressing run on their Face when their checks pass: element, normalisation, softmax, reduction and conversion operations, exact sums, row moves and the optimiser step. -/
def Obligations.DressingOpsRun : Prop :=
  (∀ (c : Fin 8) (face : Fin 4) (aged : Bool),
    RunsRecs (.ew c face aged) c ucDressing face aged 0x40 (fun s q => ewPlan s c q.env) (fun q s => ewEff s c q.env) ∧
    RunsRecs (.act c face aged) c ucDressing face aged 0x41 (fun s q => actPlan s c q.env) (fun q s => actEff s c q.env) ∧
    RunsRecs (.actBwd c face aged) c ucDressing face aged 0x42 (fun s q => actBwdPlan s c q.env) (fun q s => actBwdEff s c q.env) ∧
    RunsRecs (.norm c face aged) c ucDressing face aged 0x43 (fun s q => normPlan s c q.env) (fun q s => normEff s c q.env) ∧
    RunsRecs (.normBwd c face aged) c ucDressing face aged 0x44 (fun s q => normBwdPlan s c q.env) (fun q s => normBwdEff s c q.env) ∧
    RunsRecs (.smx c face aged) c ucDressing face aged 0x45 (fun s q => smxPlan s c q.env) (fun q s => smxEff s c q.env) ∧
    RunsRecs (.smxBwd c face aged) c ucDressing face aged 0x46 (fun s q => smxBwdPlan s c q.env) (fun q s => smxBwdEff s c q.env) ∧
    RunsRecs (.smxMerge c face aged) c ucDressing face aged 0x47 (fun s q => smxMergePlan s c q.env) (fun q s => smxMergeEff s c q.env) ∧
    RunsRecs (.red c face aged) c ucDressing face aged 0x48 (fun s q => redPlan s c q.env) (fun q s => redEff s c q.env) ∧
    RunsRecs (.cvt c face aged) c ucDressing face aged 0x49 (fun s q => cvtPlan s c q.env) (fun q s => cvtEff s c q.env) ∧
    RunsRecs (.split3 c face aged) c ucDressing face aged 0x4A (fun s q => split3Plan s c q.env) (fun q s => split3Eff s c q.env)) ∧
  (∀ (c : Fin 8) (face : Fin 4) (aged : Bool),
    RunsRecs (.esAcc c face aged) c ucDressing face aged 0x4B (fun s q => esAccPlan s c q.env) (fun q s => esAccEff s c q.env) ∧
    RunsRecs (.esFinal c face aged) c ucDressing face aged 0x4C (fun s q => esFinalPlan s c q.env) (fun q s => esFinalEff s c q.env) ∧
    RunsRecs (.gather c face aged) c ucDressing face aged 0x4D (fun s q => gatherPlan s c q.env) (fun q s => gatherEff s c q.env) ∧
    RunsAs (.scatter c face aged) c ucDressing face aged (fun _ => isOp 0x4E) (fun s q => scatterPlan s c q.env)
      (fun s q => readsOf s c [drIn q.env 0, drIn q.env 1]) (fun s q => movedTo s c q.env) (fun q s => scatterEff s c q.env) ∧
    RunsAs (.scatterAdd c face aged) c ucDressing face aged (fun _ => isOp 0x4F) (fun s q => scatterAddPlan s c q.env)
      (fun s q => readsOf s c [drIn q.env 0, drIn q.env 1] ++ movedTo s c q.env) (fun s q => movedTo s c q.env)
      (fun q s => scatterAddEff s c q.env) ∧
    RunsRecs (.adamw c face aged) c ucDressing face aged 0x50 (fun s q => adamwPlan s c q.env) (fun q s => adamwEff s c q.env))

/-- BOXDEC, BOXSEL, NMS and ARGMAX run on a Face's box unit, and EROUTE, COMPACT and MGATE on its Splitter, when their checks pass. -/
def Obligations.BoxSplitterOpsRun : Prop :=
  ∀ (c : Fin 8) (face : Fin 4) (aged : Bool),
    (∀ (i : Instr) (opcode : Nat) (plan : State → Nat → Nat → Plan) (eff : State → Nat → Nat → Result),
      (i, opcode, plan, eff) ∈ [(Instr.boxdec c face aged, 0xE0, boxdecPlan, boxdecEff), (Instr.boxsel c face aged, 0xE1, boxselPlan, boxselEff),
        (Instr.nms c face aged, 0xE2, nmsPlan, nmsEff), (Instr.argmax c face aged, 0xE3, argmaxPlan, argmaxEff)] →
      RunsAs i c ucBds face aged (fun _ => isOp opcode) (fun s q => plan s c q.env) (fun s q => readsOf s c (plan s c q.env).recs)
        (fun s q => boxWrites s c opcode q.env ++ bdCountIv s c q.env) (fun q s => eff s c q.env)) ∧
    RunsAs (.eroute c face aged) c ucSplitter face aged (fun _ => isOp 0xA0) (fun s q => eroutePlan s c q.env)
      (fun s q => readsOf s c (eroutePlan s c q.env).recs)
      (fun s q => routeWrites s c q.env ++ wordIvs s c (routeWords q.env)) (fun q s => splitResult s c (erouteEff s c q.env)) ∧
    RunsAs (.compact c face aged) c ucSplitter face aged (fun _ => isOp 0xA1) (fun s q => compactPlan s c q.env)
      (fun s q => readsOf s c (compactPlan s c q.env).recs)
      (fun s q => (footprint (envRec q.env 1) ++ (if cpInv q.env then footAt (envRec q.env 2) (runExt s c (envRec q.env 2)) else [])) ++
        wordIvs s c (countIdx q.env)) (fun q s => splitResult s c (compactEff s c q.env)) ∧
    RunsAs (.mgate c face aged) c ucSplitter face aged (fun _ => isOp 0xA2) (fun s q => mgatePlan s c q.env)
      (fun s q => readsOf s c (mgatePlan s c q.env).recs)
      (fun s q => (footprint (envRec q.env 1) ++ footAt (envRec q.env 2) (runExt s c (envRec q.env 2))) ++ wordIvs s c (countIdx q.env))
      (fun q s => splitResult s c (mgateEff s c q.env))

/-- HCOPY and HSET transfer when their checks pass and no tracked range conflicts; one that waits begins when HAZARD_RANGE_RELEASE finds its ranges free. -/
def Obligations.HaulerOpsRun : Prop :=
  ∀ (c : Fin 8) (die : Fin 6) (engine : Fin 8) (aged : Bool),
    AnswersAs (.hcopy c die engine aged) c ucHauler (die + 8 * engine) aged (fun _ => isOp 0x80)
      (fun u q => issueChecks u c (copyPlan u c (q.inst % 8) q.env) = none ∧ anyHeld u c q.inst = false ∧
        mayBegin u c q.inst (needRanges q.opcode q.env) = true)
      (fun u q => { copyBegin u c (q.inst % 8) q.env (runExt u c (envRec q.env 1)) with ranges := needRanges q.opcode q.env }) ∧
    AnswersAs (.hset c die engine aged) c ucHauler (die + 8 * engine) aged (fun _ => isOp 0x81)
      (fun u q => issueChecks u c (setPlan u c q.env) = none ∧ anyHeld u c q.inst = false ∧
        mayBegin u c q.inst (needRanges q.opcode q.env) = true)
      (fun u q => { setBegin u c q.env (runExt u c (envRec q.env 0)) with ranges := needRanges q.opcode q.env }) ∧
    (∀ (s : State) (f : Flight),
      ((ctxOf s c).flight.find? fun f => f.cls = ucHauler && f.op.inst = die.val + 8 * engine.val && f.held) = some f →
      mayBegin s c (die.val + 8 * engine.val) f.ranges = true →
      exec (.hazardRangeRelease c die engine) s = .next (stashKick (beginHeld s c f)))

/-- SPUT, SGET, SRAISE and SFREE run at the Stash Manager while fewer than eight operations are in flight there, their checks pass, and no earlier operation's handle, granules or ranges hold them. -/
def Obligations.StashOpsRun : Prop :=
  ∀ (c : Fin 8) (aged : Bool),
    RunsStash (.sput c aged) c 0x78 aged ∧ RunsStash (.sget c aged) c 0x79 aged ∧ RunsStash (.sraise c aged) c 0x7A aged ∧
    AnswersAs (.sfree c aged) c ucStash 0 aged (fun s q => isOp 0x7B q && stashRoom s)
      (fun u q => sfreeChecks u c q.env = none ∧ (ctxOf u c).flight.any (stashMeets (ctxOf u c).stash 0x7B q.env 0) = false)
      (fun u q => { st := freeHandles u c (stHandle q.env) (stCount q.env), aux := 0 :: List.replicate 6 1 })

/-- CATTN and RAPPEND run on the Canopy when their checks pass and every sequence that they name is, or is made, resident; the six functions of RSEQ act on their sequence when their checks pass and the sequence is, or is made, resident where they need it so. -/
def Obligations.CanopyOpsRun : Prop :=
  (∀ (c : Fin 8) (aged : Bool) (fail : Option Nat),
    AnswersAs (.cattn c aged fail) c ucCanopy 0 aged (fun _ => isOp 0x90)
      (fun u q => issueChecks u c (relsFirst (cattnPlan u c q.env)) = none ∧
        listChecks u c (listSeqs u c (envRec q.env 3)) 0
          (nth 1 (runExt u c (envRec q.env 0)) 2 = 0 || nth 1 (runExt u c (envRec q.env 0)) 3 = 0) = none ∧
        (makeResident u c (needOf u c (listSeqs u c (envRec q.env 3)) 0) fail).2 = none)
      (fun u q => cattnRun (cattnPlan u c q.env)
        ((listSeqs u c (envRec q.env 3)).dedup.foldl (fun s n => touchSeq s c n)
          (makeResident u c (needOf u c (listSeqs u c (envRec q.env 3)) 0) fail).1) c q.env (listSeqs u c (envRec q.env 3))) ∧
    AnswersAs (.rappend c aged fail) c ucCanopy 0 aged (fun _ => isOp 0x91)
      (fun u q => issueChecks u c (relsFirst (rappendPlan u c q.env)) = none ∧
        listChecks u c (listSeqs u c (envRec q.env 2)) (nth 1 (runExt u c (envRec q.env 0)) 2)
          (nth 1 (runExt u c (envRec q.env 0)) 2 = 0 || nth 1 (runExt u c (envRec q.env 0)) 3 = 0) = none ∧
        (makeResident u c (needOf u c (listSeqs u c (envRec q.env 2)) (nth 1 (runExt u c (envRec q.env 0)) 2)) fail).2 = none)
      (fun u q => rappendRun (rappendPlan u c q.env)
        ((listSeqs u c (envRec q.env 2)).dedup.foldl (fun s n => touchSeq s c n)
          (makeResident u c (needOf u c (listSeqs u c (envRec q.env 2)) (nth 1 (runExt u c (envRec q.env 0)) 2)) fail).1) c q.env
        (listSeqs u c (envRec q.env 2)) (nth 1 (runExt u c (envRec q.env 0)) 2))) ∧
  (∀ (c : Fin 8) (aged : Bool) (fail : Option Nat),
    (∀ (i : Instr) (func : Nat) (swap : Option Nat) (eff : State → Nat → Nat → Result),
      (i, func, swap, eff) ∈ [(Instr.rseqOpen c aged fail, 0, fail, rseqOpen), (Instr.rseqClose c aged, 1, none, rseqClose),
        (Instr.rseqPriority c aged, 2, none, rseqPriority), (Instr.rseqTruncate c aged fail, 3, fail, rseqTruncate),
        (Instr.rseqEvict c aged fail, 4, none, rseqEvict fail), (Instr.rseqFetch c aged fail, 5, fail, rseqFetch)] →
      AnswersAs i c ucCanopy 0 aged (fun _ => isRseq func)
        (fun u q => rqChecks u c q.env = none ∧ (makeResident u c (rqNeed u c q.env) swap).2 = none)
        (fun u q => eff (makeResident u c (rqNeed u c q.env) swap).1 c q.env)))

/-- TFEED and TLIVE start a feed whose blocks pass the checks; TSTOP stops one, or lets its batch finish; TSTATE writes its position and state. VDEC decodes the range of frames that it asks for, or ends with the status of a stream whose headers are not in order, and VENC encodes its frames, when their checks pass and their stream's headers are in order. -/
def Obligations.FeedCodecOpsRun : Prop :=
  (∀ (c : Fin 8) (aged : Bool),
    AnswersAs (.tfeed c aged) c ucTaproot 0 aged (fun _ => isOp 0xC0)
      (fun u q => tapChecks u c q.env false = none ∧ badTouched u (physPieces u c (blockIvs u c q.env false)) = none)
      (fun u q => { st := startFeed (noteTraffic u (physPieces u c (blockIvs u c q.env false)) []) c q.env false
                    acc := { rd := physPieces u c (blockIvs u c q.env false) } }) ∧
    AnswersAs (.tlive c aged) c ucTaproot 0 aged (fun _ => isOp 0xC1)
      (fun u q => tapChecks u c q.env true = none ∧ badTouched u (physPieces u c (blockIvs u c q.env true)) = none)
      (fun u q => { st := startFeed (noteTraffic u (physPieces u c (blockIvs u c q.env true)) []) c q.env true
                    acc := { rd := physPieces u c (blockIvs u c q.env true) } }) ∧
    AnswersAs (.tstop c aged) c ucTaproot 0 aged (fun _ => isOp 0xC2)
      (fun _ q => firstBad (([(0x40, bits (par q.env 0 1) 2 6 ≠ 0)] : List (Nat × Bool)) ++ parZero q.env 2 0x40) = none ∧
        par q.env 1 1 ≤ 1)
      (fun u q => match feedOf u c (tfId q.env) with
        | none => { st := u }
        | some f =>
          if feedBusy f = false then { st := u }
          else if par q.env 1 1 = 1 || f.live || f.slots = [] then { st := stopFeed u c (tfId q.env) 0 }
          else { st := updFeed u c (tfId q.env) fun f => { f with st := 2 }, ended := false }) ∧
    AnswersAs (.tstate c aged) c ucTaproot 0 aged (fun _ => isOp 0xC3)
      (fun u q => firstBad (([(0x40, bits (par q.env 0 1) 2 6 ≠ 0)] : List (Nat × Bool)) ++ parZero q.env 1 8 ++ parZero q.env 0xE 0x40) = none ∧
        footOk u c [.near] false true [(tfCfg q.env, 64)] = true ∧ tfCfg q.env % 64 = 0)
      (fun u q => { st := noteTraffic (clearBad (wrNum u c (tfCfg q.env) (((feedOf u c (tfId q.env)).map stateBlock).getD 0) 64)
        (physPieces u c [(tfCfg q.env, 64)])) [] (physPieces u c [(tfCfg q.env, 64)]), acc := { wr := physPieces u c [(tfCfg q.env, 64)] } })) ∧
  (∀ (c : Fin 8) (aged : Bool),
    (∀ (s u : State) (q : QOp) (len bytes : Nat) (h : StreamHead) (k : VdecPick),
      MayIssue s c ucVcc 0 aged (fun q => isOp 0xD0 q && vccRoom s c q) q → u = atUnit s c q →
      len = nth 1 (runExt u c (envRec q.env 0)) 0 → bytes = rdNum u c (envRec q.env 0).base len →
      h = readHead (vdCont q.env) bytes len → k = vdecPick q.env h →
      badTouched u (physPieces u c [((envRec q.env 0).base, len)]) = none →
      Passes u c (vdecPlan u c q.env) (readsOf u c (vdecPlan u c q.env).recs)
        (writesOf u c ((vdecPlan u c q.env).recs.filter fun x => x.idx ≠ 5)) →
      (∀ st d, vdecRefusal q.env h k = some (st, d) →
        exec (.vdec c aged) s = .next (vccGrant (inFlight s c q (reject (if st = 0xD2 then vccAdd u 5 1 else u) st d)))) ∧
      (vdecRefusal q.env h k = none →
        exec (.vdec c aged) s = .next (vccGrant (inFlight s c q (inPictures c q (vdecProgress q.env bytes len h k)
          (ranOp u c (vdecPlan u c q.env) (readsOf u c (vdecPlan u c q.env).recs)
            (writesOf u c ((vdecPlan u c q.env).recs.filter fun x => x.idx ≠ 5)) fun v => vdecEff v c q.env bytes len h k)))))) ∧
    (∀ (s u : State) (q : QOp), MayIssue s c ucVcc 0 aged (fun q => isOp 0xD1 q && vccRoom s c q) q → u = atUnit s c q →
      Passes u c (vencPlan u c q.env) (readsOf u c (vencPlan u c q.env).recs) (vencWrites u c q.env) →
      exec (.venc c aged) s = .next (vccGrant (inFlight s c q (inPictures c q (vencProgress q.env (vencDone u c q.env))
        (ranOp u c (vencPlan u c q.env) (readsOf u c (vencPlan u c q.env).recs) (vencWrites u c q.env) fun v => vencEff v c q.env))))))

/-- CWRITE, CREAD and CSIGNAL issue on a fabric engine half with fewer than sixteen operations in flight when their checks pass: their packets wait as transactions, which are sent as far as the limits allow. -/
def Obligations.PointToPointOpsRun : Prop :=
  ∀ (c : Fin 8) (half : Fin 2) (aged : Bool) (s : State) (q : QOp),
    halfLoad s (4 + half) < 16 →
    (MayIssue s c ucFabric (4 + half) aged (isOp 0xB0) q →
      Passes (atUnit s c q) c (p2pPlan (atUnit s c q) c q.env true)
        (footAt (envRec q.env 0) (runExt (atUnit s c q) c (envRec q.env 1))) [] →
      (exec (.cwrite c half aged) s = .next (pumpTxns (inFlight s c q
        { ranOp (atUnit s c q) c (p2pPlan (atUnit s c q) c q.env true)
            (footAt (envRec q.env 0) (runExt (atUnit s c q) c (envRec q.env 1))) []
            (fun u => { st := { addTxns u (halfOf q.inst) c q.opIndex
              (writePkts u c q.env (runExt (atUnit s c q) c (envRec q.env 1))) with free := u.free + 1 } })
          with ended := false, aux := [0] })))) ∧
    (MayIssue s c ucFabric (4 + half) aged (isOp 0xB1) q →
      Passes (atUnit s c q) c (p2pPlan (atUnit s c q) c q.env false) [] [] →
      (exec (.cread c half aged) s = .next (pumpTxns (inFlight s c q
        { ranOp (atUnit s c q) c (p2pPlan (atUnit s c q) c q.env false) [] []
            (fun u => { st := addTxns u (halfOf q.inst) c q.opIndex (readPkts u c q.env (runExt (atUnit s c q) c (envRec q.env 1))) })
          with ended := false, aux := 0 :: runExt (atUnit s c q) c (envRec q.env 1),
               acc := { wr := physPieces (atUnit s c q) c (footAt (envRec q.env 1) (runExt (atUnit s c q) c (envRec q.env 1))) } })))) ∧
    (MayIssue s c ucFabric (4 + half) aged (isOp 0xB2) q →
      Passes (atUnit s c q) c { reserved := p2pReserved q.env 0x0FFF true, recs := [], invalid := 0xB2 } [] [] →
      (exec (.csignal c half aged) s = .next (pumpTxns (inFlight s c q
        { ranOp (atUnit s c q) c { reserved := p2pReserved q.env 0x0FFF true, recs := [], invalid := 0xB2 } [] []
            (fun u => { st := addTxn u (halfOf q.inst) c q.opIndex (signalPkt u c q.env) })
          with ended := false, aux := [0] }))))

/-- A collective issues on a fabric engine half when its checks pass: it takes the group's next sequence number and its instance is in flight, with what was held for it; then every instance goes on as far as it can. -/
def Obligations.CollectiveOpsRun : Prop :=
  ∀ (c : Fin 8) (half : Fin 2) (aged : Bool) (s : State) (q : QOp) (i : Instr) (kind : QOp → Bool) (u : State),
    (i, kind) ∈ [(Instr.crs c half aged, isOp 0xB3), (Instr.cag c half aged, isOp 0xB4), (Instr.car c half aged, isOp 0xB5),
      (Instr.ca2aDispatch c half aged, fun q => q.opcode = 0xB6 && collOp q.env ≠ 1),
      (Instr.ca2aCombine c half aged, fun q => q.opcode = 0xB6 && collOp q.env = 1),
      (Instr.cpermute c half aged, isOp 0xB7), (Instr.cledger c half aged, isOp 0xB8), (Instr.cdigest c half aged, isOp 0xB9)] →
    halfLoad s (4 + half) < 16 →
    MayIssue s c ucFabric (4 + half) aged kind q →
    u = atUnit s c q →
    groupReadable u c q.env = true → gId (readGroup u c q.env) ≤ 1023 →
    Passes (noteIssue u (halfOf q.inst) c (gId (readGroup u c q.env))) c (collPlan u c (halfOf q.inst) q.opcode q.env)
      (collReads u c q.opcode q.env) [] →
    exec i s = .next (collKick (takeHeld (pumpTxns (inFlight s c q
      { ranOp (noteIssue u (halfOf q.inst) c (gId (readGroup u c q.env))) c
          (collPlan u c (halfOf q.inst) q.opcode q.env) (collReads u c q.opcode q.env) []
          (fun v => { st := startColl v c q (nextCseq u (halfOf q.inst) c (gId (readGroup u c q.env))) })
        with ended := false, aux := [0],
             acc := { rd := physPieces (noteIssue u (halfOf q.inst) c (gId (readGroup u c q.env))) c (collReads u c q.opcode q.env)
                      wr := physPieces u c (collOuts (mkInst u c q (nextCseq u (halfOf q.inst) c (gId (readGroup u c q.env))))) } })) c q.opIndex))

/-! ### The sequencer -/

/-- The control operations at the dispatch point, their waits met: NOP ends with OK, STEP_ADVANCE ends with OK and STEP one higher once nothing is queued or in flight, TALLY_SET sets the tallies that its enabled entries name, SHAPE_SET the shape words. -/
def Obligations.ControlOpsRun : Prop :=
  ∀ (c : Fin 8) (s : State) (p : Pkg) (e : Nat),
    (controlReady s c 0x00 = some (p, e) → allReserved e = none → exec (.nop c) s = .next (controlDone s c e stOk 0)) ∧
    (controlReady s c 0x01 = some (p, e) → allReserved e = none → (ctxOf s c).queued = [] → (ctxOf s c).flight = [] →
      exec (.stepAdvance c) s = .next (controlDone
        (traceState (updCtx (ledgerWriteBack s c) c fun x => { x with step := x.step + 1 }) 0 c) c e stOk 0)) ∧
    (controlReady s c 0x02 = some (p, e) → setReserved e = none → setIndices e ≠ [] → (setIndices e).Nodup →
      exec (.tallySet c) s = .next (controlDone
        ((setPairs e).foldl (fun s p => setTally s c p.1 (BitVec.ofNat 32 p.2)) s) c e stOk 0)) ∧
    (controlReady s c 0x03 = some (p, e) → setReserved e = none → setIndices e ≠ [] → (setIndices e).Nodup →
      badPartly s (physPieces s c ((setPairs e).map fun p => ((ctxOf s c).swBase + 4 * p.1, 4))) = none →
      exec (.shapeSet c) s = .next (controlDone ((setPairs e).foldl (fun s p => setShapeWord s c p.1 p.2) s) c e stOk 0))

/-- The sequencer: a package whose header passes the checks starts in an idle context; the next envelope that passes the dispatch check joins its unit's queue where an entry is free, and the dispatch point moves past it; where a wait limit is set, a head or a control operation whose waits are not met ends with WAIT_TIMEOUT and the unmet wait in its DETAIL. -/
def Obligations.SequencerRuns : Prop :=
  (∀ (c : Fin 8) (s : State) (p : Pkg) (rest : List Pkg),
    (ctxOf s c).pkgs = p :: rest → (ctxOf s c).st = .idle → p.started = false → domIsOn s 44 = true → headerOk s c p.da = true →
    exec (.packageStart c) s = .next (updCtx (noteTraffic s (physPieces s c [(p.da, 64)]) []) c fun x =>
      { x with st := .running, nextIndex := 0, nextOff := 64, halt := none, haltStatus := 0, failed := []
               pkgs := { p with started := true, opCount := fld (rdNum s c p.da 64) 8 4, bytes := fld (rdNum s c p.da 64) 0xC 4
                                compBase := bits (fld (rdNum s c p.da 64) 0x10 8) 0 48
                                gen := fld (rdNum s c p.da 64) 0x18 4, waitLimit := fld (rdNum s c p.da 64) 0x1C 4 } :: x.pkgs.tail })) ∧
  (∀ (c : Fin 8) (s : State) (p : Pkg) (e : Nat),
    nextEnv s c = some (p, e) → domIsOn s 44 = true → envFault s c p (ctxOf s c).nextOff = none →
    envCheck p (ctxOf s c).nextIndex (ctxOf s c).nextOff e = none → (mkOp (ctxOf s c) e).cls ≠ 0 →
    ((ctxOf s c).queued.filter fun r => r.cls = (mkOp (ctxOf s c) e).cls && r.inst = (mkOp (ctxOf s c) e).inst).length <
      queueDepth (mkOp (ctxOf s c) e).cls →
    exec (.envelopeDispatch c) s = .next (traceState (advanceDispatch
      (updCtx s c fun x => { x with queued := x.queued ++ [mkOp (ctxOf s c) e] }) c e) 0 c)) ∧
  (∀ (c : Fin 8) (s : State) (p : Pkg),
    runningPkg (ctxOf s c) = some p → p.waitLimit ≠ 0 →
    (∀ (cls : Fin 14) (inst : Nat) (q : QOp), cls.val ≠ 0 → headOf (ctxOf s c) cls inst = some q → frozen (ctxOf s c) q = false →
      waitsMet s c q.env = false →
      exec (.waitTimeout c cls inst) s = .next (endAtOnce
        (updCtx s c fun x => { x with queued := dropFirst (fun r => r.cls = q.cls && r.inst = q.inst) x.queued }) c q q.cls
        stWaitTimeout (timeoutDetail s c q.env))) ∧
    (∀ (inst e : Nat) (p' : Pkg), nextEnv s c = some (p', e) → envOpcode e < 0x10 →
      envCheck p' (ctxOf s c).nextIndex (ctxOf s c).nextOff e = none → waitsMet s c e = false →
      exec (.waitTimeout c 0 inst) s = .next (controlDone s c e stWaitTimeout (timeoutDetail s c e))))

/-- An operation in flight that has ended, that nothing holds and whose turn it is among those of its queue completes, after which waiting stash operations that it held begin; and the PF_TALLY of a fabric operation that names one is signalled, once, when its wait has lasted. -/
def Obligations.OperationsComplete : Prop :=
  ∀ (c : Fin 8) (i : Nat) (s : State),
    (∀ f, endedFlight s c i = some f →
      exec (.operationCompletion c i) s = .next (stashKick (completeOp (pfSignal s c f) c f fun t => lowWater (pfSignal s c f) t c))) ∧
    (∀ f, fabFlight s c i = some f → f.cls = ucFabric → pfEn f.op.env = true → pfDone f = false →
      exec (.prefetchSignal c i) s = .next (updFlight (lowWater s (addTally s c (pfTally f.op.env) 1) c) c f.op.opIndex
        fun g => { g with aux := g.aux ++ [pfMark] }))

/-! ### Feeds, the codec and images -/

/-- Feeds and pictures: a sample fills the next slot of a running feed, a full batch is published (a stopping feed then stops), a live set's tick publishes the frames of its streams; a well-formed fragment joins its frame, one still incomplete at STALE is dropped and counted; a picture of a session that holds cores takes one off what its operation has left, or decodes the next frame of a live stream, and the cores then go to the sessions that wait. -/
def Obligations.FeedStepsRun : Prop :=
  (∀ (c : Fin 8) (feed : Fin 4) (s : State) (f : Feed),
    feedOf s c feed = some f → feedBusy f = true → domIsOn s 45 = true →
    (∀ (u s1 : State) (ps : List Put), feedTurn s f = true → u = { s with tap := { s.tap with served := 4 * c.val + feed.val } } →
      feedAccess u c [] (batchSlot f f.slots.length) = none →
      doSample (feedTouch u c [] (batchSlot f f.slots.length)) f f.published f.slots.length (slotPos f f.published f.slots.length) =
        (s1, .stores ps) →
      exec (.taprootSample c feed) s = .next (updFeed (applyPuts s1 f.ctx ps) f.ctx f.id fun g =>
        { g with slots := g.slots ++ [(true, posSample f (slotPos f f.published f.slots.length))] })) ∧
    (f.live = false → f.slots.length = fbB f → feedAccess s c [] (publishRange f) = none →
      exec (.batchPublish c feed) s = .next
        (if f.st = 2 then
          stopFeed (publishBatch s f f.slots (posEpoch f (slotPos f f.published 0)) (slotPos f f.published 0) 0) c feed 0
        else publishBatch s f f.slots (posEpoch f (slotPos f f.published 0)) (slotPos f f.published 0) 0)) ∧
    (∀ g s2, f.live = true → f.st = 1 → s.time.valid = true → bufferFree s f = true →
      feedAccess s c [] ((List.range (liveS f)).flatMap (batchSlot f) ++ publishRange f) = none →
      s2 = (List.range (liveS f)).foldl (tickStep c feed (tickTime f))
        (dropStale (feedTouch s c [] ((List.range (liveS f)).flatMap (batchSlot f))) f (tickTime f + holdNs f)) →
      feedOf s2 c feed = some g → g.st = 1 →
      exec (.liveTick c feed) s = .next (updFeed (publishBatch s2 g g.slots 0 g.tick (tickTime f)) c feed
        fun x => { x with tick := x.tick + 1, slots := [] }))) ∧
  (∀ (s : State),
    (∀ (port : Fin 2) (udp : BitVec 16) (len data : Nat) (f : Feed),
      domIsOn s 45 = true → s.time.valid = true →
      ((s.tap.feeds.filter fun f => f.live && feedBusy f && lb f 0x18 2 = udp.toNat && bit (lb f 0x1A 1) port).find?
        fun f => f.streams.any fun x => x.source = fld data 4 4) = some f →
      datagramBad (nth (openStream 0) f.streams (f.streams.findIdx fun x => x.source = fld data 4 4)) len data = false →
      exec (.liveDatagramReceive port udp len data) s =
        .next (vccGrant (frameFragment s f (f.streams.findIdx fun x => x.source = fld data 4 4) len data))) ∧
    (∀ (c : Fin 8) (feed : Fin 4) (stream : Fin 32) (frame : BitVec 32) (f : Feed), feedOf s c feed = some f →
      (nth (openStream 0) f.streams stream).parts.any (fun p => p.num = frame.toNat) = true →
      exec (.liveFrameIncomplete c feed stream frame) s = .next (tapAdd
        (updStream s c feed stream fun x => { x with parts := x.parts.filter fun p => p.num ≠ frame.toNat }) 8 1))) ∧
  (∀ (s u : State) (c : Fin 8) (e : VccEntry), domIsOn s 46 = true → u = endGrant (vccGrant s) e →
    (∀ (i : Nat) (f : Flight), ((sessTable (vccGrant s)).find? fun e => e.who = .op c i && e.cores ≠ []) = some e → s.ctxs.length = 8 →
      sessFlight s c i = some f →
      exec (.vccPicture (.op c i)) s = .next (vccGrant (opPicture u c i)) ∧
      (ctxOf (opPicture u c i) c).flight = (ctxOf s c).flight.map fun g =>
        if g.cls = ucVcc && g.op.opIndex = i && !g.ended then
          { g with aux := ({ progressOf f.aux with left := (progressOf f.aux).left - 1, bytes := (progressOf f.aux).bytes.tail } : VccProgress).toAux
                   ended := decide ((progressOf f.aux).left - 1 = 0) }
        else g) ∧
    (∀ (feed : Fin 4) (stream : Fin 32) (f : Feed),
      ((sessTable (vccGrant s)).find? fun e => e.who = .live c feed stream && e.cores ≠ []) = some e → feedOf s c feed = some f →
      exec (.vccPicture (.live c feed stream)) s = .next (vccGrant (decodeLive u f stream))))

/-! ### Errors and the log -/

/-- An error event of a class that has its severity takes its effect, is captured and coalesced or queued, and when fatal takes the module into relay-only operation; the entry of a passed window enters the FIFO; the logger commits the next record. -/
def Obligations.ErrorPathRuns : Prop :=
  ∀ (s : State),
    (∀ (cls : Fin 16) (sev : Fin 4) (src inst ctx : BitVec 8) (key : BitVec 64) (info : BitVec 128) (e : ErrEvent),
      s.aoc.on = true → sevOk cls sev = true → e = ⟨cls, sev, src.toNat, inst.toNat, ctx.toNat, key.toNat, info.toNat⟩ →
      exec (.errorEvent cls sev src inst ctx key info) s = .next (withHealth s
        (if sev.val = 3 then relayEnter (reportError (eventEffect s e) e) (fatalCause cls) else reportError (eventEffect s e) e))) ∧
    (∀ (k : Fin 32) (e : Coal), s.ras.table[k.val]? = some e →
      exec (.coalesceClose k) s = .next { s with ras := fifoPush { s.ras with table := s.ras.table.eraseIdx k } e }) ∧
    (∀ (e : Coal) (rest : List Coal), s.mbx.fwState = 2 → s.ras.overflowed.any (0 < ·) = false → s.ras.sumDue = false →
      s.ras.fifo = e :: rest →
      exec .logCommit s = .next (withHealth s (commitEvent
        { s with ras := { s.ras with fifo := rest, sumDue := decide (rest = []) && s.ras.dropped.any (0 < ·) } } e)))

/-! ### The mailbox -/

/-- The mailbox: writes of indices, enables and clears over a BAR0 that answers act as the registers say; counts of lost events are posted when the completion ring has an entry to spare; a command whose work is done and whose turn has come is completed, and one that waits goes on first. -/
def Obligations.MailboxRuns : Prop :=
  (∀ (s : State) (v : BitVec 64), barOn s = true →
    (v.toNat % 4096 < sqSize s.mbx → exec (.sqDoorbell v) s = .next (pumpSq (updMbx s fun m => { m with sqTail := v.toNat % 4096 }))) ∧
    (v.toNat % 4096 < cqSize s.mbx →
      (v.toNat % 4096 + cqSize s.mbx - s.mbx.cqHead) % cqSize s.mbx ≤ (s.mbx.cqTail + cqSize s.mbx - s.mbx.cqHead) % cqSize s.mbx →
      exec (.cqDoorbell v) s = .next (pumpSq (updMbx s fun m => { m with cqHead := v.toNat % 4096 }))) ∧
    (bit v.toNat 0 = true → s.mbx.enable = false → s.mbx.taken = [] →
      exec (.ringEnable v) s = .next (actOnEnable (updMbx (clearRingLost s v.toNat) fun m =>
        { m with enable := true, checked := false, sqLog2 := logField m.sqLog2 (bits v.toNat 8 4), cqLog2 := logField m.cqLog2 (bits v.toNat 12 4)
                 sqTail := 0, sqHead := 0, cqTail := 0, cqHead := 0, phase := true }))) ∧
    (bit v.toNat 0 = false → s.mbx.enable = true →
      exec (.ringDisable v) s = .next (updMbx (clearRingLost s v.toNat) fun m =>
        { m with enable := false, checked := false, taken := m.taken.map fun t => { t with discard := true } })) ∧
    exec (.mbxIrqClear v) s = .next (irqUpdate (updMbx s fun m => { m with irq := m.irq &&& ~~~(v &&& 0xF) }))) ∧
  (∀ (s u : State), s.mbx.enable = true → s.mbx.checked = true → s.mbx.fwState = 2 → s.mbx.lost.any (0 < ·) = true →
    outstanding s.mbx + 1 ≤ cqFree s.mbx →
    u = postEntry s 0 0 0x8F 0xFF 0 (packBits (s.mbx.lost.map fun n => (min n 255, 8))) →
    exec .eventsLost s = .next (if u.mbx.enable then raiseIrq (updMbx u fun m => { m with lost := List.replicate 12 0 }) 1 else u)) ∧
  (∀ (s : State) (place : Nat) (t : Cmd), s.mbx.fwState = 2 → s.mbx.taken[place]? = some t →
    (∀ r, t.ready = some r → (t.begun = true ∨ noSuchCmd t.raw = false) → mayPost s place t r.1 = true →
      exec (.commandCompletion place) s = .next (pumpSq (postCompletion s place t r))) ∧
    (t.begun = true → t.ready = none →
      exec (.commandCompletion place) s = .next (finishCmd (cmdRecord place (cmdStep s t)) place)))

/-! ### Foreman commands -/

/-- IDENTIFY and HEALTH write their data to a place the Foreman may write; CFG_GET answers an item's value; CFG_SET gives an item a legal one, the interleave mode only while no context is open. -/
def Obligations.IdentityCommandsComplete : Prop :=
  CompletesAs .identify 0x01 anyKind (fun s r => MayWrite s 0xFF (fld r 8 8) 512)
    (fun s r => fwWrite s 0xFF (fld r 8 8) (identifyData s) 512) (fun _ _ => 1) ∧
  CompletesAs .health 0x02 anyKind (fun s r => MayWrite s 0xFF (fld r 8 8) 256)
    (fun s r => fwWrite s 0xFF (fld r 8 8) (healthData s) 256) (fun s _ => modeCode s.mode + healthCode s * 2 ^ 16) ∧
  (∀ (item : Nat) (val : State → Nat),
    (item, val) ∈ [(1, fun s : State => b2n s.memS.globalMode), (2, fun s => s.mbx.eventMask), (3, fun s => s.mbx.autoRetainUs)] →
    CompletesAs .cfgGet 0x03 anyKind (fun _ r => fld r 8 2 = item) (fun s _ => s) (fun s _ => val s)) ∧
  CompletesAs .cfgSet 0x04 anyKind (fun s r => fld r 8 2 = 1 ∧ fld r 0x10 8 ≤ 1 ∧ anyOpen s = false)
    (fun s r => setInterleave s (fld r 0x10 8 = 1)) (fun _ _ => 0) ∧
  CompletesAs .cfgSet 0x04 anyKind (fun _ r => fld r 8 2 = 2 ∧ fld r 0x10 8 ≤ 0xFFF)
    (fun s r => updMbx s fun m => { m with eventMask := fld r 0x10 8 }) (fun _ _ => 0) ∧
  CompletesAs .cfgSet 0x04 anyKind (fun _ r => fld r 8 2 = 3 ∧ fld r 0x10 8 ≤ 10000000)
    (fun s r => updMbx s fun m => { m with autoRetainUs := fld r 0x10 8 }) (fun _ _ => 0)

/-- FW_STAGE puts a verified image into the inactive bank, and leaves that bank empty, logs class 11 and ends with IMAGE_REJECTED where a check of the image fails; FW_ACTIVATE makes a staged image the active one; FW_STATUS answers the versions; CAL_READ answers an item's values, and CAL_WRITE writes or clears offsets in the other user page. When nothing runs on the old image of a region it retires, and the region's anti-rollback counter rises to the active image's security version, as far as its 64 fuses go. -/
def Obligations.FirmwareCommandsComplete : Prop :=
  ((∀ (s : State) (place : Nat) (t : Cmd) (u : State) (g v len : Nat), Begins s place 0x08 anyKind t → u = begun s t.raw → g = fld t.raw 8 1 →
    g ≤ 4 → len = fld t.raw 0x18 4 → MayRead u 0xFF (fld t.raw 0x10 8) len → regionBusy u t.raw = false →
    v = fwRead u 0xFF (fld t.raw 0x10 8) len →
    exec (.fwStage place) s = .next (match imgCheck g v len (regionFw u g).counter with
      | none => doneOk (updRegion u g fun x => { x with banks := x.banks.set (1 - x.active) (imgBank v len), staged := true })
          place (cmdReads u t.raw) 0 (imgBank v len).version
      | some d => updCmd (logErr (updRegion u g fun x => { x with banks := x.banks.set (1 - x.active) ⟨0, 0, 0, 0⟩, staged := false })
          11 1 0x17 0xFF g) place fun x => { x with begun := true, ready := some (msRejected, d, 0), aux := [] })) ∧
  CompletesAs .fwActivate 0x09 anyKind
    (fun s r => fld r 8 1 ≤ 4 ∧ regionBusy s r = false ∧ (regionFw s (fld r 8 1)).staged = true)
    (fun s r => activateImage s (fld r 8 1)) (fun _ _ => 0) ∧
  CompletesAs .fwStatus 0x0A anyKind (fun _ r => fld r 8 1 ≤ 4) (fun s _ => s)
    (fun s r => packBits [(activeVersion s (fld r 8 1), 32),
      (if (regionFw s (fld r 8 1)).staged then (bankOf (regionFw s (fld r 8 1)) (1 - (regionFw s (fld r 8 1)).active)).version else 0, 32),
      (if (regionFw s (fld r 8 1)).old then 3 else 0, 8)]) ∧
  CompletesAs .calRead 0x0C anyKind (fun _ r => calKnown (fld r 8 2) = true) (fun s _ => s)
    (fun s r => packBits [(ofInt (calFactory (fld r 8 2)) 32, 32), (ofInt (calOffset s (fld r 8 2)) 32, 32), (ofInt (calEff s (fld r 8 2)) 32, 32)]) ∧
  CompletesAs .calWrite 0x0D anyKind
    (fun s r => fld r 0x10 1 ≤ 2 ∧ (fld r 0x10 1 < 2 → calKnown (fld r 8 2) = true) ∧
      s.mbx.taken.any (fun t => t.begun && cmdOp t.raw = 0x0D) = false)
    (fun s r => writeCal s fun m => if fld r 0x10 1 = 0 then smSet 0 m (fld r 8 2) (BitVec.ofNat 32 (fld r 12 4))
      else if fld r 0x10 1 = 1 then smDel m (fld r 8 2) else []) (fun _ _ => 0)) ∧
  (∀ (s : State) (region : Fin 5), mayRetire s region = true →
    exec (.imageRetire region) s = .next (retireImage s region) ∧
    ∀ g, s.flash.regions[region.val]? = some g → ∃ g', (retireImage s region).flash.regions[region.val]? = some g' ∧
      g'.old = false ∧ g'.counter = max g.counter (min (bankOf g g.active).svn 64) ∧ g'.banks = g.banks ∧ g'.active = g.active)

/-- BIST_RUN tests an idle unit and answers its result, once every open context is closed where it fenced one; MAP_OUT takes a channel out of service within the budget; UNMAP takes it off the record; LANE_SWAP moves a lane to a good spare; LABEL_UPDATE sets the note and waits for its drawing. -/
def Obligations.RepairCommandsComplete : Prop :=
  (∀ (o : BistOutcome) (u : State → Nat → State),
    u = (fun s r => let t := withHealth s (runBist s (fld r 8 1) (fld r 9 1) (kindOutcome (fld r 10 1) o))
      if (regionFw t 4).old then retireImage t 4 else t) →
    CompletesAs (.bistRun · o) 0x10 anyKind
      (fun s r => bistUnit (fld r 8 1) (fld r 9 1) = true ∧ (1 ≤ fld r 8 1 ∧ fld r 8 1 ≤ 0x0D ∨ fld r 8 1 = 0x10) ∧
        1 ≤ fld r 10 1 ∧ fld r 10 1 ≤ 3 ∧ unitBusy s (fld r 8 1) (fld r 9 1) = false ∧ o.stored = true ∧
        ((u s r).fenced = s.fenced ∨ anyOpen (u s r) = false))
      u (fun _ r => bistResult (fld r 10 1) (kindOutcome (fld r 10 1) o)) ∧
    WaitsAs (.bistRun · o) 0x10 anyKind
      (fun s r => bistUnit (fld r 8 1) (fld r 9 1) = true ∧ (1 ≤ fld r 8 1 ∧ fld r 8 1 ≤ 0x0D ∨ fld r 8 1 = 0x10) ∧
        1 ≤ fld r 10 1 ∧ fld r 10 1 ≤ 3 ∧ unitBusy s (fld r 8 1) (fld r 9 1) = false ∧ o.stored = true ∧
        (u s r).fenced ≠ s.fenced ∧ anyOpen (u s r) = true)
      (fun s r => ((List.range 8).filter (isOpen (u s r))).foldl closeBegin (u s r))
      (fun _ r => [bistResult (fld r 10 1) (kindOutcome (fld r 10 1) o)])) ∧
  CompletesAs .repairMapOut 0x11 (fun r => fld r 8 1 = 1)
    (fun s r => s.memS.mapped.contains (fld r 9 1) = false ∧ withdrawnMapped s (fld r 9 1) = false ∧ overBudget s.memS.mapped (fld r 9 1) = false)
    (fun s r => withHealth s (mapOut s (fld r 9 1))) (fun _ _ => 0) ∧
  CompletesAs .repairUnmap 0x11 (fun r => fld r 8 1 = 2) (fun s r => s.flash.outChans.contains (fld r 9 1) = true)
    (fun s r => withHealth s (repairEvent
      { s with flash := { s.flash with outChans := s.flash.outChans.filter (· ≠ fld r 9 1) } } 6 (fld r 9 1))) (fun _ _ => 0) ∧
  CompletesAs .repairLaneSwap 0x11 (fun r => fld r 8 1 = 3)
    (fun s r => fld r 9 1 ≤ 15 ∧ fld r 10 1 ≤ 3 ∧ (portOf s (fld r 9 1)).st = 2 ∧ (portOf s (fld r 9 1)).spareFor = 7 ∧
      bit (portOf s (fld r 9 1)).laneOk 4 = true)
    (fun s r => withHealth s (laneSwapped (updPort s (fld r 9 1) fun p => { p with spareFor := fld r 10 1 }) (fld r 9 1) (fld r 10 1)))
    (fun _ _ => 0) ∧
  WaitsAs .labelUpdate 0x14 anyKind
    (fun _ r => fld r 8 1 ≤ 32 ∧ ∀ k, k < fld r 8 1 → 0x20 ≤ fld r (0x10 + k) 1 ∧ fld r (0x10 + k) 1 ≤ 0x7E)
    (fun s r => requestLabel (updLabel s fun l => { l with note := bytesOf (fld r 0x10 (fld r 8 1)) (fld r 8 1) })) (fun _ _ => [])

/-- CTX_OPEN opens the context that its block describes; CTX_CLOSE begins to close an open context and waits for its operations; CTX_QUERY answers a context's state; CTX_MAP replaces map entries of a quiet context by ones that keep the map legal. PKG_SUBMIT appends a package to those of an open context that holds fewer than four; RETRY, SKIP and ABORT act on a halted package. -/
def Obligations.ContextCommandsComplete : Prop :=
  (CompletesAs .ctxOpen 0x18 anyKind
    (fun s r => (List.range 8).all (fun c => isOpen s c) = false ∧ (cmdCtx r < 8 → isOpen s (cmdCtx r) = false) ∧ fld r 8 8 % 64 = 0 ∧
      MayRead s 0xFF (fld r 8 8) 2560 ∧ blockPlace s (fld r 8 8) = true ∧
      blockChecks s (openTarget s r) (fwRead s 0xFF (fld r 8 8) 2560) = none)
    (fun s r => openCtx s (openTarget s r) (fwRead s 0xFF (fld r 8 8) 2560)) (fun s r => openTarget s r) ∧
  WaitsAs .ctxClose 0x19 anyKind (fun s r => isOpen s (cmdCtx r) = true) (fun s r => closeBegin s (cmdCtx r)) (fun _ _ => []) ∧
  CompletesAs .ctxQuery 0x1A anyKind (fun _ _ => True) (fun s _ => s)
    (fun s r => packBits [(ctxStCode (ctxOf s (cmdCtx r)).st, 8), ((ctxOf s (cmdCtx r)).sumpFirst, 8), ((ctxOf s (cmdCtx r)).sumpCount, 16),
      ((ctxOf s (cmdCtx r)).step.toNat, 32)]) ∧
  (∀ news : State → Nat → List MapEntry,
    news = (fun s r => (List.range (fld r 9 1)).map fun i => rangeEntry (fwRead s 0xFF (fld r 0x10 8) (32 * fld r 9 1)) (32 * i)) →
    CompletesAs .ctxMap 0x1B anyKind
      (fun s r => 1 ≤ fld r 9 1 ∧ fld r 8 1 + fld r 9 1 ≤ 64 ∧ isOpen s (cmdCtx r) = true ∧ fld r 8 1 ≤ (ctxOf s (cmdCtx r)).maps.length ∧
        ctxQuiet s (cmdCtx r) = true ∧ MayRead s 0xFF (fld r 0x10 8) (32 * fld r 9 1) ∧
        firstBad ((List.range (fld r 9 1)).flatMap fun i => rangeReserved (fwRead s 0xFF (fld r 0x10 8) (32 * fld r 9 1)) (32 * i)) = none ∧
        newMapBreaks s (cmdCtx r) (fld r 8 1) (ctxOf s (cmdCtx r)).maps (news s r) = none ∧
        uncovered s (replaceMaps (ctxOf s (cmdCtx r)).maps (fld r 8 1) (news s r)) (cfgAreas (ctxOf s (cmdCtx r)).ledgerBase
          (ctxOf s (cmdCtx r)).swBase (ctxOf s (cmdCtx r)).stash (ctxOf s (cmdCtx r)).ring) = none)
      (fun s r => updCtx s (cmdCtx r) fun x => { x with maps := replaceMaps (ctxOf s (cmdCtx r)).maps (fld r 8 1) (news s r) })
      (fun _ _ => 0))) ∧
  (CompletesAs .pkgSubmit 0x20 anyKind
    (fun s r => fwOk s (cmdCtx r) (fld r 8 8) 64 false = true ∧ isOpen s (cmdCtx r) = true ∧ (ctxOf s (cmdCtx r)).pkgs.length < 4)
    (fun s r => updCtx s (cmdCtx r) fun x => { x with pkgs := x.pkgs ++ [newPkg (fld r 8 8)] })
    (fun s r => (ctxOf s (cmdCtx r)).pkgs.length + 1) ∧
  (∀ (i : Nat → Instr) (action : Nat) (act : State → Nat → State),
    (i, action, act) ∈ [(Instr.pkgRetry, 1, pkgRetry), (Instr.pkgSkip, 2, skipPkg), (Instr.pkgAbort, 3, fun s c => pkgAbort s c false)] →
    CompletesAs i 0x21 (fun r => fld r 8 1 = action) (fun s r => (ctxOf s (cmdCtx r)).st = .halted)
      (fun s r => act s (cmdCtx r)) (fun _ _ => 0)))

/-- TALLY_READ and LEDGER_READ write what a context holds to memory; TALLY_SET, LEDGER_WRITE and STASH_WRITE give tallies, ledger entries and free handles what memory holds. CKPT_SAVE of a quiet open context writes its ledger back and then its copies in order; CKPT_RESTORE restores an image that the context reads, or asks another node for the image's header and waits. -/
def Obligations.ContextDataCommandsComplete : Prop :=
  (CompletesAs .tallyRead 0x22 anyKind
    (fun s r => fld r 8 2 < 4096 ∧ 1 ≤ fld r 10 2 ∧ fld r 8 2 + fld r 10 2 ≤ 4096 ∧ MayWrite s 0xFF (fld r 0x10 8) (4 * fld r 10 2))
    (fun s r => fwWrite s 0xFF (fld r 0x10 8)
      (packBits ((List.range (fld r 10 2)).map fun k => ((tallyOf s (cmdCtx r) (fld r 8 2 + k)).toNat, 32))) (4 * fld r 10 2))
    (fun _ _ => 0) ∧
  CompletesAs .tallySetCmd 0x23 anyKind
    (fun s r => fld r 8 2 < 4096 ∧ 1 ≤ fld r 10 2 ∧ fld r 8 2 + fld r 10 2 ≤ 4096 ∧ MayRead s 0xFF (fld r 0x10 8) (4 * fld r 10 2))
    (fun s r => setTallies s (cmdCtx r) (fld r 8 2) (fld r 10 2) (fwRead s 0xFF (fld r 0x10 8) (4 * fld r 10 2))) (fun _ _ => 0) ∧
  CompletesAs .ledgerRead 0x24 anyKind
    (fun s r => 1 ≤ fld r 12 4 ∧ fld r 12 4 ≤ 65536 ∧ fld r 8 2 + fld r 12 4 ≤ 65536 ∧ isOpen s (cmdCtx r) = true ∧
      MayWrite s 0xFF (fld r 0x10 8) (64 * fld r 12 4) ∧ ledgerFault s (cmdCtx r) (fld r 8 2) (fld r 12 4) = none)
    (fun s r => fwWrite s 0xFF (fld r 0x10 8) (ledgerImage s (cmdCtx r) (fld r 8 2) (fld r 12 4)) (64 * fld r 12 4)) (fun _ _ => 0) ∧
  CompletesAs .ledgerWrite 0x25 anyKind
    (fun s r => 1 ≤ fld r 12 4 ∧ fld r 12 4 ≤ 65536 ∧ fld r 8 2 + fld r 12 4 ≤ 65536 ∧ isOpen s (cmdCtx r) = true ∧
      MayRead s 0xFF (fld r 0x10 8) (64 * fld r 12 4) ∧
      ledgerBad (fwRead s 0xFF (fld r 0x10 8) (64 * fld r 12 4)) (fld r 12 4) = none ∧
      (ctxOf s (cmdCtx r)).queued = [] ∧ (ctxOf s (cmdCtx r)).flight = [])
    (fun s r => ledgerStore s (cmdCtx r) (fld r 8 2) (fld r 12 4) (fwRead s 0xFF (fld r 0x10 8) (64 * fld r 12 4))) (fun _ _ => 0) ∧
  CompletesAs .stashWrite 0x26 anyKind
    (fun s r => 1 ≤ fld r 12 4 ∧ fld r 8 4 + fld r 12 4 ≤ (ctxOf s (cmdCtx r)).stash.handles ∧ isOpen s (cmdCtx r) = true ∧
      MayRead s 0xFF (fld r 0x10 8) (128 * fld r 12 4) ∧
      handlesBad (ctxOf s (cmdCtx r)).stash (fwRead s 0xFF (fld r 0x10 8) (128 * fld r 12 4)) (fld r 12 4) = none ∧
      badTouched s (physPieces s (cmdCtx r) [((ctxOf s (cmdCtx r)).stash.base + 128 * fld r 8 4, 128 * fld r 12 4)]) = none ∧
      (ctxOf s (cmdCtx r)).flight.any (fun f => f.op.cls = ucStash) = false ∧
      ∀ k, k < fld r 12 4 → hState (handleAt s (cmdCtx r) (fld r 8 4 + k)) = hsFree)
    (fun s r => (List.range (fld r 12 4)).foldl (fun u k => writeMapper u (cmdCtx r) (fld r 8 4 + k)
      (fld (fwRead s 0xFF (fld r 0x10 8) (128 * fld r 12 4)) (128 * k) 128)) s) (fun _ _ => 0)) ∧
  ((∀ (s : State) (place : Nat) (t : Cmd) (u : State) (c v : Nat), Begins s place 0x28 anyKind t → u = begun s t.raw → c = cmdCtx t.raw →
    MayRead u c (fld t.raw 8 8) 4096 → v = fwRead u c (fld t.raw 8 8) 4096 → ckptForm v = none → sourceBad u c v = none →
    destBad u c v (ckImage u c v).2 = none → isOpen u c = true → (ctxOf u c).queued = [] → (ctxOf u c).flight = [] → ckptBusy u c = false →
    badTouched u (physPieces u c (ckReads u c v)) = none →
    exec (.ckptSave place) s = .next (cmdRecord place (noteCmd u t.raw (saveCopies 4
      (noteTraffic (ledgerWriteBack u c) (physPieces u c (ckReads u c v)) []) c v
      (ckImage (noteTraffic (ledgerWriteBack u c) (physPieces u c (ckReads u c v)) []) c v).1
      (ckImage (noteTraffic (ledgerWriteBack u c) (physPieces u c (ckReads u c v)) []) c v).2 0)))) ∧
  WaitsAs .ckptRestore 0x29 anyKind
    (fun s r => 1 ≤ rsMask r ∧ rsMask r < 16 ∧ rsRemote r = true ∧ isOpen s (cmdCtx r) = true ∧ ctxQuiet s (cmdCtx r) = true ∧
      ckptBusy s (cmdCtx r) = false)
    (fun s r => askImage s r 64) (fun _ _ => [0, 0, 0, 0]) ∧
  (∀ (s : State) (place : Nat) (t : Cmd) (u : State), Begins s place 0x29 anyKind t → u = begun s t.raw →
    1 ≤ rsMask t.raw → rsMask t.raw < 16 → rsRemote t.raw = false → fwOk u (cmdCtx t.raw) (rsImage t.raw) 64 false = true →
    isOpen u (cmdCtx t.raw) = true → ctxQuiet u (cmdCtx t.raw) = true → ckptBusy u (cmdCtx t.raw) = false →
    exec (.ckptRestore place) s = .next (cmdRecord place (noteCmd u t.raw (restoreLocal u t.raw)))))

/-- FAB_RECORD keeps a valid record and applies the first; FAB_ROUTE sets route entries; FAB_TUNNEL opens a closed tunnel, or closes an open one; FAB_PORT disables, enables and retrains a port. -/
def Obligations.FabricCommandsComplete : Prop :=
  (∀ keep : State → Nat → State,
    keep = (fun s r => { s with flash := { s.flash with fabRec := fwRead s (cmdCtx r) (fld r 8 8) (fld r 0x10 4), fabLen := fld r 0x10 4 } }) →
    CompletesAs .fabRecord 0x30 anyKind
      (fun s r => 264 ≤ fld r 0x10 4 ∧ fld r 0x10 4 ≤ 262400 ∧ fld r 0x10 4 % 8 = 0 ∧ MayRead s (cmdCtx r) (fld r 8 8) (fld r 0x10 4) ∧
        s.mbx.taken.any (fun t => t.begun && cmdOp t.raw = 0x30) = false ∧
        recordBad (fwRead s (cmdCtx r) (fld r 8 8) (fld r 0x10 4)) (fld r 0x10 4) = none)
      (fun s r => if s.fab.recValid then keep s r
        else requestLabel (applyRecord (keep s r) (fwRead s (cmdCtx r) (fld r 8 8) (fld r 0x10 4))))
      (fun s _ => if s.fab.recValid then 0 else 1)) ∧
  CompletesAs .fabRoute 0x31 anyKind
    (fun s r => fld r 8 2 < 32768 ∧ 1 ≤ fld r 10 2 ∧ fld r 8 2 + fld r 10 2 ≤ 32768 ∧ MayRead s (cmdCtx r) (fld r 0x10 8) (8 * fld r 10 2) ∧
      ∀ k, k < fld r 10 2 → routeReserved (fld (fwRead s (cmdCtx r) (fld r 0x10 8) (8 * fld r 10 2)) (8 * k) 8) = false)
    (fun s r => updFab s fun f => { f with routes := (List.range (fld r 10 2)).foldl (fun m k =>
      smSet 0 m (fld r 8 2 + k) (fld (fwRead s (cmdCtx r) (fld r 0x10 8) (8 * fld r 10 2)) (8 * k) 8)) f.routes }) (fun _ _ => 0) ∧
  CompletesAs .fabTunnelOpen 0x32 (fun r => fld r 9 1 = 1)
    (fun s r => fld r 8 1 ≤ 63 ∧ MayRead s (cmdCtx r) (fld r 0x10 8) 96 ∧ tunnelBad (fwRead s (cmdCtx r) (fld r 0x10 8) 96) = none ∧
      fwPhysOk s (foremanRegions s) (fld (fwRead s (cmdCtx r) (fld r 0x10 8) 96) 0x30 8) (fld (fwRead s (cmdCtx r) (fld r 0x10 8) 96) 0x38 8) = true ∧
      regionOf s (fld (fwRead s (cmdCtx r) (fld r 0x10 8) 96) 0x30 8) = some .near ∧ (tunOf s (fld r 8 1)).opened = false)
    (fun s r => updTun s (fld r 8 1) fun _ =>
      { noTunnel with opened := true, blk := fwRead s (cmdCtx r) (fld r 0x10 8) 96, lastSent := jouHdr 2 (fld r 8 1) 0 0 0 0 (nowUs s) 0 })
    (fun _ _ => 0) ∧
  CompletesAs .fabTunnelClose 0x32 (fun r => fld r 9 1 = 2) (fun s r => fld r 8 1 ≤ 63 ∧ (tunOf s (fld r 8 1)).opened = true)
    (fun s r => updTun (tunnelDown s (fld r 8 1)) (fld r 8 1) fun _ => noTunnel) (fun _ _ => 0) ∧
  CompletesAs .fabPortDisable 0x33 (fun r => fld r 9 1 = 1) (fun _ r => fld r 8 1 ≤ 15)
    (fun s r => withHealth s (stopPort s (fld r 8 1) 0)) (fun _ _ => 0) ∧
  CompletesAs .fabPortEnable 0x33 (fun r => fld r 9 1 = 2) (fun _ r => fld r 8 1 ≤ 15)
    (fun s r => if (portOf s (fld r 8 1)).st = 2 then s else updPort s (fld r 8 1) fun x => { x with st := 1 }) (fun _ _ => 0) ∧
  CompletesAs .fabPortRetrain 0x33 (fun r => fld r 9 1 = 3) (fun _ r => fld r 8 1 ≤ 15)
    (fun s r => withHealth s (stopPort s (fld r 8 1) 1)) (fun _ _ => 0)

/-- TIME_READ writes the time; TIME_CONFIG takes a source, domain and ports; the trace commands configure, start, stop and flush the trace unit, restricted sources refused. LOG_READ writes the records asked for; PWR_CAP sets the cap and waits; PWR_RETAIN puts the groups it names into a state, OFF only where no open context's map covers them. -/
def Obligations.TimeTraceLogPowerCommandsComplete : Prop :=
  (CompletesAs .timeRead 0x38 anyKind (fun s r => MayWrite s (cmdCtx r) (fld r 8 8) 64)
    (fun s r => fwWrite s (cmdCtx r) (fld r 8 8) (timeData s) 64) (fun _ _ => 0) ∧
  CompletesAs .timeConfig 0x39 anyKind (fun _ r => fld r 8 1 ≤ 3 ∧ fld r 9 1 ≤ 127 ∧ fld r 10 1 ≤ 3)
    (fun s r => timeChanged s (chooseSource (updTime s fun t => { t with config := fld r 8 1, domain := fld r 9 1, ports := fld r 10 1 })))
    (fun _ _ => 0) ∧
  CompletesAs .traceConfig 0x3C anyKind
    (fun s r => fld r 8 8 % 4096 = 0 ∧ fld r 0x10 8 % 4096 = 0 ∧ 0x10000 ≤ fld r 0x10 8 ∧ fld r 0x10 8 ≤ 0x1000000000 ∧
      fld r 0x18 8 < 2 ^ 44 ∧ bits (fld r 0x18 8) 42 2 = 0 ∧ fwPhysOk s (foremanRegions s) (fld r 8 8) (fld r 0x10 8) = true ∧
      tracePlace s (fld r 8 8) = true ∧ s.trc.st = 0)
    (fun s r => updTrc s fun t => { t with configured := true, base := fld r 8 8, bytes := fld r 0x10 8, sources := fld r 0x18 8 })
    (fun _ _ => 0) ∧
  CompletesAs .traceStart 0x3D (fun r => fld r 8 1 = 1) (fun s _ => s.trc.configured = true) (fun s _ => traceStart s) (fun _ _ => 0) ∧
  CompletesAs .traceStop 0x3D (fun r => fld r 8 1 = 2) (fun s _ => s.trc.st ≠ 0) (fun s _ => traceStop s) (fun _ _ => 0) ∧
  CompletesAs .traceFlush 0x3D (fun r => fld r 8 1 = 3) (fun s _ => s.trc.st = 1) (fun s _ => traceDrain s) (fun _ _ => 0)) ∧
  ((∀ (first count : State → Nat → Nat), first = (fun s r => (logSpan s.ras (fld r 8 4) (fld r 12 2)).1) →
    count = (fun s r => (logSpan s.ras (fld r 8 4) (fld r 12 2)).2) →
    CompletesAs .logRead 0x40 anyKind
      (fun s r => 1 ≤ fld r 12 2 ∧ fld r 12 2 ≤ 4096 ∧ 1 ≤ count s r ∧ fwOk s (cmdCtx r) (fld r 0x10 8) (64 * fld r 12 2) true = true ∧
        badPartly s (fwPieces s (cmdCtx r) (fld r 0x10 8) (64 * count s r)) = none)
      (fun s r => readUpTo (fwWrite s (cmdCtx r) (fld r 0x10 8)
          (packBits ((List.range (count s r)).map fun i => (smGet 0 s.ras.ring ((first s r + i - 1) % ringSlots), 512))) (64 * count s r))
        (max s.ras.highRead (first s r + count s r - 1)))
      (fun s r => packBits [(count s r, 32), (seqOf (first s r + count s r), 32), (if s.ras.n = 0 then 0 else seqOf (oldestRec s.ras), 32)])) ∧
  WaitsAs .pwrCap 0x44 anyKind (fun _ r => 1200 ≤ fld r 8 2 ∧ fld r 8 2 ≤ 2750) (fun s r => updPwr s fun p => { p with cap := fld r 8 2 })
    (fun _ _ => []) ∧
  CompletesAs .pwrRetain 0x45 anyKind
    (fun s r => fld r 8 1 ≤ 15 ∧ fld r 10 1 ≤ 2 ∧ (fld r 10 1 = 2 → (namedGroups r).any (groupMapped s) = false))
    (fun s r => traceState ((namedGroups r).foldl (fun s g => setGroup s (fld r 10 1) g) s) 35 0xFF) (fun _ _ => 0))

/-! ### Reset, inputs and start-up -/

/-- Every cause of module reset takes the module into reset: a MODULE_RESET write with its key, an input below 40 V, a bus fault, the tray's reset, the button; each is recorded. -/
def Obligations.ResetCausesReset : Prop :=
  ∀ (s : State), s.aoc.on = true →
    (∀ v : BitVec 64, barOn s = true → bits v.toNat 8 8 = 0xC3 → bit v.toNat 1 = true →
      exec (.moduleReset v) s = .next (assertCause s rcHost)) ∧
    exec .inputUndervolt s = .next (assertCause s rcUndervolt) ∧
    exec .railFault s = .next (withHealth s (assertCause s rcUndervolt)) ∧
    exec .trayResetAssert s = .next (assertCause (inputEvent (inputLevel s 0 true) 0 inputSpacing) rcTray) ∧
    (s.aoc.buttonIgnored = false →
      exec .resetButtonClose s = .next (assertCause (inputEvent (inputLevel s 2 true) 2 inputSpacing) rcButton))

/-- A cause that is asserted leaves the module off or in reset, with the cause's bit in those asserted and seen; a reset keeps the counter of elapsed time, the boot count and flash, and closes every context. -/
def Obligations.AssertedCauseResets : Prop :=
  ∀ (s : State) (k : Nat), (assertCause s k).mode = .offOrReset ∧
    (assertCause s k).aoc.causes = s.aoc.causes ||| 2 ^ k ∧ (assertCause s k).aoc.seen = s.aoc.seen ||| 2 ^ k ∧
    (assertCause s k).elapsed = s.elapsed ∧ (assertCause s k).boot = s.boot ∧ (assertCause s k).flash = s.flash ∧
    (s.mode ≠ .offOrReset → (assertCause s k).ctxs = List.replicate 8 resetCtx ∧ (assertCause s k).mbx = resetMbx ∧
      (assertCause s k).quarry = resetQuarry ∧ (assertCause s k).fab = resetFab ∧ (assertCause s k).trc = resetTrc)

/-- The reset inputs' ends: a deasserted input withdraws its cause; a button held for 8 s is stuck and ignored; a button seen open is no longer ignored; with no input holding it the module leaves reset into start-up, one boot later, with the causes seen latched. -/
def Obligations.ResetInputsRun : Prop :=
  ∀ (s : State), s.aoc.on = true →
    exec .trayResetDeassert s = .next (dropCause (unstick s 0 false) rcTray) ∧
    exec .resetButtonOpen s = .next (dropCause (unstick s 2 false) rcButton) ∧
    (nth false s.aoc.level 2 = true → s.aoc.buttonIgnored = false →
      exec .buttonStuck s = .next (withHealth s (stuckError (inputEvent (dropCause
        (updAoc s fun a => { a with buttonStuck := true, buttonIgnored := true, stuck := a.stuck.set 2 true }) rcButton) 2 inputSpacing) 2))) ∧
    (nth false s.aoc.level 2 = false → exec .buttonIgnoredClear s = .next (updAoc s fun a => { a with buttonIgnored := false })) ∧
    (s.mode = .offOrReset → bit s.aoc.causes rcTray = false → bit s.aoc.causes rcButton = false →
      exec .moduleResetRelease s = .next (withHealth s (fwStateChg (domRise (domRise
        { s with aoc := { s.aoc with cause := s.aoc.seen, seen := 0, causes := 0, lastStep := 3 }
                 boot := (s.boot + 1) % 2 ^ 32, mode := .startUp, hif := { s.hif with on := true } } 50) 63))))

/-- Edges and stuck inputs: a PPS edge is used for acquisition, or disciplines time within its window; a SYNC edge latches the counter, or is dropped when it comes within 10 µs; an input that keeps a level for its timeout is stuck, logged, and produces its event. -/
def Obligations.EdgesRun : Prop :=
  ∀ (s : State), s.aoc.on = true →
    (s.aoc.ppsLocked = false → exec .ppsEdge s = .next (ppsAcquire (updAoc s fun a => { a with level := a.level.set 3 true }))) ∧
    (s.aoc.ppsLocked = true → ppsInWindow s = true → ppsUsed s = true →
      exec .ppsEdge s = .next (updTime (updAoc (countEvent (unstick s 3 true) 3) fun a =>
        { a with ppsEdges := (nowNs s :: a.ppsEdges).take 3 }) fun t => { t with slew := ppsError s })) ∧
    (∀ t, nth none s.aoc.lastEvent 4 = some t → nowNs s < t + 10000 → exec .syncEdge s = .next (countDropped (unstick s 4 true) 4)) ∧
    ((∀ t, nth none s.aoc.lastEvent 4 = some t → t + 10000 ≤ nowNs s) →
      exec .syncEdge s = .next (updAoc (countEvent (unstick s 4 true) 4) fun a => { a with syncStamp := s.elapsed })) ∧
    (∀ n : Fin 6, n.val ≠ 2 → (n.val < 2 → nth false s.aoc.level n = true) → nth false s.aoc.stuck n = false →
      exec (.inputStuck n) s = .next (withHealth s (stuckError (stuckEvent (updAoc s fun a => { a with stuck := a.stuck.set n true }) n) n)))

/-- The host's side: PERST_N resets the host interface and abandons the commands outstanding, its release lets the link train; a link that is up is usable, one that goes down ends host transfers and loses the rings; a step of the heartbeat counts while the Foreman runs. -/
def Obligations.HostLinkRuns : Prop :=
  ∀ (s : State),
    (s.aoc.on = true → ∀ u, u = abandonCmds (linkDown (updAoc (inputEvent (inputLevel s 1 true) 1 inputSpacing) fun a => { a with perstSeen := true })) →
      exec .perstAssert s = .next { u with hif := { warmHif u.hif u.hif.on with perst := true }, mbx := perstMbx u.mbx }) ∧
    (s.aoc.on = true → exec .perstRelease s = .next (unstick { s with hif := { s.hif with perst := false } } 1 false)) ∧
    (s.hif.on = true → s.hif.perst = false → s.mode ≠ .offOrReset →
      exec .pcieLinkUp s = .next (traceResume { s with hostUp := true, aoc := { s.aoc with lastStep := max s.aoc.lastStep 4 } })) ∧
    (s.hostUp = true → exec .pcieLinkDown s = .next (loseRings ((List.range 8).foldl endHostFlights { traceSuspend s pcieDomain with hostUp := false }))) ∧
    (s.mbx.fwState = 2 → exec .heartbeatTick s = .next (updMbx s fun m => { m with heartbeat := m.heartbeat + 1 }))

/-- Power of the management island and the input: power on is a cold reset with the straps' slot, logged where they disagree; loss of power resets the module with the relays closed and the alert released; a low input is logged and takes the module into relay-only; a dip changes nothing. -/
def Obligations.PowerInputsRun : Prop :=
  ∀ (s : State),
    (∀ slot : BitVec 2, exec (.mgmtPowerOn slot true) s = .next (coldReset s slot.toNat true) ∧
      exec (.mgmtPowerOn slot false) s = .next (logErr (coldReset s slot.toNat false) 14 2 0x16 0xFF 0)) ∧
    exec .mgmtPowerLoss s = .next
      { resetModule s with
        aoc := { (resetModule s).aoc with on := false, label := { (resetModule s).aoc.label with busy := false } }
        pwr := { (resetModule s).pwr with alert := false } } ∧
    (s.mode ≠ .offOrReset → exec .inputLow s = .next (withHealth s (relayEnter (logErr s 10 3 0x16 0xFF 63) causeInput))) ∧
    exec .inputDip s = .next s

/-- Start-up runs from the bank that boots to FW_STATE 2; with no bank it waits for a recovery image: a good one starts it, a bad one has its failure shown in MBX_SCRATCH2; a Foreman restart abandons the commands outstanding, ends the open contexts and boots again. The label's pending request begins to be drawn unless the panel is too cold or warm, and a drawing in progress ends. -/
def Obligations.StartUpRuns : Prop :=
  (∀ (s : State) (o : StartOutcome),
    (s.mode = .startUp → s.mbx.fwState = 0 →
      (∀ k, bootSelect s o.badBank0 o.badBank1 = some k → o.reaches = true →
        exec (.startUp o) s = .next (withHealth s (startRest (setFwState (bootBank (reachStep s 5) k) 1) o))) ∧
      (bootSelect s o.badBank0 o.badBank1 = none → exec (.startUp o) s = .next (withHealth s (bootFails (reachStep s 5))))) ∧
    (∀ v : BitVec 64, barOn s = true → s.mbx.fwState = 3 → v.toNat = 0x52454356 → s.mode = .startUp →
      exec (.recoveryImageLoad v o) s = .next (match recoveryCheck s with
        | none => withHealth s (startImage (setScratch (installRecovery s) 1 0) o)
        | some d => setScratch (setScratch s 2 (BitVec.ofNat 64 d)) 1 0)) ∧
    (∀ (v : BitVec 64) (b0 b1 : Bool), barOn s = true → bits v.toNat 8 8 = 0xC3 → bit v.toNat 0 = true → bit v.toNat 1 = false →
      exec (.foremanRestart v b0 b1) s = .next (withHealth s (logRestart (restartBoot (restartCloses (abandonCmds s)) b0 b1))))) ∧
  (∀ (s : State) (cold : Bool), s.aoc.on = true →
    (s.aoc.label.busy = true → exec (.labelDrawing cold) s = .next (endDrawing s)) ∧
    (s.aoc.label.busy = false → s.aoc.label.pend = true → exec (.labelDrawing false) s = .next (beginDrawing s)))

/-! ### Registers and BAR2 -/

/-- Register accesses over a BAR0 that answers: the clears of the counter blocks, CLEAR_PEAK, RAS_FIRST_CLR, HW_RESET, a read of the elapsed-time counter, writes of registers with no row of their own, BAR2's size; and the tray's read over I2C at the module's own address. -/
def Obligations.RegisterAccessesRun : Prop :=
  (∀ (s : State) (z : Bool), barOn s = true →
    exec (.qryPerfClear z) s = .next { s with quarry :=
      { s.quarry with loadCyc := 0, streamCyc := 0, stallCyc := 0, idleCyc := 0, gatedCubes := 0, keepHit := 0, keepMiss := 0, sumpCe := 0
                      drainCyc := 0, freeze := z } } ∧
    exec (.memPerfClear z) s = .next { s with memS := { s.memS with nearRd := 0, nearWr := 0, farRd := 0, farWr := 0, agedGrants := 0, freeze := z } } ∧
    exec (.cruPerfClear z) s = .next { s with cru := ⟨z, s.cru.cnt.map fun _ => 0⟩ } ∧
    exec (.rsPerfClear z) s = .next { s with rs := ⟨z, s.rs.cnt.map fun _ => 0⟩ } ∧
    exec (.splPerfClear z) s = .next { s with spl := ⟨z, s.spl.cnt.map fun _ => 0⟩ } ∧
    exec (.tapPerfClear z) s = .next { s with tap := { s.tap with perf := ⟨z, s.tap.perf.cnt.map fun _ => 0⟩ } } ∧
    exec (.vccPerfClear z) s = .next { s with vcc :=
      { s.vcc with perf := ⟨z, s.vcc.perf.cnt.map fun _ => 0⟩, busy := s.vcc.busy.map fun _ => 0 } } ∧
    exec (.fabPerfClear z) s = .next (updFab s fun f => { f with perf := ⟨z, f.perf.cnt.map fun _ => 0⟩ }) ∧
    exec (.colPerfClear z) s = .next (updFab s fun f => { f with col := ⟨z, f.col.cnt.map fun _ => 0⟩ })) ∧
  (∀ (s : State), barOn s = true →
    (∀ m : BitVec 8, exec (.clearPeak m) s = .next { s with stash :=
      { cnt := s.stash.cnt.zipIdx.map fun p => if m.getLsbD (p.2 / 8) && p.2 % 8 < 6 && p.2 % 2 = 1 then nth 0 s.stash.cnt (p.2 - 1) else p.1
        mask := m.toNat } }) ∧
    (∀ v : BitVec 64, exec (.rasFirstClr v) s =
      .next { s with ras := { s.ras with first := s.ras.first.zipIdx.map fun p => if v.getLsbD p.2 then noCapture else p.1 } }) ∧
    exec .hwReset s = .next { s with ras := { s.ras with highWater := s.ras.fifo.length } } ∧
    exec .timElapsedRead s = .next { s with time := { s.time with latch := s.time.offset }
                                            hif := { s.hif with rdStatus := 0, rdData := s.elapsed.toNat } } ∧
    (∀ (o : BitVec 24) (v : BitVec 64), o.toNat % 8 = 0 → exec (.registerWrite o v) s = .next
      (if o.toNat < 0x2000 then mbxWrite s o.toNat v.toNat
       else if o.toNat < 0x2080 then apWrite s ((o.toNat - 0x2000) / 8) v.toNat
       else if 0x10000 ≤ o.toNat ∧ o.toNat < 0x20000 then wrPhys s (0x80010000 + (o.toNat - 0x10000)) v.toNat 8
       else unitWrite s o.toNat v.toNat)) ∧
    (∀ n : Fin 6, exec (.bar2Resize n) s = .next { s with hif := { s.hif with
      bar2Log2 := 36 + n, aps := (List.range 16).map fun k => (nearBase + k * 2 ^ (32 + n.val), true) } })) ∧
  (∀ (s : State) (a : BitVec 7) (o : BitVec 16), s.aoc.on = true → a.toNat = 0x60 + s.aoc.slot →
    exec (.i2cRegisterRead a o) s = .next { countEvent (countEvent (unstick s 5 true) 5) 5 with
      hif := { s.hif with i2c := if o.toNat < 0x1000 ∧ o.toNat % 8 = 0 then aocReg s o.toNat else 0 } })

/-- A BAR2 access within 4 KiB and within BAR2 goes through an enabled aperture to memory: powered near-tier or far-tier memory, or Stockpile in a group that is not OFF, is read, or written. -/
def Obligations.Bar2AccessesRun : Prop :=
  ∀ (s : State) (addr len data da : Nat) (r : Region), barOn s = true → 1 ≤ len → addr % 4096 + len ≤ 4096 → addr + len ≤ 2 ^ s.hif.bar2Log2 →
    bar2Da s addr = some da → bar2Region s da len = some r → r ≠ .sump → regionOn s r da = true → (r = .stockpile → retOf s da ≠ 2) →
    exec (.bar2Access false addr len data) s = .next (withHealth s (bar2Read s da len)) ∧
    exec (.bar2Access true addr len data) s = .next (withHealth s (bar2Write s da len data))

/-! ### Heat and power -/

/-- Heat and power: junction, stack and package temperatures are kept and acted on, throttle levels rise and fall step by step, the alert is released when no condition is left, a power sample is kept and completes the PWR_CAP that waits for it, and the cap's level follows the average. -/
def Obligations.HeatAndPowerAct : Prop :=
  (∀ (s : State), powered s = true →
    (∀ (face : Fin 4) (l : List Int) (t : Int), (usableSensors l).max? = some t → (usableSensors l).length = l.length →
      exec (.faceJunctionReading face l) s = .next (withHealth s (driveAlert (actOnJunction s face (t + calEff s (0x30 + face)))))) ∧
    (∀ (face : Fin 4) (l : Nat),
      l = (if 1 ≤ nth 0 s.pwr.jRow face then min (nth 0 s.pwr.jLevel face + 1) levelTop else nth 0 s.pwr.jLevel face - 1) →
      exec (.junctionThrottleStep face) s = .next (levelChange s 2 (updPwr s fun p => { p with jLevel := p.jLevel.set face l }))) ∧
    (∀ (face : Fin 4),
      (20000 < hotterBy s face → exec (.neighbourThrottleStep face) s = .next (levelChange s 3 (updPwr s fun p => neighbourUp p face))) ∧
      (hotterBy s face ≤ 20000 → 15000 < hotterBy s face → exec (.neighbourThrottleStep face) s = .next s) ∧
      (hotterBy s face ≤ 15000 → exec (.neighbourThrottleStep face) s = .next (levelChange { s with free := s.free + 1 } 3
        (updPwr { s with free := s.free + 1 } fun p => neighbourDown (Config.freeBit s.free) p face)))) ∧
    (∀ (pkg : Fin 16) (r : Int) (mult : Nat) (hot : Bool), domIsOn s (if pkg.val < 8 then 43 else 55) = true →
      hot = (if 105000 < r then true else if r ≤ 100000 then false else nth false s.memS.farHot pkg) →
      exec (.farTempReport pkg r mult) s =
        .next { s with memS := { s.memS with farHot := s.memS.farHot.set pkg hot, farMult := s.memS.farMult.set pkg mult } })) ∧
  (∀ (s : State),
    (powered s = true → ∀ (k : Fin 8) (r t : Int) (u : State), domIsOn s (stackDomain k) = true → t = r + calEff s (0x40 + k) →
      u = driveAlert (levelChange { s with free := s.free + 1 } 4 { s with
        free := s.free + 1
        memS := { s.memS with stackStep := s.memS.stackStep.set k (stackStepOf (nth 0 s.memS.stackStep k) t)
                              stackTemp := s.memS.stackTemp.set k (stackByte s.free t) } }) →
      stackStepOf (nth 0 s.memS.stackStep k) t ≤ nth 0 s.memS.stackStep k →
      exec (.hbmTempReading k r) s = .next (withHealth s (driveAlert
        (if 95000 < t ∧ nth 0 s.memS.stackStep k = 2 ∧ u.pwr.emergency = false then thermalEmergency u (8 + k) else u)))) ∧
    (alertCond s = false → exec .thermAlertRelease s = .next (updPwr s fun p => { p with alert := false })) ∧
    (s.aoc.on = true → ∀ vin pin : BitVec 16, exec (.powerSample vin pin) s = .next (updMbx
      (updPwr (inputHigh s vin.toNat) fun p => { p with vin := vin.toNat, pin := pin.toNat }) fun m => { m with taken := m.taken.map (capDone s.pwr.cap pin.toNat) })) ∧
    (powered s = true → ∀ l : Nat, l = (if capInForce s < s.pwr.pin then min (s.pwr.capLevel + 1) levelTop
        else if 100 * s.pwr.pin < 95 * capInForce s then s.pwr.capLevel - 1 else s.pwr.capLevel) →
      exec .capLevelStep s = .next (levelChange s 1 (updPwr s fun p => { p with capLevel := l }))))

/-- Domains, retention and scrubbing: a demand domain in use, a plane with a context open or a fallen far domain wakes; an idle demand domain falls; an idle group enters RETAIN; the scrubbers read lines of powered memory, and report what they correct. -/
def Obligations.PowerManagementActs : Prop :=
  ∀ (s : State),
    (∀ d : Fin 64, (s.mode = .serving ∨ s.mode = .relayAndReport) → domFenced s d = false →
      (demandDomains.contains d.val = true ∧ domInUse s d = true ∨ planeDomains.contains d.val = true ∧ anyOpen s = true ∨
        farDomains.contains d.val = true) →
      exec (.domainWake d) s = .next (domRise s d)) ∧
    (∀ d : Fin 64, (demandDomains.contains d.val = true ∧ domInUse s d = false ∨
        farDomains.contains d.val = true ∧ anyOpen s = false ∧ s.mode = .relayAndReport) →
      exec (.domainIdlePowerDown d) s = .next (domFall s d)) ∧
    (∀ g : Fin 32, s.mbx.autoRetainUs ≠ 0 → nth 0 s.memS.ret g = 0 → domIsOn s (10 * (g.val / 8) + 2) = true →
      exec (.retentionAutoEntry g) s = .next { s with memS := { s.memS with ret := s.memS.ret.set g 1 } }) ∧
    (∀ (l : Fin 16777216) (b : Fin 576), domIsOn s (10 * (64 * l.val / 0x10000000) + 2) = true → retOf s (64 * l.val) ≠ 2 →
      badTouched s [(64 * l.val, 64)] = none →
      exec (.stockpileScrub l none) s = .next (withHealth s (noteTraffic s [(64 * l.val, 64)] [])) ∧
      exec (.stockpileScrub l (some b)) s = .next (withHealth s (scrubCorrected (noteTraffic s [(64 * l.val, 64)] []) 0 (64 * l.val) b))) ∧
    (∀ (l : Fin 6442450944) (u : State), regionOf s (nearBase + 64 * l.val) = some .near →
      domIsOn s (stackDomain ((nearPlace s (nearBase + 64 * l.val)).1 / 32)) = true →
      u = noteTraffic s [(nearBase + 64 * l.val, 64)] [] → badTouched s [(nearBase + 64 * l.val, 64)] = none →
      exec (.nearScrub l false) s = .next (withHealth s u) ∧
      exec (.nearScrub l true) s = .next (withHealth s (scrubCorrected { u with free := u.free + 1 } 1 (nearBase + 64 * l.val)
        (Config.freeWord u.free).toNat)))

/-! ### Time and the ring -/

/-- Time: a PTP exchange on a port and domain listened to gives an estimate; 2 s without one make time invalid; a good TIME frame of another station is noted, used and forwarded; 3 ms without one end the sideband as a source; a master in the ring with valid time sends one. -/
def Obligations.TimeSourcesAct : Prop :=
  ∀ (s : State),
    (∀ (port : Fin 2) (d : BitVec 8) (est : BitVec 64) (asym : Nat), ptpListens s port d.toNat = true →
      exec (.ptpMessageReceive port d est asym) s = .next (timeChanged s (takeEstimate
        (chooseSource (updTime s fun t => { t with lastPtp := some (nowNs s) })) 2 est (asym / 2 + 8)))) ∧
    (s.time.valid = true → exec .timeHoldoverExpiry s = .next (timeChanged s (chooseSource
      (updTime s fun t => { t with valid := false, lastEst := none, lastPtp := none, slew := 0 })))) ∧
    (∀ (len f : Nat) (r : BitVec 32), ringListens s = true → ringGood len f = true → rgType f = 1 →
      (s.fab.sbr.master = true → rgSrc f ≠ s.fab.sbr.station) → exec (.timeFrameReceive len f r) s = .next (takeTimeFrame s f r.toNat)) ∧
    exec .timeFrameTimeout s = .next (timeChanged s (chooseSource (updSbr s fun r => { r with timeValid := false }))) ∧
    (ringMaster s = true → s.time.valid = true → exec .timeFrameSend s = .next (ringOriginate
      (updSbr s fun r => { r with timeSeq := (s.fab.sbr.timeSeq + 1) % 65536 }) 1 14
      (packBits [((sysTime s).toNat, 64), (0, 32), ((s.fab.sbr.timeSeq + 1) % 65536, 16)])))

/-- The sideband ring: a good frame locks the receiver and is forwarded, DISCOVER giving a station in the ring its number; insertion opens the relays; the loss of lock clears LOCKED; a master in the ring sends INSERT_WINDOW and DISCOVER. -/
def Obligations.RingRuns : Prop :=
  ∀ (s : State),
    (∀ (len f : Nat), ringListens s = true → ringGood len f = true → rgType f ≠ 1 →
      (∀ u, u = updSbr s (fun r => { r with locked := true }) →
        (rgType f = 3 → s.fab.sbr.inserted = true → s.fab.sbr.master = false → ringRemoves u f = false →
          exec (.ringFrameReceive len f) s = .next (ringOut (updSbr u fun r => { r with station := fld f 8 1 })
            (setFld (setFld f 1 1 (rgHops f - 1)) 8 1 ((fld f 8 1 + 1) % 256)) (8 + rgLen f))) ∧
        (rgType f ≠ 3 → exec (.ringFrameReceive len f) s = .next (ringForward u f)))) ∧
    (ringListens s = true → s.mbx.fwState ≠ 3 → s.fab.sbr.relayOpen = false →
      exec .ringInsert s = .next (updSbr s fun r =>
        { r with moves := min (r.moves + 1) 65535, relayOpen := true, inserted := true, locked := true })) ∧
    (s.mode ≠ .relayOnly → exec .ringLockLost s = .next (updSbr s fun r => { r with locked := false })) ∧
    (s.mode = .relayOnly → exec .ringLockLost s = .next (closeRelays (updSbr s fun r => { r with locked := false }))) ∧
    (ringMaster s = true → exec .insertWindow s = .next (ringOriginate { s with free := s.free + 1 } 2 2 ((Config.freeWord s.free).toNat % 65536)) ∧
      exec .discover s = .next (ringOriginate s 3 1 1))

/-! ### Links and packets -/

/-- A port that is up takes the header of a good frame in order, and the packet of a PKT frame into its receive buffer; it reports acknowledgements, moves a failed lane to a good spare, changes its width, and goes down; a port that trains comes up at the end of its INIT exchange. -/
def Obligations.LinksRun : Prop :=
  ∀ (s : State) (port : Fin 16), fabricOn s = true →
    ((portOf s port).st = 2 →
      (∀ (fec len f : Nat) (k : Pkt), frameGood len f = true → bits f 0 4 = 0 → bits f 8 12 = (portOf s port).expect →
        framePacket len f = some k →
        exec (.linkFrameReceive port fec len f) s = .next (pushRx (updPort (updPort (fabCount s fcFecUncorr fec) port fun p =>
          { takeHeader p f with expect := ((takeHeader p f).expect + 1) % 4096 }) port pumpPort) port (bits f 4 3) k)) ∧
      exec (.ackReport port) s = .next (updPort s port fun p => sendFrame p 1 0 0 0) ∧
      (∀ lane : Fin 4, (portOf s port).spareFor = 7 → bit (portOf s port).laneOk 4 = true → bit (portOf s port).laneOk lane = true →
        exec (.laneSwap port lane) s = .next (withHealth s (laneSwapped
          (updPort s port fun p => { p with spareFor := lane, laneOk := p.laneOk - 2 ^ lane.val }) port lane))) ∧
      (∀ l : BitVec 5, widthOf l.toNat ≠ (portOf s port).width → widthOf l.toNat ≠ 0 →
        exec (.widthChange port l) s = .next (withHealth s (laneEvent (updPort (fabCount (updPort s port fun p => { p with laneOk := l.toNat })
          fcLaneSwaps 1) port fun p => { p with width := widthOf l.toNat }) 2 port 0))) ∧
      exec (.portDown port) s = .next (withHealth s (portDown s port 1))) ∧
    (∀ (peer : BitVec 15) (pp : Fin 16) (rv : Bool) (l : BitVec 5), (portOf s port).st = 1 → widthOf l.toNat ≠ 0 →
      exec (.portInit port peer pp rv l) s = .next (withHealth s (updPort s port fun p =>
        { p with st := 2, width := widthOf l.toNat, laneOk := l.toNat, spareFor := 7, peerNode := peer.toNat, peerPort := pp
                 peerUnassigned := !rv, next := 0, expect := 0, replay := [], egress := []
                 credits := List.replicate 8 1024, owed := List.replicate 8 0, lastTx := 0 })))

/-- Packets and answers: a packet for another node goes on with HOPS decremented; at its destination a WRITE, READ_REQ or SIGNAL acts on the context of its JOB and is answered, a READ_RSP that completes its request lets the operation go on, a CTRL packet goes to the Foreman, a COLL packet to its group's instance in flight; an ACK of OK or PROXIED lets its operation go on, REFUSED and NO_ROUTE end it, and so does a transaction unanswered for REMOTE_TIMEOUT. -/
def Obligations.PacketsRun : Prop :=
  (∀ (s : State) (i : Nat) (r : RxPkt), s.fab.rx[i]? = some r →
    (forMe s r = false → s.fab.recValid = true → 1 ≤ pkHops r.pkt →
      (placePkt (takeRx s i r) (decide (17 ≤ r.src)) (rxIod r) (setRoute r.pkt (pkFlags r.pkt) (pkHops r.pkt - 1))).isSome = true →
      exec (.packetForward i) s = .next (fabCount (sendPkt (takeRx s i r) (decide (17 ≤ r.src)) (rxIod r)
        (setRoute r.pkt (pkFlags r.pkt) (pkHops r.pkt - 1))) fcTransit (pkBytes (setRoute r.pkt (pkFlags r.pkt) (pkHops r.pkt - 1))))) ∧
    (forMe s r = true → s.fab.recValid = true →
      (∀ (c : Nat) (u : State), u = takeRx s i r → jobCtx u (pkJob r.pkt) = some c →
        (pkType r.pkt = ptWrite → footOk u c deviceRegions false true [(pkDa r.pkt, pkLen r.pkt)] = true →
          badPartly u (physPieces u c [(pkDa r.pkt, pkLen r.pkt)]) = none →
          ∀ v, v = noteTraffic (clearBad (wrNum u c (pkDa r.pkt) r.pkt.pay (pkLen r.pkt)) (physPieces u c [(pkDa r.pkt, pkLen r.pkt)])) []
              (physPieces u c [(pkDa r.pkt, pkLen r.pkt)]) →
            exec (.write i) s = .next (sendPkt v true (rxIod r) (answer v r.pkt ackOk))) ∧
        (pkType r.pkt = ptReadReq → footOk u c deviceRegions true false [(pkDa r.pkt, pkAux r.pkt)] = true →
          badTouched u (physPieces u c [(pkDa r.pkt, pkAux r.pkt)]) = none →
          exec (.readReq i) s = .next ((readRsps u c r.pkt).foldl (fun s p => sendPkt s true (rxIod r) p)
            (noteTraffic u (physPieces u c [(pkDa r.pkt, pkAux r.pkt)]) []))) ∧
        (pkType r.pkt = ptSignal →
          ∀ v, v = lowWater u (addTally u c (pkAux r.pkt) (pkDa r.pkt)) c →
            exec (.signal i) s = .next (sendPkt v true (rxIod r) (answer v r.pkt ackOk)))) ∧
      (∀ (t : Txn) (f : Flight) (u v : State), u = takeRx s i r → pkType r.pkt = ptReadRsp →
        (u.fab.txns.find? fun t => t.sent && t.tag = pkTag r.pkt && pkType t.pkt = ptReadReq) = some t →
        pkAux t.pkt ≤ t.got + pkLen r.pkt →
        v = updFab u (fun f => { f with reads := f.reads ++ [⟨t.ctx, t.opIndex, pkDa r.pkt, pkLen r.pkt, r.pkt.pay⟩]
                                        txns := dropFirst (fun u => u.tag = t.tag) f.txns }) →
        fabFlight v t.ctx t.opIndex = some f → exec (.readRsp i) s = .next (pumpTxns (p2pProgress v t.ctx f)))) ∧
    (forMe s r = true → pkType r.pkt = ptCtrl →
      exec (.ctrl i) s = .next (if pkAux r.pkt = 1 ∧ 32 ≤ pkLen r.pkt then postRemoteError (takeRx s i r) r.pkt.pay else takeRx s i r))) ∧
  (∀ (s : State),
    (∀ (i : Nat) (r : RxPkt) (t : Txn) (u v : State), s.fab.rx[i]? = some r → s.fab.recValid = true → forMe s r = true →
      pkType r.pkt = ptAck → u = takeRx s i r → (u.fab.txns.find? fun t => t.sent && t.tag = pkTag r.pkt) = some t → t.half ≠ 2 →
      v = updFab u (fun f => { f with txns := dropFirst (fun u => u.tag = t.tag) f.txns }) →
      exec (.ack i) s = .next (collKick
        (if pkAstat r.pkt = ackRefused then
          opFail v t stAddress (refusedDetail (((fabFlight u t.ctx t.opIndex).map fun f => f.op.opcode).getD 0))
        else if pkAstat r.pkt = ackNoRoute then opFail v t 0xB0 (txnDetail t)
        else opProgress v t))) ∧
    (∀ (g : Nat) (c : Fin 8) (k : Nat) (node : BitVec 15) (t : Txn), fabricOn s = true →
      (s.fab.txns.find? fun t => t.sent && t.tag = g) = some t → t.half ≠ 2 →
      exec (.remoteTimeout (some g) c k node) s = .next (collKick (opFail s t 0xB1 (txnDetail t)))) ∧
    (∀ (i c : Nat) (r : RxPkt) (j : CollInst) (u : State), s.fab.rx[i]? = some r → s.fab.recValid = true → forMe s r = true →
      pkType r.pkt = ptColl → bits (pkDa r.pkt) 12 4 = 0 → bits (pkAux r.pkt) 0 4 < 5 → jobCtx s (pkJob r.pkt) = some c →
      (boundTo s c (bits (pkDa r.pkt) 0 10) = 0 ∨ 16 ≤ r.src ∨ rxIod r = boundTo s c (bits (pkDa r.pkt) 0 10) - 1 ∨ transitOk s = true) →
      (s.fab.insts.find? fun j => j.ctx = c && gId j.group = bits (pkDa r.pkt) 0 10 && j.cseq % 4096 = pkCseq r.pkt) = some j →
      u = takeRx s i r → exec (.coll i) s = .next (collKick (collTake u j r.pkt))))

/-- Ethernet and tunnels: a frame goes to its handler and is counted there; a DATA, ACK or PROBE datagram of an open tunnel acts on it; its timers acknowledge, resend, release the fence and take it down. -/
def Obligations.TunnelsRun : Prop :=
  ∀ (s : State), fabricOn s = true →
    (∀ (port : Fin 2) (len f : Nat), domIsOn s (59 + port) = true → exec (.ethernetFrameReceive port len f) s =
      .next (updFab s fun x => { x with eth := updAt x.eth port fun l => updAt l (ethHandler s port len f) (· + 1) })) ∧
    (∀ (port : Fin 2) (ce : Bool) (len d : Nat) (ps : List Pkt), jouOk s 0 len d = true →
      splitPkts (len / 32) (d >>> 256) (len - 32) = some ps → ps ≠ [] → (tunOf s (fld d 4 2)).up = true →
      exec (.jouData port ce len d) s = .next (takeDatagram s (fld d 4 2) (fld d 8 4) ce len (fld d 0x18 4) ps)) ∧
    (∀ (port : Fin 2) (len d : Nat), jouOk s 1 len d = true → (tunOf s (fld d 4 2)).up = true →
      exec (.jouAck port len d) s = .next (pumpTun (updTun s (fld d 4 2) fun _ => ackTunnel (tunOf s (fld d 4 2)) (fld d 0x0C 4) (fld d 0x10 8)
        ((nowUs s + 2 ^ 32 - fld d 0x1C 4) % 2 ^ 32 * 1000) (bit (fld d 6 2) 0)) (fld d 4 2))) ∧
    (∀ (port : Fin 2) (len d : Nat) (u : State), jouOk s 2 len d = true →
      u = (if (tunOf s (fld d 4 2)).up then s else updTun s (fld d 4 2) fun u => { clearTunnel u with up := true }) →
      exec (.probe port len d) s = .next (updTun u (fld d 4 2) fun x =>
        { x with lastSent := jouHdr 3 (fld d 4 2) 0 0 0 0 (nowUs u) (fld d 0x18 4) })) ∧
    (∀ (t : Fin 64), (tunOf s t).up = true →
      ((tunOf s t).unacked ≠ 0 → exec (.jouAckTimer t) s = .next (sendJouAck s t)) ∧
      (∀ (q : BitVec 32) (b : Bool) (g : Dgram), ((tunOf s t).buf.find? fun g => g.seq = q.toNat) = some g → (b = true ∨ 3 ≤ g.later) →
        exec (.jouRetransmit t q b) s = .next (updTun (fabCount (fabCount s fcJouRetx 1) fcJouTx (pkBytes g.pkt)) t fun u => cutWindow
          { u with buf := updFirst (fun x => x.seq = q.toNat) (fun x => { x with sentAt := nowNs s, later := 0 }) u.buf
                   backoff := if b then u.backoff + 1 else u.backoff })) ∧
      (∀ h, ((tunOf s t).held.find? fun h => fenceOpen s t h.1) = some h →
        exec (.jouFenceRelease t) s = .next (pumpTxns (addGateTxn
          (updTun s t fun u => { u with held := dropFirst (fun x => x = h) u.held }) t h.1 h.2))) ∧
      exec (.tunnelDown t) s = .next (postEvent (logErr (fabCount (tunnelDown s t) fcTunnelDown 1) 6 1 0x14 0xFF (t.val * 2 ^ 16)) 0x85 0xFF 0 t))


/-! ### What every step keeps -/

/-- Every step keeps the invariant: canonical memory, eight contexts, at most 64 commands outstanding, legal apertures, a module in reset that does not serve, a tray reset that holds, and tables in their form. -/
def Obligations.InvariantKept : Prop := ∀ s t : State, Inv s → step s = .next t → Inv t

/-- The state after reset keeps the invariant. -/
def Obligations.ResetHoldsInvariant : Prop := Inv State.reset

/-- A step leaves relay-only only into off or in reset, and leaves off or in reset only into start-up, by a release of module reset. -/
def Obligations.AwayLeftOnlyByReset : Prop :=
  ∀ s t : State, Inv s → step s = .next t →
    (s.mode = .relayOnly → t.mode = .relayOnly ∨ t.mode = .offOrReset) ∧
    (s.mode = .offOrReset → t.mode = .offOrReset ∨
      (t.mode = .startUp ∧ s.pending.head? = some .moduleResetRelease ∧ s.aoc.causes.testBit 2 = false ∧ s.aoc.causes.testBit 3 = false))

/-- TRAY_RESET_N is authoritative: while its filtered level is asserted the module is in module reset, and no command but the deassertion of the input itself, or the power-on that samples it anew, changes either; its stuck timeout leaves the mode as it is. -/
def Obligations.TrayResetHolds : Prop :=
  ∀ s t : State, Inv s → nth false s.aoc.level 0 = true → step s = .next t →
    s.mode = .offOrReset ∧ t.mode = .offOrReset ∧
    (s.pending.head? ≠ some .trayResetDeassert → (∀ a b, s.pending.head? ≠ some (.mgmtPowerOn a b)) → nth false t.aoc.level 0 = true) ∧
    (s.pending.head? = some (.inputStuck 0) → s.aoc.on = true → nth false t.aoc.stuck 0 = true)

/-- Each class has a capture set: the first event of the class that arrives while it is not valid is written into it, later ones leave it as it is, and no step clears it but a write of RAS_FIRST_CLR with the class's bit, or a power-on of the management island. -/
def Obligations.CaptureSetsHold : Prop :=
  (∀ (s : State) (e : ErrEvent), Inv s → e.cls < 16 →
    ((nth noCapture s.ras.first e.cls).valid = false → nth noCapture (reportError s e).ras.first e.cls = ⟨true, e, s.elapsed, s.boot⟩) ∧
    ((nth noCapture s.ras.first e.cls).valid = true → nth noCapture (reportError s e).ras.first e.cls = nth noCapture s.ras.first e.cls) ∧
    (∀ k, k ≠ e.cls → nth noCapture (reportError s e).ras.first k = nth noCapture s.ras.first k)) ∧
  (∀ (s t : State) (k : Nat), step s = .next t → (nth noCapture s.ras.first k).valid = true →
    (∀ v : BitVec 64, s.pending.head? = some (.rasFirstClr v) → v.getLsbD k = false) →
    (∀ a b, s.pending.head? ≠ some (.mgmtPowerOn a b)) →
    nth noCapture t.ras.first k = nth noCapture s.ras.first k) ∧
  (∀ (s : State) (v : BitVec 64), barOn s = true → ∃ t, exec (.rasFirstClr v) s = .next t ∧
    ∀ k, v.getLsbD k = true → (nth noCapture t.ras.first k).valid = false) ∧
  (∀ (s : State) (a : BitVec 2), ∃ t, exec (.mgmtPowerOn a true) s = .next t ∧ ∀ k, (nth noCapture t.ras.first k).valid = false)

/-! ### Frames -/

/-- An operation of a unit of the module's own leaves the mode, the management island, power, the host interface, flash, time, the mailbox and the domains as they are, and every context but its own, apart from the ledger entries that a full cache of all contexts evicts; of the host interface only the last writes that left for the host change. -/
def Obligations.UnitOperationsKeepTheRest : Prop :=
  ∀ (c : Fin 8) (face : Fin 4) (die : Fin 6) (engine : Fin 8) (aged : Bool) (fail : Option Nat) (i : Instr) (s t : State),
    i ∈ unitRows c face die engine aged fail → exec i s = .next t →
    SameSystem s t ∧ t.ctxs.length = s.ctxs.length ∧ ∀ d, d ≠ c.val → { ctxOf t d with ledger := (ctxOf s d).ledger } = ctxOf s d

/-- What a command stores, and nothing else: control operations, doorbells, register accesses, ring frames, pins and readings store no byte; nor does QZERO, or TSTATE outside its 64 bytes, but for what operations in flight that race with them write, SHAPE_SET outside the shape words that it names, REGISTER_WRITE outside the eight bytes of mailbox memory that it names, a BAR2 write outside its bytes, IDENTIFY, HEALTH and TIME_READ outside their destinations. -/
def Obligations.MemoryFrames : Prop :=
  (∀ (c : Fin 8) (z : Bool) (v : BitVec 64) (n len f : Nat) (port : Fin 16) (i : Instr) (s t : State),
    i ∈ quietRows c z v n len f port → exec i s = .next t → ∀ a, byteAt t a = byteAt s a) ∧
  (∀ (c : Fin 8) (aged : Bool) (s t : State) (q : QOp) (a : Nat), memWf s.mem = true → untraced s a → unraced s c a →
    headOf (ctxOf s c) ucDrain 0 = some q → q.opcode = 0x14 → exec (.qzero c aged) s = .next t → byteAt t a = byteAt s a) ∧
  (∀ (c : Fin 8) (aged : Bool) (s t : State) (q : QOp) (a : Nat), memWf s.mem = true → untraced s a → unraced s c a →
    headOf (ctxOf s c) ucTaproot 0 = some q → q.opcode = 0xC3 → exec (.tstate c aged) s = .next t →
    (∀ k, k < 64 → a ≠ physOf s c (tfCfg q.env + k)) → byteAt t a = byteAt s a) ∧
  (∀ (c : Fin 8) (s t : State) (a : Nat), memWf s.mem = true → exec (.shapeSet c) s = .next t →
    (∀ p e, controlReady s c 0x03 = some (p, e) → ∀ w ∈ setPairs e, ∀ k, k < 4 → a ≠ physOf s c ((ctxOf s c).swBase + 4 * w.1 + k)) →
    byteAt t a = byteAt s a) ∧
  (∀ (o : BitVec 24) (v : BitVec 64) (s t : State) (a : Nat), memWf s.mem = true → exec (.registerWrite o v) s = .next t →
    (0x10000 ≤ o.toNat → o.toNat < 0x20000 → a < mboxBase + (o.toNat - 0x10000) ∨ mboxBase + (o.toNat - 0x10000) + 8 ≤ a) →
    byteAt t a = byteAt s a) ∧
  (∀ (addr len data : Nat) (s t : State) (a : Nat), memWf s.mem = true → exec (.bar2Access true addr len data) s = .next t →
    (∀ da, bar2Da s addr = some da → a < da ∨ da + len ≤ a) → byteAt t a = byteAt s a) ∧
  (∀ (i : Nat → Instr) (op n place : Nat) (x : Cmd) (s t : State) (a : Nat),
    (i, op, n) ∈ [(Instr.identify, 0x01, 512), (Instr.health, 0x02, 256), (Instr.timeRead, 0x38, 64)] →
    memWf s.mem = true → untraced s a → s.mbx.taken[place]? = some x → cmdOp x.raw = op → (op = 0x38 → cmdCtx x.raw = 0xFF) →
    exec (i place) s = .next t → (a < fld x.raw 8 8 ∨ fld x.raw 8 8 + n ≤ a) → byteAt t a = byteAt s a)

/-! ### What is turned away -/

/-- An operation whose checks fail at its unit is in flight with the status and DETAIL of the first check that fails, and its unit has changed nothing; where a zero extent ends a box or Splitter operation, the counts that it enables are written as 0. -/
def Obligations.OperationsRejected : Prop :=
  ∀ (c : Fin 8) (face : Fin 4) (aged : Bool) (r : RecordRow) (s u : State) (q : QOp) (st d : Nat),
    r ∈ recordRows c face aged → MayIssue s c r.cls r.inst aged (isOp r.opcode) q → u = atUnit s c q →
    issueChecks u c (r.plan u q) = some (st, d) →
    (r.opcode < 0xA0 ∨ st ≠ stZeroExtent →
      exec r.row s = .next (inFlight s c q { st := u, status := st, detail := d }) ∧
      ∀ a, untraced s a → memWf s.mem = true → byteAt (inFlight s c q { st := u, status := st, detail := d }) a = byteAt s a) ∧
    (st = stZeroExtent →
      (0xE0 ≤ r.opcode → exec r.row s = .next (inFlight s c q { st := bdCount u c q.env 0, status := stZeroExtent })) ∧
      (0xA0 ≤ r.opcode → r.opcode < 0xE0 → exec r.row s = .next (inFlight s c q
        { st := putWords u c ((if r.opcode = 0xA0 then routeWords q.env else countIdx q.env).map fun k => (k, 0)), status := stZeroExtent })))

/-- A command of any row whose turn has come and which fails the checks of every command is finished with their STATUS and DETAIL, RESULT zero, and has done nothing. -/
def Obligations.CommandsRefused : Prop :=
  ∀ (o : BistOutcome) (r : CommandRow) (s : State) (place : Nat) (t : Cmd) (st d : Nat),
    r ∈ commandRows o → s.mbx.taken[place]? = some t → cmdOp t.raw = r.opcode → r.kind t.raw = true → cmdMayBegin s place = true →
    cmdChecks (begun s t.raw) t.raw = some (st, d) →
    exec (r.row place) s = .next (updCmd (begun s t.raw) place fun t => { t with begun := true, ready := some (st, d, 0), aux := [] })

/-- A TALLY_SET or SHAPE_SET at the dispatch point with no enabled entry, or with two that name one index, ends with CONTROL_INVALID and sets nothing; one with a reserved value ends with RESERVED_VALUE and the entry's offset. -/
def Obligations.SetsRefused : Prop :=
  ∀ (c : Fin 8) (s : State) (p : Pkg) (e op : Nat) (i : Instr),
    (i, op) ∈ [(Instr.tallySet c, 0x02), (Instr.shapeSet c, 0x03)] → controlReady s c op = some (p, e) →
    (∀ k : Fin 8, entryReserved (setEntry e k) = true → (∀ j : Fin 8, j < k → entryReserved (setEntry e j) = false) →
      exec i s = .next (controlDone s c e stReserved (0x40 + 8 * k))) ∧
    ((∀ k : Fin 8, entryReserved (setEntry e k) = false) →
      ((∀ k : Fin 8, bit (setEntry e k) 15 = false) ∨
        ∃ j k : Fin 8, j ≠ k ∧ bit (setEntry e j) 15 = true ∧ bit (setEntry e k) 15 = true ∧ bits (setEntry e j) 0 12 = bits (setEntry e k) 0 12) →
      exec i s = .next (controlDone s c e stControl 0))

/-- A write to a doorbell with an index that is out of range is ignored, and sets RING_ERR: the submission tail at or above the ring's size, the completion head outside the entries from the head to the tail. -/
def Obligations.DoorbellsIgnored : Prop :=
  ∀ (s : State) (v : BitVec 64), barOn s = true →
    (sqSize s.mbx ≤ v.toNat % 4096 → ∃ t, exec (.sqDoorbell v) s = .next t ∧ t.mbx.irq.getLsbD 2 = true ∧
      t.mbx.sqTail = s.mbx.sqTail ∧ t.mbx.taken = s.mbx.taken) ∧
    ((cqSize s.mbx ≤ v.toNat % 4096 ∨
        (s.mbx.cqTail + cqSize s.mbx - s.mbx.cqHead) % cqSize s.mbx < (v.toNat % 4096 + cqSize s.mbx - s.mbx.cqHead) % cqSize s.mbx) →
      ∃ t, exec (.cqDoorbell v) s = .next t ∧ t.mbx.irq.getLsbD 2 = true ∧ t.mbx.cqHead = s.mbx.cqHead ∧ t.mbx.taken = s.mbx.taken)

/-! ### Rules of the manual, one by one -/

/-- An enabled event that R433 does not permit to be posted is lost and counted by its code; as soon as it permits, one EVENTS_LOST entry holds the counts, which are then zero. -/
def Obligations.LostEventsCounted : Prop :=
  (∀ (s : State) (code ctx detail result : Nat), bit s.mbx.eventMask (code - 0x80) = true →
    cqFree s.mbx < outstanding s.mbx + 2 →
    postEvent s code ctx detail result = updMbx s fun m => { m with lost := updAt m.lost (code - 0x80) (· + 1) }) ∧
  (∀ s : State, Inv s → s.mbx.enable = true → s.mbx.checked = true → s.mbx.fwState = 2 → s.mbx.lost.any (0 < ·) = true →
    outstanding s.mbx + 1 ≤ cqFree s.mbx → badPartly s [(s.mbx.cqBase + 32 * s.mbx.cqTail, 32)] = none →
    ∃ t, exec .eventsLost s = .next t ∧ t.mbx.lost = List.replicate 12 0 ∧ t.mbx.irq.getLsbD 1 = true ∧
      t.mbx.cqTail = (s.mbx.cqTail + 1) % 2 ^ s.mbx.cqLog2 ∧
      byteAt t (s.mbx.cqBase + 32 * s.mbx.cqTail + 3) = 0x8F ∧ byteAt t (s.mbx.cqBase + 32 * s.mbx.cqTail + 4) = 0xFF ∧
      (∀ k, k < 12 → byteAt t (s.mbx.cqBase + 32 * s.mbx.cqTail + 0x10 + k) = min (nth 0 s.mbx.lost k) 255) ∧
      byteAt t (s.mbx.cqBase + 32 * s.mbx.cqTail + 0x1F) = b2n s.mbx.phase)

/-- STEP_ADVANCE waits until every earlier operation of the context has completed; it writes the ledger back, adds 1 to STEP, wrapping, and completes; while it is in flight the sequencer dispatches nothing. -/
def Obligations.StepAdvances : Prop :=
  (∀ (c : Fin 8) (s : State) (p : Pkg) (e : Nat), controlReady s c 0x01 = some (p, e) →
    ((ctxOf s c).queued ≠ [] ∨ (ctxOf s c).flight ≠ [] → exec (.stepAdvance c) s = .next s) ∧
    ((ctxOf s c).queued = [] → (ctxOf s c).flight = [] → allReserved e = none → Inv s →
      ∃ t f, exec (.stepAdvance c) s = .next t ∧ (ctxOf t c).step = (ctxOf s c).step + 1 ∧ (ctxOf t c).ledger = [] ∧
        (s.trc.st = 0 → t.mem = (ledgerWriteBack s c).mem) ∧
        (ctxOf t c).flight = [f] ∧ f.op.opcode = 0x01 ∧ f.status = 0 ∧ f.ended = true)) ∧
  (∀ (c : Fin 8) (s : State) (f : Flight), f ∈ (ctxOf s c).flight → f.op.opcode = 0x01 →
    exec (.envelopeDispatch c) s = .next s ∧ exec (.nop c) s = .next s ∧ exec (.stepAdvance c) s = .next s ∧
    exec (.tallySet c) s = .next s ∧ exec (.shapeSet c) s = .next s)

/-- A wait is met when the tally less the value, modulo 2 to the 32, is below 2 to the 31; an operation that completes with a completing status adds the ADD of each enabled signal entry to the tally that it names, modulo 2 to the 32, and changes no other tally. -/
def Obligations.SignalsAndWaits : Prop :=
  (∀ t v : W32, waitMet t v = true ↔ (t - v).toNat < 2 ^ 31) ∧
  (∀ (c : Fin 8) (i : Nat) (s : State) (f : Flight) (p : Pkg), Inv s → endedFlight s c i = some f →
    runningPkg (ctxOf (pfSignal s c f) c) = some p → completing f.status = true →
    ∃ t, exec (.operationCompletion c i) s = .next t ∧
      ∀ n, tallyOf t c n = tallyOf (pfSignal s c f) c n +
        (if bit (envSignal f.op.env 0) 15 = true ∧ bits (envSignal f.op.env 0) 0 12 = n then BitVec.ofNat 32 (bits (envSignal f.op.env 0) 32 32) else 0) +
        (if bit (envSignal f.op.env 1) 15 = true ∧ bits (envSignal f.op.env 1) 0 12 = n then BitVec.ofNat 32 (bits (envSignal f.op.env 1) 32 32) else 0))

/-- TALLY_SET from the mailbox gives each tally that it names the word that memory holds for it, and changes no other; TALLY_READ leaves each tally's value in memory; whatever the context's state. -/
def Obligations.TallyCommandsAct : Prop :=
  (∀ (s : State) (place : Nat) (t : Cmd), Inv s → Begins s place 0x23 anyKind t →
    fld t.raw 8 2 < 4096 → 1 ≤ fld t.raw 10 2 → fld t.raw 8 2 + fld t.raw 10 2 ≤ 4096 →
    MayRead (begun s t.raw) 0xFF (fld t.raw 0x10 8) (4 * fld t.raw 10 2) →
    ∃ u, exec (.tallySetCmd place) s = .next u ∧
      (∀ k, k < fld t.raw 10 2 → (tallyOf u (cmdCtx t.raw) (fld t.raw 8 2 + k)).toNat =
        fld (rdPhys (begun s t.raw) (fld t.raw 0x10 8) (4 * fld t.raw 10 2)) (4 * k) 4) ∧
      (∀ n, n < fld t.raw 8 2 ∨ fld t.raw 8 2 + fld t.raw 10 2 ≤ n → tallyOf u (cmdCtx t.raw) n = tallyOf s (cmdCtx t.raw) n)) ∧
  (∀ (s : State) (place : Nat) (t : Cmd), Inv s → Begins s place 0x22 anyKind t →
    fld t.raw 8 2 < 4096 → 1 ≤ fld t.raw 10 2 → fld t.raw 8 2 + fld t.raw 10 2 ≤ 4096 →
    MayWrite (begun s t.raw) 0xFF (fld t.raw 0x10 8) (4 * fld t.raw 10 2) →
    ∃ u, exec (.tallyRead place) s = .next u ∧
      (∀ k, k < fld t.raw 10 2 → rdPhys u (fld t.raw 0x10 8 + 4 * k) 4 = (tallyOf s (cmdCtx t.raw) (fld t.raw 8 2 + k)).toNat))

/-- While the module's disciplined time is not valid, a live set decides no tick: a tick whose decision time passes is skipped without counting, and a datagram for a set is dropped and counted. -/
def Obligations.LiveSetsWaitForTime : Prop :=
  ∀ (s : State), s.time.valid = false →
    (∀ (c : Fin 8) (feed : Fin 4) (f : Feed), feedOf s c feed = some f → f.live = true → f.st = 1 → domIsOn s 45 = true →
      ∃ t, exec (.liveTick c feed) s = .next t ∧ t.tap.perf = s.tap.perf ∧ t.mem = s.mem ∧ t.ctxs = s.ctxs ∧ t.mbx = s.mbx ∧
        feedOf t c feed = some { f with tick := f.tick + 1, slots := [] }) ∧
    (∀ (port : Fin 2) (udp : BitVec 16) (len data : Nat), domIsOn s 45 = true →
      (∃ f ∈ s.tap.feeds, f.live = true ∧ feedBusy f = true ∧ lb f 0x18 2 = udp.toNat ∧ bit (lb f 0x1A 1) port = true) →
      exec (.liveDatagramReceive port udp len data) s = .next { s with tap := { s.tap with perf := perfAdd s.tap.perf 13 1 } })

/-- Retention: an access to a group in RETAIN leaves it ON; PWR_RETAIN to OFF is refused with STATE_CONFLICT while an open context's map covers a byte of a group that it names; a group that is OFF and turned ON is zero; a BAR2 read of a group that is OFF completes with Unsupported Request and is logged. -/
def Obligations.RetentionActs : Prop :=
  (∀ (s : State) (g : Nat) (a n : Nat), nth 0 s.memS.ret g = 1 → 1 ≤ n → g * 0x2000000 ≤ a → a < (g + 1) * 0x2000000 →
    nth 0 (noteTraffic s [(a, n)] []).memS.ret g = 0 ∧ nth 0 (noteTraffic s [] [(a, n)]).memS.ret g = 0) ∧
  (∀ (s : State) (place : Nat) (t : Cmd), Begins s place 0x45 anyKind t → fld t.raw 8 1 ≤ 15 → fld t.raw 10 1 = 2 →
    (namedGroups t.raw).any (groupMapped (begun s t.raw)) = true →
    exec (.pwrRetain place) s = .next (updCmd (begun s t.raw) place fun t => { t with begun := true, ready := some (0xF3, 0, 0), aux := [] })) ∧
  (∀ (s : State) (place : Nat) (t : Cmd) (g : Nat) (a : Nat), Inv s → Begins s place 0x45 anyKind t → fld t.raw 8 1 ≤ 15 → fld t.raw 10 1 = 0 →
    g ∈ namedGroups t.raw → nth 0 s.memS.ret g = 2 → g * 0x2000000 ≤ a → a < (g + 1) * 0x2000000 → s.trc.st ≠ 1 →
    ∃ u, exec (.pwrRetain place) s = .next u ∧ nth 0 u.memS.ret g = 0 ∧ byteAt u a = 0) ∧
  (∀ (s : State) (addr len data da : Nat), barOn s = true → 1 ≤ len → addr % 4096 + len ≤ 4096 → addr + len ≤ 2 ^ s.hif.bar2Log2 →
    bar2Da s addr = some da → bar2Region s da len = some .stockpile → regionOn s .stockpile da = true → retOf s da = 2 →
    exec (.bar2Access false addr len data) s = .next (withHealth s (readBack (logErr s 7 1 0x15 0xFF (da % 2 ^ 48)) 1 0)))

/-- BAR2's size: after BAR2_RESIZE every offset of BAR2 reaches the near tier at that offset through an enabled aperture; an aperture register takes a TARGET with the bits below the aperture size zero, and reads it back. -/
def Obligations.Bar2Directs : Prop :=
  (∀ (s : State) (n : Fin 6), barOn s = true → ∃ t, exec (.bar2Resize n) s = .next t ∧ t.hif.bar2Log2 = 36 + n ∧
    (∀ addr, addr < 2 ^ (36 + n.val) → bar2Da t addr = some (nearBase + addr)) ∧
    (∀ k : Fin 16, regValue t (0x2000 + 8 * k) = nearBase + k * 2 ^ (32 + n.val) + 1)) ∧
  (∀ (s : State) (k : Fin 16) (v : BitVec 64), barOn s = true → Inv s →
    ∃ t, exec (.registerWrite (BitVec.ofNat 24 (0x2000 + 8 * k)) v) s = .next t ∧
      regValue t (0x2000 + 8 * k) = v.toNat % 2 ^ 48 / 2 ^ (s.hif.bar2Log2 - 4) * 2 ^ (s.hif.bar2Log2 - 4) + v.toNat % 2 ∧
      ∀ j : Fin 16, j ≠ k → regValue t (0x2000 + 8 * j) = regValue s (0x2000 + 8 * j))

/-- Narrowing returns a value that a format holds to its own code, with no event, under either rounding: every finite element of each floating format without a block scale. -/
def Obligations.FormatsKeepTheirValues : Prop :=
  ∀ (f : Fmt) (r : Rnd) (ovf : Bool) (x : Nat),
    f ∈ [Fmt.fp32, .bf16, .fp16, .e4m3, .e5m2, .e8m39] → (∀ k, r = .sr k → k < 2 ^ 16) →
    x < 2 ^ ((floatSpec f).eb + (floatSpec f).mb + 1) → isFin (decodeElem f x) = true →
    narrowElem f r ovf (decodeElem f x) = (x, {})

/-- Ring frames: a bad one is removed and counted, and nothing leaves; one of the station's own, or whose HOPS runs out, is removed; another leaves as a good frame of the same type with HOPS one lower. -/
def Obligations.RingFramesForwarded : Prop :=
  ∀ (s : State) (len f : Nat), ringListens s = true →
    (ringGood len f = false → exec (.ringFrameReceive len f) s = .next (fabCount s fcSbrBad 1)) ∧
    (ringGood len f = true → rgType f ≠ 1 → ∃ t, exec (.ringFrameReceive len f) s = .next t ∧ t.fab.sbr.locked = true ∧
      ((rgHops f ≤ 1 ∨ s.fab.sbr.inserted = false ∨ (rgSrc f = s.fab.sbr.station ∧ s.fab.sbr.station ≠ 0)) →
        t.fab.sbr.outFrame = s.fab.sbr.outFrame ∧ t.fab.sbr.outLen = s.fab.sbr.outLen) ∧
      (2 ≤ rgHops f → s.fab.sbr.inserted = true → rgSrc f ≠ s.fab.sbr.station →
        ringGood t.fab.sbr.outLen t.fab.sbr.outFrame = true ∧ t.fab.sbr.outLen = len ∧ rgType t.fab.sbr.outFrame = rgType f ∧
          rgHops t.fab.sbr.outFrame = rgHops f - 1 ∧ rgSrc t.fab.sbr.outFrame = rgSrc f))

/-- What reset leaves, where the manual says: the module off or in reset with COLD its cause, the counter of elapsed time at 0, no context open, no rings, event mask 0xFFF, node 0x7FFF and no fabric record, time not valid, the temperatures of the stacks unknown, BAR2 of 64 GiB on the near tier; and every counter register reads 0. -/
def Obligations.ResetLeaves : Prop :=
  State.reset.mode = .offOrReset ∧ State.reset.elapsed = 0 ∧ (∀ c, isOpen State.reset c = false) ∧
  State.reset.mbx.enable = false ∧ State.reset.mbx.phase = true ∧ State.reset.mbx.eventMask = 0xFFF ∧ State.reset.mbx.autoRetainUs = 0 ∧
  State.reset.memS.globalMode = false ∧ State.reset.time.valid = false ∧ State.reset.time.offset = 0 ∧
  regValue State.reset 0x10B000 = 1 ∧ regValue State.reset 0x109080 = 0x7FFF ∧ regValue State.reset 0x106010 = 2 ^ 64 - 1 ∧
  (∀ k : Fin 16, regValue State.reset (0x2000 + 8 * k) = nearBase + k * 2 ^ 32 + 1) ∧
  (∀ o ∈ [0x100018, 0x100020, 0x100028, 0x100030, 0x100038, 0x100040, 0x100048, 0x100050, 0x100058, 0x106040, 0x106048, 0x106050, 0x106058,
      0x106060, 0x106068, 0x106070, 0x106078, 0x106080, 0x106088, 0x106090, 0x10C010, 0x10C048, 0x10C050, 0x10D010, 0x10D018, 0x10D020, 0x10E008, 0x10E010],
    regValue State.reset o = 0) ∧
  (∀ c : Fin 8, ∀ k : Fin 8, regValue State.reset (0x102000 + 64 * c + 8 * k) = 0)
end

