-- ==== Sys2Proof/Laws/Issue.lean ====
section
/-! SUPPORT. Laws of issue and of commands: what issueOp, runPlan and runCmd answer, said once. -/

namespace Sys2Proof.Machine

/-- A head that may issue makes canIssue hold. -/
theorem canIssue_of_mayIssue {s : State} {c cls inst : Nat} {aged : Bool} {kind : QOp → Bool} {q : QOp}
    (h : MayIssue s c cls inst aged kind q) : canIssue s c cls inst aged kind = true := by
  simp [canIssue, readyHead, h.head, h.kind, h.thawed, h.waits, h.power, h.turn]

/-- What issueOp answers where the head may issue: the body's result at the unit, in flight. -/
theorem issueOp_of_mayIssue {s : State} {c cls inst : Nat} {aged : Bool} {kind : QOp → Bool} {q : QOp}
    (h : MayIssue s c cls inst aged kind q) (body : Body) :
    issueOp s c cls inst aged kind body = inFlight s c q (body (atUnit s c q) c q) := by
  simp [issueOp, canIssue_of_mayIssue h, h.head, issueWith, inFlight, atUnit]

/-- What issueOp answers where the head may not issue: nothing changes. -/
theorem issueOp_of_not {s : State} {c cls inst : Nat} {aged : Bool} {kind : QOp → Bool} (body : Body)
    (h : canIssue s c cls inst aged kind = false) : issueOp s c cls inst aged kind body = s := by
  simp [issueOp, h]

/-- What runAfter answers where no line that the operation reads or writes in part is faulty. -/
theorem runAfter_of_passes {s : State} {c : Nat} {p : Plan} {rd wr : List (Nat × Nat)} (h : Passes s c p rd wr) (eff : State → Result) :
    runAfter s c p rd wr eff = ranOp s c p rd wr eff := by
  simp [runAfter, h.reads, h.writes, ranOp]

/-- What runPlan answers where every check passes. -/
theorem runPlan_of_passes {s : State} {c : Nat} {p : Plan} {rd wr : List (Nat × Nat)} (h : Passes s c p rd wr) (eff : State → Result) :
    runPlan s c p rd wr eff = ranOp s c p rd wr eff := by
  simp [runPlan, h.checks, runAfter_of_passes h]

/-- What runPlan answers where a check fails: the operation is turned away. -/
theorem runPlan_of_fails {s : State} {c : Nat} {p : Plan} {rd wr : List (Nat × Nat)} {st d : Nat} (h : issueChecks s c p = some (st, d))
    (eff : State → Result) : runPlan s c p rd wr eff = reject s st d := by
  simp [runPlan, h]

/-- What runCmd answers where the command begins: the work's answer, recorded. -/
theorem runCmd_of_begins {s : State} {place op : Nat} {kind : Nat → Bool} {t : Cmd} (h : Begins s place op kind t)
    (work : State → Nat → CmdOut) :
    runCmd s place op kind work = cmdRecord place (noteCmd (begun s t.raw) t.raw (work (begun s t.raw) t.raw)) := by
  have hc := h.checks
  simp only [begun] at hc
  simp [runCmd, h.taken, h.opcode, h.kind, h.turn, hc, begun]

/-- A command whose work ends with OK and does not wait. -/
theorem runCmd_ok {s : State} {place op : Nat} {kind : Nat → Bool} {t : Cmd} (h : Begins s place op kind t)
    {work : State → Nat → CmdOut} {u : State} {res : Nat}
    (hw : work (begun s t.raw) t.raw = { st := u, result := res }) :
    runCmd s place op kind work = doneOk u place (cmdReads (begun s t.raw) t.raw) 0 res := by
  rw [runCmd_of_begins h, hw]
  rfl

/-- A command whose work waits. -/
theorem runCmd_waits {s : State} {place op : Nat} {kind : Nat → Bool} {t : Cmd} (h : Begins s place op kind t)
    {work : State → Nat → CmdOut} {u : State} {aux : List Nat}
    (hw : work (begun s t.raw) t.raw = { st := u, wait := true, aux := aux }) :
    runCmd s place op kind work = waits u place (cmdReads (begun s t.raw) t.raw) aux := by
  rw [runCmd_of_begins h, hw]
  rfl

end Sys2Proof.Machine
end

