-- ==== Sys2Proof/Laws/Memory.lean ====
section
/-! SUPPORT. Laws of device memory: every operation keeps the canonical form, a read after a write gives the value written, and a write leaves every other address alone. -/

namespace Sys2Proof.Machine

/-! ### Sparse lists -/

/-- Every key of the list lies above `k`. -/
def KeysAbove {β : Type} (k : Nat) (l : SMap β) : Prop := ∀ p ∈ l, k < p.1

theorem cellsRising_cons (k : Nat) (v : Byte) (l : SMap Byte) :
    cellsRising ((k, v) :: l) = true ↔ KeysAbove k l ∧ cellsRising l = true := by
  induction l generalizing k v with
  | nil => simp [cellsRising, KeysAbove]
  | cons p r ih =>
    obtain ⟨k', v'⟩ := p
    have h := ih k' v'
    simp only [cellsRising, Bool.and_eq_true, decide_eq_true_eq, KeysAbove, List.mem_cons, forall_eq_or_imp] at *
    constructor
    · rintro ⟨h1, h2⟩
      exact ⟨⟨h1, fun p hp => Nat.lt_trans h1 ((h.1 h2).1 p hp)⟩, h2⟩
    · rintro ⟨⟨h1, _⟩, h2⟩
      exact ⟨h1, h2⟩

theorem mem_smPut {β : Type} {l : SMap β} {a : Nat} {b : β} {p : Nat × β} (h : p ∈ smPut l a b) : p = (a, b) ∨ p ∈ l := by
  induction l with
  | nil => simpa [smPut] using h
  | cons q r ih =>
    obtain ⟨k, v⟩ := q
    simp only [smPut] at h
    split at h
    · simpa using h
    · split at h
      · rcases List.mem_cons.1 h with h | h
        · exact .inl h
        · exact .inr (List.mem_cons_of_mem _ h)
      · rcases List.mem_cons.1 h with h | h
        · exact .inr (h ▸ List.mem_cons_self ..)
        · exact (ih h).imp_right (List.mem_cons_of_mem _)

theorem mem_smDel {β : Type} {l : SMap β} {a : Nat} {p : Nat × β} (h : p ∈ smDel l a) : p ∈ l := by
  induction l with
  | nil => simp [smDel] at h
  | cons q r ih =>
    obtain ⟨k, v⟩ := q
    simp only [smDel] at h
    split at h
    · exact List.mem_cons_of_mem _ h
    · split at h
      · exact h
      · rcases List.mem_cons.1 h with h | h
        · exact h ▸ List.mem_cons_self ..
        · exact List.mem_cons_of_mem _ (ih h)

theorem smPut_rising {l : SMap Byte} (h : cellsRising l = true) (a : Nat) (b : Byte) : cellsRising (smPut l a b) = true := by
  induction l with
  | nil => simp [smPut, cellsRising]
  | cons q r ih =>
    obtain ⟨k, v⟩ := q
    have ⟨h1, h2⟩ := (cellsRising_cons k v r).1 h
    simp only [smPut]
    split
    · rename_i hk
      refine (cellsRising_cons ..).2 ⟨?_, h⟩
      intro p hp
      rcases List.mem_cons.1 hp with hp | hp
      · exact hp ▸ hk
      · exact Nat.lt_trans hk (h1 p hp)
    · split
      · rename_i hk
        subst hk
        exact (cellsRising_cons ..).2 ⟨h1, h2⟩
      · refine (cellsRising_cons ..).2 ⟨?_, ih h2⟩
        intro p hp
        rcases mem_smPut hp with hp | hp
        · subst hp
          simp only
          omega
        · exact h1 p hp

theorem smDel_rising {l : SMap Byte} (h : cellsRising l = true) (a : Nat) : cellsRising (smDel l a) = true := by
  induction l with
  | nil => simp [smDel, cellsRising]
  | cons q r ih =>
    obtain ⟨k, v⟩ := q
    have ⟨h1, h2⟩ := (cellsRising_cons k v r).1 h
    simp only [smDel]
    split
    · exact h2
    · split
      · exact h
      · exact (cellsRising_cons ..).2 ⟨fun p hp => h1 p (mem_smDel hp), ih h2⟩

theorem filter_rising {l : SMap Byte} (h : cellsRising l = true) (f : Nat × Byte → Bool) : cellsRising (l.filter f) = true := by
  induction l with
  | nil => simp [cellsRising]
  | cons q r ih =>
    obtain ⟨k, v⟩ := q
    have ⟨h1, h2⟩ := (cellsRising_cons k v r).1 h
    rw [List.filter_cons]
    split
    · exact (cellsRising_cons ..).2 ⟨fun p hp => h1 p (List.mem_filter.1 hp).1, ih h2⟩
    · exact ih h2

/-! ### Reading the cells -/

theorem cellAt_above {l : SMap Byte} {a : Nat} (h : KeysAbove a l) : cellAt l a = none := by
  cases l with
  | nil => rfl
  | cons q r =>
    obtain ⟨k, v⟩ := q
    have : a < k := h (k, v) (List.mem_cons_self ..)
    simp only [cellAt]
    split
    · omega
    · rfl

theorem cellAt_smPut_same (l : SMap Byte) (a : Nat) (b : Byte) : cellAt (smPut l a b) a = some b := by
  induction l with
  | nil => simp [smPut, cellAt]
  | cons q r ih =>
    obtain ⟨k, v⟩ := q
    simp only [smPut]
    split
    · simp [cellAt]
    · split
      · simp [cellAt]
      · have h1 : ¬k = a := by omega
        have h2 : ¬a < k := by omega
        simp [cellAt, h1, h2, ih]

theorem cellAt_smPut_other (l : SMap Byte) {a x : Nat} (b : Byte) (h : x ≠ a) : cellAt (smPut l a b) x = cellAt l x := by
  induction l with
  | nil =>
    simp only [smPut, cellAt]
    split <;> (try split) <;> simp_all
  | cons q r ih =>
    obtain ⟨k, v⟩ := q
    simp only [smPut]
    split
    · rename_i hk
      simp only [cellAt]
      split
      · omega
      · split
        · have h1 : ¬k = x := by omega
          have h2 : x < k := by omega
          simp [h1, h2]
        · rfl
    · split
      · rename_i hk
        simp [cellAt, ← hk, Ne.symm h]
      · simp only [cellAt, ih]

theorem cellAt_smDel_other (l : SMap Byte) {a x : Nat} (hr : cellsRising l = true) (h : x ≠ a) : cellAt (smDel l a) x = cellAt l x := by
  induction l with
  | nil => rfl
  | cons q r ih =>
    obtain ⟨k, v⟩ := q
    have ⟨h1, h2⟩ := (cellsRising_cons k v r).1 hr
    simp only [smDel]
    split
    · rename_i hk
      subst hk
      simp only [cellAt]
      split
      · omega
      · split
        · exact cellAt_above fun p hp => Nat.lt_trans ‹x < k› (h1 p hp)
        · rfl
    · split
      · rfl
      · simp only [cellAt, ih h2]

theorem cellAt_smDel_same (l : SMap Byte) (a : Nat) (hr : cellsRising l = true) : cellAt (smDel l a) a = none := by
  induction l with
  | nil => rfl
  | cons q r ih =>
    obtain ⟨k, v⟩ := q
    have ⟨h1, h2⟩ := (cellsRising_cons k v r).1 hr
    simp only [smDel]
    split
    · rename_i hk
      subst hk
      exact cellAt_above h1
    · rename_i hk
      split
      · rename_i hlt
        simp [cellAt, hk, hlt]
      · rename_i hlt
        simp [cellAt, hk, hlt, ih h2]

/-! ### One byte -/

theorem memWf_iff (m : Memory) : memWf m = true ↔ cellsRising m.cells = true ∧ ∀ p ∈ m.cells, p.2 ≠ unlisted m p.1 := by
  simp [memWf, List.all_eq_true]

@[simp] theorem unlisted_memSet (m : Memory) (a x : Nat) (b : Byte) : unlisted (memSet m a b) x = unlisted m x := rfl

/-- Writing a byte keeps the canonical form. -/
theorem memSet_wf {m : Memory} (h : memWf m = true) (a : Nat) (b : Byte) : memWf (memSet m a b) = true := by
  obtain ⟨h1, h2⟩ := (memWf_iff m).1 h
  refine (memWf_iff _).2 ⟨?_, ?_⟩
  · simp only [memSet]
    split
    · exact smDel_rising h1 a
    · exact smPut_rising h1 a b
  · intro p hp
    rw [unlisted_memSet]
    simp only [memSet] at hp
    split at hp
    · exact h2 p (mem_smDel hp)
    · rcases mem_smPut hp with hp | hp
      · subst hp
        assumption
      · exact h2 p hp

/-- A read after a write to the same address gives the byte written. -/
theorem memGet_memSet_same {m : Memory} (h : memWf m = true) (a : Nat) (b : Byte) : memGet (memSet m a b) a = b := by
  have h1 := ((memWf_iff m).1 h).1
  simp only [memGet, memSet]
  split
  · rename_i hb
    rw [cellAt_smDel_same _ _ h1]
    exact hb.symm
  · rw [cellAt_smPut_same]
    rfl

/-- A write of a byte leaves every other address alone. -/
theorem memGet_memSet_other {m : Memory} (h : memWf m = true) {a x : Nat} (b : Byte) (hx : x ≠ a) :
    memGet (memSet m a b) x = memGet m x := by
  have h1 := ((memWf_iff m).1 h).1
  simp only [memGet, memSet]
  split
  · rw [cellAt_smDel_other _ h1 hx]
    rfl
  · rw [cellAt_smPut_other _ _ hx]
    rfl

/-! ### Several bytes -/

theorem memWr_wf {m : Memory} (h : memWf m = true) (a v n : Nat) : memWf (memWr m a v n) = true := by
  induction n generalizing m a v with
  | zero => exact h
  | succ n ih => exact ih (memSet_wf h _ _) _ _

theorem memWrList_wf {m : Memory} (h : memWf m = true) (a : Nat) (l : List Nat) : memWf (memWrList m a l) = true := by
  induction l generalizing m a with
  | nil => exact h
  | cons b r ih => exact ih (memSet_wf h _ _) _

theorem memWrBits_wf {m : Memory} (h : memWf m = true) (a b w v : Nat) : memWf (memWrBits m a b w v) = true := by
  unfold memWrBits
  split
  · exact memWr_wf h _ _ _
  · exact memWr_wf h _ _ _

/-- A fold of operations that each keep the canonical form keeps it. -/
theorem foldl_memWf {α : Type} {f : Memory → α → Memory} (hf : ∀ m x, memWf m = true → memWf (f m x) = true) (l : List α)
    {m : Memory} (h : memWf m = true) : memWf (l.foldl f m) = true := by
  induction l generalizing m with
  | nil => exact h
  | cons x r ih => exact ih (hf m x h)

/-- A write of `n` bytes leaves every address outside them alone. -/
theorem memGet_memWr_outside {m : Memory} (h : memWf m = true) {a v n x : Nat} (hx : x < a ∨ a + n ≤ x) :
    memGet (memWr m a v n) x = memGet m x := by
  induction n generalizing m a v with
  | zero => rfl
  | succ n ih =>
    rw [memWr, ih (memSet_wf h _ _) (by omega), memGet_memSet_other h _ (by omega)]

theorem memRd_memSet_above {m : Memory} (h : memWf m = true) {a x n : Nat} (b : Byte) (hx : a < x) :
    memRd (memSet m a b) x n = memRd m x n := by
  induction n generalizing x with
  | zero => rfl
  | succ n ih => rw [memRd, memRd, ih (by omega), memGet_memSet_other h _ (by omega)]

/-- A read of the `n` bytes just written gives the number, modulo 256 to the power n. -/
theorem memRd_memWr {m : Memory} (h : memWf m = true) (a v n : Nat) : memRd (memWr m a v n) a n = v % 256 ^ n := by
  induction n generalizing m a v with
  | zero => simp [memRd, Nat.mod_one]
  | succ n ih =>
    have hs := memSet_wf h a (BitVec.ofNat 8 v)
    rw [memRd, memWr, ih hs, memGet_memWr_outside hs (by omega), memGet_memSet_same h, Nat.pow_succ, Nat.mul_comm (256 ^ n) 256,
      Nat.mod_mul]
    simp

theorem memGet_memWr_list_outside {m : Memory} (h : memWf m = true) {a x : Nat} (l : List Nat) (hx : x < a ∨ a + l.length ≤ x) :
    memGet (memWrList m a l) x = memGet m x := by
  induction l generalizing m a with
  | nil => rfl
  | cons b r ih =>
    simp only [List.length_cons] at hx
    rw [memWrList, ih (memSet_wf h _ _) (by omega), memGet_memSet_other h _ (by omega)]

/-! ### Fills -/

theorem unlistedIn_filter {fs : List FillRange} {lo hi x : Nat} (hx : x < lo ∨ hi ≤ x) :
    unlistedIn (fs.filter fun r => !(lo ≤ r.lo && r.hi ≤ hi)) x = unlistedIn fs x := by
  induction fs with
  | nil => rfl
  | cons r t ih =>
    rw [List.filter_cons]
    split
    · simp only [unlistedIn, ih]
    · rename_i hr
      rw [ih]
      simp only [Bool.not_eq_true', Bool.not_eq_false, Bool.and_eq_true, decide_eq_true_eq] at hr
      rw [unlistedIn, if_neg]
      simp only [Bool.and_eq_true, decide_eq_true_eq]
      omega

/-- What an address outside a filled range reads as when unlisted does not change. -/
theorem unlisted_memFill_outside (m : Memory) {lo hi x : Nat} (f : Fill) (hx : x < lo ∨ hi ≤ x) :
    unlisted (memFill m lo hi f) x = unlisted m x := by
  simp only [unlisted, memFill, unlistedIn]
  rw [if_neg, unlistedIn_filter hx]
  simp only [Bool.and_eq_true, decide_eq_true_eq]
  omega

/-- Filling a range keeps the canonical form. -/
theorem memFill_wf {m : Memory} (h : memWf m = true) (lo hi : Nat) (f : Fill) : memWf (memFill m lo hi f) = true := by
  obtain ⟨h1, h2⟩ := (memWf_iff m).1 h
  refine (memWf_iff _).2 ⟨filter_rising h1 _, ?_⟩
  intro p hp
  have hq := List.mem_filter.1 hp
  rw [unlisted_memFill_outside]
  · exact h2 p hq.1
  · have := hq.2
    simp only [Bool.not_eq_true', Bool.and_eq_false_iff, decide_eq_false_iff_not] at this
    omega

theorem cellAt_filter {l : SMap Byte} (hr : cellsRising l = true) {f : Nat × Byte → Bool} {x : Nat} (hf : ∀ v, f (x, v) = true) :
    cellAt (l.filter f) x = cellAt l x := by
  induction l with
  | nil => rfl
  | cons q r ih =>
    obtain ⟨k, v⟩ := q
    have ⟨h1, h2⟩ := (cellsRising_cons k v r).1 hr
    rw [List.filter_cons]
    split
    · simp only [cellAt, ih h2]
    · rename_i hn
      have hk : k ≠ x := by
        rintro rfl
        exact hn (hf v)
      rw [ih h2, cellAt, if_neg hk]
      split
      · exact cellAt_above fun p hp => Nat.lt_trans ‹x < k› (h1 p hp)
      · rfl

/-- Filling a range leaves every address outside it alone. -/
theorem memGet_memFill_outside {m : Memory} (h : memWf m = true) {lo hi x : Nat} (f : Fill) (hx : x < lo ∨ hi ≤ x) :
    memGet (memFill m lo hi f) x = memGet m x := by
  have h1 := ((memWf_iff m).1 h).1
  rw [memGet, memGet, unlisted_memFill_outside m f hx]
  congr 1
  refine cellAt_filter h1 ?_
  intro v
  simp only [Bool.not_eq_true', Bool.and_eq_false_iff, decide_eq_false_iff_not]
  omega

theorem cellAt_filtered {l : SMap Byte} {lo hi x : Nat} (hx : lo ≤ x ∧ x < hi) :
    cellAt (l.filter fun p => !(lo ≤ p.1 && p.1 < hi)) x = none := by
  induction l with
  | nil => rfl
  | cons q r ih =>
    obtain ⟨k, v⟩ := q
    rw [List.filter_cons]
    split
    · rename_i hk
      simp only [Bool.not_eq_true', Bool.and_eq_false_iff, decide_eq_false_iff_not] at hk
      simp only [cellAt, ih]
      have : k ≠ x := by omega
      simp [this]
    · exact ih

/-- A range filled with zeros reads as zero. -/
theorem memGet_memFill_zeros (m : Memory) {lo hi x : Nat} (hx : lo ≤ x ∧ x < hi) : memGet (memFill m lo hi .zeros) x = 0 := by
  rw [memGet, show cellAt (memFill m lo hi .zeros).cells x = none from cellAt_filtered hx]
  simp [unlisted, memFill, unlistedIn, hx.1, hx.2]

end Sys2Proof.Machine
end

