-- ==== Sys2Proof/Laws/State.lean ====
section
/-! SUPPORT. Laws of the state: what each update leaves in each field, said once. -/

namespace Sys2Proof.Machine

/-! ### Lists changed in one place -/

@[simp] theorem updAt_length {α : Type} (l : List α) (i : Nat) (f : α → α) : (updAt l i f).length = l.length := by
  induction l generalizing i with
  | nil => rfl
  | cons a r ih => cases i with
    | zero => rfl
    | succ i => simp [updAt, ih]

/-- What a list changed in one place holds at a place. -/
theorem updAt_getElem? {α : Type} (l : List α) (i j : Nat) (f : α → α) :
    (updAt l i f)[j]? = if i = j then l[j]?.map f else l[j]? := by
  induction l generalizing i j with
  | nil => simp [updAt]
  | cons a r ih => cases i <;> cases j <;> simp [updAt, ih]

@[simp] theorem updAt_getD_same {α : Type} (d : α) (l : List α) (i : Nat) (f : α → α) (h : i < l.length) :
    (updAt l i f).getD i d = f (l.getD i d) := by
  induction l generalizing i with
  | nil => simp at h
  | cons a r ih => cases i with
    | zero => rfl
    | succ i => simpa [updAt] using ih i (by simpa using h)

theorem updAt_getD_other {α : Type} (d : α) (l : List α) {i j : Nat} (f : α → α) (h : i ≠ j) :
    (updAt l i f).getD j d = l.getD j d := by
  induction l generalizing i j with
  | nil => simp [updAt]
  | cons a r ih => cases i <;> cases j <;> simp_all [updAt]

@[simp] theorem updAt_getElem?_same {α : Type} (l : List α) (i : Nat) (f : α → α) : (updAt l i f)[i]? = l[i]?.map f := by
  simp [updAt_getElem?]

theorem updAt_getElem?_other {α : Type} (l : List α) {i j : Nat} (f : α → α) (h : i ≠ j) : (updAt l i f)[j]? = l[j]? := by
  simp [updAt_getElem?, h]

/-! ### Fields -/

@[simp] theorem updCtx_mode (s : State) (c : Nat) (f : Ctx → Ctx) : (updCtx s c f).mode = s.mode := rfl
@[simp] theorem updCtx_relayCause (s : State) (c : Nat) (f : Ctx → Ctx) : (updCtx s c f).relayCause = s.relayCause := rfl
@[simp] theorem updCtx_mem (s : State) (c : Nat) (f : Ctx → Ctx) : (updCtx s c f).mem = s.mem := rfl
@[simp] theorem updCtx_sump (s : State) (c : Nat) (f : Ctx → Ctx) : (updCtx s c f).sump = s.sump := rfl
@[simp] theorem updCtx_sumpBad (s : State) (c : Nat) (f : Ctx → Ctx) : (updCtx s c f).sumpBad = s.sumpBad := rfl
@[simp] theorem updCtx_ctxs (s : State) (c : Nat) (f : Ctx → Ctx) : (updCtx s c f).ctxs = updAt s.ctxs c f := rfl
@[simp] theorem updCtx_quarry (s : State) (c : Nat) (f : Ctx → Ctx) : (updCtx s c f).quarry = s.quarry := rfl
@[simp] theorem updCtx_memS (s : State) (c : Nat) (f : Ctx → Ctx) : (updCtx s c f).memS = s.memS := rfl
@[simp] theorem updCtx_cru (s : State) (c : Nat) (f : Ctx → Ctx) : (updCtx s c f).cru = s.cru := rfl
@[simp] theorem updCtx_stash (s : State) (c : Nat) (f : Ctx → Ctx) : (updCtx s c f).stash = s.stash := rfl
@[simp] theorem updCtx_rs (s : State) (c : Nat) (f : Ctx → Ctx) : (updCtx s c f).rs = s.rs := rfl
@[simp] theorem updCtx_spl (s : State) (c : Nat) (f : Ctx → Ctx) : (updCtx s c f).spl = s.spl := rfl
@[simp] theorem updCtx_tap (s : State) (c : Nat) (f : Ctx → Ctx) : (updCtx s c f).tap = s.tap := rfl
@[simp] theorem updCtx_vcc (s : State) (c : Nat) (f : Ctx → Ctx) : (updCtx s c f).vcc = s.vcc := rfl
@[simp] theorem updCtx_fab (s : State) (c : Nat) (f : Ctx → Ctx) : (updCtx s c f).fab = s.fab := rfl
@[simp] theorem updCtx_time (s : State) (c : Nat) (f : Ctx → Ctx) : (updCtx s c f).time = s.time := rfl
@[simp] theorem updCtx_rlb (s : State) (c : Nat) (f : Ctx → Ctx) : (updCtx s c f).rlb = s.rlb := rfl
@[simp] theorem updCtx_ras (s : State) (c : Nat) (f : Ctx → Ctx) : (updCtx s c f).ras = s.ras := rfl
@[simp] theorem updCtx_mbx (s : State) (c : Nat) (f : Ctx → Ctx) : (updCtx s c f).mbx = s.mbx := rfl
@[simp] theorem updCtx_trc (s : State) (c : Nat) (f : Ctx → Ctx) : (updCtx s c f).trc = s.trc := rfl
@[simp] theorem updCtx_aoc (s : State) (c : Nat) (f : Ctx → Ctx) : (updCtx s c f).aoc = s.aoc := rfl
@[simp] theorem updCtx_pwr (s : State) (c : Nat) (f : Ctx → Ctx) : (updCtx s c f).pwr = s.pwr := rfl
@[simp] theorem updCtx_hif (s : State) (c : Nat) (f : Ctx → Ctx) : (updCtx s c f).hif = s.hif := rfl
@[simp] theorem updCtx_flash (s : State) (c : Nat) (f : Ctx → Ctx) : (updCtx s c f).flash = s.flash := rfl
@[simp] theorem updCtx_fenced (s : State) (c : Nat) (f : Ctx → Ctx) : (updCtx s c f).fenced = s.fenced := rfl
@[simp] theorem updCtx_coresOff (s : State) (c : Nat) (f : Ctx → Ctx) : (updCtx s c f).coresOff = s.coresOff := rfl
@[simp] theorem updCtx_domOn (s : State) (c : Nat) (f : Ctx → Ctx) : (updCtx s c f).domOn = s.domOn := rfl
@[simp] theorem updCtx_wakes (s : State) (c : Nat) (f : Ctx → Ctx) : (updCtx s c f).wakes = s.wakes := rfl
@[simp] theorem updCtx_elapsed (s : State) (c : Nat) (f : Ctx → Ctx) : (updCtx s c f).elapsed = s.elapsed := rfl
@[simp] theorem updCtx_boot (s : State) (c : Nat) (f : Ctx → Ctx) : (updCtx s c f).boot = s.boot := rfl
@[simp] theorem updCtx_hostUp (s : State) (c : Nat) (f : Ctx → Ctx) : (updCtx s c f).hostUp = s.hostUp := rfl
@[simp] theorem updCtx_lastServed (s : State) (c : Nat) (f : Ctx → Ctx) : (updCtx s c f).lastServed = s.lastServed := rfl
@[simp] theorem updCtx_chiselCmv (s : State) (c : Nat) (f : Ctx → Ctx) : (updCtx s c f).chiselCmv = s.chiselCmv := rfl
@[simp] theorem updCtx_free (s : State) (c : Nat) (f : Ctx → Ctx) : (updCtx s c f).free = s.free := rfl
@[simp] theorem updCtx_pending (s : State) (c : Nat) (f : Ctx → Ctx) : (updCtx s c f).pending = s.pending := rfl

@[simp] theorem updMbx_mode (s : State) (f : MbxS → MbxS) : (updMbx s f).mode = s.mode := rfl
@[simp] theorem updMbx_relayCause (s : State) (f : MbxS → MbxS) : (updMbx s f).relayCause = s.relayCause := rfl
@[simp] theorem updMbx_mem (s : State) (f : MbxS → MbxS) : (updMbx s f).mem = s.mem := rfl
@[simp] theorem updMbx_sump (s : State) (f : MbxS → MbxS) : (updMbx s f).sump = s.sump := rfl
@[simp] theorem updMbx_sumpBad (s : State) (f : MbxS → MbxS) : (updMbx s f).sumpBad = s.sumpBad := rfl
@[simp] theorem updMbx_ctxs (s : State) (f : MbxS → MbxS) : (updMbx s f).ctxs = s.ctxs := rfl
@[simp] theorem updMbx_quarry (s : State) (f : MbxS → MbxS) : (updMbx s f).quarry = s.quarry := rfl
@[simp] theorem updMbx_memS (s : State) (f : MbxS → MbxS) : (updMbx s f).memS = s.memS := rfl
@[simp] theorem updMbx_cru (s : State) (f : MbxS → MbxS) : (updMbx s f).cru = s.cru := rfl
@[simp] theorem updMbx_stash (s : State) (f : MbxS → MbxS) : (updMbx s f).stash = s.stash := rfl
@[simp] theorem updMbx_rs (s : State) (f : MbxS → MbxS) : (updMbx s f).rs = s.rs := rfl
@[simp] theorem updMbx_spl (s : State) (f : MbxS → MbxS) : (updMbx s f).spl = s.spl := rfl
@[simp] theorem updMbx_tap (s : State) (f : MbxS → MbxS) : (updMbx s f).tap = s.tap := rfl
@[simp] theorem updMbx_vcc (s : State) (f : MbxS → MbxS) : (updMbx s f).vcc = s.vcc := rfl
@[simp] theorem updMbx_fab (s : State) (f : MbxS → MbxS) : (updMbx s f).fab = s.fab := rfl
@[simp] theorem updMbx_time (s : State) (f : MbxS → MbxS) : (updMbx s f).time = s.time := rfl
@[simp] theorem updMbx_rlb (s : State) (f : MbxS → MbxS) : (updMbx s f).rlb = s.rlb := rfl
@[simp] theorem updMbx_ras (s : State) (f : MbxS → MbxS) : (updMbx s f).ras = s.ras := rfl
@[simp] theorem updMbx_mbx (s : State) (f : MbxS → MbxS) : (updMbx s f).mbx = f s.mbx := rfl
@[simp] theorem updMbx_trc (s : State) (f : MbxS → MbxS) : (updMbx s f).trc = s.trc := rfl
@[simp] theorem updMbx_aoc (s : State) (f : MbxS → MbxS) : (updMbx s f).aoc = s.aoc := rfl
@[simp] theorem updMbx_pwr (s : State) (f : MbxS → MbxS) : (updMbx s f).pwr = s.pwr := rfl
@[simp] theorem updMbx_hif (s : State) (f : MbxS → MbxS) : (updMbx s f).hif = s.hif := rfl
@[simp] theorem updMbx_flash (s : State) (f : MbxS → MbxS) : (updMbx s f).flash = s.flash := rfl
@[simp] theorem updMbx_fenced (s : State) (f : MbxS → MbxS) : (updMbx s f).fenced = s.fenced := rfl
@[simp] theorem updMbx_coresOff (s : State) (f : MbxS → MbxS) : (updMbx s f).coresOff = s.coresOff := rfl
@[simp] theorem updMbx_domOn (s : State) (f : MbxS → MbxS) : (updMbx s f).domOn = s.domOn := rfl
@[simp] theorem updMbx_wakes (s : State) (f : MbxS → MbxS) : (updMbx s f).wakes = s.wakes := rfl
@[simp] theorem updMbx_elapsed (s : State) (f : MbxS → MbxS) : (updMbx s f).elapsed = s.elapsed := rfl
@[simp] theorem updMbx_boot (s : State) (f : MbxS → MbxS) : (updMbx s f).boot = s.boot := rfl
@[simp] theorem updMbx_hostUp (s : State) (f : MbxS → MbxS) : (updMbx s f).hostUp = s.hostUp := rfl
@[simp] theorem updMbx_lastServed (s : State) (f : MbxS → MbxS) : (updMbx s f).lastServed = s.lastServed := rfl
@[simp] theorem updMbx_chiselCmv (s : State) (f : MbxS → MbxS) : (updMbx s f).chiselCmv = s.chiselCmv := rfl
@[simp] theorem updMbx_free (s : State) (f : MbxS → MbxS) : (updMbx s f).free = s.free := rfl
@[simp] theorem updMbx_pending (s : State) (f : MbxS → MbxS) : (updMbx s f).pending = s.pending := rfl

@[simp] theorem updFab_mode (s : State) (f : FabS → FabS) : (updFab s f).mode = s.mode := rfl
@[simp] theorem updFab_relayCause (s : State) (f : FabS → FabS) : (updFab s f).relayCause = s.relayCause := rfl
@[simp] theorem updFab_mem (s : State) (f : FabS → FabS) : (updFab s f).mem = s.mem := rfl
@[simp] theorem updFab_sump (s : State) (f : FabS → FabS) : (updFab s f).sump = s.sump := rfl
@[simp] theorem updFab_sumpBad (s : State) (f : FabS → FabS) : (updFab s f).sumpBad = s.sumpBad := rfl
@[simp] theorem updFab_ctxs (s : State) (f : FabS → FabS) : (updFab s f).ctxs = s.ctxs := rfl
@[simp] theorem updFab_quarry (s : State) (f : FabS → FabS) : (updFab s f).quarry = s.quarry := rfl
@[simp] theorem updFab_memS (s : State) (f : FabS → FabS) : (updFab s f).memS = s.memS := rfl
@[simp] theorem updFab_cru (s : State) (f : FabS → FabS) : (updFab s f).cru = s.cru := rfl
@[simp] theorem updFab_stash (s : State) (f : FabS → FabS) : (updFab s f).stash = s.stash := rfl
@[simp] theorem updFab_rs (s : State) (f : FabS → FabS) : (updFab s f).rs = s.rs := rfl
@[simp] theorem updFab_spl (s : State) (f : FabS → FabS) : (updFab s f).spl = s.spl := rfl
@[simp] theorem updFab_tap (s : State) (f : FabS → FabS) : (updFab s f).tap = s.tap := rfl
@[simp] theorem updFab_vcc (s : State) (f : FabS → FabS) : (updFab s f).vcc = s.vcc := rfl
@[simp] theorem updFab_fab (s : State) (f : FabS → FabS) : (updFab s f).fab = f s.fab := rfl
@[simp] theorem updFab_time (s : State) (f : FabS → FabS) : (updFab s f).time = s.time := rfl
@[simp] theorem updFab_rlb (s : State) (f : FabS → FabS) : (updFab s f).rlb = s.rlb := rfl
@[simp] theorem updFab_ras (s : State) (f : FabS → FabS) : (updFab s f).ras = s.ras := rfl
@[simp] theorem updFab_mbx (s : State) (f : FabS → FabS) : (updFab s f).mbx = s.mbx := rfl
@[simp] theorem updFab_trc (s : State) (f : FabS → FabS) : (updFab s f).trc = s.trc := rfl
@[simp] theorem updFab_aoc (s : State) (f : FabS → FabS) : (updFab s f).aoc = s.aoc := rfl
@[simp] theorem updFab_pwr (s : State) (f : FabS → FabS) : (updFab s f).pwr = s.pwr := rfl
@[simp] theorem updFab_hif (s : State) (f : FabS → FabS) : (updFab s f).hif = s.hif := rfl
@[simp] theorem updFab_flash (s : State) (f : FabS → FabS) : (updFab s f).flash = s.flash := rfl
@[simp] theorem updFab_fenced (s : State) (f : FabS → FabS) : (updFab s f).fenced = s.fenced := rfl
@[simp] theorem updFab_coresOff (s : State) (f : FabS → FabS) : (updFab s f).coresOff = s.coresOff := rfl
@[simp] theorem updFab_domOn (s : State) (f : FabS → FabS) : (updFab s f).domOn = s.domOn := rfl
@[simp] theorem updFab_wakes (s : State) (f : FabS → FabS) : (updFab s f).wakes = s.wakes := rfl
@[simp] theorem updFab_elapsed (s : State) (f : FabS → FabS) : (updFab s f).elapsed = s.elapsed := rfl
@[simp] theorem updFab_boot (s : State) (f : FabS → FabS) : (updFab s f).boot = s.boot := rfl
@[simp] theorem updFab_hostUp (s : State) (f : FabS → FabS) : (updFab s f).hostUp = s.hostUp := rfl
@[simp] theorem updFab_lastServed (s : State) (f : FabS → FabS) : (updFab s f).lastServed = s.lastServed := rfl
@[simp] theorem updFab_chiselCmv (s : State) (f : FabS → FabS) : (updFab s f).chiselCmv = s.chiselCmv := rfl
@[simp] theorem updFab_free (s : State) (f : FabS → FabS) : (updFab s f).free = s.free := rfl
@[simp] theorem updFab_pending (s : State) (f : FabS → FabS) : (updFab s f).pending = s.pending := rfl

@[simp] theorem wrPhys_mode (s : State) (pa v n : Nat) : (wrPhys s pa v n).mode = s.mode := rfl
@[simp] theorem wrPhys_relayCause (s : State) (pa v n : Nat) : (wrPhys s pa v n).relayCause = s.relayCause := rfl
@[simp] theorem wrPhys_mem (s : State) (pa v n : Nat) : (wrPhys s pa v n).mem = memWr s.mem pa v n := rfl
@[simp] theorem wrPhys_sump (s : State) (pa v n : Nat) : (wrPhys s pa v n).sump = s.sump := rfl
@[simp] theorem wrPhys_sumpBad (s : State) (pa v n : Nat) : (wrPhys s pa v n).sumpBad = s.sumpBad := rfl
@[simp] theorem wrPhys_ctxs (s : State) (pa v n : Nat) : (wrPhys s pa v n).ctxs = s.ctxs := rfl
@[simp] theorem wrPhys_quarry (s : State) (pa v n : Nat) : (wrPhys s pa v n).quarry = s.quarry := rfl
@[simp] theorem wrPhys_memS (s : State) (pa v n : Nat) : (wrPhys s pa v n).memS = s.memS := rfl
@[simp] theorem wrPhys_cru (s : State) (pa v n : Nat) : (wrPhys s pa v n).cru = s.cru := rfl
@[simp] theorem wrPhys_stash (s : State) (pa v n : Nat) : (wrPhys s pa v n).stash = s.stash := rfl
@[simp] theorem wrPhys_rs (s : State) (pa v n : Nat) : (wrPhys s pa v n).rs = s.rs := rfl
@[simp] theorem wrPhys_spl (s : State) (pa v n : Nat) : (wrPhys s pa v n).spl = s.spl := rfl
@[simp] theorem wrPhys_tap (s : State) (pa v n : Nat) : (wrPhys s pa v n).tap = s.tap := rfl
@[simp] theorem wrPhys_vcc (s : State) (pa v n : Nat) : (wrPhys s pa v n).vcc = s.vcc := rfl
@[simp] theorem wrPhys_fab (s : State) (pa v n : Nat) : (wrPhys s pa v n).fab = s.fab := rfl
@[simp] theorem wrPhys_time (s : State) (pa v n : Nat) : (wrPhys s pa v n).time = s.time := rfl
@[simp] theorem wrPhys_rlb (s : State) (pa v n : Nat) : (wrPhys s pa v n).rlb = s.rlb := rfl
@[simp] theorem wrPhys_ras (s : State) (pa v n : Nat) : (wrPhys s pa v n).ras = s.ras := rfl
@[simp] theorem wrPhys_mbx (s : State) (pa v n : Nat) : (wrPhys s pa v n).mbx = s.mbx := rfl
@[simp] theorem wrPhys_trc (s : State) (pa v n : Nat) : (wrPhys s pa v n).trc = s.trc := rfl
@[simp] theorem wrPhys_aoc (s : State) (pa v n : Nat) : (wrPhys s pa v n).aoc = s.aoc := rfl
@[simp] theorem wrPhys_pwr (s : State) (pa v n : Nat) : (wrPhys s pa v n).pwr = s.pwr := rfl
@[simp] theorem wrPhys_hif (s : State) (pa v n : Nat) : (wrPhys s pa v n).hif = s.hif := rfl
@[simp] theorem wrPhys_flash (s : State) (pa v n : Nat) : (wrPhys s pa v n).flash = s.flash := rfl
@[simp] theorem wrPhys_fenced (s : State) (pa v n : Nat) : (wrPhys s pa v n).fenced = s.fenced := rfl
@[simp] theorem wrPhys_coresOff (s : State) (pa v n : Nat) : (wrPhys s pa v n).coresOff = s.coresOff := rfl
@[simp] theorem wrPhys_domOn (s : State) (pa v n : Nat) : (wrPhys s pa v n).domOn = s.domOn := rfl
@[simp] theorem wrPhys_wakes (s : State) (pa v n : Nat) : (wrPhys s pa v n).wakes = s.wakes := rfl
@[simp] theorem wrPhys_elapsed (s : State) (pa v n : Nat) : (wrPhys s pa v n).elapsed = s.elapsed := rfl
@[simp] theorem wrPhys_boot (s : State) (pa v n : Nat) : (wrPhys s pa v n).boot = s.boot := rfl
@[simp] theorem wrPhys_hostUp (s : State) (pa v n : Nat) : (wrPhys s pa v n).hostUp = s.hostUp := rfl
@[simp] theorem wrPhys_lastServed (s : State) (pa v n : Nat) : (wrPhys s pa v n).lastServed = s.lastServed := rfl
@[simp] theorem wrPhys_chiselCmv (s : State) (pa v n : Nat) : (wrPhys s pa v n).chiselCmv = s.chiselCmv := rfl
@[simp] theorem wrPhys_free (s : State) (pa v n : Nat) : (wrPhys s pa v n).free = s.free := rfl
@[simp] theorem wrPhys_pending (s : State) (pa v n : Nat) : (wrPhys s pa v n).pending = s.pending := rfl

@[simp] theorem reportError_mode (s : State) (e : ErrEvent) : (reportError s e).mode = s.mode := rfl
@[simp] theorem reportError_relayCause (s : State) (e : ErrEvent) : (reportError s e).relayCause = s.relayCause := rfl
@[simp] theorem reportError_mem (s : State) (e : ErrEvent) : (reportError s e).mem = s.mem := rfl
@[simp] theorem reportError_sump (s : State) (e : ErrEvent) : (reportError s e).sump = s.sump := rfl
@[simp] theorem reportError_sumpBad (s : State) (e : ErrEvent) : (reportError s e).sumpBad = s.sumpBad := rfl
@[simp] theorem reportError_ctxs (s : State) (e : ErrEvent) : (reportError s e).ctxs = s.ctxs := rfl
@[simp] theorem reportError_quarry (s : State) (e : ErrEvent) : (reportError s e).quarry = s.quarry := rfl
@[simp] theorem reportError_memS (s : State) (e : ErrEvent) : (reportError s e).memS = s.memS := rfl
@[simp] theorem reportError_cru (s : State) (e : ErrEvent) : (reportError s e).cru = s.cru := rfl
@[simp] theorem reportError_stash (s : State) (e : ErrEvent) : (reportError s e).stash = s.stash := rfl
@[simp] theorem reportError_rs (s : State) (e : ErrEvent) : (reportError s e).rs = s.rs := rfl
@[simp] theorem reportError_spl (s : State) (e : ErrEvent) : (reportError s e).spl = s.spl := rfl
@[simp] theorem reportError_tap (s : State) (e : ErrEvent) : (reportError s e).tap = s.tap := rfl
@[simp] theorem reportError_vcc (s : State) (e : ErrEvent) : (reportError s e).vcc = s.vcc := rfl
@[simp] theorem reportError_fab (s : State) (e : ErrEvent) : (reportError s e).fab = s.fab := rfl
@[simp] theorem reportError_time (s : State) (e : ErrEvent) : (reportError s e).time = s.time := rfl
@[simp] theorem reportError_rlb (s : State) (e : ErrEvent) : (reportError s e).rlb = s.rlb := rfl
@[simp] theorem reportError_ras (s : State) (e : ErrEvent) : (reportError s e).ras = rasEvent s.ras s.elapsed s.boot e := rfl
@[simp] theorem reportError_mbx (s : State) (e : ErrEvent) : (reportError s e).mbx = s.mbx := rfl
@[simp] theorem reportError_trc (s : State) (e : ErrEvent) : (reportError s e).trc = s.trc := rfl
@[simp] theorem reportError_aoc (s : State) (e : ErrEvent) : (reportError s e).aoc = s.aoc := rfl
@[simp] theorem reportError_pwr (s : State) (e : ErrEvent) : (reportError s e).pwr = s.pwr := rfl
@[simp] theorem reportError_hif (s : State) (e : ErrEvent) : (reportError s e).hif = s.hif := rfl
@[simp] theorem reportError_flash (s : State) (e : ErrEvent) : (reportError s e).flash = s.flash := rfl
@[simp] theorem reportError_fenced (s : State) (e : ErrEvent) : (reportError s e).fenced = s.fenced := rfl
@[simp] theorem reportError_coresOff (s : State) (e : ErrEvent) : (reportError s e).coresOff = s.coresOff := rfl
@[simp] theorem reportError_domOn (s : State) (e : ErrEvent) : (reportError s e).domOn = s.domOn := rfl
@[simp] theorem reportError_wakes (s : State) (e : ErrEvent) : (reportError s e).wakes = s.wakes := rfl
@[simp] theorem reportError_elapsed (s : State) (e : ErrEvent) : (reportError s e).elapsed = s.elapsed := rfl
@[simp] theorem reportError_boot (s : State) (e : ErrEvent) : (reportError s e).boot = s.boot := rfl
@[simp] theorem reportError_hostUp (s : State) (e : ErrEvent) : (reportError s e).hostUp = s.hostUp := rfl
@[simp] theorem reportError_lastServed (s : State) (e : ErrEvent) : (reportError s e).lastServed = s.lastServed := rfl
@[simp] theorem reportError_chiselCmv (s : State) (e : ErrEvent) : (reportError s e).chiselCmv = s.chiselCmv := rfl
@[simp] theorem reportError_free (s : State) (e : ErrEvent) : (reportError s e).free = s.free := rfl
@[simp] theorem reportError_pending (s : State) (e : ErrEvent) : (reportError s e).pending = s.pending := rfl

@[simp] theorem zeroRange_mode (s : State) (lo hi : Nat) : (zeroRange s lo hi).mode = s.mode := rfl
@[simp] theorem zeroRange_relayCause (s : State) (lo hi : Nat) : (zeroRange s lo hi).relayCause = s.relayCause := rfl
@[simp] theorem zeroRange_mem (s : State) (lo hi : Nat) : (zeroRange s lo hi).mem = memFill s.mem lo hi .zeros := rfl
@[simp] theorem zeroRange_sump (s : State) (lo hi : Nat) : (zeroRange s lo hi).sump = s.sump := rfl
@[simp] theorem zeroRange_sumpBad (s : State) (lo hi : Nat) : (zeroRange s lo hi).sumpBad = s.sumpBad := rfl
@[simp] theorem zeroRange_ctxs (s : State) (lo hi : Nat) : (zeroRange s lo hi).ctxs = s.ctxs := rfl
@[simp] theorem zeroRange_quarry (s : State) (lo hi : Nat) : (zeroRange s lo hi).quarry = s.quarry := rfl
@[simp] theorem zeroRange_memS (s : State) (lo hi : Nat) : (zeroRange s lo hi).memS = s.memS := rfl
@[simp] theorem zeroRange_cru (s : State) (lo hi : Nat) : (zeroRange s lo hi).cru = s.cru := rfl
@[simp] theorem zeroRange_stash (s : State) (lo hi : Nat) : (zeroRange s lo hi).stash = s.stash := rfl
@[simp] theorem zeroRange_rs (s : State) (lo hi : Nat) : (zeroRange s lo hi).rs = s.rs := rfl
@[simp] theorem zeroRange_spl (s : State) (lo hi : Nat) : (zeroRange s lo hi).spl = s.spl := rfl
@[simp] theorem zeroRange_tap (s : State) (lo hi : Nat) : (zeroRange s lo hi).tap = s.tap := rfl
@[simp] theorem zeroRange_vcc (s : State) (lo hi : Nat) : (zeroRange s lo hi).vcc = s.vcc := rfl
@[simp] theorem zeroRange_fab (s : State) (lo hi : Nat) : (zeroRange s lo hi).fab = s.fab := rfl
@[simp] theorem zeroRange_time (s : State) (lo hi : Nat) : (zeroRange s lo hi).time = s.time := rfl
@[simp] theorem zeroRange_rlb (s : State) (lo hi : Nat) : (zeroRange s lo hi).rlb = s.rlb := rfl
@[simp] theorem zeroRange_ras (s : State) (lo hi : Nat) : (zeroRange s lo hi).ras = s.ras := rfl
@[simp] theorem zeroRange_mbx (s : State) (lo hi : Nat) : (zeroRange s lo hi).mbx = s.mbx := rfl
@[simp] theorem zeroRange_trc (s : State) (lo hi : Nat) : (zeroRange s lo hi).trc = s.trc := rfl
@[simp] theorem zeroRange_aoc (s : State) (lo hi : Nat) : (zeroRange s lo hi).aoc = s.aoc := rfl
@[simp] theorem zeroRange_pwr (s : State) (lo hi : Nat) : (zeroRange s lo hi).pwr = s.pwr := rfl
@[simp] theorem zeroRange_hif (s : State) (lo hi : Nat) : (zeroRange s lo hi).hif = s.hif := rfl
@[simp] theorem zeroRange_flash (s : State) (lo hi : Nat) : (zeroRange s lo hi).flash = s.flash := rfl
@[simp] theorem zeroRange_fenced (s : State) (lo hi : Nat) : (zeroRange s lo hi).fenced = s.fenced := rfl
@[simp] theorem zeroRange_coresOff (s : State) (lo hi : Nat) : (zeroRange s lo hi).coresOff = s.coresOff := rfl
@[simp] theorem zeroRange_domOn (s : State) (lo hi : Nat) : (zeroRange s lo hi).domOn = s.domOn := rfl
@[simp] theorem zeroRange_wakes (s : State) (lo hi : Nat) : (zeroRange s lo hi).wakes = s.wakes := rfl
@[simp] theorem zeroRange_elapsed (s : State) (lo hi : Nat) : (zeroRange s lo hi).elapsed = s.elapsed := rfl
@[simp] theorem zeroRange_boot (s : State) (lo hi : Nat) : (zeroRange s lo hi).boot = s.boot := rfl
@[simp] theorem zeroRange_hostUp (s : State) (lo hi : Nat) : (zeroRange s lo hi).hostUp = s.hostUp := rfl
@[simp] theorem zeroRange_lastServed (s : State) (lo hi : Nat) : (zeroRange s lo hi).lastServed = s.lastServed := rfl
@[simp] theorem zeroRange_chiselCmv (s : State) (lo hi : Nat) : (zeroRange s lo hi).chiselCmv = s.chiselCmv := rfl
@[simp] theorem zeroRange_free (s : State) (lo hi : Nat) : (zeroRange s lo hi).free = s.free := rfl
@[simp] theorem zeroRange_pending (s : State) (lo hi : Nat) : (zeroRange s lo hi).pending = s.pending := rfl

/-! ### Contexts -/

/-- The state of a context changed is the change of its state. -/
theorem ctxOf_updCtx_same (s : State) {c : Nat} (f : Ctx → Ctx) (h : c < s.ctxs.length) : ctxOf (updCtx s c f) c = f (ctxOf s c) := by
  exact updAt_getD_same closedCtx s.ctxs c f h

/-- A change of one context leaves the others as they are. -/
theorem ctxOf_updCtx_other (s : State) {c d : Nat} (f : Ctx → Ctx) (h : c ≠ d) : ctxOf (updCtx s c f) d = ctxOf s d := by
  exact updAt_getD_other closedCtx s.ctxs f h

end Sys2Proof.Machine
end

