-- ==== Sys2Proof/Tests/Slice0.lean ====
section
/-! SUPPORT. The model's own tests: for each statement with hypotheses concrete states and operands that meet them, the terms that each check of well-formedness refuses, and a few results worked out by hand from the rules. -/

namespace Sys2Proof.Tests

open Sys2Proof.Machine

set_option Elab.async false

/-! ### Small states -/

/-- A tensor record: base, format, extents, strides in bytes, with flags beside the rank. -/
def tensF (base fmt flags : Nat) (ext str : List Nat) : Nat :=
  packBits ([(base, 64), (fmt, 8), (0, 8), (ext.length + flags, 16), (0, 16), (0, 16), (1, 32)] ++
    ((ext ++ List.replicate (6 - ext.length) 0).map (·, 32)) ++ ((str.map (· / 16) ++ List.replicate (5 - str.length) 0).map (·, 32)))

def tens (base fmt : Nat) (ext str : List Nat) : Nat := tensF base fmt 0 ext str

/-- An envelope: opcode, selector, parameter block, records. -/
def envl (op sel : Nat) (params : Nat) (recs : List Nat) : Nat :=
  packBits ([(op, 8), (recs.length, 8), (sel, 8), (0, 8), (0, 32), (0, 448), (params, 512)] ++ recs.map (·, 1024))

def opOf (e : Nat) : QOp := ⟨0, unitOf (envOpcode e), envSel e, envOpcode e, e, 64⟩

def nb : Nat := nearBase

def stashCfg : StashCfg :=
  { base := nb + 0x100000, handles := 4, ownBase := nb + 0x110000, nearPool := nb + 0x200000, nearSize := 0x100000, farPool := farBase
    farSize := 0x100000, hostPool := 0, hostSize := 0, nearRate := 0, farRate := 0, hostRate := 0 }

def ringCfg : RingCfg :=
  { enabled := true, fmt := 3, d := 64, hg := 1, kvh := 1, margin := 0, slots := 4, maxPages := 4, dirEntries := 4, dirBase := nb + 0x600000
    l1Base := nb + 0x601000, l2Base := nb + 0x602000, l2Count := 4, frameCount := 4, frameBase := nb + 0x610000, freeBase := nb + 0x620000
    swapBase := 0x400000000000, swapStride := 0x10000 }

/-- A ledger entry of FP32. -/
def ledgerEntry : Nat := packBits [(0, 8), (0, 8), (1, 16), (0, 16), (0, 16), (0, 8), (5, 8), (0, 16), (0, 32), (nb + 0x500000, 64)]

/-- A context that runs a package and has one operation queued. -/
def ctxWith (e : Nat) : Ctx :=
  { resetCtx with
    st := .running
    maps := [⟨0, 0, 0x40000000, true, true⟩, ⟨nearBase, nearBase, 0x100000000, true, true⟩, ⟨farBase, farBase, 0x10000000, true, true⟩,
      ⟨0x400000000000, 0x400000000000, 0x200000, true, true⟩]
    queued := [opOf e], ledgerBase := nearBase + 0x1000000, swBase := nearBase + 0x2000000, sumpFirst := 0, sumpCount := 128
    pkgs := [⟨nearBase + 0x3000000, true, 1, 1024, nearBase + 0x4000000, 1, 0, false⟩]
    ledger := [⟨0, ledgerEntry⟩], stash := stashCfg, ring := ringCfg }

/-- The module serving, all domains powered, the host link up, in a world of one node. -/
def served : State :=
  { State.reset with mode := .serving, domOn := List.replicate 64 true, hostUp := true, fab := { resetFab with recValid := true, node := 5 } }

def withCtx (s : State) (x : Ctx) : State := { s with ctxs := x :: List.replicate 7 resetCtx }

/-- Numbers in memory at physical places: address, value, bytes. -/
def withMem (s : State) (l : List (Nat × Nat × Nat)) : State := l.foldl (fun s x => wrPhys s x.1 x.2.1 x.2.2) s

/-- The state in which one operation is queued, with numbers in memory. -/
def opSt (e : Nat) (mem : List (Nat × Nat × Nat)) : State := withMem (withCtx served (ctxWith e)) mem

/-! ### Premises of the statements about operations -/

def issues (s : State) (cls inst : Nat) (kind : QOp → Bool) (q : QOp) : Bool :=
  headOf (ctxOf s 0) cls inst = some q && kind q && !frozen (ctxOf s 0) q && waitsMet s 0 q.env && headPowered s 0 q &&
    selected s 0 q false

theorem mayIssue_of_issues {s : State} {cls inst : Nat} {kind : QOp → Bool} {q : QOp} (h : issues s cls inst kind q = true) :
    MayIssue s 0 cls inst false kind q := by
  simp only [issues, Bool.and_eq_true, decide_eq_true_eq, Bool.not_eq_true'] at h
  exact ⟨h.1.1.1.1.1, h.1.1.1.1.2, h.1.1.1.2, h.1.1.2, h.1.2, h.2⟩

def passes (s : State) (p : Plan) (r w : List (Nat × Nat)) : Bool :=
  issueChecks s 0 p = none && badTouched s (physPieces s 0 r) = none && badPartly s (physPieces s 0 w) = none

theorem passes_of {s : State} {p : Plan} {r w : List (Nat × Nat)} (h : passes s p r w = true) : Passes s 0 p r w := by
  simp only [passes, Bool.and_eq_true, decide_eq_true_eq] at h
  exact ⟨h.1.1, h.1.2, h.2⟩

/-- One operation: its unit and instance, its opcode, its state, and the plan and ranges of the statement about it. -/
structure OpCase where
  cls : Nat
  inst : Nat
  opcode : Nat
  st : State
  op : QOp
  plan : State → QOp → Plan
  reads : State → QOp → List (Nat × Nat)
  writes : State → QOp → List (Nat × Nat)

def OpCase.holds (w : OpCase) : Bool :=
  issues w.st w.cls w.inst (isOp w.opcode) w.op &&
    passes (atUnit w.st 0 w.op) (w.plan (atUnit w.st 0 w.op) w.op) (w.reads (atUnit w.st 0 w.op) w.op) (w.writes (atUnit w.st 0 w.op) w.op)

/-- What RunsAs asks of a state and an operation. -/
def OpCase.Meets (w : OpCase) : Prop :=
  MayIssue w.st 0 w.cls w.inst false (isOp w.opcode) w.op ∧
    Passes (atUnit w.st 0 w.op) 0 (w.plan (atUnit w.st 0 w.op) w.op) (w.reads (atUnit w.st 0 w.op) w.op) (w.writes (atUnit w.st 0 w.op) w.op)

theorem meets_of_holds {w : OpCase} (h : w.holds = true) : w.Meets := by
  simp only [OpCase.holds, Bool.and_eq_true] at h
  exact ⟨mayIssue_of_issues h.1, passes_of h.2⟩

/-- An operation whose ranges are its plan's records. -/
def recCase (cls : Nat) (e : Nat) (mem : List (Nat × Nat × Nat)) (plan : State → QOp → Plan) : OpCase :=
  ⟨cls, envSel e, envOpcode e, opSt e mem, opOf e, plan, fun s q => readsOf s 0 (plan s q).recs, fun s q => writesOf s 0 (plan s q).recs⟩

/-- The statuses and DETAILs of what context 0 has in flight. -/
def ended (o : Host.Outcome State Fault Refusal) : List (Nat × Nat) :=
  match o with
  | .next t => (ctxOf t 0).flight.map fun f => (f.status, f.detail)
  | _ => [(0xFF, 0)]

/-! ### Array, drain engine, Chisel and Crushers -/

def eQmm : Nat := envl 0x10 0 (packBits [(0, 16)]) [tens 0 1 [8, 2] [16], tens 256 1 [8, 2] [16]]
def eBatch : Nat := envl 0x11 0 (packBits [(0, 16), (1, 16), (0, 32), (1024, 64)]) [tens 0 1 [8, 2] [16], tens 256 1 [8, 2] [16]]
def eDrain : Nat := envl 0x12 0 0 [tens 0 0 [4, 2] [16]]
def eFill : Nat := envl 0x13 0 (packBits [(0, 32), (0x3F800000, 32)]) [tens 0 0 [4, 2] [16]]
def eZero : Nat := envl 0x14 0 (packBits [(0, 16), (1, 16)]) []
def y82 : Nat := tens nb 1 [8, 1] [16]
def eCmv : Nat := envl 0x30 0 0 [tens 0 1 [8, 2] [16], y82, y82, y82, y82, tens (nb + 512) 0 [4, 2] [16]]
def crushed : Nat := tensF (nb + 512) 0x10 0x80 [64] []
def eCgq : Nat := envl 0x70 0 0 [tens nb 0 [64] [], 0, crushed]
def eCgdq : Nat := envl 0x71 0 0 [crushed, tens nb 0 [64] []]
def eCprobe : Nat := envl 0x72 0 1 [tens nb 0 [64] [], tens (nb + 512) 0 [8] []]

def matrixCases : List OpCase :=
  [{ recCase ucQuarry eQmm [] (fun s q => qmmPlan s 0 q) with reads := fun s q => qmmReads s 0 q, writes := fun _ _ => [] },
   { recCase ucQuarry eBatch [(1024, packBits [(0, 64), (256, 64), (2, 32), (0, 8)], 32)] (fun s q => batchPlan s 0 q) with
     reads := fun s q => batchReads s 0 q, writes := fun _ _ => [] },
   recCase ucDrain eDrain [] (fun s q => drainPlan s 0 q false), recCase ucDrain eFill [] (fun s q => drainPlan s 0 q true),
   recCase ucDrain eZero [] (fun s q => zeroPlan s 0 q),
   { recCase ucChisel eCmv [] (fun s q => cmvPlan s 0 q) with
     reads := fun s q => cmvReads s 0 q, writes := fun s q => footAt (envRec q.env 5) (runExt s 0 (envRec q.env 5)) },
   recCase ucCrusher eCgq [] (fun s q => cgqPlan s 0 q.env), recCase ucCrusher eCgdq [] (fun s q => cgdqPlan s 0 q.env),
   recCase ucCrusher eCprobe [] (fun s q => cprobePlan s 0 q.env)]

theorem test_witness_MatrixVectorOpsRun : ∀ w ∈ matrixCases, w.Meets :=
  fun w hw => meets_of_holds (List.all_eq_true.1 (by decide +kernel : matrixCases.all OpCase.holds = true) w hw)

/-- R119: under AUTO few rows take the Chisel. -/
theorem test_qmm_routed : routesToChisel (opSt eQmm []) 0 (opOf eQmm) = true := by decide +kernel

/-! ### Dressing -/

def x24 (b : Nat) : Nat := tens b 0 [4, 2] [16]
def x22 (b : Nat) : Nat := tens b 0 [2, 2] [16]
def bf24 (b : Nat) : Nat := tens b 1 [4, 2] [16]
def ix (n : Nat) : Nat := tens (nb + 256) 0xD [n] []
def exact (n : Nat) : Nat := tensF (nb + 256) 0xD 0x40 [n] []
def opt : Nat := 2 ^ 32

def dressingCases : List OpCase :=
  [recCase ucDressing (envl 0x40 0 opt [x24 nb, x24 (nb + 64), 0, x24 (nb + 128)]) [] (fun s q => ewPlan s 0 q.env),
   recCase ucDressing (envl 0x41 0 0 [x24 nb, x24 (nb + 64)]) [] (fun s q => actPlan s 0 q.env),
   recCase ucDressing (envl 0x42 0 0 [x24 nb, x24 (nb + 64), x24 (nb + 128)]) [] (fun s q => actBwdPlan s 0 q.env),
   recCase ucDressing (envl 0x43 0 0x10100 [x24 nb, 0, 0, x24 (nb + 64), 0]) [] (fun s q => normPlan s 0 q.env),
   recCase ucDressing (envl 0x44 0 0x10100 [x24 nb, 0, x22 (nb + 256), x24 (nb + 64), x24 (nb + 128), 0]) [] (fun s q => normBwdPlan s 0 q.env),
   recCase ucDressing (envl 0x45 0 0 [x24 nb, 0, x24 (nb + 64), 0]) [] (fun s q => smxPlan s 0 q.env),
   recCase ucDressing (envl 0x46 0 0 [x24 nb, x24 (nb + 64), x24 (nb + 128)]) [] (fun s q => smxBwdPlan s 0 q.env),
   recCase ucDressing (envl 0x47 0 0 [x24 nb, x22 (nb + 256), x24 (nb + 64), x22 (nb + 320), x24 (nb + 128), x22 (nb + 384)]) []
     (fun s q => smxMergePlan s 0 q.env),
   recCase ucDressing (envl 0x48 0 0x100 [x24 nb, tens (nb + 64) 0 [1, 2] [16]]) [] (fun s q => redPlan s 0 q.env),
   recCase ucDressing (envl 0x49 0 0 [x24 nb, bf24 (nb + 64)]) [] (fun s q => cvtPlan s 0 q.env)] ++
  [recCase ucDressing (envl 0x4A 0 0 [x24 nb, bf24 (nb + 64), bf24 (nb + 128), bf24 (nb + 192)]) [] (fun s q => split3Plan s 0 q.env),
   recCase ucDressing (envl 0x4B 0 0 [tens nb 0 [4] [], exact 8]) [] (fun s q => esAccPlan s 0 q.env),
   recCase ucDressing (envl 0x4C 0 0 [exact 8, tens nb 0 [4] []]) [] (fun s q => esFinalPlan s 0 q.env),
   recCase ucDressing (envl 0x4D 0 0 [x24 nb, ix 2, x24 (nb + 64)]) [] (fun s q => gatherPlan s 0 q.env),
   { recCase ucDressing (envl 0x4E 0 0 [x24 nb, ix 2, x24 (nb + 64)]) [] (fun s q => scatterPlan s 0 q.env) with
     reads := fun s q => readsOf s 0 [drIn q.env 0, drIn q.env 1], writes := fun s q => movedTo s 0 q.env },
   { recCase ucDressing (envl 0x4F 0 0 [x24 nb, ix 2, x24 (nb + 64)]) [] (fun s q => scatterAddPlan s 0 q.env) with
     reads := fun s q => readsOf s 0 [drIn q.env 0, drIn q.env 1] ++ movedTo s 0 q.env, writes := fun s q => movedTo s 0 q.env },
   recCase ucDressing (envl 0x50 0 0 [x24 nb, x24 (nb + 64), x24 (nb + 128), x24 (nb + 192), 0]) [] (fun s q => adamwPlan s 0 q.env)]

theorem test_witness_DressingOpsRun : ∀ w ∈ dressingCases, w.Meets :=
  fun w hw => meets_of_holds (List.all_eq_true.1 (by decide +kernel : dressingCases.all OpCase.holds = true) w hw)

/-! ### Splitter and box units -/

def eRoute : Nat := envl 0xA0 0 (packBits [(0, 8), (1, 8), (0, 8), (0, 8), (4, 32), (0x3F800000, 32)])
  [x22 nb, 0, tens (nb + 256) 0xD [4, 2] [16], tens (nb + 512) 0xD [1, 2] [16], tens (nb + 1024) 0 [1, 2] [16], 0]
def eCompact : Nat := envl 0xA1 0 0 [tens nb 0xC [4] [], tens (nb + 256) 0xD [4] [], 0]
def eMgate : Nat := envl 0xA2 0 (packBits [(0, 8), (1, 8), (1, 8), (1, 8), (1, 16), (0, 16), (0, 32), (1, 8)])
  [tens nb 0xD [2, 2, 2] [16, 32], tens (nb + 256) 0xD [8] [], tens (nb + 512) 0xD [8] []]

def bdsCase (e : Nat) (plan : State → QOp → Plan) : OpCase :=
  { recCase ucBds e [] plan with writes := fun s q => boxWrites s 0 q.opcode q.env ++ bdCountIv s 0 q.env }

def cpOut (s : State) (e : Nat) : List (Nat × Nat) :=
  if cpInv e then footAt (envRec e 2) (runExt s 0 (envRec e 2)) else []

def boxSplitterCases : List OpCase :=
  [bdsCase (envl 0xE0 0 0 [x24 nb, x24 (nb + 64), x24 (nb + 128)]) (fun s q => boxdecPlan s 0 q.env),
   bdsCase (envl 0xE1 0 0 [x22 nb, tens (nb + 64) 0xD [4] [], tens (nb + 128) 0xD [4] [], tens (nb + 192) 0 [4] []])
     (fun s q => boxselPlan s 0 q.env),
   bdsCase (envl 0xE2 0 (packBits [(0, 32), (4, 32)]) [x24 nb, tens (nb + 64) 0xD [2] [], tens (nb + 128) 0xD [2] [], tens (nb + 192) 0xD [4] []])
     (fun s q => nmsPlan s 0 q.env),
   bdsCase (envl 0xE3 0 0 [x24 nb, 0, 0, tens (nb + 64) 0 [1, 2] [16], tens (nb + 128) 0xD [1, 2] [16]]) (fun s q => argmaxPlan s 0 q.env),
   { recCase ucSplitter eRoute [] (fun s q => eroutePlan s 0 q.env) with
     writes := fun s q => routeWrites s 0 q.env ++ wordIvs s 0 (routeWords q.env) },
   { recCase ucSplitter eCompact [] (fun s q => compactPlan s 0 q.env) with
     writes := fun s q => (footprint (envRec q.env 1) ++ cpOut s q.env) ++ wordIvs s 0 (countIdx q.env) },
   { recCase ucSplitter eMgate [] (fun s q => mgatePlan s 0 q.env) with
     writes := fun s q => (footprint (envRec q.env 1) ++ footAt (envRec q.env 2) (runExt s 0 (envRec q.env 2))) ++ wordIvs s 0 (countIdx q.env) }]

theorem test_witness_BoxSplitterOpsRun : ∀ w ∈ boxSplitterCases, w.Meets :=
  fun w hw => meets_of_holds (List.all_eq_true.1 (by decide +kernel : boxSplitterCases.all OpCase.holds = true) w hw)

/-! ### Haulers -/

def eCopy : Nat := envl 0x80 0 0 [tens nb 0 [4] [], tens (nb + 512) 0 [4] []]
def eSet : Nat := envl 0x81 0 0 [tens nb 0 [4] []]

theorem test_witness_HaulerOpsRun :
    (MayIssue (opSt eCopy []) 0 ucHauler 0 false (isOp 0x80) (opOf eCopy) ∧
      issueChecks (atUnit (opSt eCopy []) 0 (opOf eCopy)) 0 (copyPlan (atUnit (opSt eCopy []) 0 (opOf eCopy)) 0 0 eCopy) = none ∧
      anyHeld (atUnit (opSt eCopy []) 0 (opOf eCopy)) 0 0 = false ∧
      mayBegin (atUnit (opSt eCopy []) 0 (opOf eCopy)) 0 0 (needRanges 0x80 eCopy) = true) ∧
    (MayIssue (opSt eSet []) 0 ucHauler 0 false (isOp 0x81) (opOf eSet) ∧
      issueChecks (atUnit (opSt eSet []) 0 (opOf eSet)) 0 (setPlan (atUnit (opSt eSet []) 0 (opOf eSet)) 0 eSet) = none ∧
      anyHeld (atUnit (opSt eSet []) 0 (opOf eSet)) 0 0 = false ∧
      mayBegin (atUnit (opSt eSet []) 0 (opOf eSet)) 0 0 (needRanges 0x81 eSet) = true) :=
  ⟨⟨mayIssue_of_issues (by decide +kernel), by decide +kernel⟩, mayIssue_of_issues (by decide +kernel), by decide +kernel⟩

/-- An operation that is in flight. -/
def flying (e cls : Nat) (ended held : Bool) : Flight :=
  { op := opOf e, status := 0, flags := {}, detail := 0, tIssue := 0, cls := cls, ended := ended, held := held, ranges := needRanges (envOpcode e) e
    aux := [1], acc := {}, old := false }

/-- An HSET that has issued and waits for its range. -/
def heldSt : State :=
  withCtx served { ctxWith eSet with queued := [], flight := [flying eSet ucHauler false true] }

theorem test_witness_hazardRangeRelease :
    (match (ctxOf heldSt 0).flight.find? fun f => f.cls = ucHauler && f.op.inst = 0 && f.held with
      | some f => mayBegin heldSt 0 0 f.ranges
      | none => false) = true := by decide +kernel

/-! ### Stash Manager -/

/-- Entries of handle 0: raw and empty, raw and filled, and a far one to raise. -/
def entPut : Nat := packBits [(1, 8), (5, 8), (0, 8), (1, 8), (0, 32), (0, 64), (0, 64), (0, 64), (0x10000, 64), (0, 64), (0, 8), (1, 8), (0, 16),
  (64, 32), (1, 32), (1, 32), (1, 32), (1, 32), (1, 32)]
def entGet : Nat := packBits [(0, 8), (0, 8), (1, 8), (1, 8), (0, 32), (0, 64), (0, 64), (0, 64), (0, 64), (0, 64), (0, 8), (1, 8), (0, 16),
  (64, 32), (1, 32), (1, 32), (1, 32), (1, 32), (1, 32)]
def entRaise : Nat := packBits [(2, 8), (1, 8), (1, 8), (3, 8), (0, 32), (0, 64), (0x10000, 64), (0, 64), (0x10000, 64), (64, 64), (0, 8), (1, 8),
  (0, 16), (64, 32), (1, 32), (1, 32), (1, 32), (1, 32), (1, 32)]

/-- A free handle whose policy keeps the tensor where it is. -/
def entKeep : Nat := packBits [(0, 8), (0, 8), (0, 8), (1, 8)]

def eSput : Nat := envl 0x78 0 0 [tens nb 0 [64] []]
def eSget : Nat := envl 0x79 0 0 [tens nb 0 [64] []]
def eSraise : Nat := envl 0x7A 0 0 []
def eSfree : Nat := envl 0x7B 0 (packBits [(0, 64), (1, 32)]) []
def stSt (e ent : Nat) : State := opSt e [(nb + 0x100000, ent, 128)]

def stU (e ent : Nat) : State := atUnit (stSt e ent) 0 (opOf e)

def stashOk (e ent op : Nat) (moves : Bool) : Bool :=
  let u := stU e ent
  let h := handleAt u 0 (stHandle e)
  let x := stashExt u 0 op e
  let v := stashApply u 0 op e h x
  issues (stSt e ent) ucStash 0 (fun q => isOp op q && stashRoom (stSt e ent)) (opOf e) && decide (stashChecks u 0 op e = none) &&
    !stashHolds u 0 op e h x && stashMoves op e h x == moves && (!moves ||
      (decide (badTouched v (physPieces v 0 (stashReads v 0 op e h x)) = none) &&
        decide (badPartly v (physPieces v 0 (stashWrites v 0 op e h x)) = none)))

theorem stash_of_ok {e ent op : Nat} {moves : Bool} (h : stashOk e ent op moves = true) :
    MayIssue (stSt e ent) 0 ucStash 0 false (fun q => isOp op q && stashRoom (stSt e ent)) (opOf e) ∧
      StashRuns (stU e ent) 0 op (opOf e) (handleAt (stU e ent) 0 (stHandle e)) (stashExt (stU e ent) 0 op e) := by
  simp only [stashOk, Bool.and_eq_true, decide_eq_true_eq, Bool.not_eq_true'] at h
  exact ⟨mayIssue_of_issues h.1.1.1.1, h.1.1.1.2, rfl, rfl, h.1.1.2⟩

/-- SPUT, SGET and SRAISE with a transfer whose lines are whole, and an SPUT that keeps its tensor in place and has none. -/
def stashCases : List (Nat × Nat × Nat × Bool) :=
  [(eSput, entPut, 0x78, true), (eSput, entKeep, 0x78, false), (eSget, entGet, 0x79, true), (eSraise, entRaise, 0x7A, true)]

theorem test_witness_StashOpsRun : stashCases.all (fun w => stashOk w.1 w.2.1 w.2.2.1 w.2.2.2) = true := by decide +kernel

theorem test_witness_stash_premises : ∀ w ∈ stashCases,
    MayIssue (stSt w.1 w.2.1) 0 ucStash 0 false (fun q => isOp w.2.2.1 q && stashRoom (stSt w.1 w.2.1)) (opOf w.1) ∧
      StashRuns (stU w.1 w.2.1) 0 w.2.2.1 (opOf w.1) (handleAt (stU w.1 w.2.1) 0 (stHandle w.1)) (stashExt (stU w.1 w.2.1) 0 w.2.2.1 w.1) :=
  fun w hw => stash_of_ok (List.all_eq_true.1 test_witness_StashOpsRun w hw)

theorem test_witness_sfree :
    MayIssue (stSt eSfree entGet) 0 ucStash 0 false (fun q => isOp 0x7B q && stashRoom (stSt eSfree entGet)) (opOf eSfree) ∧
    sfreeChecks (stU eSfree entGet) 0 eSfree = none ∧
    (ctxOf (stU eSfree entGet) 0).flight.any (stashMeets (ctxOf (stU eSfree entGet) 0).stash 0x7B eSfree 0) = false :=
  ⟨mayIssue_of_issues (by decide +kernel), by decide +kernel⟩

/-! ### Canopy -/

def page (b : Nat) : Nat := tens b 1 [64, 1, 1, 1] [128, 128, 128]
def seqList (b : Nat) : Nat := tens b 0xD [1] []
def eCattn : Nat := envl 0x90 0 0 [page nb, page (nb + 0x1000), 0, seqList (nb + 0x2000)]
def eRappend : Nat := envl 0x91 0 0 [page nb, page (nb + 0x1000), seqList (nb + 0x2000)]
def eRseq (f : Nat) : Nat := envl 0x92 0 f []
/-- Sequence 0's directory entry: 1 makes it open and resident. -/
def canSt (e st : Nat) : State := opSt e [(nb + 0x600000, st, 64)]
def canU (e st : Nat) : State := atUnit (canSt e st) 0 (opOf e)

def seqMeets (e : Nat) (list : Nat) (grow : Nat) (empty : Bool) (p : Plan) : Bool :=
  decide (issueChecks (canU e 1) 0 p = none) && decide (listChecks (canU e 1) 0 (listSeqs (canU e 1) 0 (envRec e list)) grow empty = none) &&
    decide ((makeResident (canU e 1) 0 (needOf (canU e 1) 0 (listSeqs (canU e 1) 0 (envRec e list)) grow) none).2 = none)

theorem test_witness_CanopyOpsRun :
    (MayIssue (canSt eCattn 1) 0 ucCanopy 0 false (isOp 0x90) (opOf eCattn) ∧
      seqMeets eCattn 3 0 (nth 1 (runExt (canU eCattn 1) 0 (envRec eCattn 0)) 2 = 0 || nth 1 (runExt (canU eCattn 1) 0 (envRec eCattn 0)) 3 = 0)
        (relsFirst (cattnPlan (canU eCattn 1) 0 eCattn)) = true) ∧
    (MayIssue (canSt eRappend 1) 0 ucCanopy 0 false (isOp 0x91) (opOf eRappend) ∧
      seqMeets eRappend 2 (nth 1 (runExt (canU eRappend 1) 0 (envRec eRappend 0)) 2)
        (nth 1 (runExt (canU eRappend 1) 0 (envRec eRappend 0)) 2 = 0 || nth 1 (runExt (canU eRappend 1) 0 (envRec eRappend 0)) 3 = 0)
        (relsFirst (rappendPlan (canU eRappend 1) 0 eRappend)) = true) :=
  ⟨⟨mayIssue_of_issues (by decide +kernel), by decide +kernel⟩, mayIssue_of_issues (by decide +kernel), by decide +kernel⟩

def rseqMeets (f : Nat) : Bool :=
  issues (canSt (eRseq f) (if f = 0 then 0 else 1)) ucCanopy 0 (isRseq f) (opOf (eRseq f)) &&
    decide (rqChecks (canU (eRseq f) (if f = 0 then 0 else 1)) 0 (eRseq f) = none) &&
    decide ((makeResident (canU (eRseq f) (if f = 0 then 0 else 1)) 0 (rqNeed (canU (eRseq f) (if f = 0 then 0 else 1)) 0 (eRseq f)) none).2 = none)

/-- All six functions of RSEQ meet their premises, OPEN on a closed sequence, the others on an open one. -/
theorem test_witness_rseq : (List.range 6).all rseqMeets = true := by decide +kernel

/-! ### Taproot and codec -/

/-- A feed block of one sample, one slot and one buffer; 1 makes it a live set's. -/
def feedBlock (live : Nat) : Nat :=
  packBits ([(if live = 1 then 0 else nb + 0x900000, 64), (if live = 1 then 0 else 1, 32), (1, 16), (1, 8), (0, 8), (0, 256)] ++
    [(1, 16), (2, 16), (1, 8), (0, 24), (0, 64), (nb + 0x910000, 64), (0x1000, 64), (nb + 0x920000, 64), (0x10000, 64), (nb + 0x930000, 64)] ++
    [(16, 32), (4096, 32), (0, 128), (64, 16), (64, 16), (64, 16), (1, 16), (1, 8), (0, 56), (4, 16), (4, 16), (1, 8), (0, 24)])
/-- A live block of one stream: source 9, port 0, UDP port 5. -/
def liveBlock : Nat :=
  packBits [(0, 64), (1000000, 32), (1000, 32), (1000, 32), (0, 32), (5, 16), (1, 8), (1, 8), (0, 288), (9, 32), (1, 8), (0, 24), (4096, 32)]
def template : Nat := tens (nb + 0x910100) 0 [4, 1, 1] [16, 16]
def eTfeed : Nat := envl 0xC0 0 (packBits [(0, 64), (nb + 0x940000, 64)]) [template, 0, 0, 0, 0, 0]
def eTlive : Nat := envl 0xC1 0 (packBits [(0, 64), (nb + 0x940000, 64), (nb + 0x950000, 64)]) [template, 0, 0, 0, 0, 0]
def eTstop : Nat := envl 0xC2 0 0 []
def eTstate : Nat := envl 0xC3 0 (packBits [(0, 64), (nb + 0x940000, 64)]) []
def feedMem (live : Nat) : List (Nat × Nat × Nat) := [(nb + 0x940000, feedBlock live, 256), (nb + 0x950000, liveBlock, 576)]
def tapU (e live : Nat) : State := atUnit (opSt e (feedMem live)) 0 (opOf e)
def luma (b : Nat) : Nat := tens b 0xC [16, 16, 1] [16, 256]
def chroma (b : Nat) : Nat := tens b 0xC [2, 8, 8, 1] [16, 128, 1024]
def frameTable : Nat := tens (nb + 0x30000) 0xD [16] []
def work : Nat := tens (nb + 0x40000) 0xC [65536] []
def eVdec : Nat := envl 0xD0 0 (packBits [(1, 8), (1, 8), (1, 8), (0, 8), (1, 16), (1, 8)])
  [tens nb 0xC [64] [], luma (nb + 0x10000), chroma (nb + 0x20000), 0, frameTable, work]
def eVenc : Nat := envl 0xD1 0 (packBits [(0, 8), (0, 8), (8, 8), (1, 8), (16, 16), (16, 16), (0, 8), (1, 8), (1, 8), (0, 8), (1, 16)])
  [luma nb, chroma (nb + 0x20000), tens (nb + 0x50000) 0xC [4096] [], 0, frameTable, work]

theorem test_witness_FeedCodecOpsRun :
    (MayIssue (opSt eTfeed (feedMem 0)) 0 ucTaproot 0 false (isOp 0xC0) (opOf eTfeed) ∧
      tapChecks (tapU eTfeed 0) 0 eTfeed false = none ∧
      badTouched (tapU eTfeed 0) (physPieces (tapU eTfeed 0) 0 (blockIvs (tapU eTfeed 0) 0 eTfeed false)) = none) ∧
    (MayIssue (opSt eTlive (feedMem 1)) 0 ucTaproot 0 false (isOp 0xC1) (opOf eTlive) ∧
      tapChecks (tapU eTlive 1) 0 eTlive true = none ∧
      badTouched (tapU eTlive 1) (physPieces (tapU eTlive 1) 0 (blockIvs (tapU eTlive 1) 0 eTlive true)) = none) ∧
    (MayIssue (opSt eTstop []) 0 ucTaproot 0 false (isOp 0xC2) (opOf eTstop) ∧
      firstBad (([(0x40, bits (par eTstop 0 1) 2 6 ≠ 0)] : List (Nat × Bool)) ++ parZero eTstop 2 0x40) = none ∧ par eTstop 1 1 ≤ 1) ∧
    (MayIssue (opSt eTstate []) 0 ucTaproot 0 false (isOp 0xC3) (opOf eTstate) ∧
      firstBad (([(0x40, bits (par eTstate 0 1) 2 6 ≠ 0)] : List (Nat × Bool)) ++ parZero eTstate 1 8 ++ parZero eTstate 0xE 0x40) = none ∧
      footOk (atUnit (opSt eTstate []) 0 (opOf eTstate)) 0 [.near] false true [(tfCfg eTstate, 64)] = true ∧ tfCfg eTstate % 64 = 0) :=
  ⟨⟨mayIssue_of_issues (by decide +kernel), by decide +kernel⟩, ⟨mayIssue_of_issues (by decide +kernel), by decide +kernel⟩,
    ⟨mayIssue_of_issues (by decide +kernel), by decide +kernel⟩, mayIssue_of_issues (by decide +kernel), by decide +kernel⟩

def vccCase (e : Nat) (plan : State → QOp → Plan) : OpCase :=
  { recCase ucVcc e [] plan with writes := fun s q => writesOf s 0 ((plan s q).recs.filter fun x => x.idx ≠ 5) }

theorem test_witness_vdec : (vccCase eVdec fun s q => vdecPlan s 0 q.env).Meets ∧ vccRoom (opSt eVdec []) 0 (opOf eVdec) = true ∧
    badTouched (atUnit (opSt eVdec []) 0 (opOf eVdec)) (physPieces (atUnit (opSt eVdec []) 0 (opOf eVdec)) 0
      [((envRec eVdec 0).base, nth 1 (runExt (atUnit (opSt eVdec []) 0 (opOf eVdec)) 0 (envRec eVdec 0)) 0)]) = none :=
  ⟨meets_of_holds (by decide +kernel), by decide +kernel⟩

theorem test_witness_venc :
    ({ recCase ucVcc eVenc [] (fun s q => vencPlan s 0 q.env) with writes := fun s q => vencWrites s 0 q.env } : OpCase).Meets ∧ vccRoom (opSt eVenc []) 0 (opOf eVenc) = true :=
  ⟨meets_of_holds (by decide +kernel), by decide +kernel⟩

/-! ### Fabric -/

/-- A parameter block that names a peer node. -/
def peer (n : Nat) : Nat := packBits [(0, 128), (n, 16)]
def eCwrite : Nat := envl 0xB0 4 (peer 7) [tens nb 0 [4] [], tens (nb + 512) 0 [4] []]
def eCread : Nat := envl 0xB1 4 (peer 7) [tens nb 0 [4] [], tens (nb + 512) 0 [4] []]
def eCsignal : Nat := envl 0xB2 4 (peer 7 + 2 ^ 192) []
def fabU (e : Nat) : State := atUnit (opSt e []) 0 (opOf e)

theorem test_witness_PointToPointOpsRun :
    (halfLoad (opSt eCwrite []) 4 < 16 ∧ MayIssue (opSt eCwrite []) 0 ucFabric 4 false (isOp 0xB0) (opOf eCwrite) ∧
      Passes (fabU eCwrite) 0 (p2pPlan (fabU eCwrite) 0 eCwrite true) (footAt (envRec eCwrite 0) (runExt (fabU eCwrite) 0 (envRec eCwrite 1))) []) ∧
    (halfLoad (opSt eCread []) 4 < 16 ∧ MayIssue (opSt eCread []) 0 ucFabric 4 false (isOp 0xB1) (opOf eCread) ∧
      Passes (fabU eCread) 0 (p2pPlan (fabU eCread) 0 eCread false) [] []) ∧
    (halfLoad (opSt eCsignal []) 4 < 16 ∧ MayIssue (opSt eCsignal []) 0 ucFabric 4 false (isOp 0xB2) (opOf eCsignal) ∧
      Passes (fabU eCsignal) 0 { reserved := p2pReserved eCsignal 0x0FFF true, recs := [], invalid := 0xB2 } [] []) :=
  ⟨⟨by decide +kernel, mayIssue_of_issues (by decide +kernel), passes_of (by decide +kernel)⟩,
    ⟨by decide +kernel, mayIssue_of_issues (by decide +kernel), passes_of (by decide +kernel)⟩,
    by decide +kernel, mayIssue_of_issues (by decide +kernel), passes_of (by decide +kernel)⟩

/-- A group of one member, node 5. -/
def groupBlock : Nat :=
  packBits [(1, 16), (0, 8), (1, 8), (1, 32), (0, 32), (1, 16), (1, 16), (1, 16), (0, 16), (0, 16), (100, 16), (nb + 0x700100, 64)
    , (nb + 0x800000, 64), (2, 16), (1, 8)]
def groupMem : List (Nat × Nat × Nat) :=
  [(nb + 0x700000, groupBlock, 64), (nb + 0x700100, 5, 2), (nb + 1024, packBits [(0, 64), (nb + 0x2000, 64), (nb + 0x3000, 64), (64, 64)], 32)]
def collPar (op rest : Nat) : Nat := packBits [(op, 64), (nb + 0x700000, 64), (rest, 64)]
def tokens (n : Nat) : Nat := packBits [(2, 32), (1, 16), (n, 16)]
def vec64 (b : Nat) : Nat := tens b 0 [64] []
def tokenIx : Nat := tens (nb + 1024) 0xD [2] []
def counts : Nat := tens (nb + 1536) 0xD [1, 1] [16]

/-- The eight rows of collectives. -/
def collCases : List (Nat × (QOp → Bool)) :=
  [(envl 0xB3 4 (collPar 1 0) [vec64 nb, vec64 (nb + 512)], isOp 0xB3), (envl 0xB4 4 (collPar 0 0) [vec64 nb, vec64 (nb + 512)], isOp 0xB4),
   (envl 0xB5 4 (collPar 1 0) [vec64 nb, vec64 (nb + 512)], isOp 0xB5),
   (envl 0xB6 4 (collPar 0 (tokens 0x8000)) [x24 nb, x24 (nb + 512), tokenIx, counts], fun q => q.opcode = 0xB6 && collOp q.env ≠ 1),
   (envl 0xB6 4 (collPar 1 (tokens 0)) [x24 nb, tokenIx, counts, x24 (nb + 512)], fun q => q.opcode = 0xB6 && collOp q.env = 1),
   (envl 0xB7 4 (collPar 0 0) [tens (nb + 1024) 0xD [8] []], isOp 0xB7), (envl 0xB8 4 (collPar 0 0x10000) [], isOp 0xB8),
   (envl 0xB9 4 (collPar 0 0) [tens nb 0 [4] [], tens (nb + 512) 0xD [2] []], isOp 0xB9)]

def collU (e : Nat) : State := atUnit (opSt e groupMem) 0 (opOf e)
def collN (e : Nat) : State := noteIssue (collU e) (halfOf 4) 0 (gId (readGroup (collU e) 0 e))

def collMeets (w : Nat × (QOp → Bool)) : Bool :=
  decide (halfLoad (opSt w.1 groupMem) 4 < 16) && issues (opSt w.1 groupMem) ucFabric 4 w.2 (opOf w.1) &&
    groupReadable (collU w.1) 0 w.1 && decide (gId (readGroup (collU w.1) 0 w.1) ≤ 1023) &&
    passes (collN w.1) (collPlan (collU w.1) 0 (halfOf 4) (envOpcode w.1) w.1) (collReads (collU w.1) 0 (envOpcode w.1) w.1) []

theorem test_witness_CollectiveOpsRun : ∀ w ∈ collCases, halfLoad (opSt w.1 groupMem) 4 < 16 ∧
    MayIssue (opSt w.1 groupMem) 0 ucFabric 4 false w.2 (opOf w.1) ∧ groupReadable (collU w.1) 0 w.1 = true ∧
    gId (readGroup (collU w.1) 0 w.1) ≤ 1023 ∧
    Passes (collN w.1) 0 (collPlan (collU w.1) 0 (halfOf 4) (envOpcode w.1) w.1) (collReads (collU w.1) 0 (envOpcode w.1) w.1) [] := by
  intro w hw
  have h := List.all_eq_true.1 (by decide +kernel : collCases.all collMeets = true) w hw
  simp only [collMeets, Bool.and_eq_true, decide_eq_true_eq] at h
  exact ⟨h.1.1.1.1, mayIssue_of_issues h.1.1.1.2, h.1.1.2, h.1.2, passes_of h.2⟩

/-! ### The sequencer -/

/-- The next state, if there is one, is so. -/
def nextIs (o : Host.Outcome State Fault Refusal) (ok : State → Bool) : Bool :=
  match o with
  | .next t => ok t
  | _ => false

/-- A package of `n` operations of which the one at the dispatch point is `e`. -/
def pkgSt (e n wait : Nat) : State :=
  withMem (withCtx served { ctxWith 0 with
    queued := [], nextIndex := 0, nextOff := 64
    pkgs := [⟨nb + 0x3000000, true, n, (if n = 1 then 64 + envBytes e else 1024), nb + 0x4000000, 1, wait, false⟩] }) [(nb + 0x3000040, e, envBytes e)]

def eStep : Nat := envl 0x01 0 0 []
def setEntries : Nat := packBits [(0x8005, 32), (7, 32), (0x8006, 32), (9, 32)]
def eTally : Nat := envl 0x02 0 setEntries []
def eShape : Nat := envl 0x03 0 setEntries []
/-- A NOP that waits until tally 3 reaches 1. -/
def eWait : Nat := packBits [(0, 64), (0x8003, 32), (1, 32)]

theorem test_witness_ControlOpsRun :
    (allReserved 0 = none ∧ (controlReady (pkgSt 0 2 0) 0 0x00).map (·.2) = some 0) ∧
    (allReserved eStep = none ∧ (controlReady (pkgSt eStep 2 0) 0 0x01).map (·.2) = some eStep ∧
      (ctxOf (pkgSt eStep 2 0) 0).queued = [] ∧ (ctxOf (pkgSt eStep 2 0) 0).flight = []) ∧
    ((controlReady (pkgSt eTally 2 0) 0 0x02).map (·.2) = some eTally ∧ setReserved eTally = none ∧ setIndices eTally = [5, 6]) ∧
    ((controlReady (pkgSt eShape 2 0) 0 0x03).map (·.2) = some eShape ∧ setReserved eShape = none ∧ setIndices eShape = [5, 6] ∧
      badPartly (pkgSt eShape 2 0) (physPieces (pkgSt eShape 2 0) 0
        ((setPairs eShape).map fun p => ((ctxOf (pkgSt eShape 2 0) 0).swBase + 4 * p.1, 4))) = none) := by decide +kernel

/-- R157: TALLY_SET gives each named tally its value. -/
theorem test_tallySet : nextIs (exec (.tallySet 0) (pkgSt eTally 2 0)) (fun t => [tallyOf t 0 5, tallyOf t 0 6, tallyOf t 0 7] = [7, 9, 0]) = true := by decide +kernel

/-- R156: STEP_ADVANCE makes STEP one higher. -/
theorem test_stepAdvance : nextIs (exec (.stepAdvance 0) (pkgSt eStep 2 0)) (fun t => (ctxOf t 0).step = 1) = true := by decide +kernel

/-- A package header of one NOP: magic, version, counts, completion base, generation. -/
def header : Nat :=
  packBits [(0x4B574C47, 32), (0, 8), (1, 8), (0, 16), (1, 32), (192, 32), (nb + 0x4000000, 48), (0, 16), (1, 32), (0, 32), (0, 256)]
def newPkg : Pkg := ⟨nb + 0x3000000, false, 0, 0, 0, 0, 0, false⟩
def idleSt : State :=
  withMem (withCtx served { ctxWith 0 with st := .idle, queued := [], pkgs := [newPkg] }) [(nb + 0x3000000, header, 64)]
def waitSt (n : Nat) : State := pkgSt eWait n 1000
def waitHead : State := withCtx served { ctxOf (waitSt 2) 0 with queued := [{ opOf (eDrain + eWait) with inst := 0 }] }

theorem test_witness_SequencerRuns :
    ((ctxOf idleSt 0).pkgs = [newPkg] ∧ (ctxOf idleSt 0).st = .idle ∧ domIsOn idleSt 44 = true ∧ headerOk idleSt 0 newPkg.da = true) ∧
    ((nextEnv (pkgSt eDrain 2 0) 0).any fun w => decide (envFault (pkgSt eDrain 2 0) 0 w.1 64 = none) && decide (envCheck w.1 0 64 w.2 = none) &&
      decide ((mkOp (ctxOf (pkgSt eDrain 2 0) 0) w.2).cls = ucDrain) && decide (0 < queueDepth ucDrain)) = true ∧
    ((ctxOf waitHead 0).pkgs.head?.map (·.waitLimit) = some 1000 ∧
      ((headOf (ctxOf waitHead 0) ucDrain 0).any fun q => !frozen (ctxOf waitHead 0) q && !waitsMet waitHead 0 q.env) = true) ∧
    ((nextEnv (waitSt 2) 0).any fun w =>
      decide (envOpcode w.2 < 0x10) && decide (envCheck w.1 0 64 w.2 = none) && !waitsMet (waitSt 2) 0 w.2) = true := by decide +kernel

/-- R143: the wait that is not met is named in WAIT_TIMEOUT's DETAIL. -/
theorem test_timeoutDetail : timeoutDetail (waitSt 2) 0 eWait = 0 ∧ waitEntryMet (waitSt 2) 0 (envWait eWait 0) = false := by decide +kernel

/-- An operation that has ended, and a CSIGNAL in flight that names tally 4 as its PF_TALLY. -/
def flySt (e cls : Nat) (done : Bool) : State := withCtx served { ctxWith 0 with queued := [], flight := [flying e cls done false] }
def ePf : Nat := eCsignal + 0x80040000 * 2 ^ 512

theorem test_witness_OperationsComplete :
    endedFlight (flySt eDrain ucDrain true) 0 0 = some (flying eDrain ucDrain true false) ∧
    ((fabFlight (flySt ePf ucFabric false) 0 0).any fun f =>
      decide (f.cls = ucFabric) && pfEn f.op.env && !pfDone f && decide (pfTally f.op.env = 4)) = true := by decide +kernel

/-- R419: the PF_TALLY is signalled once. -/
theorem test_prefetchSignal : nextIs (exec (.prefetchSignal 0 0) (flySt ePf ucFabric false))
    (fun t => decide (tallyOf t 0 4 = 1) && (fabFlight t 0 0).map pfDone = some true) = true := by decide +kernel

/-! ### Feeds -/

def sampleMem : List (Nat × Nat × Nat) :=
  [(nb + 0x900000, packBits [(nb + 0x960000, 64), (80, 32)], 16),
    (nb + 0x960000, packBits [(0x57524C47, 32), (1, 8), (0, 8), (2, 8), (0, 8), (4, 32), (1, 32), (0, 128), (16, 64), (0, 192), (0x3F800000, 32)], 80)]
/-- Feed 0 of context 0, running: on a dataset of one sample, or a live set of one stream. -/
def feed0 (live : Bool) : Feed :=
  { ctx := 0, id := 0, live := live, cfg := feedBlock (if live then 1 else 0), liveCfg := (if live then liveBlock else 0), tmpl := [template, 0, 0, 0, 0, 0]
    st := 1, r0 := 0, f0 := 0, published := 0, slots := [], low := false, armed := false, rejects := 0, tick := 0
    streams := (if live then [openStream (fld liveBlock 0x40 16)] else []), oldTap := false, oldVcc := false }
def withFeed (f : Feed) (mem : List (Nat × Nat × Nat)) : State :=
  let s := withMem (withCtx served { ctxWith 0 with queued := [] }) mem
  { s with time := { s.time with valid := true }, tap := { s.tap with feeds := [f] } }
def fedSt : State := withFeed (feed0 false) sampleMem
def liveSt : State := withFeed (feed0 true) []
def fullSt : State := withFeed { feed0 false with slots := [(true, 0)] } []

def servedFeed (s : State) (f : Feed) : State := { s with tap := { s.tap with served := 4 * f.ctx + f.id } }

def sampleOk (s : State) (f : Feed) : Bool :=
  match doSample (feedTouch (servedFeed s f) 0 [] (batchSlot f f.slots.length)) f f.published f.slots.length
      (slotPos f f.published f.slots.length) with
  | (_, .stores _) => true
  | _ => false

def ofFeed (s : State) (ok : Feed → Bool) : Bool := (feedOf s 0 0).any ok

/-- A datagram of one fragment: source 9, frame 3, four bytes. -/
def datagram : Nat :=
  packBits [(0x534C, 16), (1, 8), (1, 8), (9, 32), (3, 32), (0, 16), (1, 16), (1000, 64), (4, 32), (1, 32), (0xAABBCCDD, 32)]

theorem test_witness_FeedStepsRun :
    ofFeed fedSt (fun f => feedBusy f && domIsOn fedSt 45 && feedTurn fedSt f &&
      decide (feedAccess (servedFeed fedSt f) 0 [] (batchSlot f f.slots.length) = none) && sampleOk fedSt f) = true ∧
    ofFeed fullSt (fun f => feedBusy f && !f.live && decide (f.slots.length = fbB f) &&
      decide (feedAccess fullSt 0 [] (publishRange f) = none)) = true := by decide +kernel

/-- What a live set's tick stores to, and the state after its slots. -/
def tickOuts (f : Feed) : List (Nat × Nat) := (List.range (liveS f)).flatMap (batchSlot f)
def tickSt (f : Feed) : State :=
  (List.range (liveS f)).foldl (tickStep 0 0 (tickTime f)) (dropStale (feedTouch liveSt 0 [] (tickOuts f)) f (tickTime f + holdNs f))

theorem test_witness_liveTick :
    ofFeed liveSt (fun f => feedBusy f && f.live && decide (f.st = 1) && liveSt.time.valid && bufferFree liveSt f &&
      decide (feedAccess liveSt 0 [] (tickOuts f ++ publishRange f) = none) && ofFeed (tickSt f) (fun g => g.st = 1)) = true := by decide +kernel

theorem test_witness_liveDatagram :
    (match (liveSt.tap.feeds.filter fun f => f.live && feedBusy f && lb f 0x18 2 = 5 && bit (lb f 0x1A 1) 0).find?
        fun f => f.streams.any fun x => x.source = fld datagram 4 4 with
      | some f => datagramBad (nth (openStream 0) f.streams (f.streams.findIdx fun x => x.source = fld datagram 4 4)) 36 datagram
      | none => true) = false := by decide +kernel

/-- R340: the fragments of a frame that never completes. -/
def partSt : State := updStream liveSt 0 0 0 fun x => { x with parts := [⟨7, 0, false, 2, 8, [(0, 1)], false, 0, 0, 0⟩] }

theorem test_witness_liveFrameIncomplete :
    ofFeed partSt (fun f => (nth (openStream 0) f.streams 0).parts.any fun p => p.num = 7) = true := by decide +kernel

/-- A VDEC with two pictures to come, and a live stream with a frame to decode, their sessions open. -/
def progress2 : VccProgress := ⟨2, false, 1, 4, 1, 1, 256, []⟩
def vccSt : State :=
  vccOpen (withCtx served { ctxWith 0 with queued := [], flight := [{ flying eVdec ucVcc false false with aux := progress2.toAux }] }) (.op 0 0)
def codedSt : State :=
  vccOpen (updStream liveSt 0 0 0 fun x => { x with kind := 0, ready := [⟨7, 0, true, 1, 8, [(0, 1)], false, 0, 0, 0⟩] }) (.live 0 0 0)
def grantedTo (s : State) (w : VccSession) : Bool := ((sessTable (vccGrant s)).find? fun e => e.who = w && e.cores ≠ []).isSome

theorem test_witness_vccPicture :
    grantedTo vccSt (.op 0 0) = true ∧ domIsOn vccSt 46 = true ∧ (sessFlight vccSt 0 0).isSome = true ∧ vccSt.ctxs.length = 8 ∧
    grantedTo codedSt (.live 0 0 0) = true ∧ domIsOn codedSt 46 = true ∧ (feedOf codedSt 0 0).isSome = true := by decide +kernel

/-- R352: a picture of an operation leaves one fewer to come. -/
theorem test_vccPicture : nextIs (exec (.vccPicture (.op 0 0)) vccSt)
    (fun t => (sessFlight t 0 0).map (fun f => (progressOf f.aux).left) = some 1) = true := by decide +kernel

/-! ### Errors and the mailbox -/

/-- The Foreman serving with rings of 16 entries on. -/
def mbxSt (taken : List Cmd) : State :=
  let s := withCtx served { ctxWith 0 with queued := [] }
  { s with hif := { s.hif with on := true, perst := false }
           aoc := { s.aoc with on := true }
           mbx := { s.mbx with fwState := 2, enable := true, checked := true, cqLog2 := 4, sqLog2 := 4, taken := taken } }

def anError : ErrEvent := ⟨1, 1, 5, 0, 0xFF, 3, 0⟩
def loggedSt : State :=
  let s := mbxSt []
  { s with ras := { s.ras with table := [⟨anError, 1, 0, 0, 0, false⟩], fifo := [⟨anError, 1, 0, 0, 0, false⟩], overflowed := List.replicate 16 0, sumDue := false } }

theorem test_witness_ErrorPathRuns :
    loggedSt.aoc.on = true ∧ sevOk 1 1 = true ∧ sevOk 3 3 = true ∧ (loggedSt.ras.table[(0 : Fin 32).val]?).isSome = true ∧
    loggedSt.mbx.fwState = 2 ∧ loggedSt.ras.overflowed.any (0 < ·) = false ∧ loggedSt.ras.sumDue = false ∧
    loggedSt.ras.fifo = [⟨anError, 1, 0, 0, 0, false⟩] := by decide +kernel

def mbxOff : State := { mbxSt [] with mbx := { (mbxSt []).mbx with enable := false } }
def lostSt : State := { mbxSt [] with mbx := { (mbxSt []).mbx with lost := (List.replicate 12 0).set 3 2 } }
def cqHeld : State := { mbxSt [] with mbx := { (mbxSt []).mbx with cqTail := 3 } }
def doneCmd : Cmd := ⟨1, true, false, some (0, 0, 0), []⟩

theorem test_witness_MailboxRuns :
    (barOn (mbxSt []) = true ∧ (5 : BitVec 64).toNat % 4096 < sqSize (mbxSt []).mbx) ∧
    (barOn cqHeld = true ∧ (3 : BitVec 64).toNat % 4096 < cqSize cqHeld.mbx ∧
      (3 + cqSize cqHeld.mbx - cqHeld.mbx.cqHead) % cqSize cqHeld.mbx ≤ (cqHeld.mbx.cqTail + cqSize cqHeld.mbx - cqHeld.mbx.cqHead) % cqSize cqHeld.mbx) ∧
    (barOn mbxOff = true ∧ bit (0x4401 : BitVec 64).toNat 0 = true ∧ mbxOff.mbx.enable = false ∧ mbxOff.mbx.taken = []) ∧
    (bit (0 : BitVec 64).toNat 0 = false ∧ (mbxSt []).mbx.enable = true) ∧
    (lostSt.mbx.enable = true ∧ lostSt.mbx.checked = true ∧ lostSt.mbx.fwState = 2 ∧ lostSt.mbx.lost.any (0 < ·) = true ∧
      outstanding lostSt.mbx + 1 ≤ cqFree lostSt.mbx) ∧
    ((mbxSt [doneCmd]).mbx.taken[0]? = some doneCmd ∧ mayPost (mbxSt [doneCmd]) 0 doneCmd 0 = true) ∧
    ((mbxSt [{ doneCmd with ready := none }]).mbx.taken[0]?.map fun t => (t.begun, t.ready)) = some (true, none) := by decide +kernel

/-! ### Foreman commands -/

/-- A command as the rings hold it: opcode, context, bytes from 8 on. -/
def cmd (op ctx rest : Nat) : Nat := op + ctx * 2 ^ 32 + rest * 2 ^ 64

/-- A command at place 0, with what the statement about its row asks beside that it begins. -/
structure CmdCase where
  st : State
  raw : Nat
  op : Nat
  kind : Nat → Bool
  ok : State → Nat → Bool

def CmdCase.state (w : CmdCase) : State := { w.st with mbx := { w.st.mbx with taken := [⟨w.raw, false, false, none, []⟩] } }

def CmdCase.holds (w : CmdCase) : Bool :=
  decide (cmdOp w.raw = w.op) && w.kind w.raw && cmdMayBegin w.state 0 && decide (cmdChecks (begun w.state w.raw) w.raw = none) &&
    w.ok (begun w.state w.raw) w.raw

def CmdCase.Meets (w : CmdCase) : Prop :=
  Begins w.state 0 w.op w.kind ⟨w.raw, false, false, none, []⟩ ∧ w.ok (begun w.state w.raw) w.raw = true

theorem cmd_meets {w : CmdCase} (h : w.holds = true) : w.Meets := by
  simp only [CmdCase.holds, Bool.and_eq_true, decide_eq_true_eq] at h
  exact ⟨⟨rfl, h.1.1.1.1, h.1.1.1.2, h.1.1.2, h.1.2⟩, h.2⟩

/-- What MayRead and MayWrite ask. -/
def mr (s : State) (c a n : Nat) : Bool := fwOk s c a n false && decide (badTouched s (fwPieces s c a n) = none)
def mw (s : State) (c a n : Nat) : Bool := fwOk s c a n true && decide (badPartly s (fwPieces s c a n) = none)

def cmd0 (op rest : Nat) : Nat := cmd op 0xFF rest
def any1 (st : State) (raw : Nat) (ok : State → Nat → Bool) : CmdCase := ⟨st, raw, cmdOp raw, anyKind, ok⟩
def act1 (st : State) (raw : Nat) (off action : Nat) (ok : State → Nat → Bool) : CmdCase :=
  ⟨st, raw, cmdOp raw, fun r => fld r off 1 = action, ok⟩
def there : Nat := nb + 0x100000
/-- The Foreman serving with no context open, and with context 0 running. -/
def shut : State := { mbxSt [] with ctxs := List.replicate 8 resetCtx }
def open0 (mem : List (Nat × Nat × Nat)) : State := withMem (mbxSt []) mem

def identityCases : List CmdCase :=
  [any1 shut (cmd0 1 there) fun s r => mw s 0xFF (fld r 8 8) 512, any1 shut (cmd0 2 there) fun s r => mw s 0xFF (fld r 8 8) 256,
   any1 shut (cmd0 3 1) fun _ r => fld r 8 2 = 1, any1 shut (cmd0 3 2) fun _ r => fld r 8 2 = 2, any1 shut (cmd0 3 3) fun _ r => fld r 8 2 = 3,
   any1 shut (cmd0 4 (1 + 2 ^ 64)) fun s r => decide (fld r 8 2 = 1 ∧ fld r 0x10 8 ≤ 1 ∧ anyOpen s = false),
   any1 shut (cmd0 4 (2 + 0xFFF * 2 ^ 64)) fun _ r => decide (fld r 8 2 = 2 ∧ fld r 0x10 8 ≤ 0xFFF),
   any1 shut (cmd0 4 (3 + 10000000 * 2 ^ 64)) fun _ r => decide (fld r 8 2 = 3 ∧ fld r 0x10 8 ≤ 10000000)]

theorem test_witness_IdentityCommandsComplete : ∀ w ∈ identityCases, w.Meets :=
  fun w hw => cmd_meets (List.all_eq_true.1 (by decide +kernel : identityCases.all CmdCase.holds = true) w hw)

def stagedSt : State := updRegion shut 0 fun x => { x with staged := true }
def oldSt : State := updRegion shut 2 fun x => { x with old := true }

def firmwareCases : List CmdCase :=
  [any1 shut (cmd0 8 (packBits [(0, 64), (there, 64), (64, 32)])) fun s r =>
     decide (fld r 8 1 ≤ 4) && mr s 0xFF (fld r 0x10 8) (fld r 0x18 4) && !regionBusy s r,
   any1 stagedSt (cmd0 9 0) fun s r => decide (fld r 8 1 ≤ 4) && !regionBusy s r && (regionFw s (fld r 8 1)).staged,
   any1 shut (cmd0 0x0A 4) fun _ r => decide (fld r 8 1 ≤ 4), any1 shut (cmd0 0x0C 0x60) fun _ r => calKnown (fld r 8 2),
   any1 shut (cmd0 0x0D (packBits [(0x60, 64), (1, 8)])) fun s r => decide (fld r 0x10 1 ≤ 2) && calKnown (fld r 8 2) &&
     !s.mbx.taken.any fun t => t.begun && cmdOp t.raw = 0x0D]

theorem test_witness_FirmwareCommandsComplete : (∀ w ∈ firmwareCases, w.Meets) ∧ mayRetire oldSt 2 = true ∧ (oldSt.flash.regions[2]?).isSome = true :=
  ⟨fun w hw => cmd_meets (List.all_eq_true.1 (by decide +kernel : firmwareCases.all CmdCase.holds = true) w hw), by decide +kernel⟩

/-- A built-in test that passes, and one that fails in its logic. -/
def bist (fail : Bool) : BistOutcome := ⟨true, 0x1234, fail, 0, [], [], false⟩
def bistAfter (s : State) (r : Nat) (o : BistOutcome) : State :=
  let t := withHealth s (runBist s (fld r 8 1) (fld r 9 1) (kindOutcome (fld r 10 1) o))
  if (regionFw t 4).old then retireImage t 4 else t
def bistReady (s : State) (r : Nat) : Bool :=
  bistUnit (fld r 8 1) (fld r 9 1) && decide (1 ≤ fld r 8 1 ∧ fld r 8 1 ≤ 0x0D ∨ fld r 8 1 = 0x10) &&
    decide (1 ≤ fld r 10 1 ∧ fld r 10 1 ≤ 3) && !unitBusy s (fld r 8 1) (fld r 9 1)
def spareSt : State := updPort shut 15 fun p => { p with st := 2, spareFor := 7, laneOk := 0x1F }

def repairCases : List CmdCase :=
  [any1 shut (cmd0 0x10 (packBits [(0x0B, 8), (0, 8), (1, 8)])) fun s r => bistReady s r && decide ((bistAfter s r (bist true)).fenced ≠ s.fenced) &&
     !anyOpen (bistAfter s r (bist true)),
   any1 shut (cmd0 0x10 (packBits [(0x0B, 8), (0, 8), (1, 8)])) fun s r => bistReady s r && decide ((bistAfter s r (bist false)).fenced = s.fenced),
   any1 (open0 []) (cmd0 0x10 (packBits [(0x0B, 8), (0, 8), (1, 8)])) fun s r => bistReady s r && decide ((bistAfter s r (bist true)).fenced ≠ s.fenced) &&
     anyOpen (bistAfter s r (bist true)),
   act1 shut (cmd0 0x11 (packBits [(1, 8), (255, 8)])) 8 1 fun s r =>
     !s.memS.mapped.contains (fld r 9 1) && !withdrawnMapped s (fld r 9 1) && !overBudget s.memS.mapped (fld r 9 1),
   act1 { shut with flash := { shut.flash with outChans := [3] } } (cmd0 0x11 (packBits [(2, 8), (3, 8)])) 8 2
     fun s r => s.flash.outChans.contains (fld r 9 1),
   act1 spareSt (cmd0 0x11 (packBits [(3, 8), (15, 8), (3, 8)])) 8 3 fun s r => decide (fld r 9 1 ≤ 15 ∧ fld r 10 1 ≤ 3 ∧
     (portOf s (fld r 9 1)).st = 2 ∧ (portOf s (fld r 9 1)).spareFor = 7 ∧ bit (portOf s (fld r 9 1)).laneOk 4 = true),
   any1 shut (cmd0 0x14 (packBits [(2, 64), (0x20, 8), (0x7E, 8)])) fun _ r =>
     decide (fld r 8 1 ≤ 32 ∧ ∀ k, k < fld r 8 1 → 0x20 ≤ fld r (0x10 + k) 1 ∧ fld r (0x10 + k) 1 ≤ 0x7E)]

theorem test_witness_RepairCommandsComplete : ∀ w ∈ repairCases, w.Meets :=
  fun w hw => cmd_meets (List.all_eq_true.1 (by decide +kernel : repairCases.all CmdCase.holds = true) w hw)

/-- A context block: ledger at nb + 16 MiB, shape words at nb + 32 MiB, 16 Sump slots, 256 MiB of the near tier. -/
def ctxBlock : Nat :=
  packBits [(0x46434C47, 32), (1, 8), (0, 8), (1, 8), (0, 8), (nb + 0x1000000, 64), (0, 64), (nb + 0x2000000, 64), (16, 16), (0, 3824),
    (nb, 64), (nb, 64), (0x10000000, 64), (3, 8)]
def mapLine : Nat := packBits [(0x500000000000, 64), (0x400000200000, 64), (0x200000, 64), (1, 8)]
def haltSt : State := { shut with ctxs := { ctxOf (open0 []) 0 with st := .halted } :: List.replicate 7 resetCtx }
def quietSt : State :=
  withMem { shut with ctxs := { ctxOf (open0 []) 0 with pkgs := [] } :: List.replicate 7 resetCtx } [(there, mapLine, 32)]
def news (s : State) (r : Nat) : List MapEntry :=
  (List.range (fld r 9 1)).map fun i => rangeEntry (fwRead s 0xFF (fld r 0x10 8) (32 * fld r 9 1)) (32 * i)

def contextCases : List CmdCase :=
  [any1 (withMem shut [(there, ctxBlock, 544)]) (cmd0 0x18 there) fun s r =>
     !((List.range 8).all fun c => isOpen s c) && decide (fld r 8 8 % 64 = 0) && mr s 0xFF (fld r 8 8) 2560 && blockPlace s (fld r 8 8) &&
       decide (blockChecks s (openTarget s r) (fwRead s 0xFF (fld r 8 8) 2560) = none),
   any1 (open0 []) (cmd 0x19 0 0) fun s r => isOpen s (cmdCtx r), any1 (open0 []) (cmd 0x1A 7 0) fun _ _ => true,
   any1 quietSt (cmd 0x1B 0 (packBits [(4, 8), (1, 56), (there, 64)])) fun s r =>
     decide (1 ≤ fld r 9 1 ∧ fld r 8 1 + fld r 9 1 ≤ 64) && isOpen s (cmdCtx r) && decide (fld r 8 1 ≤ (ctxOf s (cmdCtx r)).maps.length) &&
     ctxQuiet s (cmdCtx r) && mr s 0xFF (fld r 0x10 8) (32 * fld r 9 1) &&
     decide (firstBad ((List.range (fld r 9 1)).flatMap fun i => rangeReserved (fwRead s 0xFF (fld r 0x10 8) (32 * fld r 9 1)) (32 * i)) = none) &&
     decide (newMapBreaks s (cmdCtx r) (fld r 8 1) (ctxOf s (cmdCtx r)).maps (news s r) = none) &&
     decide (uncovered s (replaceMaps (ctxOf s (cmdCtx r)).maps (fld r 8 1) (news s r)) (cfgAreas (ctxOf s (cmdCtx r)).ledgerBase
          (ctxOf s (cmdCtx r)).swBase (ctxOf s (cmdCtx r)).stash (ctxOf s (cmdCtx r)).ring) = none),
   any1 (open0 []) (cmd 0x20 0 there) fun s r =>
     fwOk s (cmdCtx r) (fld r 8 8) 64 false && isOpen s (cmdCtx r) && decide ((ctxOf s (cmdCtx r)).pkgs.length < 4),
   act1 haltSt (cmd 0x21 0 1) 8 1 fun s r => decide ((ctxOf s (cmdCtx r)).st = .halted),
   act1 haltSt (cmd 0x21 0 2) 8 2 fun s r => decide ((ctxOf s (cmdCtx r)).st = .halted),
   act1 haltSt (cmd 0x21 0 3) 8 3 fun s r => decide ((ctxOf s (cmdCtx r)).st = .halted)]

theorem test_witness_ContextCommandsComplete : ∀ w ∈ contextCases, w.Meets :=
  fun w hw => cmd_meets (List.all_eq_true.1 (by decide +kernel : contextCases.all CmdCase.holds = true) w hw)

def dataRange (off : Nat) : Nat := packBits [(4, 16), (2, 16), (0, 32), (there + off, 64)]
def ledgerRange : Nat := packBits [(7, 16), (0, 16), (1, 32), (there, 64)]
def ownFree (s : State) (r : Nat) : Bool :=
  decide (hState (handleAt s (cmdCtx r) (fld r 8 4)) = hsFree) && decide (fld r 12 4 = 1)
/-- A CKPT_SAVE of memory ranges, none named, in one copy. -/
def ckptReq : Nat := packBits [(1, 8), (1, 8), (0, 112), (farBase, 64)]

def contextDataCases : List CmdCase :=
  [any1 (open0 []) (cmd 0x22 0 (dataRange 0)) fun s r =>
     decide (fld r 8 2 < 4096 ∧ 1 ≤ fld r 10 2 ∧ fld r 8 2 + fld r 10 2 ≤ 4096) && mw s 0xFF (fld r 0x10 8) (4 * fld r 10 2),
   any1 (open0 []) (cmd 0x23 0 (dataRange 0)) fun s r =>
     decide (fld r 8 2 < 4096 ∧ 1 ≤ fld r 10 2 ∧ fld r 8 2 + fld r 10 2 ≤ 4096) && mr s 0xFF (fld r 0x10 8) (4 * fld r 10 2),
   any1 (open0 []) (cmd 0x24 0 ledgerRange) fun s r =>
     decide (1 ≤ fld r 12 4 ∧ fld r 8 2 + fld r 12 4 ≤ 65536) && isOpen s (cmdCtx r) && mw s 0xFF (fld r 0x10 8) (64 * fld r 12 4) &&
       decide (ledgerFault s (cmdCtx r) (fld r 8 2) (fld r 12 4) = none),
   any1 (open0 [(there, ledgerEntry, 64)]) (cmd 0x25 0 ledgerRange) fun s r =>
     decide (1 ≤ fld r 12 4 ∧ fld r 8 2 + fld r 12 4 ≤ 65536) && isOpen s (cmdCtx r) && mr s 0xFF (fld r 0x10 8) (64 * fld r 12 4) &&
       decide (ledgerBad (fwRead s 0xFF (fld r 0x10 8) (64 * fld r 12 4)) (fld r 12 4) = none) &&
       decide ((ctxOf s (cmdCtx r)).queued = [] ∧ (ctxOf s (cmdCtx r)).flight = []),
   any1 (open0 []) (cmd 0x26 0 (packBits [(2, 32), (1, 32), (there + 0x40000, 64)])) fun s r =>
     decide (1 ≤ fld r 12 4 ∧ fld r 8 4 + fld r 12 4 ≤ (ctxOf s (cmdCtx r)).stash.handles) && isOpen s (cmdCtx r) &&
       mr s 0xFF (fld r 0x10 8) (128 * fld r 12 4) &&
       decide (handlesBad (ctxOf s (cmdCtx r)).stash (fwRead s 0xFF (fld r 0x10 8) (128 * fld r 12 4)) (fld r 12 4) = none) &&
       decide (badTouched s (physPieces s (cmdCtx r) [((ctxOf s (cmdCtx r)).stash.base + 128 * fld r 8 4, 128 * fld r 12 4)]) = none) &&
       !((ctxOf s (cmdCtx r)).flight.any fun f => f.op.cls = ucStash) && ownFree s r,
   any1 quietSt (cmd 0x28 0 there) fun _ _ => true,
   any1 quietSt (cmd 0x29 0 (packBits [(there, 48), (0x8003, 16), (1, 8)])) fun s r =>
     decide (1 ≤ rsMask r ∧ rsMask r < 16) && rsRemote r && isOpen s (cmdCtx r) && ctxQuiet s (cmdCtx r) && !ckptBusy s (cmdCtx r),
   any1 quietSt (cmd 0x29 0 (packBits [(there, 48), (0, 16), (1, 8)])) fun s r =>
     decide (1 ≤ rsMask r ∧ rsMask r < 16) && !rsRemote r && fwOk s (cmdCtx r) (rsImage r) 64 false && isOpen s (cmdCtx r) &&
       ctxQuiet s (cmdCtx r) && !ckptBusy s (cmdCtx r)]

theorem test_witness_ContextDataCommandsComplete : ∀ w ∈ contextDataCases, w.Meets :=
  fun w hw => cmd_meets (List.all_eq_true.1 (by decide +kernel : contextDataCases.all CmdCase.holds = true) w hw)

def saveSt : State := withMem quietSt [(there, ckptReq, 32)]

theorem test_witness_ckptSave : mr saveSt 0 there 4096 = true ∧ fwRead saveSt 0 there 4096 = ckptReq ∧ ckptForm ckptReq = none ∧
    sourceBad saveSt 0 ckptReq = none ∧ destBad saveSt 0 ckptReq (ckImage saveSt 0 ckptReq).2 = none ∧ isOpen saveSt 0 = true ∧
    (ctxOf saveSt 0).queued = [] ∧ (ctxOf saveSt 0).flight = [] ∧ ckptBusy saveSt 0 = false ∧
    badTouched saveSt (physPieces saveSt 0 (ckReads saveSt 0 ckptReq)) = none := by decide +kernel

/-- A fabric record of one route, its digest in place. -/
def recordBody : Nat := packBits [(0x52464C47, 32), (1, 8), (0, 8), (5, 16), (0, 112), (1, 16)]
def record : Nat := recordBody + frDigest recordBody * 2 ^ (8 * 0xF8)
/-- A tunnel's block: IPv4, MTU 1500, ports, window, buffer of 64 KiB in the near tier. -/
def tunnelBlock : Nat :=
  packBits [(0, 8), (4, 8), (0, 8), (0, 8), (0, 16), (1500, 16), (5, 16), (6, 16), (1, 16), (0, 272), (there + 0x100000, 64), (0x10000, 64)]
def tunnelReq (a : Nat) : Nat := packBits [(63, 8), (a, 8), (0, 48), (if a = 1 then there else 0, 64)]
def tunnelSt : State := updTun shut 63 fun t => { t with opened := true }

def fabricCases : List CmdCase :=
  [any1 { withMem shut [(there, record, 264)] with fab := resetFab } (cmd 0x30 0xFF (packBits [(there, 64), (264, 32)])) fun s r =>
     decide (264 ≤ fld r 0x10 4 ∧ fld r 0x10 4 ≤ 262400 ∧ fld r 0x10 4 % 8 = 0) && mr s (cmdCtx r) (fld r 8 8) (fld r 0x10 4) &&
       !(s.mbx.taken.any fun t => t.begun && cmdOp t.raw = 0x30) &&
       decide (recordBad (fwRead s (cmdCtx r) (fld r 8 8) (fld r 0x10 4)) (fld r 0x10 4) = none),
   any1 shut (cmd 0x31 0xFF (packBits [(32767, 16), (1, 48), (there, 64)])) fun s r =>
     decide (fld r 8 2 < 32768 ∧ 1 ≤ fld r 10 2 ∧ fld r 8 2 + fld r 10 2 ≤ 32768) && mr s (cmdCtx r) (fld r 0x10 8) (8 * fld r 10 2) &&
       decide (∀ k, k < fld r 10 2 → routeReserved (fld (fwRead s (cmdCtx r) (fld r 0x10 8) (8 * fld r 10 2)) (8 * k) 8) = false),
   act1 (withMem shut [(there, tunnelBlock, 96)]) (cmd 0x32 0xFF (tunnelReq 1)) 9 1 fun s r =>
     decide (fld r 8 1 ≤ 63) && mr s (cmdCtx r) (fld r 0x10 8) 96 && decide (tunnelBad (fwRead s (cmdCtx r) (fld r 0x10 8) 96) = none) &&
      fwPhysOk s (foremanRegions s) (fld (fwRead s (cmdCtx r) (fld r 0x10 8) 96) 0x30 8) (fld (fwRead s (cmdCtx r) (fld r 0x10 8) 96) 0x38 8) &&
      decide (regionOf s (fld (fwRead s (cmdCtx r) (fld r 0x10 8) 96) 0x30 8) = some .near) && !(tunOf s (fld r 8 1)).opened,
   act1 tunnelSt (cmd 0x32 0xFF (tunnelReq 2)) 9 2 fun s r => decide (fld r 8 1 ≤ 63) && (tunOf s (fld r 8 1)).opened,
   act1 shut (cmd0 0x33 (15 + 0x100)) 9 1 fun _ r => decide (fld r 8 1 ≤ 15), act1 shut (cmd0 0x33 (15 + 0x200)) 9 2 fun _ r => decide (fld r 8 1 ≤ 15),
   act1 shut (cmd0 0x33 (15 + 0x300)) 9 3 fun _ r => decide (fld r 8 1 ≤ 15)]

theorem test_witness_FabricCommandsComplete : ∀ w ∈ fabricCases, w.Meets :=
  fun w hw => cmd_meets (List.all_eq_true.1 (by decide +kernel : fabricCases.all CmdCase.holds = true) w hw)

def traced (st : Nat) : State := updTrc shut fun t => { t with configured := true, base := there, bytes := 0x10000, st := st }
def oneRecord : State := { shut with ras := { shut.ras with n := 1, ring := [⟨0, 0x1234⟩] } }

def serviceCases : List CmdCase :=
  [any1 shut (cmd 0x38 0xFF there) fun s r => mw s (cmdCtx r) (fld r 8 8) 64,
   any1 shut (cmd0 0x39 (packBits [(3, 8), (127, 8), (3, 8)])) fun _ r => decide (fld r 8 1 ≤ 3 ∧ fld r 9 1 ≤ 127 ∧ fld r 10 1 ≤ 3),
   any1 shut (cmd0 0x3C (packBits [(there, 64), (0x10000, 64), (1, 64)])) fun s r =>
     decide (fld r 8 8 % 4096 = 0 ∧ fld r 0x10 8 % 4096 = 0 ∧ 0x10000 ≤ fld r 0x10 8 ∧ fld r 0x10 8 ≤ 0x1000000000 ∧
      fld r 0x18 8 < 2 ^ 44 ∧ bits (fld r 0x18 8) 42 2 = 0) && fwPhysOk s (foremanRegions s) (fld r 8 8) (fld r 0x10 8) &&
      tracePlace s (fld r 8 8) && decide (s.trc.st = 0),
   act1 (traced 0) (cmd0 0x3D 1) 8 1 fun s _ => s.trc.configured, act1 (traced 2) (cmd0 0x3D 2) 8 2 fun s _ => decide (s.trc.st ≠ 0),
   act1 (traced 1) (cmd0 0x3D 3) 8 3 fun s _ => decide (s.trc.st = 1),
   any1 oneRecord (cmd 0x40 0xFF (packBits [(1, 32), (4, 32), (there, 64)])) fun s r =>
     decide (1 ≤ fld r 12 2 ∧ fld r 12 2 ≤ 4096 ∧ 1 ≤ (logSpan s.ras (fld r 8 4) (fld r 12 2)).2) &&
       fwOk s (cmdCtx r) (fld r 0x10 8) (64 * fld r 12 2) true &&
       decide (badPartly s (fwPieces s (cmdCtx r) (fld r 0x10 8) (64 * (logSpan s.ras (fld r 8 4) (fld r 12 2)).2)) = none),
   any1 shut (cmd0 0x44 2750) fun _ r => decide (1200 ≤ fld r 8 2 ∧ fld r 8 2 ≤ 2750),
   any1 (open0 []) (cmd0 0x45 (packBits [(15, 8), (0, 8), (1, 8)])) fun _ r => decide (fld r 8 1 ≤ 15 ∧ fld r 10 1 ≤ 1),
   any1 shut (cmd0 0x45 (packBits [(15, 8), (0, 8), (2, 8)])) fun s r =>
     decide (fld r 8 1 ≤ 15 ∧ fld r 10 1 = 2) && !(namedGroups r).any (groupMapped s)]

theorem test_witness_TimeTraceLogPowerCommandsComplete : ∀ w ∈ serviceCases, w.Meets :=
  fun w hw => cmd_meets (List.all_eq_true.1 (by decide +kernel : serviceCases.all CmdCase.holds = true) w hw)

/-! ### Reset, inputs, start-up -/

def aocSt (g : AocS → AocS) : State := { mbxSt [] with aoc := g (mbxSt []).aoc }
def inReset : State := { aocSt id with mode := .offOrReset }

theorem test_witness_ResetCausesReset :
    (mbxSt []).aoc.on = true ∧ barOn (mbxSt []) = true ∧ bits (0xC302 : BitVec 64).toNat 8 8 = 0xC3 ∧ bit (0xC302 : BitVec 64).toNat 1 = true ∧
    (mbxSt []).aoc.buttonIgnored = false ∧ (mbxSt []).mode ≠ .offOrReset := by decide +kernel

theorem test_witness_ResetInputsRun :
    (nth false (aocSt fun a => { a with level := a.level.set 2 true }).aoc.level 2 = true ∧
      (aocSt fun a => { a with level := a.level.set 2 true }).aoc.buttonIgnored = false) ∧
    nth false (aocSt id).aoc.level 2 = false ∧
    (inReset.aoc.on = true ∧ inReset.mode = .offOrReset ∧ bit inReset.aoc.causes rcTray = false ∧ bit inReset.aoc.causes rcButton = false) := by
  decide +kernel

/-- R472: a held tray reset keeps the module in reset. -/
theorem test_trayReset : nextIs (exec .trayResetAssert (mbxSt [])) (fun t => nextIs (exec .moduleResetRelease t)
    fun u => decide (u.mode = .offOrReset) && bit u.aoc.causes rcTray) = true := by decide +kernel

/-- Time is valid, and the last edge came `n` nanoseconds ago. -/
def ppsSt : State := { aocSt fun a => { a with ppsLocked := true } with time := { (aocSt id).time with valid := true, source := 2 } }
def syncSt (t : Option Nat) : State := { aocSt fun a => { a with lastEvent := a.lastEvent.set 4 t } with elapsed := 20000 }

theorem test_witness_EdgesRun :
    ((aocSt id).aoc.on = true ∧ (aocSt id).aoc.ppsLocked = false) ∧
    (ppsSt.aoc.ppsLocked = true ∧ ppsInWindow ppsSt = true ∧ ppsUsed ppsSt = true) ∧
    (nth none (syncSt (some 10001)).aoc.lastEvent 4 = some 10001 ∧ nowNs (syncSt (some 10001)) < 10001 + 10000) ∧
    (nth none (syncSt (some 10000)).aoc.lastEvent 4 = some 10000 ∧ 10000 + 10000 ≤ nowNs (syncSt (some 10000))) ∧
    (nth false (aocSt id).aoc.stuck 5 = false ∧ nth false (aocSt fun a => { a with level := a.level.set 1 true }).aoc.level 1 = true) := by
  decide +kernel

theorem test_witness_HostLinkRuns :
    (mbxSt []).aoc.on = true ∧ (mbxSt []).hif.on = true ∧ (mbxSt []).hif.perst = false ∧ (mbxSt []).mode ≠ .offOrReset ∧ (mbxSt []).hostUp = true ∧
    (mbxSt []).mbx.fwState = 2 := by decide +kernel

theorem test_witness_PowerInputsRun : (mbxSt []).mode ≠ .offOrReset := by decide +kernel

/-- Starting up, with an image in bank 1 of region 0 or in neither bank. -/
def starting (len : Nat) : State :=
  updRegion { mbxSt [] with mode := .startUp, mbx := { (mbxSt []).mbx with fwState := 0 } } 0 fun g => { g with banks := g.banks.set 1 ⟨0, len, 1, 0⟩ }

theorem test_witness_StartUpRuns :
    ((starting 8).mode = .startUp ∧ (starting 8).mbx.fwState = 0 ∧ bootSelect (starting 8) true false = some 1) ∧
    bootSelect (starting 0) true true = none ∧
    (barOn (setFwState (starting 0) 3) = true ∧ (setFwState (starting 0) 3).mbx.fwState = 3 ∧ (0x52454356 : BitVec 64).toNat = 0x52454356 ∧
      (setFwState (starting 0) 3).mode = .startUp) ∧
    (barOn (mbxSt []) = true ∧ bits (0xC301 : BitVec 64).toNat 8 8 = 0xC3 ∧ bit (0xC301 : BitVec 64).toNat 0 = true ∧
      bit (0xC301 : BitVec 64).toNat 1 = false) ∧
    ((aocSt fun a => { a with label := { a.label with busy := true } }).aoc.label.busy = true ∧
      (aocSt fun a => { a with label := { a.label with busy := false, pend := true } }).aoc.label.pend = true ∧
      (aocSt fun a => { a with label := { a.label with busy := false, pend := true } }).aoc.on = true) := by decide +kernel

/-! ### Registers, heat and power, domains -/

theorem test_witness_RegisterAccessesRun :
    barOn (mbxSt []) = true ∧ (0x10D010 : BitVec 24).toNat % 8 = 0 ∧ (mbxSt []).aoc.on = true ∧
    (BitVec.ofNat 7 (0x60 + (mbxSt []).aoc.slot)).toNat = 0x60 + (mbxSt []).aoc.slot := by decide +kernel

theorem test_witness_Bar2AccessesRun :
    barOn (mbxSt []) = true ∧ 0xFF8 % 4096 + 8 ≤ 4096 ∧ 0xFF8 + 8 ≤ 2 ^ (mbxSt []).hif.bar2Log2 ∧
    bar2Da (mbxSt []) 0xFF8 = some (nearBase + 0xFF8) ∧ bar2Region (mbxSt []) (nearBase + 0xFF8) 8 = some .near ∧
    regionOn (mbxSt []) .near (nearBase + 0xFF8) = true := by decide +kernel

def hotSt (l : List Int) : State := { mbxSt [] with pwr := { (mbxSt []).pwr with tj := l } }
def stepSt : State := { mbxSt [] with memS := { (mbxSt []).memS with stackStep := List.replicate 8 2 } }

theorem test_witness_HeatAndPowerAct :
    powered (mbxSt []) = true ∧ (usableSensors (List.replicate 16 40000)).max? = some 40000 ∧
    (usableSensors (List.replicate 16 40000)).length = 16 ∧ 20000 < hotterBy (hotSt [90000, 40000, 40000, 40000]) 0 ∧
    (hotterBy (hotSt [60000, 40000, 40000, 40000]) 0 ≤ 20000 ∧ 15000 < hotterBy (hotSt [60000, 40000, 40000, 40000]) 0) ∧
    hotterBy (hotSt [55000, 40000, 40000, 40000]) 0 ≤ 15000 ∧ domIsOn (mbxSt []) 43 = true ∧ domIsOn (mbxSt []) 55 = true ∧
    alertCond (mbxSt []) = false ∧ (mbxSt []).aoc.on = true := by decide +kernel

/-- The premise of an HBM reading whose step does not rise, whatever the calibration: a stack at step 2. -/
theorem test_witness_hbmTempReading (k : Fin 8) (r : Int) :
    powered stepSt = true ∧ domIsOn stepSt (stackDomain k) = true ∧
      stackStepOf (nth 0 stepSt.memS.stackStep k) (r + calEff stepSt (0x40 + k)) ≤ nth 0 stepSt.memS.stackStep k := by
  refine ⟨by decide +kernel, by revert k; decide +kernel, ?_⟩
  have h : nth 0 stepSt.memS.stackStep k = 2 := by revert k; decide +kernel
  rw [h]
  unfold stackStepOf
  split
  · exact Nat.le_refl 2
  · split <;> omega

def eStage : QOp := opOf eTstop
def autoSt : State := { mbxSt [] with mbx := { (mbxSt []).mbx with autoRetainUs := 50 } }

theorem test_witness_PowerManagementActs :
    (served.mode = .serving ∧ domFenced served 45 = false ∧ demandDomains.contains 45 = true ∧ domInUse (opSt eTstop []) 45 = true) ∧
    (planeDomains.contains 31 = true ∧ anyOpen (mbxSt []) = true) ∧
    (farDomains.contains 55 = true ∧ demandDomains.contains 58 = true ∧ domInUse (mbxSt []) 58 = false) ∧
    (autoSt.mbx.autoRetainUs ≠ 0 ∧ nth 0 autoSt.memS.ret 31 = 0 ∧ domIsOn autoSt 32 = true) ∧
    (domIsOn served (10 * (64 * 16777215 / 0x10000000) + 2) = true ∧ retOf served (64 * 16777215) ≠ 2 ∧ badTouched served [(64 * 16777215, 64)] = none) ∧
    (regionOf served (nearBase + 64 * 6442450943) = some .near ∧
      domIsOn served (stackDomain ((nearPlace served (nearBase + 64 * 6442450943)).1 / 32)) = true ∧
      badTouched served [(nearBase + 64 * 6442450943, 64)] = none) := by decide +kernel

/-! ### Time, ring -/

def ptpSt : State := { mbxSt [] with time := { (mbxSt []).time with ports := 3, domain := 4, config := 2, valid := true } }
def ringSt (open_ master : Bool) : State :=
  { mbxSt [] with fab := { (mbxSt []).fab with sbr := { (mbxSt []).fab.sbr with relayOpen := open_, inserted := open_, master := master, station := 2 } } }
/-- A ring frame: type, hops, source, payload length, payload, with its CRC. -/
def ringFrame (type hops src n : Nat) (pay : Nat) : Nat :=
  let f := packBits [(type, 8), (hops, 8), (src, 8), (0, 8), (n, 8), (0, 24), (pay, 8 * n)]
  f + crc32c (bytesOf f (8 + n)) * 2 ^ (8 * (8 + n))

theorem test_witness_TimeSourcesAct :
    ptpListens ptpSt 1 4 = true ∧ ptpSt.time.valid = true ∧ ringListens ptpSt = true ∧ ringGood 26 (ringFrame 1 9 0 14 0x1234) = true ∧
    rgType (ringFrame 1 9 0 14 0x1234) = 1 ∧ ringMaster { ringSt true true with time := ptpSt.time } = true := by decide +kernel

theorem test_witness_RingRuns :
    (ringListens (ringSt true false) = true ∧ ringGood 13 (ringFrame 3 9 0 1 1) = true ∧ rgType (ringFrame 3 9 0 1 1) = 3 ∧
      (ringSt true false).fab.sbr.inserted = true ∧ (ringSt true false).fab.sbr.master = false ∧
      ringRemoves (updSbr (ringSt true false) fun r => { r with locked := true }) (ringFrame 3 9 0 1 1) = false) ∧
    (ringGood 14 (ringFrame 2 9 0 2 1) = true ∧ rgType (ringFrame 2 9 0 2 1) = 2) ∧
    ((ringSt false false).mbx.fwState ≠ 3 ∧ (ringSt false false).fab.sbr.relayOpen = false) ∧
    (ringSt true false).mode ≠ .relayOnly ∧ ({ ringSt true false with mode := .relayOnly } : State).mode = .relayOnly ∧
    ringMaster (ringSt true true) = true := by decide +kernel

/-! ### Links, packets, tunnels -/

/-- A packet header: type, hops, destination, source, device address, tag, length, ASTAT, AUX, job. -/
def hdr (type hops dst src da tag len astat aux job : Nat) : Nat :=
  packBits [(type, 8), (0, 8), (hops, 8), (0, 8), (dst, 16), (src, 16), (da, 64), (tag, 32), (len, 16), (0, 8), (astat, 8), (aux, 32), (job, 16)]
def portSt (st : Nat) : State := updPort served 3 fun p => { p with st := st, width := 4, laneOk := 0x1F, spareFor := 7 }
/-- A PKT frame of virtual channel 1 that carries an ACK, with its CRC. -/
def ackFrame : Nat :=
  let f := packBits [(0, 4), (1, 3), (0, 41), (2, 16), (hdr ptAck 4 5 6 0 9 0 0 0 1, 256)]
  f + crc32c (bytesOf f 40) * 2 ^ 320

theorem test_witness_LinksRun :
    (fabricOn (portSt 2) = true ∧ (portOf (portSt 2) 3).st = 2 ∧ frameGood 48 ackFrame = true ∧ bits ackFrame 0 4 = 0 ∧
      bits ackFrame 8 12 = (portOf (portSt 2) 3).expect ∧ (framePacket 48 ackFrame).isSome = true) ∧
    ((portOf (portSt 2) 3).spareFor = 7 ∧ bit (portOf (portSt 2) 3).laneOk 4 = true ∧ bit (portOf (portSt 2) 3).laneOk 3 = true) ∧
    (widthOf (7 : BitVec 5).toNat ≠ (portOf (portSt 2) 3).width ∧ widthOf (7 : BitVec 5).toNat ≠ 0) ∧
    ((portOf (portSt 1) 3).st = 1 ∧ widthOf (0x1F : BitVec 5).toNat ≠ 0) := by decide +kernel

/-- A packet in a receive buffer at this node, 5, whose context's job is 1; node 9 is reached through port 3. -/
def rxSt (src : Nat) (k : Pkt) : State :=
  let s := withCtx (portSt 2) { ctxWith 0 with queued := [], fabricJob := 1 }
  updFab s fun f => { f with rx := [⟨src, 1, k⟩], routes := smSet 0 f.routes 9 (2 ^ 63 + 2 ^ 3) }
def rxU (src : Nat) (k : Pkt) : State := takeRx (rxSt src k) 0 ⟨src, 1, k⟩
def kFar : Pkt := ⟨hdr ptAck 4 9 6 0 9 0 0 0 1, 0⟩
def kWrite : Pkt := ⟨hdr ptWrite 4 5 6 nb 9 16 0 0 1, 0x55⟩
def kRead : Pkt := ⟨hdr ptReadReq 4 5 6 nb 9 0 0 16 1, 0⟩
def kRsp : Pkt := ⟨hdr ptReadRsp 4 5 6 nb 9 16 0 16 1, 0x77⟩
def kAck : Pkt := ⟨hdr ptAck 4 5 6 nb 9 0 0 16 1, 0⟩
def kSignal : Pkt := ⟨hdr ptSignal 4 5 6 2 9 0 0 7 1, 0⟩
def kCtrl : Pkt := ⟨hdr ptCtrl 4 5 6 0 9 32 0 1 0, 0x99⟩

theorem test_witness_PacketsRun :
    (forMe (rxSt 3 kFar) ⟨3, 1, kFar⟩ = false ∧ (rxSt 3 kFar).fab.recValid = true ∧ 1 ≤ pkHops kFar ∧
      (placePkt (rxU 3 kFar) false (rxIod ⟨3, 1, kFar⟩) (setRoute kFar (pkFlags kFar) (pkHops kFar - 1))).isSome = true) ∧
    (forMe (rxSt 3 kWrite) ⟨3, 1, kWrite⟩ = true ∧ jobCtx (rxU 3 kWrite) 1 = some 0 ∧ pkType kWrite = ptWrite ∧
      footOk (rxU 3 kWrite) 0 deviceRegions false true [(pkDa kWrite, pkLen kWrite)] = true ∧
      badPartly (rxU 3 kWrite) (physPieces (rxU 3 kWrite) 0 [(pkDa kWrite, pkLen kWrite)]) = none) ∧
    (forMe (rxSt 3 kRead) ⟨3, 1, kRead⟩ = true ∧ pkType kRead = ptReadReq ∧
      footOk (rxU 3 kRead) 0 deviceRegions true false [(pkDa kRead, pkAux kRead)] = true ∧
      badTouched (rxU 3 kRead) (physPieces (rxU 3 kRead) 0 [(pkDa kRead, pkAux kRead)]) = none) ∧
    (forMe (rxSt 3 kSignal) ⟨3, 1, kSignal⟩ = true ∧ jobCtx (rxU 3 kSignal) 1 = some 0 ∧ pkType kSignal = ptSignal) ∧
    (forMe (rxSt 3 kCtrl) ⟨3, 1, kCtrl⟩ = true ∧ pkType kCtrl = ptCtrl) := by decide +kernel

/-- A request outstanding under tag 9, of an operation in flight. -/
def asked (type opcode : Nat) : Txn :=
  { tag := 9, half := 0, ctx := 0, opIndex := 0, pkt := ⟨hdr type 4 6 5 nb 9 0 0 16 1, 0⟩, sent := true, waited := true, got := 0, tun := 0, dg := 0
    origSrc := opcode, origTag := 0 }
def txnSt (type : Nat) (k : Pkt) : State :=
  let s := withCtx (rxSt 3 k) { ctxOf (rxSt 3 k) 0 with flight := [flying (if type = ptReadReq then eCread else eCwrite) ucFabric false false] }
  updFab s fun f => { f with txns := [asked type 0] }
def groupSt : State :=
  updFab (withMem (rxSt 3 kColl) groupMem) fun f => { f with insts := [mkInst (withMem (rxSt 3 kColl) groupMem) 0 (opOf (envl 0xB5 4 (collPar 1 0) [vec64 nb, vec64 nb])) 0] }
where kColl : Pkt := ⟨hdr ptColl 4 5 6 1 9 32 0 0 1, 0⟩

theorem test_witness_answers :
    (((takeRx (txnSt ptReadReq kRsp) 0 ⟨3, 1, kRsp⟩).fab.txns.find? fun t => t.sent && t.tag = pkTag kRsp && pkType t.pkt = ptReadReq) =
        some (asked ptReadReq 0) ∧ pkAux (asked ptReadReq 0).pkt ≤ (asked ptReadReq 0).got + pkLen kRsp ∧ pkType kRsp = ptReadRsp ∧
      (fabFlight (takeRx (txnSt ptReadReq kRsp) 0 ⟨3, 1, kRsp⟩) 0 0).isSome = true) ∧
    (forMe (txnSt ptWrite kAck) ⟨3, 1, kAck⟩ = true ∧ pkType kAck = ptAck ∧ (asked ptWrite 0).half ≠ 2 ∧
      ((takeRx (txnSt ptWrite kAck) 0 ⟨3, 1, kAck⟩).fab.txns.find? fun t => t.sent && t.tag = pkTag kAck) = some (asked ptWrite 0)) ∧
    (fabricOn (txnSt ptWrite kAck) = true ∧ ((txnSt ptWrite kAck).fab.txns.find? fun t => t.sent && t.tag = 9) = some (asked ptWrite 0)) ∧
    (forMe groupSt ⟨3, 1, groupSt.kColl⟩ = true ∧ pkType groupSt.kColl = ptColl ∧ bits (pkDa groupSt.kColl) 12 4 = 0 ∧ bits (pkAux groupSt.kColl) 0 4 < 5 ∧
      jobCtx groupSt 1 = some 0 ∧ boundTo groupSt 0 (bits (pkDa groupSt.kColl) 0 10) = 0 ∧
      (groupSt.fab.insts.find? fun j => j.ctx = 0 && gId j.group = bits (pkDa groupSt.kColl) 0 10 && j.cseq % 4096 = pkCseq groupSt.kColl).isSome = true) := by
  decide +kernel

def tunSt (g : Tunnel → Tunnel) : State := updTun served 2 fun t => g { t with opened := true, up := true, blk := tunnelBlock, txq := [] }
/-- A datagram header of tunnel 2: type, number. -/
def dgram (type : Nat) (seq : Nat) : Nat := packBits [(0x4A55, 16), (1, 8), (type, 8), (2, 16), (0, 16), (seq, 32)]
def dataGram : Nat := dgram 0 1 + kFar.hdr * 2 ^ 256
def sentDg : Dgram := ⟨7, kFar, 3, 0⟩

theorem test_witness_TunnelsRun :
    (fabricOn (tunSt id) = true ∧ domIsOn (tunSt id) 60 = true) ∧
    (jouOk (tunSt id) 0 64 dataGram = true ∧ splitPkts (64 / 32) (dataGram >>> 256) (64 - 32) = some [kFar] ∧
      (tunOf (tunSt id) (fld dataGram 4 2)).up = true) ∧
    (jouOk (tunSt id) 1 32 (dgram 1 0) = true ∧ (tunOf (tunSt id) (fld (dgram 1 0) 4 2)).up = true) ∧ jouOk (tunSt id) 2 32 (dgram 2 0) = true ∧
    (tunOf (tunSt fun t => { t with unacked := 1 }) 2).unacked ≠ 0 ∧
    ((tunOf (tunSt fun t => { t with buf := [sentDg] }) 2).buf.find? fun g => g.seq = (7 : BitVec 32).toNat) = some sentDg ∧ 3 ≤ sentDg.later ∧
    ((tunOf (tunSt fun t => { t with expect := 1, held := [(0, kSignal)] }) 2).held.find? fun h =>
      fenceOpen (tunSt fun t => { t with expect := 1, held := [(0, kSignal)] }) 2 h.1) = some (0, kSignal) := by decide +kernel

/-! ### The invariant, frames and rules -/

def invB (s : State) : Bool :=
  memWf s.mem && decide (s.ctxs.length = 8) && decide (s.mbx.taken.length ≤ 64) &&
  decide (36 ≤ s.hif.bar2Log2 ∧ s.hif.bar2Log2 ≤ 41 ∧ s.hif.aps.length = 16 ∧ ∀ a ∈ s.hif.aps, 2 ^ (s.hif.bar2Log2 - 4) ∣ a.1) &&
  decide (s.mode = .offOrReset → s.hif.on = false ∧ s.mbx.fwState = 0) &&
  decide (nth false s.aoc.level 0 = true → bit s.aoc.causes rcTray = true ∧ s.mode = .offOrReset) &&
  decide (∀ x ∈ s.ctxs, smWf 0 x.tallies = true) &&
  decide (s.mbx.lost.length = 12 ∧ s.ras.first.length = 16 ∧ s.memS.ret.length = 32 ∧ s.aoc.stuck.length = 6)

theorem inv_of {s : State} (h : invB s = true) : Inv s := by
  simp only [invB, Bool.and_eq_true, decide_eq_true_eq] at h
  exact ⟨h.1.1.1.1.1.1.1, h.1.1.1.1.1.1.2, h.1.1.1.1.1.2, h.1.1.1.1.2, h.1.1.1.2, h.1.1.2, h.1.2, h.2⟩

/-- A state whose next command goes on from it. -/
def queued (s : State) (i : Instr) : State := { s with pending := [i] }

theorem test_witness_StepTakesFront : (queued served (.nop 0)).pending = .nop 0 :: [] ∧ served.pending = [] := ⟨rfl, rfl⟩

theorem test_witness_InvariantKept : Inv (queued (pkgSt eTally 2 0) (.tallySet 0)) ∧
    nextIs (step (queued (pkgSt eTally 2 0) (.tallySet 0))) (fun t => tallyOf t 0 5 = 7) = true :=
  ⟨inv_of (by decide +kernel), by decide +kernel⟩

def released : State := queued { State.reset with mode := .offOrReset } .moduleResetRelease

theorem test_witness_AwayLeftOnlyByReset : Inv released ∧ nextIs (step released) (fun t => t.mode = .startUp) = true :=
  ⟨inv_of (by decide +kernel), by decide +kernel⟩

def trayHeld : State :=
  let s := State.reset
  { s with aoc := { s.aoc with level := s.aoc.level.set 0 true, causes := 2 ^ rcTray } }

theorem test_witness_TrayResetHolds : Inv (queued trayHeld (.inputStuck 0)) ∧ nth false (queued trayHeld (.inputStuck 0)).aoc.level 0 = true ∧
    trayHeld.aoc.on = true ∧ nextIs (step (queued trayHeld (.inputStuck 0))) (fun t => nth false t.aoc.stuck 0) = true :=
  ⟨inv_of (by decide +kernel), by decide +kernel⟩

def captured : State := { mbxSt [] with ras := { (mbxSt []).ras with first := (mbxSt []).ras.first.set 1 ⟨true, anError, 5, 1⟩ } }

theorem test_witness_CaptureSetsHold : Inv (mbxSt []) ∧ (nth noCapture (mbxSt []).ras.first 1).valid = false ∧ Inv captured ∧
    (nth noCapture captured.ras.first 1).valid = true ∧ barOn captured = true ∧ (0xFFFD : BitVec 64).getLsbD 1 = false :=
  ⟨inv_of (by decide +kernel), by decide +kernel, inv_of (by decide +kernel), by decide +kernel⟩

/-- R515: a write of RAS_FIRST_CLR clears the sets that it names, and no other. -/
theorem test_rasFirstClr : nextIs (exec (.rasFirstClr 1) captured) (fun t => (nth noCapture t.ras.first 1).valid) = true ∧
    nextIs (exec (.rasFirstClr 2) captured) (fun t => !(nth noCapture t.ras.first 1).valid) = true := by decide +kernel

theorem test_witness_UnitOperationsKeepTheRest : Instr.qzero 0 false ∈ unitRows 0 0 0 0 false none ∧
    nextIs (exec (.qzero 0 false) (opSt eZero [])) (fun t => (ctxOf t 0).flight.map (·.status) = [0]) = true := by
  refine ⟨?_, by decide +kernel⟩
  simp [unitRows]

theorem unraced_idle {s : State} {c : Nat} (a : Nat) (h : (ctxOf s c).flight = []) : unraced s c a := by
  simp [unraced, h]

theorem test_witness_MemoryFrames :
    (Instr.nop 0 ∈ quietRows 0 false 0 0 0 0 0 ∧ nextIs (exec (.nop 0) (pkgSt 0 2 0)) (fun t => (ctxOf t 0).flight ≠ []) = true) ∧
    (memWf (opSt eZero []).mem = true ∧ untraced (opSt eZero []) nb ∧ unraced (opSt eZero []) 0 nb ∧ headOf (ctxOf (opSt eZero []) 0) ucDrain 0 = some (opOf eZero)) ∧
    (untraced (opSt eTstate []) nb ∧ unraced (opSt eTstate []) 0 nb ∧ headOf (ctxOf (opSt eTstate []) 0) ucTaproot 0 = some (opOf eTstate) ∧
      nextIs (exec (.tstate 0 false) (opSt eTstate [])) (fun t => (ctxOf t 0).flight.map (·.status) = [0]) = true) ∧
    (memWf (pkgSt eShape 2 0).mem = true ∧ nextIs (exec (.shapeSet 0) (pkgSt eShape 2 0)) (fun t => byteAt t (nearBase + 0x2000000 + 4 * 5) = 7) = true) ∧
    (memWf (mbxSt []).mem = true ∧ nextIs (exec (.registerWrite 0x10008 0xAB) (mbxSt [])) (fun t => byteAt t (mboxBase + 8) = 0xAB) = true) ∧
    nextIs (exec (.bar2Access true 0xFF8 2 0xABCD) (mbxSt [])) (fun t => byteAt t (nearBase + 0xFF9) = 0xAB) = true ∧
    ((Instr.identify, 0x01, 512) ∈ [(Instr.identify, 0x01, 512), (Instr.health, 0x02, 256), (Instr.timeRead, 0x38, 64)]) := by
  refine ⟨⟨?_, ?_⟩, ⟨?_, Or.inl ?_, unraced_idle _ ?_, ?_⟩, ⟨Or.inl ?_, unraced_idle _ ?_, ?_, ?_⟩, ⟨?_, ?_⟩, ⟨?_, ?_⟩, ?_, List.mem_cons_self⟩
  · simp [quietRows]
  all_goals decide +kernel

/-! ### What is turned away -/

/-- QZERO with a reserved byte, in the statement's own terms. -/
def eBadZero : Nat := envl 0x14 0 (packBits [(0, 16), (1, 16), (0, 32), (1, 8)]) []

theorem test_witness_OperationsRejected :
    ⟨Instr.qzero 0 false, ucDrain, 0, 0x14, fun s q => zeroPlan s 0 q⟩ ∈ recordRows 0 0 false ∧
    MayIssue (opSt eBadZero []) 0 ucDrain 0 false (isOp 0x14) (opOf eBadZero) ∧
    (issueChecks (atUnit (opSt eBadZero []) 0 (opOf eBadZero)) 0 (zeroPlan (atUnit (opSt eBadZero []) 0 (opOf eBadZero)) 0 (opOf eBadZero))).map (·.1) =
      some stReserved := by
  refine ⟨?_, mayIssue_of_issues (by decide +kernel), by decide +kernel⟩
  simp [recordRows]

/-- NMS and COMPACT with a record whose length is shape word 0, which is 0. -/
def eNoBox : Nat := envl 0xE2 0 (packBits [(0, 32), (4, 32)])
  [x24 nb, tens (nb + 64) 0xD [2] [], tens (nb + 128) 0xD [2] [], tensF (nb + 192) 0xD 0x400 [4] []]
def eNoItem : Nat := envl 0xA1 0 0 [tensF nb 0xC 0x400 [4] [], tens (nb + 256) 0xD [4] [], 0]
def noRows (e : Nat) : State := opSt e [(nb + 0x2000000, 0, 4)]

theorem test_witness_zeroCounts :
    (MayIssue (noRows eNoBox) 0 ucBds 0 false (isOp 0xE2) (opOf eNoBox) ∧
      issueChecks (atUnit (noRows eNoBox) 0 (opOf eNoBox)) 0 (nmsPlan (atUnit (noRows eNoBox) 0 (opOf eNoBox)) 0 eNoBox) = some (stZeroExtent, 0)) ∧
    (MayIssue (noRows eNoItem) 0 ucSplitter 0 false (isOp 0xA1) (opOf eNoItem) ∧
      issueChecks (atUnit (noRows eNoItem) 0 (opOf eNoItem)) 0 (compactPlan (atUnit (noRows eNoItem) 0 (opOf eNoItem)) 0 eNoItem) = some (stZeroExtent, 0)) :=
  ⟨⟨mayIssue_of_issues (by decide +kernel), by decide +kernel⟩, mayIssue_of_issues (by decide +kernel), by decide +kernel⟩

def badCmd : CmdCase := any1 { shut with mode := .relayOnly } (cmd0 4 (1 + 2 ^ 64)) fun _ _ => true

theorem test_witness_CommandsRefused :
    ⟨Instr.cfgSet, 0x04, anyKind⟩ ∈ commandRows (bist false) ∧ badCmd.state.mbx.taken[0]?.isSome = true ∧ cmdMayBegin badCmd.state 0 = true ∧
    cmdChecks (begun badCmd.state badCmd.raw) badCmd.raw = some (msMode, 0) := by
  refine ⟨?_, by decide +kernel⟩
  simp [commandRows]

def eTwice : Nat := envl 0x02 0 (packBits [(0x8005, 64), (0x8005, 64)]) []
def eBadSet : Nat := envl 0x03 0 (packBits [(0, 64), (0x9005, 64)]) []

theorem test_witness_SetsRefused :
    ((controlReady (pkgSt eBadSet 2 0) 0 0x03).map (·.2) = some eBadSet ∧ entryReserved (setEntry eBadSet 1) = true ∧
      entryReserved (setEntry eBadSet 0) = false) ∧
    ((controlReady (pkgSt eTwice 2 0) 0 0x02).map (·.2) = some eTwice ∧ (∀ k : Fin 8, entryReserved (setEntry eTwice k) = false) ∧
      bit (setEntry eTwice 0) 15 = true ∧ bit (setEntry eTwice 1) 15 = true ∧ bits (setEntry eTwice 0) 0 12 = bits (setEntry eTwice 1) 0 12) := by
  decide +kernel

theorem test_witness_DoorbellsIgnored : barOn (mbxSt []) = true ∧ sqSize (mbxSt []).mbx ≤ (16 : BitVec 64).toNat % 4096 ∧
    cqSize (mbxSt []).mbx ≤ (16 : BitVec 64).toNat % 4096 ∧
    (cqHeld.mbx.cqTail + cqSize cqHeld.mbx - cqHeld.mbx.cqHead) % cqSize cqHeld.mbx <
      ((4 : BitVec 64).toNat % 4096 + cqSize cqHeld.mbx - cqHeld.mbx.cqHead) % cqSize cqHeld.mbx := by decide +kernel

/-! ### Rules -/

def fullCq : State := { mbxSt [] with mbx := { (mbxSt []).mbx with eventMask := 0xFFF, cqTail := 14, cqHead := 0 } }

theorem test_witness_LostEventsCounted : bit fullCq.mbx.eventMask (0x8B - 0x80) = true ∧ cqFree fullCq.mbx < outstanding fullCq.mbx + 2 ∧
    Inv lostSt ∧ badPartly lostSt [(lostSt.mbx.cqBase + 32 * lostSt.mbx.cqTail, 32)] = none :=
  ⟨by decide +kernel, by decide +kernel, inv_of (by decide +kernel), by decide +kernel⟩

/-- R439: the EVENTS_LOST entry holds the counts, and they are zero after it. -/
theorem test_eventsLost : nextIs (exec .eventsLost lostSt) (fun t => decide (byteAt t (lostSt.mbx.cqBase + 0x13) = 2) &&
    decide (byteAt t (lostSt.mbx.cqBase + 3) = 0x8F) && decide (t.mbx.lost = List.replicate 12 0)) = true := by decide +kernel

theorem test_witness_StepAdvances : Inv (pkgSt eStep 2 0) ∧ allReserved eStep = none ∧ (ctxOf (pkgSt eStep 2 0) 0).queued = [] ∧
    (ctxOf (pkgSt eStep 2 0) 0).flight = [] ∧
    ((ctxOf (flySt eStep 0 true) 0).flight.any fun f => f.op.opcode = 1) = true ∧ (ctxOf (flySt eStep 0 true) 0).flight ≠ [] :=
  ⟨inv_of (by decide +kernel), by decide +kernel⟩

/-- A drain that has ended and signals tallies 8 and 9. -/
def eSig : Nat := eDrain + packBits [(0, 320), (0x8008, 32), (3, 32), (0x8009, 32), (2 ^ 32 - 1, 32)]
def sigSt : State := flySt eSig ucDrain true

theorem test_witness_SignalsAndWaits : Inv sigSt ∧ (endedFlight sigSt 0 0).isSome = true ∧
    (runningPkg (ctxOf sigSt 0)).isSome = true ∧ completing 0 = true := ⟨inv_of (by decide +kernel), by decide +kernel⟩

/-- R149: the tallies wrap modulo 2 to the 32. -/
theorem test_signals : nextIs (exec (.operationCompletion 0 0) sigSt) (fun t => [tallyOf t 0 8, tallyOf t 0 9, tallyOf t 0 10] = [3, 0xFFFFFFFF, 0]) = true := by
  decide +kernel

theorem test_witness_TallyCommandsAct : (any1 (open0 []) (cmd 0x23 0 (dataRange 0)) fun _ _ => true).Meets ∧
    Inv (any1 (open0 []) (cmd 0x23 0 (dataRange 0)) fun _ _ => true).state ∧
    (any1 (open0 []) (cmd 0x22 0 (dataRange 0)) fun _ _ => true).Meets ∧
    Inv (any1 (open0 []) (cmd 0x22 0 (dataRange 0)) fun _ _ => true).state :=
  ⟨cmd_meets (by decide +kernel), inv_of (by decide +kernel), cmd_meets (by decide +kernel), inv_of (by decide +kernel)⟩

def noTime : State := { liveSt with time := { liveSt.time with valid := false } }

theorem test_witness_LiveSetsWaitForTime : noTime.time.valid = false ∧ domIsOn noTime 45 = true ∧
    ofFeed noTime (fun f => f.live && decide (f.st = 1) && feedBusy f && decide (lb f 0x18 2 = (5 : BitVec 16).toNat) && bit (lb f 0x1A 1) 0) = true := by
  decide +kernel

def retSt (v : Nat) (map : Bool) : State :=
  let s := if map then open0 [] else shut
  { s with memS := { s.memS with ret := s.memS.ret.set 1 v } }
/-- PWR_RETAIN of Face 0's second Pillar group. -/
def retCmd (st : Nat) : Nat := cmd0 0x45 (packBits [(1, 8), (2, 8), (st, 8)])

theorem test_witness_RetentionActs :
    nth 0 (retSt 1 false).memS.ret 1 = 1 ∧
    (any1 (retSt 0 true) (retCmd 2) fun s r => decide (fld r 8 1 ≤ 15 ∧ fld r 10 1 = 2) && (namedGroups r).any (groupMapped s)).Meets ∧
    (any1 (retSt 2 false) (retCmd 0) fun s r => decide (fld r 8 1 ≤ 15 ∧ fld r 10 1 = 0) && (namedGroups r).contains 1 &&
      decide (nth 0 s.memS.ret 1 = 2) && decide (s.trc.st ≠ 1)).Meets ∧
    Inv (any1 (retSt 2 false) (retCmd 0) fun _ _ => true).state :=
  ⟨by decide +kernel, cmd_meets (by decide +kernel), cmd_meets (by decide +kernel), inv_of (by decide +kernel)⟩

/-- BAR2's first aperture on the Stockpile, whose group 1 is OFF. -/
def offBar : State :=
  { retSt 2 false with hif := { (retSt 2 false).hif with aps := (retSt 2 false).hif.aps.set 0 (0, true) } }

theorem test_witness_bar2_off : barOn offBar = true ∧ bar2Da offBar 0x2000000 = some 0x2000000 ∧ bar2Region offBar 0x2000000 8 = some .stockpile ∧
    regionOn offBar .stockpile 0x2000000 = true ∧ retOf offBar 0x2000000 = 2 := by decide +kernel

theorem test_witness_Bar2Directs : barOn (mbxSt []) = true ∧ Inv (mbxSt []) := ⟨by decide +kernel, inv_of (by decide +kernel)⟩

theorem test_witness_FormatsKeepTheirValues : isFin (decodeElem .bf16 0x0001) = true ∧ 0x7F7F < 2 ^ ((floatSpec .bf16).eb + (floatSpec .bf16).mb + 1) := by
  decide +kernel

theorem test_witness_RingFramesForwarded :
    (ringListens (ringSt true false) = true ∧ ringGood 14 0 = false) ∧
    (ringGood 14 (ringFrame 2 1 0 2 1) = true ∧ rgType (ringFrame 2 1 0 2 1) ≠ 1 ∧ rgHops (ringFrame 2 1 0 2 1) ≤ 1) ∧
    (ringGood 14 (ringFrame 2 2 0 2 1) = true ∧ 2 ≤ rgHops (ringFrame 2 2 0 2 1) ∧ (ringSt true false).fab.sbr.inserted = true ∧
      rgSrc (ringFrame 2 2 0 2 1) ≠ (ringSt true false).fab.sbr.station) := by decide +kernel

/-! ### Well-formedness: a term that each check refuses -/

def anOutcome : StartOutcome := ⟨false, false, true, [(5, 1, bist false)], [3], [], false, false⟩

theorem test_wellformed : wf (.bar2Access true 0xFF8 8 (2 ^ 64 - 1)) = true ∧ wf (.registerWrite 0x10D010 0) = true ∧
    wf (.startUp anOutcome) = true ∧ wf (.faceJunctionReading 3 (List.replicate 16 40000)) = true := by decide +kernel

theorem test_illformed_bytes :
    failing (.bar2Access true 0xFF8 9 0) = ["length"] ∧ failing (.bar2Access true 0 0 0) = ["length"] ∧
    failing (.bar2Access true 0 1 256) = ["data"] ∧ failing (.liveDatagramReceive 0 5 65536 0) = ["length"] ∧
    failing (.linkFrameReceive 0 0 4145 0) = ["length"] ∧ failing (.ringFrameReceive 11 0) = ["length"] := by decide +kernel

theorem test_illformed_places :
    failing (.identify 64) = ["place"] ∧ failing (.waitTimeout 0 1 64) = ["instance"] ∧ failing (.operationCompletion 0 (2 ^ 32)) = ["index"] ∧
    failing (.vccPicture (.op 0 (2 ^ 32))) = ["index"] := by decide +kernel

theorem test_illformed_registers :
    failing (.ringEnable 0x4400) = ["enable"] ∧ failing (.ringDisable 1) = ["disable"] ∧ failing (.moduleReset 0x0002) = ["key"] ∧
    failing (.moduleReset 0xC301) = ["bit"] ∧ failing (.foremanRestart 0xC303 false false) = ["bit"] ∧
    failing (.registerWrite 0x10D011 0) = ["aligned"] ∧ failing (.registerWrite 0x10D008 0) = ["row"] ∧
    failing (.i2cRegisterRead 0x64 0) = ["address"] ∧ failing (.i2cRegisterRead 0x60 0x1000) = ["offset"] := by decide +kernel

theorem test_illformed_outcomes :
    failing (.startUp { anOutcome with bist := [(5, 1, bist false), (5, 1, bist true)] }) = ["units"] ∧
    failing (.recoveryImageLoad 0 { anOutcome with deadChans := [3, 3] }) = ["channels"] ∧
    failing (.faceJunctionReading 0 [40000]) = ["sensors"] ∧ failing (.errorEvent 1 1 0 0 8 0 0) = ["context"] ∧
    failing (.remoteTimeout (some 65536) 0 0 0) = ["tag"] := by decide +kernel

/-! ### Results worked out by hand from the rules -/

def one : Nat := 0x3F800000
def two : Nat := 0x40000000
def resultAt (i : Instr) (e : Nat) (mem : List (Nat × Nat × Nat)) (da n : Nat) : Option Nat :=
  match exec i (opSt e mem) with
  | .next t => some (rdNum t 0 da n)
  | _ => none

/-- R185: 1 + 2. -/
theorem test_ew : resultAt (.ew 0 0 false) (envl 0x40 0 opt [x24 nb, x24 (nb + 64), 0, x24 (nb + 128)])
    [(nb, one, 4), (nb + 64, two, 4)] (nb + 128) 4 = some 0x40400000 := by decide +kernel

/-- R197: a value halfway between two codes of BF16 goes to the even one. -/
theorem test_cvt : resultAt (.cvt 0 0 false) (envl 0x49 0 0 [x24 nb, bf24 (nb + 64)]) [(nb, 0x3FC08000, 4)] (nb + 64) 2 = some 0x3FC0 := by
  decide +kernel

/-- R193: a sum over the lowest dimension. -/
theorem test_red : resultAt (.red 0 0 false) (envl 0x48 0 0x100 [x24 nb, tens (nb + 64) 0 [1, 2] [16]])
    [(nb, one, 4), (nb + 4, two, 4)] (nb + 64) 4 = some 0x40400000 := by decide +kernel

/-- R190: the softmax of four zeros is a quarter each. -/
theorem test_smx : resultAt (.smx 0 0 false) (envl 0x45 0 0 [x24 nb, 0, x24 (nb + 64), 0]) [] (nb + 64) 4 = some 0x3E800000 := by decide +kernel

/-- R195: row 1 is gathered. -/
theorem test_gather : resultAt (.gather 0 0 false) (envl 0x4D 0 0 [x24 nb, ix 2, x24 (nb + 64)])
    [(nb + 16, two, 4), (nb + 256, 1, 4)] (nb + 64) 4 = some two := by decide +kernel

/-- R177: one product of 1 and 2. -/
theorem test_cmv : resultAt (.cmv 0 false) eCmv [(0, 0x3F80, 2), (nb, 0x4000, 2)] (nb + 512) 4 = some two := by decide +kernel

/-- R250: the index of the greatest element. -/
theorem test_argmax : resultAt (.argmax 0 0 false) (envl 0xE3 0 0 [x24 nb, 0, 0, tens (nb + 64) 0 [1, 2] [16], tens (nb + 128) 0xD [1, 2] [16]])
    [(nb, one, 4), (nb + 8, two, 4)] (nb + 128) 4 = some 2 := by decide +kernel

/-- R164: the copy arrives. -/
theorem test_hcopy : resultAt (.hcopy 0 0 0 false) eCopy [(nb, two, 4)] (nb + 512) 4 = some two := by decide +kernel

end Sys2Proof.Tests
end

/-! ## Registers over BAR0 and I2C (R7, R32, R33, R493) -/

section
namespace Sys2Proof.Machine

/-- A bit of a word and the same bit of its number. -/
theorem bit_toNat {w : Nat} (v : BitVec w) (i : Nat) : bit v.toNat i = v.getLsbD i := by
  simp [bit, BitVec.getLsbD, Nat.testBit, Nat.one_and_eq_mod_two]

/-- R215: CLEAR_PEAK sets the peaks of the masked contexts to what is in use now. -/
theorem execClearPeak_of_barOn {s : State} (h : barOn s = true) (m : BitVec 8) :
    exec (.clearPeak m) s = .next { s with stash :=
      { cnt := s.stash.cnt.zipIdx.map fun p => if m.getLsbD (p.2 / 8) && p.2 % 8 < 6 && p.2 % 2 = 1 then nth 0 s.stash.cnt (p.2 - 1) else p.1
        mask := m.toNat } } := by
  show execClearPeak m s = _
  simp [execClearPeak, h, stashCtl, bit_toNat]

/-- R7, R24, R429: an aligned write reaches the mailbox registers, the apertures, mailbox memory, or a unit's block. -/
theorem execRegisterWrite_of_barOn {s : State} (h : barOn s = true) {o : BitVec 24} (ho : o.toNat % 8 = 0) (v : BitVec 64) :
    exec (.registerWrite o v) s = .next
      (if o.toNat < 0x2000 then mbxWrite s o.toNat v.toNat
       else if o.toNat < 0x2080 then apWrite s ((o.toNat - 0x2000) / 8) v.toNat
       else if 0x10000 ≤ o.toNat ∧ o.toNat < 0x20000 then wrPhys s (0x80010000 + (o.toNat - 0x10000)) v.toNat 8
       else unitWrite s o.toNat v.toNat) := by
  show execRegisterWrite o v s = _
  simp only [execRegisterWrite, h, ho, mboxWrite, mboxBase, Bool.not_true, ne_eq, not_true_eq_false, decide_false, Bool.or_self,
    Bool.false_eq_true, if_false, Bool.and_eq_true, decide_eq_true_eq]
  split
  · rfl
  · split
    · rfl
    · split <;> rfl

/-- R493: a read over I2C at the module's own address counts two start conditions and keeps the register's value. -/
theorem execI2cRegisterRead_of_addressed {s : State} {a : BitVec 7} (on : s.aoc.on = true) (ha : a.toNat = 0x60 + s.aoc.slot) (o : BitVec 16) :
    exec (.i2cRegisterRead a o) s = .next { countEvent (countEvent (unstick s 5 true) 5) 5 with
      hif := { s.hif with i2c := if o.toNat < 0x1000 ∧ o.toNat % 8 = 0 then aocReg s o.toNat else 0 } } := by
  show execI2cRegisterRead a o s = _
  simp [execI2cRegisterRead, on, ha]

/-- Settles O31: every access is its row's meaning with BAR0 on; the three whose forms differ have lemmas of their own. -/
theorem registerAccessesRun : Obligations.RegisterAccessesRun := by
  refine ⟨fun s z h => ?_, fun s h => ?_, fun s a o on ha => execI2cRegisterRead_of_addressed on ha o⟩
  · exact ⟨if_pos h, if_pos h, if_pos h, if_pos h, if_pos h, if_pos h, if_pos h, if_pos h, if_pos h⟩
  · have off : ¬(!barOn s) = true := by simp [h]
    exact ⟨fun m => execClearPeak_of_barOn h m, fun _ => if_neg off, if_neg off, if_neg off, fun _ v ho => execRegisterWrite_of_barOn h ho v,
      fun _ => if_pos h⟩

end Sys2Proof.Machine
end

/-! ## What an update leaves in memory, contexts and trace -/

section
namespace Sys2Proof.Machine

/-- What every step of a fold keeps, the fold keeps. -/
theorem foldl_keeps {σ α β : Type} {f : σ → α → σ} (p : σ → β) (h : ∀ s x, p (f s x) = p s) (l : List α) (s : σ) :
    p (l.foldl f s) = p s := by
  induction l generalizing s with
  | nil => rfl
  | cons x r ih => exact (ih _).trans (h s x)

/-! ### Traffic and memory errors -/

@[simp] theorem wakeGroups_mem (s : State) (ps : List (Nat × Nat)) : (wakeGroups s ps).mem = s.mem := rfl
@[simp] theorem wakeGroups_ctxs (s : State) (ps : List (Nat × Nat)) : (wakeGroups s ps).ctxs = s.ctxs := rfl
@[simp] theorem wakeGroups_trc (s : State) (ps : List (Nat × Nat)) : (wakeGroups s ps).trc = s.trc := rfl

@[simp] theorem wakeStacks_mem (s : State) (ps : List (Nat × Nat)) : (wakeStacks s ps).mem = s.mem := by
  unfold wakeStacks; split <;> rfl
@[simp] theorem wakeStacks_ctxs (s : State) (ps : List (Nat × Nat)) : (wakeStacks s ps).ctxs = s.ctxs := by
  unfold wakeStacks; split <;> rfl
@[simp] theorem wakeStacks_trc (s : State) (ps : List (Nat × Nat)) : (wakeStacks s ps).trc = s.trc := by
  unfold wakeStacks; split <;> rfl

@[simp] theorem postHost_mem (s : State) (wr : List (Nat × Nat)) : (postHost s wr).mem = s.mem := by
  simp only [postHost]; split <;> rfl
@[simp] theorem postHost_ctxs (s : State) (wr : List (Nat × Nat)) : (postHost s wr).ctxs = s.ctxs := by
  simp only [postHost]; split <;> rfl
@[simp] theorem postHost_trc (s : State) (wr : List (Nat × Nat)) : (postHost s wr).trc = s.trc := by
  simp only [postHost]; split <;> rfl

@[simp] theorem noteTraffic_mem (s : State) (rd wr : List (Nat × Nat)) : (noteTraffic s rd wr).mem = s.mem := by
  simp only [noteTraffic]; split <;> simp
@[simp] theorem noteTraffic_ctxs (s : State) (rd wr : List (Nat × Nat)) : (noteTraffic s rd wr).ctxs = s.ctxs := by
  simp only [noteTraffic]; split <;> simp
@[simp] theorem noteTraffic_trc (s : State) (rd wr : List (Nat × Nat)) : (noteTraffic s rd wr).trc = s.trc := by
  simp only [noteTraffic]; split <;> simp

@[simp] theorem clearBad_mem (s : State) (ps : List (Nat × Nat)) : (clearBad s ps).mem = s.mem := rfl
@[simp] theorem clearBad_ctxs (s : State) (ps : List (Nat × Nat)) : (clearBad s ps).ctxs = s.ctxs := rfl
@[simp] theorem countUe_mem (s : State) (pa ctx : Nat) : (countUe s pa ctx).mem = s.mem := rfl
@[simp] theorem countUe_ctxs (s : State) (pa ctx : Nat) : (countUe s pa ctx).ctxs = s.ctxs := rfl
@[simp] theorem logErr_mem (s : State) (cls sev src ctx key : Nat) : (logErr s cls sev src ctx key).mem = s.mem := rfl

/-! ### The Sump -/

@[simp] theorem renewSump_mem (s : State) (hit : Nat → Bool) : (renewSump s hit).mem = s.mem := rfl
@[simp] theorem zeroSlots_mem (s : State) (first count : Nat) : (zeroSlots s first count).mem = s.mem := rfl
@[simp] theorem zeroSlots_ctxs (s : State) (first count : Nat) : (zeroSlots s first count).ctxs = s.ctxs := rfl
@[simp] theorem loseSumps_mem (s : State) (rs : List SumpRegion) : (loseSumps s rs).mem = s.mem :=
  foldl_keeps (f := loseSump) State.mem (fun _ _ => rfl) rs s

/-! ### Issue and the control operations -/

@[simp] theorem takeHead_mem (s : State) (c : Nat) (q : QOp) : (takeHead s c q).mem = s.mem := rfl
@[simp] theorem takeHead_trc (s : State) (c : Nat) (q : QOp) : (takeHead s c q).trc = s.trc := rfl

@[simp] theorem setTally_mem (s : State) (c t : Nat) (v : W32) : (setTally s c t v).mem = s.mem := rfl

@[simp] theorem noteFetch_mem (s : State) (c e : Nat) : (noteFetch s c e).mem = s.mem := by
  unfold noteFetch; split <;> simp
@[simp] theorem endAtOnce_mem (s : State) (c : Nat) (q : QOp) (cls status detail : Nat) : (endAtOnce s c q cls status detail).mem = s.mem := rfl
@[simp] theorem advanceDispatch_mem (s : State) (c e : Nat) : (advanceDispatch s c e).mem = s.mem := by
  simp [advanceDispatch]
@[simp] theorem controlDone_mem (s : State) (c e status detail : Nat) : (controlDone s c e status detail).mem = s.mem := by
  simp [controlDone]

/-- A change of a context that keeps a part of it keeps that part of every context. -/
theorem ctxOf_updCtx_part {β : Type} (s : State) (c d : Nat) {f : Ctx → Ctx} (p : Ctx → β) (h : ∀ x, p (f x) = p x) :
    p (ctxOf (updCtx s c f) d) = p (ctxOf s d) := by
  by_cases hd : c = d
  · subst hd
    by_cases hc : c < s.ctxs.length
    · rw [ctxOf_updCtx_same s f hc, h]
    · simp [ctxOf, nth, List.getElem?_eq_none (Nat.le_of_not_lt hc)]
  · rw [ctxOf_updCtx_other s f hd]

/-- What a context holds besides its queues is the same once a head is taken. -/
theorem ctxOf_takeHead_flight (s : State) (c d : Nat) (q : QOp) : (ctxOf (takeHead s c q) d).flight = (ctxOf s d).flight :=
  ctxOf_updCtx_part s c d Ctx.flight fun _ => rfl

theorem ctxOf_takeHead_maps (s : State) (c d : Nat) (q : QOp) : (ctxOf (takeHead s c q) d).maps = (ctxOf s d).maps :=
  ctxOf_updCtx_part s c d Ctx.maps fun _ => rfl

end Sys2Proof.Machine
end

/-! ## An address at which nothing is stored -/

section
namespace Sys2Proof.Machine

/-- From `s` to `t` the byte at `a` keeps its value, and memory its canonical form. -/
def StoresNothingAt (a : Nat) (s t : State) : Prop := memWf s.mem = true → memWf t.mem = true ∧ byteAt t a = byteAt s a

/-- An address that lies outside every one of some ranges, each given as (first, length). -/
def outside (ps : List (Nat × Nat)) (a : Nat) : Prop := ∀ p ∈ ps, a < p.1 ∨ p.1 + p.2 ≤ a

theorem byteAt_of_mem_eq {s t : State} (h : t.mem = s.mem) (a : Nat) : byteAt t a = byteAt s a := by
  simp [byteAt, h]

theorem byteAt_of_memGet_eq {s t : State} {a : Nat} (h : memGet t.mem a = memGet s.mem a) : byteAt t a = byteAt s a := by
  simp [byteAt, h]

namespace StoresNothingAt

theorem of_mem_eq {a : Nat} {s t : State} (h : t.mem = s.mem) : StoresNothingAt a s t :=
  fun wf => ⟨h ▸ wf, byteAt_of_mem_eq h a⟩

theorem refl (a : Nat) (s : State) : StoresNothingAt a s s := of_mem_eq rfl

theorem trans {a : Nat} {s t u : State} (h : StoresNothingAt a s t) (h' : StoresNothingAt a t u) : StoresNothingAt a s u := by
  intro wf
  obtain ⟨wf', e⟩ := h wf
  obtain ⟨wf'', e'⟩ := h' wf'
  exact ⟨wf'', e'.trans e⟩

/-- What follows leaves memory as it is. -/
theorem trans_mem_eq {a : Nat} {s t u : State} (h : StoresNothingAt a s t) (e : u.mem = t.mem) : StoresNothingAt a s u :=
  h.trans (of_mem_eq e)

/-- A fold of steps that store nothing at an address stores nothing there. -/
theorem foldl {α : Type} {a : Nat} {f : State → α → State} {l : List α} (h : ∀ s, ∀ x ∈ l, StoresNothingAt a s (f s x)) (s : State) :
    StoresNothingAt a s (l.foldl f s) := by
  induction l generalizing s with
  | nil => exact refl a s
  | cons x r ih =>
    exact (h s x List.mem_cons_self).trans (ih (fun s y hy => h s y (List.mem_cons_of_mem x hy)) _)

end StoresNothingAt

/-! ### Stores -/

theorem wrPhys_storesNothingAt (s : State) {a pa n : Nat} (v : Nat) (h : a < pa ∨ pa + n ≤ a) : StoresNothingAt a s (wrPhys s pa v n) :=
  fun wf => ⟨memWr_wf wf pa v n, byteAt_of_memGet_eq (memGet_memWr_outside wf h)⟩

theorem loseRange_storesNothingAt (s : State) {a lo hi : Nat} (h : a < lo ∨ hi ≤ a) : StoresNothingAt a s (loseRange s lo hi) := by
  unfold loseRange
  split
  · exact fun wf => ⟨memFill_wf wf lo hi _, byteAt_of_memGet_eq (memGet_memFill_outside wf _ h)⟩
  · exact .refl a s

theorem losePieces_storesNothingAt (s : State) {a : Nat} {ps : List (Nat × Nat)} (h : outside ps a) : StoresNothingAt a s (losePieces s ps) :=
  .foldl (fun s p hp => loseRange_storesNothingAt s (h p hp)) s

theorem putByte_wf {m : Memory} (h : memWf m = true) (pa : Nat) (b : Byte) : memWf (putByte m pa b) = true := by
  unfold putByte
  split
  · exact memSet_wf h pa b
  · exact h

theorem memGet_putByte_other {m : Memory} (h : memWf m = true) {a pa : Nat} (b : Byte) (ha : a ≠ pa) : memGet (putByte m pa b) a = memGet m a := by
  unfold putByte
  split
  · exact memGet_memSet_other h b ha
  · rfl

/-- Bytes put at addresses other than `a` leave the byte at `a` alone. -/
theorem memGet_putBytes_other {α : Type} {m : Memory} (h : memWf m = true) {a : Nat} {l : List α} {tr : α → Nat} (v : α → Byte)
    (ha : ∀ x ∈ l, a ≠ tr x) : memGet (l.foldl (fun m x => putByte m (tr x) (v x)) m) a = memGet m a := by
  induction l generalizing m with
  | nil => rfl
  | cons x r ih =>
    rw [List.foldl_cons, ih (putByte_wf h _ _) fun y hy => ha y (List.mem_cons_of_mem x hy), memGet_putByte_other h _ (ha x List.mem_cons_self)]

@[simp] theorem length_bytesOf (v n : Nat) : (bytesOf v n).length = n := by
  induction n generalizing v with
  | zero => rfl
  | succ n ih => simp [bytesOf, ih]

/-- A store at a context's addresses leaves alone what none of them leads to. -/
theorem wrNum_storesNothingAt (s : State) {a c da n : Nat} (v : Nat) (h : ∀ k, k < n → a ≠ physOf s c (da + k)) :
    StoresNothingAt a s (wrNum s c da v n) := by
  intro wf
  refine ⟨foldl_memWf (fun m x hm => putByte_wf hm _ _) _ wf, byteAt_of_memGet_eq (memGet_putBytes_other wf _ fun x hx => h x.2 ?_)⟩
  simpa using List.snd_lt_of_mem_zipIdx hx

@[simp] theorem wrNum_ctxs (s : State) (c da v n : Nat) : (wrNum s c da v n).ctxs = s.ctxs := rfl

/-! ### Trace (R528, R530) -/

theorem setTrc_ctxs (s : State) (t : TrcS) : ({ s with trc := t } : State).ctxs = s.ctxs := rfl
theorem setTrc_mem (s : State) (t : TrcS) : ({ s with trc := t } : State).mem = s.mem := rfl

/-- A record goes into the trace buffer alone, while tracing runs. -/
theorem tracePut_storesNothingAt {s : State} {a : Nat} (h : untraced s a) (rec : Nat) : StoresNothingAt a s (tracePut s rec) := by
  simp only [tracePut]
  split
  · rename_i running
    obtain stopped | ⟨bytes, place⟩ := h
    · exact absurd running stopped
    · have slot : s.trc.n % (s.trc.bytes / 32) < s.trc.bytes / 32 := Nat.mod_lt _ (by omega)
      refine (StoresNothingAt.of_mem_eq (noteTraffic_mem s [] _)).trans ((wrPhys_storesNothingAt _ _ ?_).trans_mem_eq (setTrc_mem (wrPhys _ _ _ _) _))
      omega
  · split
    · split <;> exact .of_mem_eq rfl
    · exact .refl a s

theorem traceEvent_storesNothingAt {s : State} {a : Nat} (h : untraced s a) (src type ctx payload : Nat) :
    StoresNothingAt a s (traceEvent s src type ctx payload) := by
  unfold traceEvent
  split
  · exact tracePut_storesNothingAt h _
  · exact .refl a s

theorem traceState_storesNothingAt {s : State} {a : Nat} (h : untraced s a) (src ctx : Nat) : StoresNothingAt a s (traceState s src ctx) := by
  unfold traceState
  split
  · exact (StoresNothingAt.of_mem_eq (t := (drawFree s).2) rfl).trans (traceEvent_storesNothingAt (s := (drawFree s).2) h _ _ _ _)
  · exact .refl a s

@[simp] theorem traceWrite_ctxs (s : State) (rec : Nat) : (traceWrite s rec).ctxs = s.ctxs :=
  (setTrc_ctxs (wrPhys _ _ _ _) _).trans ((wrPhys_ctxs _ _ _ _).trans (noteTraffic_ctxs s [] _))

@[simp] theorem tracePut_ctxs (s : State) (rec : Nat) : (tracePut s rec).ctxs = s.ctxs := by
  simp only [tracePut]
  split
  · exact traceWrite_ctxs s rec
  · split
    · split <;> rfl
    · rfl

@[simp] theorem traceEvent_ctxs (s : State) (src type ctx payload : Nat) : (traceEvent s src type ctx payload).ctxs = s.ctxs := by
  unfold traceEvent
  split
  · exact tracePut_ctxs s _
  · rfl

/-! ### Issue (R98, R147, R154) -/

theorem atUnit_storesNothingAt {s : State} {a : Nat} (h : untraced s a) (c : Nat) (q : QOp) : StoresNothingAt a s (atUnit s c q) :=
  (StoresNothingAt.of_mem_eq (takeHead_mem s c q)).trans (traceEvent_storesNothingAt (s := takeHead s c q) h _ _ _ _)

@[simp] theorem atUnit_flight (s : State) (c d : Nat) (q : QOp) : (ctxOf (atUnit s c q) d).flight = (ctxOf s d).flight := by
  rw [← ctxOf_takeHead_flight s c d q, ctxOf, atUnit, traceEvent_ctxs, ctxOf]

theorem physOf_atUnit (s : State) (c d da : Nat) (q : QOp) : physOf (atUnit s c q) d da = physOf s d da := by
  rw [physOf, physOf, ← ctxOf_takeHead_maps s c d q, ctxOf, atUnit, traceEvent_ctxs, ctxOf]

/-- An operation that touches nothing races with none. -/
theorem settleRaces_of_noAccess (s : State) (c : Nat) {f : Flight} (h : f.acc = {}) : settleRaces s c f = s := by
  refine foldl_keeps id (fun s g => ?_) _ s
  simp [race, h, writesInto, rangesMeet, sumpsMeet, sharedPieces, losePieces, loseSumps]

theorem outside_sharedPieces {a : Nat} {wr wr' : List (Nat × Nat)} (h : outside wr' a) : outside (sharedPieces wr wr') a := by
  intro p hp
  simp only [sharedPieces, List.mem_flatMap, List.mem_map, List.mem_filter] at hp
  obtain ⟨x, -, y, ⟨hy, -⟩, rfl⟩ := hp
  have := h y hy
  simp only
  omega

/-- A race of an operation that reads nothing takes only what the other one writes. -/
theorem race_storesNothingAt (s : State) {a : Nat} {f g : Access} (rd : f.rd = []) (sumpRd : f.sumpRd = []) (h : outside g.wr a) :
    StoresNothingAt a s (race s f g) := by
  have other : writesInto g f = false := by simp [writesInto, rangesMeet, sumpsMeet, rd, sumpRd]
  simp only [race, other, Bool.false_eq_true, if_false]
  have shared (u : State) (rs : List SumpRegion) : StoresNothingAt a u (loseSumps (losePieces u (sharedPieces f.wr g.wr)) rs) :=
    (losePieces_storesNothingAt u (outside_sharedPieces h)).trans_mem_eq (loseSumps_mem _ rs)
  split
  · exact ((losePieces_storesNothingAt s h).trans_mem_eq (loseSumps_mem _ g.sumpWr)).trans (shared _ _)
  · exact shared s _

/-- An operation that reads nothing stores what its unit stored, and races only with what operations in flight write. -/
theorem inFlight_storesNothingAt {s : State} {a c : Nat} {r : Result} (q : QOp) (rd : r.acc.rd = []) (sumpRd : r.acc.sumpRd = [])
    (h : unraced r.st c a) : StoresNothingAt a r.st (inFlight s c q r) :=
  (StoresNothingAt.foldl (fun u g hg => race_storesNothingAt u rd sumpRd (h g (List.mem_filter.1 hg).1)) r.st).trans_mem_eq rfl

end Sys2Proof.Machine
end

/-! ## Operations turned away at their unit (R9, R21, R35, R144, R246, R279) -/

section
namespace Sys2Proof.Machine

/-- A row issues its operation with a body. -/
def RowIssues (c : Nat) (aged : Bool) (r : RecordRow) (body : Body) : Prop :=
  ∀ s, exec r.row s = .next (issueOp s c r.cls r.inst aged (isOp r.opcode) body)

/-- A row's operation runs its plan in the common form. -/
def RunsPlan (c : Nat) (aged : Bool) (r : RecordRow) : Prop :=
  ∃ body, RowIssues c aged r body ∧ ∀ u q, ∃ rd wr eff, body u c q = runPlan u c (r.plan u q) rd wr eff

/-- The shape words in which a Splitter operation keeps its counts. -/
def splitCounts (opcode e : Nat) : List Nat := if opcode = 0xA0 then routeWords e else countIdx e

/-- A row's operation runs its plan in the Splitter's form. -/
def RunsSplit (c : Nat) (aged : Bool) (r : RecordRow) : Prop :=
  ∃ body, RowIssues c aged r body ∧ ∀ u q, ∃ wr eff, body u c q = splRun u c (r.plan u q) wr (splitCounts r.opcode q.env) eff

/-- A row's operation runs its plan in the form of the box operations. -/
def RunsBox (c : Nat) (aged : Bool) (r : RecordRow) : Prop :=
  ∃ body, RowIssues c aged r body ∧ ∃ mk outs eff, body = bdBodyOf mk outs eff ∧ ∀ u q, r.plan u q = mk u c q.env

/-- What a row answers where its head may issue. -/
theorem exec_of_rowIssues {c : Nat} {aged : Bool} {r : RecordRow} {body : Body} (hr : RowIssues c aged r body) {s : State} {q : QOp}
    (may : MayIssue s c r.cls r.inst aged (isOp r.opcode) q) : exec r.row s = .next (inFlight s c q (body (atUnit s c q) c q)) := by
  rw [hr s, issueOp_of_mayIssue may]

/-- What the Splitter's form answers where a check fails. -/
theorem splRun_of_fails {s : State} {c : Nat} {p : Plan} {st d : Nat} (h : issueChecks s c p = some (st, d)) (wr : List (Nat × Nat))
    (zeros : List Nat) (eff : State → SplitOut) :
    splRun s c p wr zeros eff =
      if st = stZeroExtent then { st := putWords s c (zeros.map fun k => (k, 0)), status := st } else reject s st d := by
  simp only [splRun, h]

/-- What the form of the box operations answers where a check fails. -/
theorem bdBodyOf_of_fails {s : State} {c : Nat} {q : QOp} {mk : State → Nat → Nat → Plan} {st d : Nat}
    (h : issueChecks s c (mk s c q.env) = some (st, d)) (outs : State → Nat → Nat → List (Nat × Nat)) (eff : State → Nat → Nat → Result) :
    bdBodyOf mk outs eff s c q = if st = stZeroExtent then { st := bdCount s c q.env 0, status := st } else reject s st d := by
  simp only [bdBodyOf, h]

/-- Every row whose records are planned runs its plan in one of three forms, by its opcode. -/
theorem recordRow_form {c : Fin 8} {face : Fin 4} {aged : Bool} {r : RecordRow} (hr : r ∈ recordRows c face aged) :
    (r.opcode < 0xA0 ∧ RunsPlan c aged r) ∨ (0xA0 ≤ r.opcode ∧ r.opcode < 0xE0 ∧ RunsSplit c aged r) ∨
      (0xE0 ≤ r.opcode ∧ RunsBox c aged r) := by
  simp only [recordRows, List.mem_append, List.mem_cons, List.not_mem_nil, or_false] at hr
  obtain ((matrix | dressing) | dressing) | boxes := hr
  · refine .inl ?_
    obtain rfl | rfl | rfl | rfl | rfl := matrix <;> exact ⟨by simp, _, fun _ => rfl, fun _ _ => ⟨_, _, _, rfl⟩⟩
  · refine .inl ?_
    obtain rfl | rfl | rfl | rfl | rfl | rfl | rfl | rfl | rfl | rfl | rfl := dressing <;>
      exact ⟨by simp, _, fun _ => rfl, fun _ _ => ⟨_, _, _, rfl⟩⟩
  · refine .inl ?_
    obtain rfl | rfl | rfl | rfl | rfl | rfl | rfl | rfl | rfl := dressing <;>
      exact ⟨by simp, _, fun _ => rfl, fun _ _ => ⟨_, _, _, rfl⟩⟩
  · obtain rfl | rfl | rfl | rfl | rfl | rfl | rfl := boxes
    · exact .inr (.inl ⟨by simp, by simp, bodyEroute, fun _ => rfl, fun _ _ => ⟨_, _, rfl⟩⟩)
    · exact .inr (.inl ⟨by simp, by simp, bodyCompact, fun _ => rfl, fun _ _ => ⟨_, _, rfl⟩⟩)
    · exact .inr (.inl ⟨by simp, by simp, bodyMgate, fun _ => rfl, fun _ _ => ⟨_, _, rfl⟩⟩)
    · exact .inr (.inr ⟨by simp, _, fun _ => rfl, boxdecPlan, fun s c e => writesOf s c (boxdecPlan s c e).recs, boxdecEff, rfl, fun _ _ => rfl⟩)
    · exact .inr (.inr ⟨by simp, _, fun _ => rfl, boxselPlan, _, boxselEff, rfl, fun _ _ => rfl⟩)
    · exact .inr (.inr ⟨by simp, _, fun _ => rfl, nmsPlan, _, nmsEff, rfl, fun _ _ => rfl⟩)
    · exact .inr (.inr ⟨by simp, _, fun _ => rfl, argmaxPlan, fun s c e => writesOf s c (argmaxPlan s c e).recs, argmaxEff, rfl, fun _ _ => rfl⟩)

/-- An operation turned away at its unit: the trace apart, no byte changes. -/
theorem byteAt_turnedAway {s : State} {a : Nat} (traced : untraced s a) (wf : memWf s.mem = true) (c : Nat) (q : QOp) (st d : Nat) :
    byteAt (inFlight s c q { st := atUnit s c q, status := st, detail := d }) a = byteAt s a := by
  have same : (inFlight s c q { st := atUnit s c q, status := st, detail := d }).mem = (atUnit s c q).mem := by
    simp only [inFlight, putFlight, updCtx_mem]
    rw [settleRaces_of_noAccess _ _ rfl]
  exact (byteAt_of_mem_eq same a).trans (atUnit_storesNothingAt traced c q wf).2

/-- Settles O47: by the three forms in which a row runs its plan; what no form changes, the issue does not store either. -/
theorem operationsRejected : Obligations.OperationsRejected := by
  rintro c face aged r s _ q st d hr may rfl fails
  obtain ⟨op, body, issues, runs⟩ | ⟨lo, hi, body, issues, runs⟩ | ⟨lo, _, issues, mk, outs, eff, rfl, plan⟩ := recordRow_form hr
  · obtain ⟨rd, wr, eff, run⟩ := runs (atUnit s c q) q
    have answer := exec_of_rowIssues issues may
    rw [run, runPlan_of_fails fails] at answer
    exact ⟨fun _ => ⟨answer, fun a traced wf => byteAt_turnedAway traced wf c q st d⟩, fun _ => ⟨fun h => by omega, fun h => by omega⟩⟩
  · obtain ⟨wr, eff, run⟩ := runs (atUnit s c q) q
    have answer := exec_of_rowIssues issues may
    rw [run, splRun_of_fails fails] at answer
    refine ⟨fun h => ⟨?_, fun a traced wf => byteAt_turnedAway traced wf c q st d⟩, ?_⟩
    · rwa [if_neg (h.resolve_left (by omega))] at answer
    · rintro rfl
      exact ⟨fun h => by omega, fun _ _ => answer⟩
  · have answer := exec_of_rowIssues issues may
    rw [plan] at fails
    rw [bdBodyOf_of_fails fails] at answer
    refine ⟨fun h => ⟨?_, fun a traced wf => byteAt_turnedAway traced wf c q st d⟩, ?_⟩
    · rwa [if_neg (h.resolve_left (by omega))] at answer
    · rintro rfl
      exact ⟨fun _ => answer, fun _ h => by omega⟩

end Sys2Proof.Machine
end

/-! ## Rows that store no byte, and where the others store -/

section
namespace Sys2Proof.Machine

/-! ### Updates outside memory -/

@[simp] theorem updAoc_mem (s : State) (f : AocS → AocS) : (updAoc s f).mem = s.mem := rfl
@[simp] theorem updPwr_mem (s : State) (f : PwrS → PwrS) : (updPwr s f).mem = s.mem := rfl
@[simp] theorem updTime_mem (s : State) (f : TimeS → TimeS) : (updTime s f).mem = s.mem := rfl
@[simp] theorem updLabel_mem (s : State) (f : LabelS → LabelS) : (updLabel s f).mem = s.mem := rfl
@[simp] theorem updSbr_mem (s : State) (f : SbrS → SbrS) : (updSbr s f).mem = s.mem := rfl
@[simp] theorem updPort_mem (s : State) (p : Nat) (f : Port → Port) : (updPort s p f).mem = s.mem := rfl
@[simp] theorem mapFeeds_mem (s : State) (g : Feed → Feed) : (mapFeeds s g).mem = s.mem := rfl
@[simp] theorem fabCount_mem (s : State) (i n : Nat) : (fabCount s i n).mem = s.mem := rfl
@[simp] theorem countEvent_mem (s : State) (n : Nat) : (countEvent s n).mem = s.mem := rfl
@[simp] theorem countDropped_mem (s : State) (n : Nat) : (countDropped s n).mem = s.mem := rfl
@[simp] theorem dropCause_mem (s : State) (k : Nat) : (dropCause s k).mem = s.mem := rfl
@[simp] theorem stuckError_mem (s : State) (n : Nat) : (stuckError s n).mem = s.mem := rfl
@[simp] theorem ppsAcquire_mem (s : State) : (ppsAcquire s).mem = s.mem := rfl
@[simp] theorem setScratch_mem (s : State) (n : Nat) (v : W64) : (setScratch s n v).mem = s.mem := rfl
@[simp] theorem stashCtl_mem (s : State) (clear : Bool) (mask : Nat) : (stashCtl s clear mask).mem = s.mem := rfl
@[simp] theorem beginDrawing_mem (s : State) : (beginDrawing s).mem = s.mem := rfl
@[simp] theorem ringOut_mem (s : State) (f len : Nat) : (ringOut s f len).mem = s.mem := rfl
@[simp] theorem ringOriginate_mem (s : State) (type len payload : Nat) : (ringOriginate s type len payload).mem = s.mem := by
  rw [ringOriginate, ringOut_mem]
@[simp] theorem ringBad_mem (s : State) : (ringBad s).mem = s.mem := rfl
@[simp] theorem pushRx_mem (s : State) (src vc : Nat) (k : Pkt) : (pushRx s src vc k).mem = s.mem := rfl
@[simp] theorem raiseIrq_mem (s : State) (b : Nat) : (raiseIrq s b).mem = s.mem := rfl
@[simp] theorem apWrite_mem (s : State) (n v : Nat) : (apWrite s n v).mem = s.mem := rfl
@[simp] theorem countHostUe_mem (s : State) (line : Nat) : (countHostUe s line).mem = s.mem := rfl
@[simp] theorem ledgerHostWrite_mem (s : State) (da n data : Nat) : (ledgerHostWrite s da n data).mem = s.mem := rfl
@[simp] theorem readBack_mem (s : State) (status data : Nat) : (readBack s status data).mem = s.mem := rfl
@[simp] theorem updCmd_mem (s : State) (i : Nat) (f : Cmd → Cmd) : (updCmd s i f).mem = s.mem := rfl

@[simp] theorem withHealth_mem (before s : State) : (withHealth before s).mem = s.mem := by
  unfold withHealth; split <;> rfl
@[simp] theorem unstick_mem (s : State) (n : Nat) (level : Bool) : (unstick s n level).mem = s.mem := by
  simp [unstick]
@[simp] theorem inputEvent_mem (s : State) (n spacing : Nat) : (inputEvent s n spacing).mem = s.mem := by
  unfold inputEvent; split
  · split <;> rfl
  · rfl
@[simp] theorem inputHigh_mem (s : State) (vin : Nat) : (inputHigh s vin).mem = s.mem := by
  unfold inputHigh; split
  · rfl
  · split
    · rfl
    · split <;> rfl
@[simp] theorem endDrawing_mem (s : State) : (endDrawing s).mem = s.mem := by
  simp only [endDrawing]; split <;> rfl
@[simp] theorem irqUpdate_mem (s : State) : (irqUpdate s).mem = s.mem := by
  simp only [irqUpdate]; split
  · rfl
  · split <;> rfl
@[simp] theorem clearRingLost_mem (s : State) (v : Nat) : (clearRingLost s v).mem = s.mem := by
  unfold clearRingLost; split <;> rfl
@[simp] theorem loseRings_mem (s : State) : (loseRings s).mem = s.mem := by
  simp only [loseRings]; split <;> simp
@[simp] theorem closeRelays_mem (s : State) : (closeRelays s).mem = s.mem := by
  unfold closeRelays; split <;> rfl
@[simp] theorem ringForward_mem (s : State) (f : Nat) : (ringForward s f).mem = s.mem := by
  unfold ringForward; split <;> rfl
@[simp] theorem feedWrite_mem (s : State) (c m v : Nat) : (feedWrite s c m v).mem = s.mem := by
  unfold feedWrite; split <;> rfl

/-- Commands are taken from the submission ring by reads alone (R431). -/
@[simp] theorem takeCmds_mem (k : Nat) (s : State) : (takeCmds k s).mem = s.mem := by
  induction k generalizing s with
  | zero => rfl
  | succ k ih =>
    simp only [takeCmds]
    split
    · split <;> simp [ih]
    · rfl
@[simp] theorem pumpSq_mem (s : State) : (pumpSq s).mem = s.mem := takeCmds_mem 64 s

@[simp] theorem mbxWrite_mem (s : State) (o v : Nat) : (mbxWrite s o v).mem = s.mem := by
  unfold mbxWrite
  split <;> simp [apply_ite State.mem]

@[simp] theorem unitWrite_mem (s : State) (o v : Nat) : (unitWrite s o v).mem = s.mem := by
  unfold unitWrite
  split <;> simp [apply_ite State.mem]

/-! ### Rows that store no byte -/

/-- The outcome's state has the memory of `s`. -/
def KeepsMemory (s : State) (o : Host.Outcome State Fault Refusal) : Prop := ∀ t, o = .next t → t.mem = s.mem

@[simp] theorem keepsMemory_next (s t : State) : KeepsMemory s (.next t) ↔ t.mem = s.mem := by
  simp [KeepsMemory]

@[simp] theorem keepsMemory_ite (s : State) (p : Prop) [Decidable p] (o o' : Host.Outcome State Fault Refusal) :
    KeepsMemory s (if p then o else o') ↔ (p → KeepsMemory s o) ∧ (¬p → KeepsMemory s o') := by
  split <;> simp [*]

theorem execNop_keepsMemory (c : Fin 8) (s : State) : KeepsMemory s (execNop c s) := by
  unfold execNop
  split
  · simp
  · split <;> simp

theorem execTallySet_keepsMemory (c : Fin 8) (s : State) : KeepsMemory s (execTallySet c s) := by
  unfold execTallySet
  split
  · simp
  · split
    · simp
    · simp [foldl_keeps State.mem fun s (p : Nat × Nat) => setTally_mem s c p.1 (BitVec.ofNat 32 p.2)]

/-! Doorbells and the mailbox's own registers (R426, R430, R431). -/

theorem execSqDoorbell_keepsMemory (v : BitVec 64) (s : State) : KeepsMemory s (execSqDoorbell v s) := by simp [execSqDoorbell]
theorem execCqDoorbell_keepsMemory (v : BitVec 64) (s : State) : KeepsMemory s (execCqDoorbell v s) := by simp [execCqDoorbell]
theorem execRingDisable_keepsMemory (v : BitVec 64) (s : State) : KeepsMemory s (execRingDisable v s) := by simp [execRingDisable]
theorem execMbxIrqClear_keepsMemory (v : BitVec 64) (s : State) : KeepsMemory s (execMbxIrqClear v s) := by simp [execMbxIrqClear]
theorem execHeartbeatTick_keepsMemory (s : State) : KeepsMemory s (execHeartbeatTick s) := by simp [execHeartbeatTick]

/-- The control registers of the counter blocks. -/
theorem perfClears_keepMemory (z : Bool) (s : State) :
    ∀ o ∈ [execQryPerfClear z s, execCruPerfClear z s, execRsPerfClear z s, execSplPerfClear z s, execMemPerfClear z s, execTapPerfClear z s,
      execVccPerfClear z s, execFabPerfClear z s, execColPerfClear z s], KeepsMemory s o := by
  simp [execQryPerfClear, execCruPerfClear, execRsPerfClear, execSplPerfClear, execMemPerfClear, execTapPerfClear, execVccPerfClear,
    execFabPerfClear, execColPerfClear]

theorem execClearPeak_keepsMemory (m : BitVec 8) (s : State) : KeepsMemory s (execClearPeak m s) := by simp [execClearPeak]
theorem execRasFirstClr_keepsMemory (v : BitVec 64) (s : State) : KeepsMemory s (execRasFirstClr v s) := by simp [execRasFirstClr]
theorem execHwReset_keepsMemory (s : State) : KeepsMemory s (execHwReset s) := by simp [execHwReset]
theorem execTimElapsedRead_keepsMemory (s : State) : KeepsMemory s (execTimElapsedRead s) := by simp [execTimElapsedRead]
theorem execI2cRegisterRead_keepsMemory (a : BitVec 7) (o : BitVec 16) (s : State) : KeepsMemory s (execI2cRegisterRead a o s) := by
  simp [execI2cRegisterRead]

theorem execAckReport_keepsMemory (port : Fin 16) (s : State) : KeepsMemory s (execAckReport port s) := by simp [execAckReport]

theorem execLinkFrameReceive_keepsMemory (port : Fin 16) (fec len frame : Nat) (s : State) :
    KeepsMemory s (execLinkFrameReceive port fec len frame s) := by
  simp only [execLinkFrameReceive]
  split
  · simp
  · split
    · simp
    · split
      · split <;> simp [apply_ite State.mem]
      · simp [apply_ite State.mem]

/-! The sideband ring (R390 to R393). -/

theorem execRingFrameReceive_keepsMemory (len f : Nat) (s : State) : KeepsMemory s (execRingFrameReceive len f s) := by
  simp [execRingFrameReceive]
theorem execRingInsert_keepsMemory (s : State) : KeepsMemory s (execRingInsert s) := by simp [execRingInsert]
theorem execRingLockLost_keepsMemory (s : State) : KeepsMemory s (execRingLockLost s) := by simp [execRingLockLost, apply_ite State.mem]
theorem execInsertWindow_keepsMemory (s : State) : KeepsMemory s (execInsertWindow s) := by simp [execInsertWindow, drawFree]
theorem execDiscover_keepsMemory (s : State) : KeepsMemory s (execDiscover s) := by simp [execDiscover]
theorem execTimeFrameSend_keepsMemory (s : State) : KeepsMemory s (execTimeFrameSend s) := by simp [execTimeFrameSend]

/-! The tray's inputs (R469 to R476). -/

theorem execTrayResetDeassert_keepsMemory (s : State) : KeepsMemory s (execTrayResetDeassert s) := by simp [execTrayResetDeassert]
theorem execResetButtonOpen_keepsMemory (s : State) : KeepsMemory s (execResetButtonOpen s) := by simp [execResetButtonOpen]
theorem execButtonIgnoredClear_keepsMemory (s : State) : KeepsMemory s (execButtonIgnoredClear s) := by simp [execButtonIgnoredClear]
theorem execButtonStuck_keepsMemory (s : State) : KeepsMemory s (execButtonStuck s) := by simp [execButtonStuck]
theorem execPerstRelease_keepsMemory (s : State) : KeepsMemory s (execPerstRelease s) := by simp [execPerstRelease]
theorem execPpsEdge_keepsMemory (s : State) : KeepsMemory s (execPpsEdge s) := by simp [execPpsEdge, apply_ite State.mem]
theorem execSyncEdge_keepsMemory (s : State) : KeepsMemory s (execSyncEdge s) := by simp [execSyncEdge, apply_ite State.mem]

/-! Readings (R496, R503) and the label's drawing (R450). -/

theorem execThermAlertRelease_keepsMemory (s : State) : KeepsMemory s (execThermAlertRelease s) := by simp [execThermAlertRelease]
theorem execPowerSample_keepsMemory (vin pin : BitVec 16) (s : State) : KeepsMemory s (execPowerSample vin pin s) := by simp [execPowerSample]
theorem execLabelDrawing_keepsMemory (cold : Bool) (s : State) : KeepsMemory s (execLabelDrawing cold s) := by simp [execLabelDrawing]

/-- The rows that store no byte of memory leave memory as it is. -/
theorem quietRows_keepMemory {c : Fin 8} {z : Bool} {v : BitVec 64} {n len f : Nat} {port : Fin 16} {i : Instr}
    (hi : i ∈ quietRows c z v n len f port) (s : State) : KeepsMemory s (exec i s) := by
  simp only [quietRows, List.mem_append, List.mem_cons, List.not_mem_nil, or_false] at hi
  obtain ((control | registers) | links) | inputs := hi
  · obtain rfl | rfl | rfl | rfl | rfl | rfl | rfl := control
    · exact execNop_keepsMemory c s
    · exact execTallySet_keepsMemory c s
    · exact execSqDoorbell_keepsMemory v s
    · exact execCqDoorbell_keepsMemory v s
    · exact execRingDisable_keepsMemory v s
    · exact execMbxIrqClear_keepsMemory v s
    · exact execHeartbeatTick_keepsMemory s
  · obtain rfl | rfl | rfl | rfl | rfl | rfl | rfl | rfl | rfl | rfl | rfl | rfl | rfl | rfl := registers
    iterate 9 exact perfClears_keepMemory z s _ (by simp [exec])
    · exact execClearPeak_keepsMemory _ s
    · exact execRasFirstClr_keepsMemory v s
    · exact execHwReset_keepsMemory s
    · exact execTimElapsedRead_keepsMemory s
    · exact execI2cRegisterRead_keepsMemory _ _ s
  · obtain rfl | rfl | rfl | rfl | rfl | rfl | rfl | rfl := links
    · exact execAckReport_keepsMemory port s
    · exact execRingFrameReceive_keepsMemory len f s
    · exact execRingInsert_keepsMemory s
    · exact execRingLockLost_keepsMemory s
    · exact execInsertWindow_keepsMemory s
    · exact execDiscover_keepsMemory s
    · exact execTimeFrameSend_keepsMemory s
    · exact execLinkFrameReceive_keepsMemory port n len f s
  · obtain rfl | rfl | rfl | rfl | rfl | rfl | rfl | rfl | rfl | rfl | rfl := inputs
    · exact (keepsMemory_next s s).2 rfl
    · exact execTrayResetDeassert_keepsMemory s
    · exact execResetButtonOpen_keepsMemory s
    · exact execButtonIgnoredClear_keepsMemory s
    · exact execButtonStuck_keepsMemory s
    · exact execPerstRelease_keepsMemory s
    · exact execPpsEdge_keepsMemory s
    · exact execSyncEdge_keepsMemory s
    · exact execThermAlertRelease_keepsMemory s
    · exact execPowerSample_keepsMemory _ _ s
    · exact execLabelDrawing_keepsMemory z s

end Sys2Proof.Machine
end

/-! ## Where the other rows store (O46) -/

section
namespace Sys2Proof.Machine

/-! ### Operations that read nothing -/

/-- An operation stores what its body stores, where its body reads nothing and the operations in flight write elsewhere. -/
theorem issueOp_storesNothingAt {s : State} {a c cls inst : Nat} {q : QOp} (aged : Bool) (kind : QOp → Bool) {body : Body}
    (head : headOf (ctxOf s c) cls inst = some q) (traced : untraced s a) (races : unraced s c a)
    (stores : StoresNothingAt a (atUnit s c q) (body (atUnit s c q) c q).st)
    (ctxs : (body (atUnit s c q) c q).st.ctxs = (atUnit s c q).ctxs)
    (rd : (body (atUnit s c q) c q).acc.rd = []) (sumpRd : (body (atUnit s c q) c q).acc.sumpRd = []) :
    StoresNothingAt a s (issueOp s c cls inst aged kind body) := by
  by_cases h : canIssue s c cls inst aged kind = true
  · have answer : issueOp s c cls inst aged kind body = inFlight s c q (body (atUnit s c q) c q) := by
      simp [issueOp, h, head, issueWith, inFlight, atUnit]
    rw [answer]
    refine ((atUnit_storesNothingAt traced c q).trans stores).trans (inFlight_storesNothingAt q rd sumpRd ?_)
    rwa [unraced, ctxOf, ctxs, ← ctxOf, atUnit_flight]
  · rw [issueOp_of_not body (by simpa using h)]
    exact .refl a s

/-- QZERO names no record, so that no output of it overlaps an input. -/
theorem scrambleOverlap_zeroPlan (s u : State) (c : Nat) (q : QOp) : scrambleOverlap s c (zeroPlan u c q) = s := rfl

/-- QZERO at its unit stores no byte and reads nothing, whether its checks pass or not (R131). -/
theorem bodyQzero_frame (u : State) (c : Nat) (q : QOp) :
    (bodyQzero u c q).st.mem = u.mem ∧ (bodyQzero u c q).st.ctxs = u.ctxs ∧ (bodyQzero u c q).acc.rd = [] ∧ (bodyQzero u c q).acc.sumpRd = [] := by
  cases h : issueChecks u c (zeroPlan u c q) with
  | some x =>
    simp only [bodyQzero, runRecs, runPlan_of_fails h]
    exact ⟨rfl, rfl, rfl, rfl⟩
  | none =>
    have pass : Passes u c (zeroPlan u c q) [] [] := ⟨h, by simp [physPieces, badTouched], by simp [physPieces, badPartly]⟩
    have reads : readsOf u c (zeroPlan u c q).recs = [] := rfl
    have writes : writesOf u c (zeroPlan u c q).recs = [] := rfl
    have commits : touchAll u c (zeroPlan u c q).recs = u := rfl
    simp [bodyQzero, runRecs, reads, writes, runPlan_of_passes pass, ranOp, scrambleOverlap_zeroPlan, commits, physPieces]

/-- QZERO stores nothing where neither trace nor a race does. -/
theorem execQzero_storesNothingAt {s : State} {a : Nat} {c : Fin 8} {q : QOp} (aged : Bool) (traced : untraced s a) (races : unraced s c a)
    (head : headOf (ctxOf s c) ucDrain 0 = some q) : StoresNothingAt a s (issueOp s c ucDrain 0 aged (isOp 0x14) bodyQzero) := by
  obtain ⟨mem, ctxs, rd, sumpRd⟩ := bodyQzero_frame (atUnit s c q) c q
  exact issueOp_storesNothingAt aged _ head traced races (.of_mem_eq mem) ctxs rd sumpRd

/-- TSTATE at its unit stores the 64 bytes of its block alone, and reads nothing (R347). -/
theorem bodyTstate_frame {u : State} {a c : Nat} {q : QOp} (h : ∀ k, k < 64 → a ≠ physOf u c (tfCfg q.env + k)) :
    StoresNothingAt a u (bodyTstate u c q).st ∧ (bodyTstate u c q).st.ctxs = u.ctxs ∧ (bodyTstate u c q).acc.rd = [] ∧
      (bodyTstate u c q).acc.sumpRd = [] := by
  simp only [bodyTstate]
  split
  · exact ⟨.refl a u, rfl, rfl, rfl⟩
  · split
    · exact ⟨.refl a u, rfl, rfl, rfl⟩
    · split
      · exact ⟨.refl a u, rfl, rfl, rfl⟩
      · exact ⟨(wrNum_storesNothingAt u _ h).trans_mem_eq ((noteTraffic_mem ..).trans (clearBad_mem ..)), by simp, rfl, rfl⟩

theorem execTstate_storesNothingAt {s : State} {a : Nat} {c : Fin 8} {q : QOp} (aged : Bool) (traced : untraced s a) (races : unraced s c a)
    (head : headOf (ctxOf s c) ucTaproot 0 = some q) (h : ∀ k, k < 64 → a ≠ physOf s c (tfCfg q.env + k)) :
    StoresNothingAt a s (issueOp s c ucTaproot 0 aged (isOp 0xC3) bodyTstate) := by
  obtain ⟨stores, ctxs, rd, sumpRd⟩ :=
    bodyTstate_frame (u := atUnit s c q) (a := a) (c := c) (q := q) (by simpa only [physOf_atUnit] using h)
  exact issueOp_storesNothingAt aged _ head traced races stores ctxs rd sumpRd

/-! ### SHAPE_SET (R41, R155) -/

/-- The shape words that a list of pairs names, and no other byte. -/
theorem setShapeWords_storesNothingAt {s : State} {a c : Nat} {ws : List (Nat × Nat)}
    (h : ∀ w ∈ ws, ∀ k, k < 4 → a ≠ physOf s c ((ctxOf s c).swBase + 4 * w.1 + k)) :
    StoresNothingAt a s (ws.foldl (fun s p => setShapeWord s c p.1 p.2) s) := by
  induction ws generalizing s with
  | nil => exact .refl a s
  | cons w r ih =>
    have first : StoresNothingAt a s (setShapeWord s c w.1 w.2) := wrNum_storesNothingAt s _ (h w List.mem_cons_self)
    exact first.trans (ih fun x hx => h x (List.mem_cons_of_mem w hx))

theorem execShapeSet_storesNothingAt {c : Fin 8} {s t : State} {a : Nat} (run : execShapeSet c s = .next t)
    (h : ∀ p e, controlReady s c 0x03 = some (p, e) → ∀ w ∈ setPairs e, ∀ k, k < 4 → a ≠ physOf s c ((ctxOf s c).swBase + 4 * w.1 + k)) :
    StoresNothingAt a s t := by
  unfold execShapeSet at run
  split at run
  · cases run
    exact .refl a s
  · rename_i p e ready
    split at run
    · cases run
      exact .of_mem_eq (controlDone_mem ..)
    · split at run
      · cases run
        exact .of_mem_eq (controlDone_mem ..)
      · simp only at run
        split at run
        · cases run
          exact .of_mem_eq (by simp)
        · cases run
          exact (setShapeWords_storesNothingAt (h p e ready)).trans_mem_eq (controlDone_mem ..)

/-! ### Writes from the host (R24, R33, R429) -/

theorem execRegisterWrite_storesNothingAt {o : BitVec 24} {v : BitVec 64} {s t : State} {a : Nat} (run : execRegisterWrite o v s = .next t)
    (h : 0x10000 ≤ o.toNat → o.toNat < 0x20000 → a < mboxBase + (o.toNat - 0x10000) ∨ mboxBase + (o.toNat - 0x10000) + 8 ≤ a) :
    StoresNothingAt a s t := by
  simp only [execRegisterWrite] at run
  split at run
  · cases run
    exact .refl a s
  · split at run
    · cases run
      exact .of_mem_eq (mbxWrite_mem ..)
    · split at run
      · cases run
        exact .of_mem_eq (apWrite_mem ..)
      · split at run
        · rename_i box
          simp only [Bool.and_eq_true, decide_eq_true_eq] at box
          cases run
          exact wrPhys_storesNothingAt s _ (h box.1 box.2)
        · cases run
          exact .of_mem_eq (unitWrite_mem ..)

@[simp] theorem windowPut_mem (s : State) (a b : Nat) : (windowPut s a b).mem = s.mem := by
  unfold windowPut; split <;> rfl

/-- A write through BAR2 stores its bytes at the address it leads to, and in the Sump window none of memory. -/
theorem bar2Go_write_storesNothingAt (s : State) (r : Region) {a da n : Nat} (data : Nat) (h : a < da ∨ da + n ≤ a) :
    StoresNothingAt a s (bar2Go s r true da n data) := by
  unfold bar2Go
  split
  · exact .refl a s
  · split
    · split
      · exact .of_mem_eq (by simp [bar2Window, foldl_keeps State.mem fun s j => windowPut_mem s (da + j) (fld data j 1)])
      · exact .of_mem_eq (by simp [bar2Refuse, bar2Ur])
    · split
      · exact .of_mem_eq (by simp [bar2Refuse, bar2Ur])
      · simp only [if_true, bar2Write]
        split
        · exact .of_mem_eq (by simp)
        · exact (StoresNothingAt.of_mem_eq (by simp)).trans ((wrPhys_storesNothingAt _ data h).trans_mem_eq (ledgerHostWrite_mem ..))

theorem execBar2Access_write_storesNothingAt {addr len data : Nat} {s t : State} {a : Nat} (run : execBar2Access true addr len data s = .next t)
    (h : ∀ da, bar2Da s addr = some da → a < da ∨ da + len ≤ a) : StoresNothingAt a s t := by
  unfold execBar2Access at run
  split at run
  · cases run
    exact .refl a s
  · split at run
    · cases run
      exact .refl a s
    · rename_i da lead
      split at run
      · cases run
        exact .of_mem_eq (by simp [bar2Refuse, bar2Ur])
      · cases run
        exact (bar2Go_write_storesNothingAt s _ data (h da lead)).trans_mem_eq (withHealth_mem ..)

/-! ### Commands that answer at a physical destination (R441, R442, R465) -/

/-- A command stores what its work stores, whatever its checks answer. -/
theorem runCmd_storesNothingAt {s : State} {a place op : Nat} {kind : Nat → Bool} {work : State → Nat → CmdOut} {x : Cmd}
    (traced : untraced s a) (taken : s.mbx.taken[place]? = some x) (h : ∀ u, StoresNothingAt a u (work u x.raw).st) :
    StoresNothingAt a s (runCmd s place op kind work) := by
  simp only [runCmd, taken]
  split
  · refine (traceState_storesNothingAt traced 40 (cmdCtx x.raw)).trans (.trans_mem_eq ?_ (updCmd_mem ..))
    split
    · exact .refl a _
    · unfold noteCmd
      split
      · exact (h _).trans_mem_eq (noteTraffic_mem ..)
      · exact h _
  · exact .refl a s

/-- A destination at a physical address: its bytes alone are written, or lost to an uncorrectable error. -/
theorem dstWrite_storesNothingAt (s : State) {a da n : Nat} (v result : Nat) (h : a < da ∨ da + n ≤ a) :
    StoresNothingAt a s (dstWrite s 0xFF da v n result).st := by
  unfold dstWrite
  split
  · simp only [fwLose, Nat.reduceLeDiff, if_true]
    exact (StoresNothingAt.of_mem_eq (countUe_mem ..)).trans (loseRange_storesNothingAt _ h)
  · simp only [fwWrite, Nat.reduceLeDiff, if_true]
    exact (StoresNothingAt.of_mem_eq (by simp)).trans (wrPhys_storesNothingAt _ v h)

/-- Work that checks first stores what it stores past its checks. -/
theorem cmdTry_storesNothingAt {s : State} {a : Nat} {work : State → CmdOut} (checks : List (Option (Nat × Nat)))
    (h : StoresNothingAt a s (work s).st) : StoresNothingAt a s (cmdTry s checks work).st := by
  unfold cmdTry
  split
  · exact .refl a s
  · exact h

/-- IDENTIFY, HEALTH, and TIME_READ at a physical address, store nothing outside their destinations. -/
theorem physicalAnswers_storeNothingAt {i : Nat → Instr} {op n place : Nat} {x : Cmd} {s t : State} {a : Nat}
    (row : (i, op, n) ∈ [(Instr.identify, 0x01, 512), (Instr.health, 0x02, 256), (Instr.timeRead, 0x38, 64)]) (traced : untraced s a)
    (taken : s.mbx.taken[place]? = some x) (ctx : op = 0x38 → cmdCtx x.raw = 0xFF) (run : exec (i place) s = .next t)
    (h : a < fld x.raw 8 8 ∨ fld x.raw 8 8 + n ≤ a) : StoresNothingAt a s t := by
  simp only [List.mem_cons, Prod.mk.injEq, List.not_mem_nil, or_false] at row
  obtain ⟨rfl, rfl, rfl⟩ | ⟨rfl, rfl, rfl⟩ | ⟨rfl, rfl, rfl⟩ := row <;> cases run
  · exact runCmd_storesNothingAt traced taken fun u => cmdTry_storesNothingAt _ (dstWrite_storesNothingAt u _ _ h)
  · exact runCmd_storesNothingAt traced taken fun u => cmdTry_storesNothingAt _ (dstWrite_storesNothingAt u _ _ h)
  · refine runCmd_storesNothingAt traced taken fun u => ?_
    simp only [workTimeRead, ctx rfl]
    exact cmdTry_storesNothingAt _ (dstWrite_storesNothingAt u _ _ h)

/-- Settles O46: the quiet rows keep memory, and each other row stores at the addresses that its own lemma names. -/
theorem memoryFrames : Obligations.MemoryFrames := by
  refine ⟨fun c z v n len f port i s t hi run a => byteAt_of_mem_eq (quietRows_keepMemory hi s t run) a, ?_, ?_, ?_, ?_, ?_, ?_⟩
  · intro c aged s t q a wf traced races head _ run
    cases run
    exact (execQzero_storesNothingAt aged traced races head wf).2
  · intro c aged s t q a wf traced races head _ run h
    cases run
    exact (execTstate_storesNothingAt aged traced races head h wf).2
  · exact fun c s t a wf run h => (execShapeSet_storesNothingAt run h wf).2
  · exact fun o v s t a wf run h => (execRegisterWrite_storesNothingAt run h wf).2
  · exact fun addr len data s t a wf run h => (execBar2Access_write_storesNothingAt run h wf).2
  · exact fun i op n place x s t a row wf traced taken _ ctx run h => (physicalAnswers_storeNothingAt row traced taken ctx run h wf).2

end Sys2Proof.Machine
end

/-! ## Power of the management island and the input (R17, R468, R477, R491, R537, R541) -/

section
namespace Sys2Proof.Machine

/-- A power-on is a cold reset; ID pins that disagree are logged. -/
theorem exec_mgmtPowerOn (s : State) (slot : BitVec 2) (valid : Bool) :
    exec (.mgmtPowerOn slot valid) s =
      .next (if valid then coldReset s slot.toNat true else logErr (coldReset s slot.toNat false) 14 2 0x16 0xFF 0) := by
  cases valid <;> rfl

/-- A low input takes a module out of reset into relay-only. -/
theorem exec_inputLow {s : State} (up : s.mode ≠ .offOrReset) :
    exec .inputLow s = .next (withHealth s (relayEnter (logErr s 10 3 0x16 0xFF 63) causeInput)) :=
  if_neg up

/-- Settles O29. -/
theorem powerInputsRun : Obligations.PowerInputsRun := fun s =>
  ⟨fun slot => ⟨exec_mgmtPowerOn s slot true, exec_mgmtPowerOn s slot false⟩, rfl, exec_inputLow, rfl⟩

end Sys2Proof.Machine
end

/-! ## What a step keeps, and what a unit leaves alone (R15, R16, R30, R168) -/

section
namespace Sys2Proof.Machine

/-! ### What an operation of a unit leaves alone -/

theorem SameSystem.refl (s : State) : SameSystem s s :=
  ⟨rfl, rfl, rfl, rfl, rfl, rfl, rfl, rfl, rfl, rfl, rfl, rfl, rfl, rfl, rfl, rfl⟩

/-- Units change memory, contexts, and what is their own. -/
theorem SameSystem.own {u : State} {mem : Memory} {sump : SMap AccBits} {sumpBad : List Nat} {ctxs : List Ctx} {quarry : QuarryS} {memS : MemS}
    {cru : Perf} {stash : StashS} {rs spl : Perf} {tap : TapS} {vcc : VccS} {fab : FabS} {rlb : List (List (Nat × Nat × Nat))} {ras : RasS}
    {trc : TrcS} {posted : List (Nat × Nat)} {lastServed : SMap Nat} {chiselCmv : Bool} {free : Nat} :
    SameSystem u { u with
      mem := mem, sump := sump, sumpBad := sumpBad, ctxs := ctxs, quarry := quarry, memS := memS, cru := cru, stash := stash, rs := rs, spl := spl
      tap := tap, vcc := vcc, fab := fab, rlb := rlb, ras := ras, trc := trc, hif := { u.hif with posted := posted }, lastServed := lastServed
      chiselCmv := chiselCmv, free := free } :=
  ⟨rfl, rfl, rfl, rfl, rfl, rfl, rfl, rfl, rfl, rfl, rfl, rfl, rfl, rfl, rfl, rfl⟩

theorem SameSystem.trans {s t u : State} (h : SameSystem s t) (k : SameSystem t u) : SameSystem s u where
  mode := k.mode.trans h.mode
  relayCause := k.relayCause.trans h.relayCause
  aoc := k.aoc.trans h.aoc
  pwr := k.pwr.trans h.pwr
  hif := (congrArg (fun x : HifS => { x with posted := s.hif.posted }) k.hif).trans h.hif
  flash := k.flash.trans h.flash
  time := k.time.trans h.time
  mbx := k.mbx.trans h.mbx
  fenced := k.fenced.trans h.fenced
  coresOff := k.coresOff.trans h.coresOff
  domOn := k.domOn.trans h.domOn
  wakes := k.wakes.trans h.wakes
  elapsed := k.elapsed.trans h.elapsed
  boot := k.boot.trans h.boot
  hostUp := k.hostUp.trans h.hostUp
  pending := k.pending.trans h.pending

/-- The tallies of every context are in their form. -/
def TalliesWf (s : State) : Prop := ∀ x ∈ s.ctxs, smWf 0 x.tallies = true

/-- From `s` to `t` neither the system nor any context changes; memory keeps its canonical form, and two tables their lengths. -/
structure Still (s t : State) : Prop where
  system : SameSystem s t
  memory : memWf s.mem = true → memWf t.mem = true
  ctxs : t.ctxs = s.ctxs
  ret : t.memS.ret.length = s.memS.ret.length
  first : t.ras.first.length = s.ras.first.length

/-- From `s` to `t` the system does not change, and of the contexts other than `c` at most the cached ledger entries do; memory, tallies and two tables keep their form. -/
structure OwnStep (c : Nat) (s t : State) : Prop where
  system : SameSystem s t
  memory : memWf s.mem = true → memWf t.mem = true
  contexts : t.ctxs.length = s.ctxs.length
  others : ∀ d, d ≠ c → { ctxOf t d with ledger := (ctxOf s d).ledger } = ctxOf s d
  tallies : TalliesWf s → TalliesWf t
  ret : t.memS.ret.length = s.memS.ret.length
  first : t.ras.first.length = s.ras.first.length

/-! ### What every step but a reset keeps -/

/-- How the mode moves but by a module reset and its release: not at all, or, outside reset and relay-only, not into reset. -/
def Drifts (m m' : Mode) : Prop := m' = m ∨ (m ≠ .offOrReset ∧ m ≠ .relayOnly) ∧ m' ≠ .offOrReset

theorem Drifts.trans {m m' m'' : Mode} (h : Drifts m m') (k : Drifts m' m'') : Drifts m m'' := by
  unfold Drifts at *
  grind

/-- From `s` to `t` every part of the invariant is kept, the module is not reset, and TRAY_RESET_N and its cause stay as they are. -/
structure Kept (s t : State) : Prop where
  memory : memWf s.mem = true → memWf t.mem = true
  contexts : t.ctxs.length = s.ctxs.length
  commands : s.mbx.taken.length ≤ 64 → t.mbx.taken.length ≤ 64
  apertures : apsOk s.hif → apsOk t.hif
  mode : Drifts s.mode t.mode
  power : t.hif.on = s.hif.on
  firmware : t.mode = .offOrReset → t.mbx.fwState = s.mbx.fwState
  level : nth false t.aoc.level 0 = nth false s.aoc.level 0
  cause : bit t.aoc.causes rcTray = bit s.aoc.causes rcTray
  tallies : TalliesWf s → TalliesWf t
  lost : s.mbx.lost.length = 12 → t.mbx.lost.length = 12
  first : t.ras.first.length = s.ras.first.length
  ret : t.memS.ret.length = s.memS.ret.length
  stuck : t.aoc.stuck.length = s.aoc.stuck.length

/-! ### The three relations follow steps -/

namespace Still

theorem refl (s : State) : Still s s := ⟨.refl s, id, rfl, rfl, rfl⟩

theorem after {s t u : State} (k : Still t u) (h : Still s t) : Still s u where
  system := h.system.trans k.system
  memory := k.memory ∘ h.memory
  ctxs := k.ctxs.trans h.ctxs
  ret := k.ret.trans h.ret
  first := k.first.trans h.first

/-- Units change what is their own. -/
theorem own {u : State} {sump : SMap AccBits} {sumpBad : List Nat} {quarry : QuarryS} {memS : MemS} {cru : Perf} {stash : StashS} {rs spl : Perf}
    {tap : TapS} {vcc : VccS} {fab : FabS} {rlb : List (List (Nat × Nat × Nat))} {ras : RasS} {trc : TrcS} {lastServed : SMap Nat}
    {chiselCmv : Bool} {free : Nat} (tables : (memS.ret.length, ras.first.length) = (u.memS.ret.length, u.ras.first.length)) :
    Still u { u with
      sump := sump, sumpBad := sumpBad, quarry := quarry, memS := memS, cru := cru, stash := stash, rs := rs, spl := spl, tap := tap, vcc := vcc
      fab := fab, rlb := rlb, ras := ras, trc := trc, lastServed := lastServed, chiselCmv := chiselCmv, free := free } where
  system := .own
  memory := id
  ctxs := rfl
  ret := (Prod.mk.inj tables).1
  first := (Prod.mk.inj tables).2

theorem ite {s t u : State} {p : Prop} [Decidable p] (h : Still s t) (k : Still s u) : Still s (if p then t else u) := by
  split
  · exact h
  · exact k

theorem ite_fst {s : State} {α : Type} {a b : State × α} {p : Prop} [Decidable p] (h : Still s a.1) (k : Still s b.1) :
    Still s (if p then a else b).1 := by
  split
  · exact h
  · exact k

theorem foldl {α : Type} {f : State → α → State} (h : ∀ u x, Still u (f u x)) {s : State} {l : List α} : Still s (l.foldl f s) := by
  induction l generalizing s with
  | nil => exact refl s
  | cons x r ih => exact ih.after (h s x)

/-- Steps that carry a value beside the state. -/
theorem foldl_fst {α β : Type} {f : State × β → α → State × β} (h : ∀ a x, Still a.1 (f a x).1) {a : State × β} {l : List α} :
    Still a.1 (l.foldl f a).1 := by
  induction l generalizing a with
  | nil => exact refl a.1
  | cons x r ih => exact ih.after (h a x)

theorem ctxOf_eq {s t : State} (h : Still s t) (d : Nat) : ctxOf t d = ctxOf s d := by
  rw [ctxOf, h.ctxs, ctxOf]

theorem step {c : Nat} {s t : State} (h : Still s t) : OwnStep c s t where
  system := h.system
  memory := h.memory
  contexts := congrArg List.length h.ctxs
  others d _ := by rw [h.ctxOf_eq d]
  tallies := by simp only [TalliesWf, h.ctxs, imp_self]
  ret := h.ret
  first := h.first

end Still

namespace OwnStep

theorem refl {c : Nat} (s : State) : OwnStep c s s := (Still.refl s).step

theorem after {c : Nat} {s t u : State} (k : OwnStep c t u) (h : OwnStep c s t) : OwnStep c s u where
  system := h.system.trans k.system
  memory := k.memory ∘ h.memory
  contexts := k.contexts.trans h.contexts
  others d hd := (congrArg (fun x : Ctx => { x with ledger := (ctxOf s d).ledger }) (k.others d hd)).trans (h.others d hd)
  tallies := k.tallies ∘ h.tallies
  ret := k.ret.trans h.ret
  first := k.first.trans h.first

theorem own {c : Nat} {u : State} {sump : SMap AccBits} {sumpBad : List Nat} {quarry : QuarryS} {memS : MemS} {cru : Perf} {stash : StashS}
    {rs spl : Perf} {tap : TapS} {vcc : VccS} {fab : FabS} {rlb : List (List (Nat × Nat × Nat))} {ras : RasS} {trc : TrcS} {lastServed : SMap Nat}
    {chiselCmv : Bool} {free : Nat} (tables : (memS.ret.length, ras.first.length) = (u.memS.ret.length, u.ras.first.length)) :
    OwnStep c u { u with
      sump := sump, sumpBad := sumpBad, quarry := quarry, memS := memS, cru := cru, stash := stash, rs := rs, spl := spl, tap := tap, vcc := vcc
      fab := fab, rlb := rlb, ras := ras, trc := trc, lastServed := lastServed, chiselCmv := chiselCmv, free := free } :=
  (Still.own tables).step

theorem ite {c : Nat} {s t u : State} {p : Prop} [Decidable p] (h : OwnStep c s t) (k : OwnStep c s u) :
    OwnStep c s (if p then t else u) := by
  split
  · exact h
  · exact k

theorem foldl {c : Nat} {α : Type} {f : State → α → State} (h : ∀ u x, OwnStep c u (f u x)) {s : State} {l : List α} :
    OwnStep c s (l.foldl f s) := by
  induction l generalizing s with
  | nil => exact refl s
  | cons x r ih => exact ih.after (h s x)

/-- Steps that carry a value beside the state. -/
theorem foldl_fst {c : Nat} {α β : Type} {f : State × β → α → State × β} (h : ∀ a x, OwnStep c a.1 (f a x).1) {a : State × β} {l : List α} :
    OwnStep c a.1 (l.foldl f a).1 := by
  induction l generalizing a with
  | nil => exact refl a.1
  | cons x r ih => exact ih.after (h a x)

theorem kept {c : Nat} {s t : State} (h : OwnStep c s t) : Kept s t where
  memory := h.memory
  contexts := h.contexts
  commands := by rw [h.system.mbx]; exact id
  apertures := by
    have : apsOk { t.hif with posted := s.hif.posted } = apsOk s.hif := congrArg apsOk h.system.hif
    exact this.mpr
  mode := .inl h.system.mode
  power := (congrArg HifS.on h.system.hif :)
  firmware _ := congrArg MbxS.fwState h.system.mbx
  level := by rw [h.system.aoc]
  cause := by rw [h.system.aoc]
  tallies := h.tallies
  lost := by rw [h.system.mbx]; exact id
  first := h.first
  ret := h.ret
  stuck := by rw [h.system.aoc]

end OwnStep

theorem Still.kept {s t : State} (h : Still s t) : Kept s t := (h.step (c := 0)).kept

namespace Kept

theorem refl (s : State) : Kept s s := (Still.refl s).kept

theorem after {s t u : State} (k : Kept t u) (h : Kept s t) : Kept s u where
  memory := k.memory ∘ h.memory
  contexts := k.contexts.trans h.contexts
  commands := k.commands ∘ h.commands
  apertures := k.apertures ∘ h.apertures
  mode := h.mode.trans k.mode
  power := k.power.trans h.power
  firmware off := by
    obtain same | ⟨-, up⟩ := k.mode
    · exact (k.firmware off).trans (h.firmware (same ▸ off))
    · exact absurd off up
  level := k.level.trans h.level
  cause := k.cause.trans h.cause
  tallies := k.tallies ∘ h.tallies
  lost := k.lost ∘ h.lost
  first := k.first.trans h.first
  ret := k.ret.trans h.ret
  stuck := k.stuck.trans h.stuck

/-- What the invariant speaks of outside memory and contexts is the same. -/
theorem same {u : State} {relayCause : Nat} {sump : SMap AccBits} {sumpBad : List Nat} {quarry : QuarryS} {memS : MemS} {cru : Perf}
    {stash : StashS} {rs spl : Perf} {tap : TapS} {vcc : VccS} {fab : FabS} {time : TimeS} {rlb : List (List (Nat × Nat × Nat))} {ras : RasS}
    {mbx : MbxS} {trc : TrcS} {aoc : AocS} {pwr : PwrS} {hif : HifS} {flash : FlashS} {fenced coresOff : List (Nat × Nat)} {domOn : List Bool}
    {wakes elapsed : W64} {boot : Nat} {hostUp : Bool} {lastServed : SMap Nat} {chiselCmv : Bool} {free : Nat} {pending : List Instr}
    (mailbox : (mbx.taken.length, mbx.lost.length, mbx.fwState) = (u.mbx.taken.length, u.mbx.lost.length, u.mbx.fwState))
    (inputs : (nth false aoc.level 0, bit aoc.causes rcTray, aoc.stuck.length) =
      (nth false u.aoc.level 0, bit u.aoc.causes rcTray, u.aoc.stuck.length))
    (interface : (hif.on, hif.bar2Log2, hif.aps) = (u.hif.on, u.hif.bar2Log2, u.hif.aps))
    (tables : (memS.ret.length, ras.first.length) = (u.memS.ret.length, u.ras.first.length)) :
    Kept u { u with
      relayCause := relayCause, sump := sump, sumpBad := sumpBad, quarry := quarry, memS := memS, cru := cru, stash := stash, rs := rs, spl := spl
      tap := tap, vcc := vcc, fab := fab, time := time, rlb := rlb, ras := ras, mbx := mbx, trc := trc, aoc := aoc, pwr := pwr, hif := hif
      flash := flash, fenced := fenced, coresOff := coresOff, domOn := domOn, wakes := wakes, elapsed := elapsed, boot := boot, hostUp := hostUp
      lastServed := lastServed, chiselCmv := chiselCmv, free := free, pending := pending } := by
  simp only [Prod.mk.injEq] at mailbox inputs interface tables
  obtain ⟨taken, lost, fwState⟩ := mailbox
  obtain ⟨level, cause, stuck⟩ := inputs
  obtain ⟨on, size, aps⟩ := interface
  exact ⟨id, rfl, by simp only [taken, imp_self], by simp only [apsOk, size, aps, imp_self], .inl rfl, on, fun _ => fwState, level, cause, id,
    by simp only [lost, imp_self], tables.2, tables.1, stuck⟩

/-- A change of the mailbox that leaves at most 64 commands outstanding. -/
theorem mailbox {u : State} {m : MbxS} (commands : u.mbx.taken.length ≤ 64 → m.taken.length ≤ 64)
    (lost : u.mbx.lost.length = 12 → m.lost.length = 12) (fwState : m.fwState = u.mbx.fwState) : Kept u { u with mbx := m } :=
  ⟨id, rfl, commands, id, .inl rfl, rfl, fun _ => fwState, rfl, rfl, id, lost, rfl, rfl, rfl⟩

/-- A change of the mode, from outside reset and relay-only. -/
theorem mode_to {s u : State} {m : Mode} (h : Kept s u) (up : s.mode ≠ .offOrReset ∧ s.mode ≠ .relayOnly) (hm : m ≠ .offOrReset) :
    Kept s { u with mode := m } :=
  { h with mode := .inr ⟨up, hm⟩, firmware := fun off => absurd off hm }

/-- A context that is opened or closed, with its feeds and its counters of the stash. -/
theorem ctx {u : State} {c : Nat} {x : Ctx} {tap : TapS} {stash : StashS} (wf : smWf 0 x.tallies = true) :
    Kept u { u with ctxs := u.ctxs.set c x, tap := tap, stash := stash } where
  memory := id
  contexts := List.length_set
  commands := id
  apertures := id
  mode := .inl rfl
  power := rfl
  firmware _ := rfl
  level := rfl
  cause := rfl
  tallies h y hy := by
    obtain hy | rfl := List.mem_or_eq_of_mem_set hy
    · exact h y hy
    · exact wf
  lost := id
  first := rfl
  ret := rfl
  stuck := rfl

theorem ite {s t u : State} {p : Prop} [Decidable p] (h : Kept s t) (k : Kept s u) : Kept s (if p then t else u) := by
  split
  · exact h
  · exact k

theorem foldl {α : Type} {f : State → α → State} (h : ∀ u x, Kept u (f u x)) {s : State} {l : List α} : Kept s (l.foldl f s) := by
  induction l generalizing s with
  | nil => exact refl s
  | cons x r ih => exact ih.after (h s x)

/-- The module stays out of reset. -/
theorem mode_ne_off {s t : State} (h : Kept s t) (on : s.mode ≠ .offOrReset) : t.mode ≠ .offOrReset := by
  obtain e | ⟨-, up⟩ := h.mode
  · rwa [e]
  · exact up

theorem inv {s t : State} (h : Kept s t) (inv : Inv s) : Inv t where
  memory := h.memory inv.memory
  contexts := h.contexts.trans inv.contexts
  commands := h.commands inv.commands
  apertures := h.apertures inv.apertures
  stopped off := by
    obtain ⟨hifOff, stopped⟩ := inv.stopped (Classical.not_not.1 fun on => h.mode_ne_off on off)
    exact ⟨h.power.trans hifOff, (h.firmware off).trans stopped⟩
  tray asserted := by
    obtain ⟨cause, off⟩ := inv.tray (h.level ▸ asserted)
    refine ⟨h.cause.trans cause, ?_⟩
    obtain e | ⟨⟨up, -⟩, -⟩ := h.mode
    · exact e.trans off
    · exact absurd off up
  tallies := h.tallies inv.tallies
  tables := by
    obtain ⟨lost, first, ret, stuck⟩ := inv.tables
    exact ⟨h.lost lost, h.first.trans first, h.ret.trans ret, h.stuck.trans stuck⟩

end Kept

/-! ### Meanings -/

/-- Every state that an outcome goes on with keeps the invariant. -/
def Keeps (s : State) (o : Host.Outcome State Fault Refusal) : Prop := ∀ t, o = .next t → Kept s t

theorem Keeps.next {s t : State} (h : Kept s t) : Keeps s (.next t) := by
  rintro _ ⟨⟩
  exact h

theorem Keeps.ite {s : State} {p : Prop} [Decidable p] {o o' : Host.Outcome State Fault Refusal} (h : Keeps s o) (k : Keeps s o') :
    Keeps s (if p then o else o') := by
  split
  · exact h
  · exact k

/-- Every state that a unit's row goes on with differs only as an operation of context `c` may. -/
def Owns (c : Nat) (s : State) (o : Host.Outcome State Fault Refusal) : Prop := ∀ t, o = .next t → OwnStep c s t

theorem Owns.next {c : Nat} {s t : State} (h : OwnStep c s t) : Owns c s (.next t) := by
  rintro _ ⟨⟩
  exact h

theorem Owns.ite {c : Nat} {s : State} {p : Prop} [Decidable p] {o o' : Host.Outcome State Fault Refusal} (h : Owns c s o) (k : Owns c s o') :
    Owns c s (if p then o else o') := by
  split
  · exact h
  · exact k

theorem Owns.keeps {c : Nat} {s : State} {o : Host.Outcome State Fault Refusal} (h : Owns c s o) : Keeps s o := fun t e => (h t e).kept

end Sys2Proof.Machine
end

/-! ## What the named operations over the state keep -/

section
namespace Sys2Proof.Machine

/-! ### Sparse maps -/

theorem smWf_cons {β : Type} [DecidableEq β] (d : β) (k : Nat) (v : β) (l : SMap β) :
    smWf d ((k, v) :: l) = true ↔ KeysAbove k l ∧ v ≠ d ∧ smWf d l = true := by
  induction l generalizing k v with
  | nil => simp [smWf, KeysAbove]
  | cons p r ih =>
    obtain ⟨k', v'⟩ := p
    have below : smWf d ((k', v') :: r) = true → ∀ p ∈ r, k' < p.1 := fun h => ((ih k' v').1 h).1
    simp only [smWf, Bool.and_eq_true, decide_eq_true_eq, KeysAbove, List.mem_cons, forall_eq_or_imp]
    constructor
    · rintro ⟨⟨h, hv⟩, wf⟩
      exact ⟨⟨h, fun p hp => h.trans (below wf p hp)⟩, hv, wf⟩
    · rintro ⟨⟨h, -⟩, hv, wf⟩
      exact ⟨⟨h, hv⟩, wf⟩

theorem smPut_wf {β : Type} [DecidableEq β] {d : β} {l : SMap β} (h : smWf d l = true) (a : Nat) {b : β} (hb : b ≠ d) :
    smWf d (smPut l a b) = true := by
  induction l with
  | nil => simpa [smPut, smWf] using hb
  | cons p r ih =>
    obtain ⟨k, v⟩ := p
    obtain ⟨above, hv, wf⟩ := (smWf_cons d k v r).1 h
    simp only [smPut]
    split
    · rename_i lt
      refine (smWf_cons ..).2 ⟨fun p hp => ?_, hb, h⟩
      obtain rfl | hp := List.mem_cons.1 hp
      · exact lt
      · exact lt.trans (above p hp)
    · split
      · rename_i eq
        subst eq
        exact (smWf_cons ..).2 ⟨above, hb, wf⟩
      · refine (smWf_cons ..).2 ⟨fun p hp => ?_, hv, ih wf⟩
        obtain rfl | hp := mem_smPut hp
        · simp only
          omega
        · exact above p hp

theorem smDel_wf {β : Type} [DecidableEq β] {d : β} {l : SMap β} (h : smWf d l = true) (a : Nat) : smWf d (smDel l a) = true := by
  induction l with
  | nil => exact h
  | cons p r ih =>
    obtain ⟨k, v⟩ := p
    obtain ⟨above, hv, wf⟩ := (smWf_cons d k v r).1 h
    simp only [smDel]
    split
    · exact wf
    · split
      · exact h
      · exact (smWf_cons ..).2 ⟨fun p hp => above p (mem_smDel hp), hv, ih wf⟩

theorem smSet_wf {β : Type} [DecidableEq β] {d : β} {l : SMap β} (h : smWf d l = true) (a : Nat) (b : β) : smWf d (smSet d l a b) = true := by
  unfold smSet
  split
  · exact smDel_wf h a
  · exact smPut_wf h a ‹_›

/-! ### One context -/

theorem mem_updAt {α : Type} {l : List α} {i : Nat} {f : α → α} {x : α} (h : x ∈ updAt l i f) : x ∈ l ∨ ∃ y ∈ l, x = f y := by
  induction l generalizing i with
  | nil => simp [updAt] at h
  | cons a r ih =>
    cases i with
    | zero =>
      obtain rfl | h := List.mem_cons.1 h
      · exact .inr ⟨a, List.mem_cons_self, rfl⟩
      · exact .inl (List.mem_cons_of_mem a h)
    | succ i =>
      obtain rfl | h := List.mem_cons.1 h
      · exact .inl List.mem_cons_self
      · obtain h | ⟨y, hy, e⟩ := ih h
        · exact .inl (List.mem_cons_of_mem a h)
        · exact .inr ⟨y, List.mem_cons_of_mem a hy, e⟩

/-- A change of the own context that keeps its tallies' form. -/
theorem updCtx_step {c : Nat} {s : State} {f : Ctx → Ctx} (h : ∀ x, smWf 0 x.tallies = true → smWf 0 (f x).tallies = true) :
    OwnStep c s (updCtx s c f) where
  system := .own
  memory := id
  contexts := updAt_length s.ctxs c f
  others d hd := by rw [ctxOf_updCtx_other s f hd.symm]
  tallies wf x hx := by
    obtain hx | ⟨y, hy, rfl⟩ := mem_updAt hx
    · exact wf x hx
    · exact h y (wf y hy)
  ret := rfl
  first := rfl

theorem updCtx_kept {c : Nat} {s : State} {f : Ctx → Ctx} (h : ∀ x, smWf 0 x.tallies = true → smWf 0 (f x).tallies = true) :
    Kept s (updCtx s c f) :=
  (updCtx_step h).kept

/-- A change of the cached ledger entries of any context. -/
theorem updCtx_ledger_step {c d : Nat} {s : State} (g : Ctx → List LedgerLine) :
    OwnStep c s (updCtx s d fun x => { x with ledger := g x }) where
  system := .own
  memory := id
  contexts := updAt_length s.ctxs d _
  others e _ := by
    by_cases same : d = e
    · subst same
      by_cases hd : d < s.ctxs.length
      · rw [ctxOf_updCtx_same s _ hd]
      · simp [ctxOf, nth, List.getElem?_eq_none (Nat.le_of_not_lt hd)]
    · rw [ctxOf_updCtx_other s _ same]
  tallies wf x hx := by
    obtain hx | ⟨y, hy, rfl⟩ := mem_updAt hx
    · exact wf x hx
    · exact wf y hy
  ret := rfl
  first := rfl

theorem setTally_step {c : Nat} {s : State} {t : Nat} {v : W32} : OwnStep c s (setTally s c t v) := updCtx_step fun _ h => smSet_wf h t v

/-! ### Memory -/

/-- A change of memory that keeps its form. -/
theorem Still.mem {s : State} {m : Memory} (h : memWf s.mem = true → memWf m = true) : Still s { s with mem := m } where
  system := .own
  memory := h
  ctxs := rfl
  ret := rfl
  first := rfl

theorem wrNum_still {s : State} {c da v n : Nat} : Still s (wrNum s c da v n) :=
  .mem (foldl_memWf (fun _ _ h => putByte_wf h _ _) _)

theorem putField_wf {tr : Nat → Nat} {m : Memory} {p : Put} (h : memWf m = true) : memWf (putField tr m p) = true :=
  foldl_memWf (fun _ _ h => putByte_wf h _ _) _ h

theorem applyPuts_still {s : State} {c : Nat} {ps : List Put} : Still s (applyPuts s c ps) :=
  .mem (foldl_memWf (fun _ _ h => putField_wf h) ps)

theorem wrPhys_still {s : State} {pa v n : Nat} : Still s (wrPhys s pa v n) := .mem fun h => memWr_wf h pa v n

theorem zeroRange_still {s : State} {lo hi : Nat} : Still s (zeroRange s lo hi) := .mem fun h => memFill_wf h lo hi _

theorem loseRange_still {s : State} {lo hi : Nat} : Still s (loseRange s lo hi) :=
  .ite (.after (.own rfl) (.mem fun h => memFill_wf h lo hi _)) (.refl s)

theorem wakeGroups_still {s : State} {ps : List (Nat × Nat)} : Still s (wakeGroups s ps) where
  system := .own
  memory := id
  ctxs := rfl
  ret := by simp [wakeGroups]
  first := rfl

/-! ### Writes that leave for the host (R29) -/

theorem postHost_still {s : State} {wr : List (Nat × Nat)} : Still s (postHost s wr) := by
  simp only [postHost]
  split
  · exact .refl s
  · exact ⟨.own, id, rfl, rfl, rfl⟩

theorem wakeStacks_still {s : State} {ps : List (Nat × Nat)} : Still s (wakeStacks s ps) := .ite (.own rfl) (.refl s)

theorem noteTraffic_still {s : State} {rd wr : List (Nat × Nat)} : Still s (noteTraffic s rd wr) := by
  have woken : Still s (postHost (wakeStacks (wakeGroups s (rd ++ wr)) (rd ++ wr)) wr) :=
    postHost_still.after (wakeStacks_still.after wakeGroups_still)
  simp only [noteTraffic]
  split
  · exact woken
  · exact .after (.own rfl) woken

/-! ### Error reporting (R515 to R517) -/

@[simp] theorem fifoPush_first (r : RasS) (e : Coal) : (fifoPush r e).first = r.first := by
  unfold fifoPush
  split <;> rfl

@[simp] theorem closeCoal_first (r : RasS) (i : Nat) : (closeCoal r i).first = r.first := by
  unfold closeCoal
  split
  · rfl
  · simp

@[simp] theorem closeAllCoal_first (k : Nat) (r : RasS) : (closeAllCoal k r).first = r.first := by
  induction k generalizing r with
  | zero => rfl
  | succ k ih =>
    unfold closeAllCoal
    split
    · rfl
    · rw [ih, closeCoal_first]

theorem rasEvent_first_length (r : RasS) (t : W64) (boot : Nat) (e : ErrEvent) : (rasEvent r t boot e).first.length = r.first.length := by
  simp [rasEvent, apply_ite RasS.first, apply_ite List.length]

/-- A change of the error path that keeps the number of its capture sets. -/
theorem Still.ras {s : State} {r : RasS} (h : r.first.length = s.ras.first.length) : Still s { s with ras := r } where
  system := .own
  memory := id
  ctxs := rfl
  ret := rfl
  first := h

theorem reportError_still {s : State} {e : ErrEvent} : Still s (reportError s e) := .ras (rasEvent_first_length ..)

theorem drawFree_still {s : State} : Still s (drawFree s).2 := .own rfl

theorem countUe_still {s : State} {pa ctx : Nat} : Still s (countUe s pa ctx) := by
  simp only [countUe]
  refine reportError_still.after (.own ?_)
  split
  · rfl
  · split <;> rfl

end Sys2Proof.Machine
end

/-! ## The basic operations: accumulators, ledger, sequencer

Each function of the model has one lemma, at the strongest of the three relations that it meets: `f_still`, `f_step` or `f_kept`. A unit's body
  has
  `body_own`,
  a
  row
  `exec_owns`
  or
  `exec_keeps`.
  The
  sections
  follow
  the
  order
  of
  the
  model.
  -/

section
namespace Sys2Proof.Machine

theorem addTally_step {s : State} {c t : Nat} {n : Nat} : OwnStep c s (addTally s c t n) := setTally_step

theorem losePieces_still {s : State} {ps : List (Nat × Nat)} : Still s (losePieces s ps) := .foldl fun _ _ => loseRange_still

theorem setShapeWord_still {s : State} {c i v : Nat} : Still s (setShapeWord s c i v) := wrNum_still

theorem loseCtx_still {s : State} {c : Nat} {ivs : List (Nat × Nat)} : Still s (loseCtx s c ivs) := losePieces_still

theorem clearBad_still {s : State} {ps : List (Nat × Nat)} : Still s (clearBad s ps) := .own rfl

theorem raiseIrq_kept {s : State} {b : Nat} : Kept s (raiseIrq s b) := .same rfl rfl rfl rfl

theorem loseRings_kept {s : State} : Kept s (loseRings s) :=
  .ite (raiseIrq_kept.after (.same (by simp) rfl rfl rfl)) (.refl s)

theorem postEntry_kept {s : State} {tag status code ctx detail result : Nat} : Kept s (postEntry s tag status code ctx detail result) := by
  have written (pa v : Nat) (wr : List (Nat × Nat)) : (wrPhys (noteTraffic s [] wr) pa v 32).mbx = s.mbx := noteTraffic_still.system.mbx
  exact .ite loseRings_kept (.after (.same (by simp only [written]) rfl rfl rfl) (wrPhys_still.kept.after noteTraffic_still.kept))

theorem postEvent_kept {s : State} {code ctx detail result : Nat} : Kept s (postEvent s code ctx detail result) := by
  have counted (u : State) : Kept u { u with mbx := { u.mbx with lost := updAt u.mbx.lost (code - 0x80) (· + 1) } } :=
    .same (by simp) rfl rfl rfl
  simp only [postEvent]
  split
  · exact .refl s
  · split
    · split
      · exact raiseIrq_kept.after postEntry_kept
      · exact (counted _).after postEntry_kept
    · exact counted s

theorem traceWrite_still {s : State} {rec : Nat} : Still s (traceWrite s rec) := .after (.own rfl) (wrPhys_still.after noteTraffic_still)

theorem tracePut_still {s : State} {rec : Nat} : Still s (tracePut s rec) := .ite traceWrite_still (.ite (.ite (.own rfl) (.own rfl)) (.refl _))

theorem traceEvent_still {s : State} {src type ctx payload : Nat} : Still s (traceEvent s src type ctx payload) := .ite tracePut_still (.refl _)

theorem traceState_still {s : State} {src ctx : Nat} : Still s (traceState s src ctx) := .ite (traceEvent_still.after drawFree_still) (.refl _)

theorem renewSump_still {s : State} {hit : Nat → Bool} : Still s (renewSump s hit) := .own rfl

theorem loseKeys_still {s : State} {ks : List Nat} : Still s (loseKeys s ks) := renewSump_still.after (.own rfl)

theorem loseSump_still {s : State} {r : SumpRegion} : Still s (loseSump s r) := loseKeys_still

theorem loseSumps_still {s : State} {rs : List SumpRegion} : Still s (loseSumps s rs) := .foldl fun _ _ => loseSump_still

theorem zeroSlots_still {s : State} {first count : Nat} : Still s (zeroSlots s first count) := renewSump_still.after (.own rfl)

theorem ledgerDrop_step {c : Nat} {s : State} {p : Nat × LedgerLine} : OwnStep c s (ledgerDrop s p) :=
  .after (updCtx_ledger_step _) (wrNum_still.step.after noteTraffic_still.step)

theorem ledgerEvict_step {c : Nat} {s : State} : OwnStep c s (ledgerEvict s) := by
  simp only [ledgerEvict]
  split
  · exact .refl _
  · split
    · exact ledgerDrop_step.after drawFree_still.step
    · exact drawFree_still.step

theorem ledgerPut_step {s : State} {c slot e : Nat} : OwnStep c s (ledgerPut s c slot e) :=
  .after (updCtx_step fun _ => id) (.ite (.refl _) ledgerEvict_step)

theorem ledgerHostWrite_kept {s : State} {da n data : Nat} : Kept s (ledgerHostWrite s da n data) where
  memory := id
  contexts := by simp [ledgerHostWrite]
  commands := id
  apertures := id
  mode := .inl rfl
  power := rfl
  firmware _ := rfl
  level := rfl
  cause := rfl
  tallies wf x hx := by
    simp only [ledgerHostWrite, List.mem_map] at hx
    obtain ⟨p, hp, rfl⟩ := hx
    exact wf p.1 (List.fst_mem_of_mem_zipIdx hp)
  lost := id
  first := rfl
  ret := rfl
  stuck := rfl

theorem ledgerWriteBack_step {s : State} {c : Nat} : OwnStep c s (ledgerWriteBack s c) :=
  .after (updCtx_step fun _ => id) (.after (.foldl fun _ _ => wrNum_still.step) noteTraffic_still.step)

theorem ledgerTouch_step {s : State} {c slot : Nat} : OwnStep c s (ledgerTouch s c slot) := by
  simp only [ledgerTouch]
  refine ledgerPut_step.after ?_
  split
  · exact wrNum_still.step.after (noteTraffic_still.step.after noteTraffic_still.step)
  · exact noteTraffic_still.step

theorem ledgerFold_step {s : State} {c : Nat} {d : Desc} {t : OutStat} : OwnStep c s (ledgerFold s c d t) := .ite ledgerPut_step (.refl _)

theorem narrowWith_step {s : State} {c : Nat} {env : RoundEnv} {d : Desc} {ext : List Nat} {f : List Nat → FVal} :
    OwnStep c s (narrowWith s c env d ext f).1 :=
  ledgerFold_step.after applyPuts_still.step

theorem narrowOut_step {s : State} {c : Nat} {d : Desc} {ext : List Nat} {f : List Nat → FVal} : OwnStep c s (narrowOut s c d ext f).1 :=
  narrowWith_step

theorem applySignal_step {s : State} {c x : Nat} : OwnStep c s (applySignal s c x) := .ite addTally_step (.refl _)

theorem applySignals_step {s : State} {c e : Nat} : OwnStep c s (applySignals s c e) := applySignal_step.after applySignal_step

theorem reject_still {s : State} {status detail : Nat} : Still s (reject s status detail).st := .refl _

theorem takeHead_step {s0 : State} {c : Nat} {q : QOp} : OwnStep c s0 (takeHead s0 c q) := .after (.own rfl) (updCtx_step fun _ => id)

theorem loseOutputs_still {s : State} {a : Access} : Still s (loseOutputs s a) := loseSumps_still.after losePieces_still

theorem race_still {s : State} {f g : Access} : Still s (race s f g) :=
  loseSumps_still.after (losePieces_still.after (.after (.ite loseOutputs_still (.refl _)) (.ite loseOutputs_still (.refl _))))

theorem settleRaces_still {s : State} {c : Nat} {f : Flight} : Still s (settleRaces s c f) := .foldl fun _ _ => race_still

theorem putFlight_step {s : State} {c : Nat} {f : Flight} : OwnStep c s (putFlight s c f) := .after (updCtx_step fun _ => id) settleRaces_still.step

/-- What a unit's body leaves alone, whoever issues the operation. -/
def OwnBody (b : Body) : Prop := ∀ u d q, OwnStep d u (b u d q).st

theorem issueWith_step {body : Body} {s : State} {c : Nat} {q : QOp} (h : OwnBody body) : OwnStep c s (issueWith body s c q) :=
  putFlight_step.after ((h _ c q).after (traceEvent_still.step.after takeHead_step))

theorem issueOp_step {s : State} {c cls inst : Nat} {aged : Bool} {kind : QOp → Bool} {body : Body} (h : OwnBody body) :
    OwnStep c s (issueOp s c cls inst aged kind body) := by
  unfold issueOp
  split
  · split
    · exact issueWith_step h
    · exact .refl s
  · exact .refl s

theorem writeRecord_still {s : State} {c : Nat} {p : Pkg} {q : QOp} {cls status : Nat} {flags : NumFlags} {detail : Nat} {tIssue : W64} :
    Still s (writeRecord s c p q cls status flags detail tIssue) :=
  .ite (.refl _) (wrNum_still.after noteTraffic_still)

theorem endPkg_kept {s : State} {c : Nat} {p : Pkg} {outcome st : Nat} : Kept s (endPkg s c p outcome st) := by
  unfold endPkg
  exact postEvent_kept.after (updCtx_kept fun _ => id)

theorem tryEndPkg_kept {s : State} {c : Nat} : Kept s (tryEndPkg s c) := by
  simp only [tryEndPkg]
  split
  · exact .refl _
  · exact .ite endPkg_kept (.refl _)

theorem haltPkg_kept {s : State} {c : Nat} {q : QOp} {status : Nat} : Kept s (haltPkg s c q status) :=
  .after (.ite postEvent_kept (.refl _)) (traceState_still.kept.after (updCtx_kept fun _ => id))

theorem pkgAbort_kept {s : State} {c : Nat} {all : Bool} : Kept s (pkgAbort s c all) := by
  simp only [pkgAbort]
  split
  · exact .refl _
  · exact tryEndPkg_kept.after (.after (updCtx_kept fun _ => id) (.foldl fun _ _ => writeRecord_still.kept))

theorem completeOp_kept {s : State} {c : Nat} {f : Flight} {afterSignal : State → State} (h : ∀ u, Kept u (afterSignal u)) :
    Kept s (completeOp s c f afterSignal) := by
  simp only [completeOp]
  split
  · exact updCtx_kept fun _ => id
  · refine .after (.ite pkgAbort_kept tryEndPkg_kept) (.after (.ite haltPkg_kept (.refl _)) (.after (.ite postEvent_kept (.refl _)) ?_))
    refine traceEvent_still.kept.after (.after (updCtx_kept fun _ => id) (.after (.ite writeRecord_still.kept (.refl _)) ?_))
    exact .ite ((h _).after applySignals_step.kept) (.refl s)

theorem noteFetch_still {s : State} {c e : Nat} : Still s (noteFetch s c e) := by
  simp only [noteFetch]
  split
  · exact .refl _
  · exact noteTraffic_still

theorem advanceDispatch_step {s : State} {c e : Nat} : OwnStep c s (advanceDispatch s c e) := .after (updCtx_step fun _ => id) noteFetch_still.step

theorem endAtOnce_step {s : State} {c : Nat} {q : QOp} {cls status detail : Nat} : OwnStep c s (endAtOnce s c q cls status detail) :=
  updCtx_step fun _ => id

theorem rejectEnv_step {s : State} {c e status detail : Nat} : OwnStep c s (rejectEnv s c e status detail) :=
  endAtOnce_step.after advanceDispatch_step

theorem pkgSkip_kept {s : State} {c : Nat} {afterSignal : State → State} (h : ∀ u, Kept u (afterSignal u)) : Kept s (pkgSkip s c afterSignal) :=
  tryEndPkg_kept.after (.after (updCtx_kept fun _ => id) (.foldl fun _ _ => (h _).after applySignals_step.kept))

theorem noteRefetch_still {s : State} {c : Nat} {p : Pkg} {fs : List FailedOp} : Still s (noteRefetch s c p fs) := noteTraffic_still

theorem retryEnd_step {s : State} {c : Nat} {p : Pkg} {f : FailedOp} : OwnStep c s (retryEnd s c p f) := by
  simp only [retryEnd]
  split
  · exact .refl _
  · exact endAtOnce_step.after (.ite countUe_still.step (.refl _))

theorem pkgRetry_step {s : State} {c : Nat} : OwnStep c s (pkgRetry s c) := by
  simp only [pkgRetry]
  split
  · exact updCtx_step fun _ => id
  · split
    · exact .after (updCtx_step fun _ => id)
        (.after (.foldl fun _ _ => retryEnd_step) (.after (updCtx_step fun _ => id) (noteRefetch_still.step.after (updCtx_step fun _ => id))))
    · exact .after (.foldl fun _ _ => retryEnd_step) (.after (updCtx_step fun _ => id) (noteRefetch_still.step.after (updCtx_step fun _ => id)))

end Sys2Proof.Machine
end

/-! ## Plans, the Dressing, the Crusher -/

section
namespace Sys2Proof.Machine

theorem scrambleOverlap_still {s : State} {c : Nat} {p : Plan} : Still s (scrambleOverlap s c p) := losePieces_still

theorem touchAll_step {s : State} {c : Nat} {recs : List Rec} : OwnStep c s (touchAll s c recs) := .foldl fun _ _ => .ite ledgerTouch_step (.refl _)

theorem memFault_still {s : State} {c : Nat} {line : Nat} {outs rp wp : List (Nat × Nat)} : Still s (memFault s c line outs rp wp).st :=
  countUe_still.after (losePieces_still.after noteTraffic_still)

theorem runAfter_step {s : State} {c : Nat} {p : Plan} {reads writes : List (Nat × Nat)} {eff : State → Result}
    (h : ∀ u, OwnStep c u (eff u).st) : OwnStep c s (runAfter s c p reads writes eff).st := by
  simp only [runAfter]
  split
  · exact memFault_still.step
  · split
    · exact memFault_still.step
    · exact scrambleOverlap_still.step.after (noteTraffic_still.step.after (clearBad_still.step.after ((h _).after touchAll_step)))

theorem runPlan_step {s : State} {c : Nat} {p : Plan} {reads writes : List (Nat × Nat)} {eff : State → Result}
    (h : ∀ u, OwnStep c u (eff u).st) : OwnStep c s (runPlan s c p reads writes eff).st := by
  unfold runPlan
  split
  · exact .refl s
  · exact runAfter_step h

theorem runRecs_step {s : State} {c : Nat} {p : Plan} {eff : State → Result} (h : ∀ u, OwnStep c u (eff u).st) :
    OwnStep c s (runRecs s c p eff).st :=
  runPlan_step h

theorem emitOuts_step {s : State} {c : Nat} {fl : NumFlags} {outs : List OutVal} : OwnStep c s (emitOuts s c fl outs).st := by
  simp only [emitOuts]
  refine OwnStep.foldl_fst (a := (s, fl)) fun _ _ => ?_
  exact narrowOut_step

theorem drBody_own {mk : State → Nat → Nat → Plan} {eff : State → Nat → Nat → Result} (h : ∀ u c e, OwnStep c u (eff u c e).st) :
    OwnBody (drBody mk eff) :=
  fun _ c q => runRecs_step fun u => h u c q.env

theorem dressOp_step {c face : Nat} {aged : Bool} {opcode : Nat} {body : Body} {s : State} (h : OwnBody body) :
    OwnStep c s (dressOp c face aged opcode body s) :=
  issueOp_step h

theorem ewEff_step {s : State} {c e : Nat} : OwnStep c s (ewEff s c e).st := emitOuts_step

theorem bodyEw_own : OwnBody bodyEw := drBody_own fun _ _ _ => ewEff_step

theorem execEw_owns {c : Fin 8} {face : Fin 4} {aged : Bool} {s : State} : Owns c s (execEw c face aged s) := .next (dressOp_step bodyEw_own)

theorem actEff_step {s : State} {c e : Nat} : OwnStep c s (actEff s c e).st := emitOuts_step

theorem bodyAct_own : OwnBody bodyAct := drBody_own fun _ _ _ => actEff_step

theorem execAct_owns {c : Fin 8} {face : Fin 4} {aged : Bool} {s : State} : Owns c s (execAct c face aged s) := .next (dressOp_step bodyAct_own)

theorem actBwdEff_step {s : State} {c e : Nat} : OwnStep c s (actBwdEff s c e).st := emitOuts_step

theorem bodyActBwd_own : OwnBody bodyActBwd := drBody_own fun _ _ _ => actBwdEff_step

theorem execActBwd_owns {c : Fin 8} {face : Fin 4} {aged : Bool} {s : State} : Owns c s (execActBwd c face aged s) :=
  .next (dressOp_step bodyActBwd_own)

theorem normEff_step {s : State} {c e : Nat} : OwnStep c s (normEff s c e).st := emitOuts_step

theorem bodyNorm_own : OwnBody bodyNorm := drBody_own fun _ _ _ => normEff_step

theorem execNorm_owns {c : Fin 8} {face : Fin 4} {aged : Bool} {s : State} : Owns c s (execNorm c face aged s) := .next (dressOp_step bodyNorm_own)

theorem normBwdEff_step {s : State} {c e : Nat} : OwnStep c s (normBwdEff s c e).st := emitOuts_step

theorem bodyNormBwd_own : OwnBody bodyNormBwd := drBody_own fun _ _ _ => normBwdEff_step

theorem execNormBwd_owns {c : Fin 8} {face : Fin 4} {aged : Bool} {s : State} : Owns c s (execNormBwd c face aged s) :=
  .next (dressOp_step bodyNormBwd_own)

theorem smxEff_step {s : State} {c e : Nat} : OwnStep c s (smxEff s c e).st := by
  simp only [smxEff]
  split
  · exact narrowOut_step.after emitOuts_step
  · exact emitOuts_step

theorem bodySmx_own : OwnBody bodySmx := drBody_own fun _ _ _ => smxEff_step

theorem execSmx_owns {c : Fin 8} {face : Fin 4} {aged : Bool} {s : State} : Owns c s (execSmx c face aged s) := .next (dressOp_step bodySmx_own)

theorem smxBwdEff_step {s : State} {c e : Nat} : OwnStep c s (smxBwdEff s c e).st := emitOuts_step

theorem bodySmxBwd_own : OwnBody bodySmxBwd := drBody_own fun _ _ _ => smxBwdEff_step

theorem execSmxBwd_owns {c : Fin 8} {face : Fin 4} {aged : Bool} {s : State} : Owns c s (execSmxBwd c face aged s) :=
  .next (dressOp_step bodySmxBwd_own)

theorem smxMergeEff_step {s : State} {c e : Nat} : OwnStep c s (smxMergeEff s c e).st := emitOuts_step

theorem bodySmxMerge_own : OwnBody bodySmxMerge := drBody_own fun _ _ _ => smxMergeEff_step

theorem execSmxMerge_owns {c : Fin 8} {face : Fin 4} {aged : Bool} {s : State} : Owns c s (execSmxMerge c face aged s) :=
  .next (dressOp_step bodySmxMerge_own)

theorem redEff_step {s : State} {c e : Nat} : OwnStep c s (redEff s c e).st := emitOuts_step

theorem bodyRed_own : OwnBody bodyRed := drBody_own fun _ _ _ => redEff_step

theorem execRed_owns {c : Fin 8} {face : Fin 4} {aged : Bool} {s : State} : Owns c s (execRed c face aged s) := .next (dressOp_step bodyRed_own)

theorem cvtEff_step {s : State} {c e : Nat} : OwnStep c s (cvtEff s c e).st := emitOuts_step

theorem bodyCvt_own : OwnBody bodyCvt := drBody_own fun _ _ _ => cvtEff_step

theorem execCvt_owns {c : Fin 8} {face : Fin 4} {aged : Bool} {s : State} : Owns c s (execCvt c face aged s) := .next (dressOp_step bodyCvt_own)

theorem split3Eff_step {s : State} {c e : Nat} : OwnStep c s (split3Eff s c e).st := emitOuts_step

theorem bodySplit3_own : OwnBody bodySplit3 := drBody_own fun _ _ _ => split3Eff_step

theorem execSplit3_owns {c : Fin 8} {face : Fin 4} {aged : Bool} {s : State} : Owns c s (execSplit3 c face aged s) :=
  .next (dressOp_step bodySplit3_own)

theorem esAccumulate_step {s : State} {c : Nat} {acc : Desc} {gext : List Nat} {set : Bool} {g : List Nat → FVal} :
    OwnStep c s (esAccumulate s c acc gext set g).1 :=
  ledgerFold_step.after applyPuts_still.step

theorem esAccEff_step {s : State} {c e : Nat} : OwnStep c s (esAccEff s c e).st := esAccumulate_step

theorem bodyEsAcc_own : OwnBody bodyEsAcc := drBody_own fun _ _ _ => esAccEff_step

theorem execEsAcc_owns {c : Fin 8} {face : Fin 4} {aged : Bool} {s : State} : Owns c s (execEsAcc c face aged s) := .next (dressOp_step bodyEsAcc_own)

theorem esFinalEff_step {s : State} {c e : Nat} : OwnStep c s (esFinalEff s c e).st := emitOuts_step

theorem bodyEsFinal_own : OwnBody bodyEsFinal := drBody_own fun _ _ _ => esFinalEff_step

theorem execEsFinal_owns {c : Fin 8} {face : Fin 4} {aged : Bool} {s : State} : Owns c s (execEsFinal c face aged s) :=
  .next (dressOp_step bodyEsFinal_own)

@[simp] theorem idxStatus_st (bad : Option Nat) (r : Result) : (idxStatus bad r).st = r.st := by
  unfold idxStatus
  split <;> rfl

theorem gatherEff_still {s : State} {c e : Nat} : Still s (gatherEff s c e).st := by
  rw [gatherEff, idxStatus_st]
  exact applyPuts_still

theorem bodyGather_own : OwnBody bodyGather := drBody_own fun _ _ _ => gatherEff_still.step

theorem execGather_owns {c : Fin 8} {face : Fin 4} {aged : Bool} {s : State} : Owns c s (execGather c face aged s) :=
  .next (dressOp_step bodyGather_own)

theorem scatterEff_still {s : State} {c e : Nat} : Still s (scatterEff s c e).st := by
  rw [scatterEff, idxStatus_st]
  exact applyPuts_still

theorem scatterBody_own {mk : State → Nat → Nat → Plan} {reads : Bool} {eff : State → Nat → Nat → Result}
    (h : ∀ u c e, OwnStep c u (eff u c e).st) : OwnBody (scatterBody mk reads eff) :=
  fun _ c q => runPlan_step fun u => h u c q.env

theorem bodyScatter_own : OwnBody bodyScatter := scatterBody_own fun _ _ _ => scatterEff_still.step

theorem execScatter_owns {c : Fin 8} {face : Fin 4} {aged : Bool} {s : State} : Owns c s (execScatter c face aged s) :=
  .next (dressOp_step bodyScatter_own)

theorem scatterAddEff_step {s : State} {c e : Nat} : OwnStep c s (scatterAddEff s c e).st := by
  simp only [scatterAddEff]
  split
  · rw [idxStatus_st]
    exact ledgerFold_step.after applyPuts_still.step
  · rw [idxStatus_st]
    exact ledgerFold_step.after applyPuts_still.step

theorem bodyScatterAdd_own : OwnBody bodyScatterAdd := scatterBody_own fun _ _ _ => scatterAddEff_step

theorem execScatterAdd_owns {c : Fin 8} {face : Fin 4} {aged : Bool} {s : State} : Owns c s (execScatterAdd c face aged s) :=
  .next (dressOp_step bodyScatterAdd_own)

theorem adamwEff_step {s : State} {c e : Nat} : OwnStep c s (adamwEff s c e).st := emitOuts_step

theorem bodyAdamw_own : OwnBody bodyAdamw := drBody_own fun _ _ _ => adamwEff_step

theorem execAdamw_owns {c : Fin 8} {face : Fin 4} {aged : Bool} {s : State} : Owns c s (execAdamw c face aged s) := .next (dressOp_step bodyAdamw_own)

theorem cruAdd_still {s : State} {face k n : Nat} : Still s (cruAdd s face k n) := .ite (.own rfl) (.refl _)

theorem execCruPerfClear_keeps {freeze : Bool} {s : State} : Keeps s (execCruPerfClear freeze s) :=
  .ite (.next (.same rfl rfl rfl rfl)) (.next (.refl _))

theorem packOut_step {s : State} {c : Nat} {face : FaceOf} {d : Desc} {ext : List Nat} {f : List Nat → FVal} :
    OwnStep c s (packOut s c face d ext f).1 :=
  .after (.foldl fun _ _ => cruAdd_still.step.after cruAdd_still.step) (ledgerFold_step.after applyPuts_still.step)

theorem countExpand_still {s : State} {face : FaceOf} {d : Desc} {ext : List Nat} : Still s (countExpand s face d ext) :=
  .foldl fun _ _ => cruAdd_still

theorem expandOut_step {s : State} {c : Nat} {face : FaceOf} {src dst : Desc} {ext : List Nat} : OwnStep c s (expandOut s c face src dst ext).1 :=
  countExpand_still.step.after narrowOut_step

theorem cgqEff_step {s : State} {c face e : Nat} : OwnStep c s (cgqEff s c face e).st := by
  simp only [cgqEff]
  split
  · exact narrowOut_step.after packOut_step
  · simp only
    exact packOut_step

theorem bodyCgq_own : OwnBody bodyCgq := fun _ _ _ => runRecs_step fun _ => cgqEff_step

theorem execCgq_owns {c : Fin 8} {face : Fin 4} {aged : Bool} {s : State} : Owns c s (execCgq c face aged s) := .next (issueOp_step bodyCgq_own)

theorem cgdqEff_step {s : State} {c face e : Nat} : OwnStep c s (cgdqEff s c face e).st := by
  simp only [cgdqEff]
  split
  · exact narrowOut_step.after countExpand_still.step
  · exact narrowOut_step.after countExpand_still.step
  · exact esAccumulate_step.after countExpand_still.step

theorem bodyCgdq_own : OwnBody bodyCgdq := fun _ _ _ => runRecs_step fun _ => cgdqEff_step

theorem execCgdq_owns {c : Fin 8} {face : Fin 4} {aged : Bool} {s : State} : Owns c s (execCgdq c face aged s) := .next (issueOp_step bodyCgdq_own)

theorem cprobeEff_step {s : State} {c face e : Nat} : OwnStep c s (cprobeEff s c face e).st :=
  narrowOut_step.after (cruAdd_still.step.after (cruAdd_still.step.after cruAdd_still.step))

theorem bodyCprobe_own : OwnBody bodyCprobe := fun _ _ _ => runRecs_step fun _ => cprobeEff_step

theorem execCprobe_owns {c : Fin 8} {face : Fin 4} {aged : Bool} {s : State} : Owns c s (execCprobe c face aged s) :=
  .next (issueOp_step bodyCprobe_own)

end Sys2Proof.Machine
end

/-! ## The Quarry and its Drain -/

section
namespace Sys2Proof.Machine

theorem zeroK_still {s : State} {a : MatArgs} : Still s (zeroK s a) := .ite (.refl _) (renewSump_still.after (.own rfl))

theorem streamed_still {s : State} {a : MatArgs} {lat : Lattice} {aVal : Nat → Nat → FVal} : Still s (streamed s a lat aVal) := .own rfl

theorem enterArray_still {s : State} {c : Nat} : Still s (enterArray s c) := .own rfl

theorem countKeep_still {s : State} {flag kept : Bool} : Still s (countKeep s flag kept) := .ite (.refl _) (.ite (.own rfl) (.own rfl))

theorem matrixRun_still {s : State} {a : MatArgs} : Still s (matrixRun s a).st := by
  have renewed (u : State) (m : SMap AccBits) (hit : Nat → Bool) :
      Still u (if a.accumulate then { u with sump := m } else renewSump { u with sump := m } hit) :=
    .ite (.own rfl) (renewSump_still.after (.own rfl))
  simp only [matrixRun]
  split
  · exact renewed ..
  · exact streamed_still.after (renewed ..)

theorem matrixStep_still {s : State} {a : MatArgs} : Still s (matrixStep s a).1.st := by
  simp only [matrixStep]
  split
  · exact loseSump_still.after matrixRun_still
  · exact matrixRun_still

theorem qmmEffect_still {s : State} {c : Nat} {q : QOp} : Still s (qmmEffect s c q).st := by
  simp only [qmmEffect]
  split
  · exact zeroK_still.after (.ite (.refl s) enterArray_still)
  · refine matrixStep_still.after ?_
    split
    · exact .refl s
    · exact countKeep_still.after enterArray_still

theorem bodyQmm_own : OwnBody bodyQmm := by
  intro s c q
  simp only [bodyQmm]
  split
  · exact .refl s
  · simp only
    exact runAfter_step fun _ => qmmEffect_still.step

theorem execQmm_owns {c : Fin 8} {aged : Bool} {s : State} : Owns c s (execQmm c aged s) := .next (issueOp_step bodyQmm_own)

theorem batchStep_still {c : Nat} {acc : BatchAcc} {x : BatchEntry × MatArgs} : Still acc.st (batchStep c acc x).st := by
  simp only [batchStep]
  split
  · exact .refl _
  · split
    · exact zeroK_still.after enterArray_still
    · exact matrixStep_still.after (countKeep_still.after enterArray_still)

theorem batchSteps_still {c : Nat} {l : List (BatchEntry × MatArgs)} {acc : BatchAcc} : Still acc.st (l.foldl (batchStep c) acc).st := by
  induction l generalizing acc with
  | nil => exact .refl _
  | cons x r ih => exact ih.after batchStep_still

theorem batchEffect_still {s : State} {c : Nat} {q : QOp} : Still s (batchEffect s c q).st := by
  simp only [batchEffect]
  exact batchSteps_still (acc := ⟨s, {}, false, {}, false⟩)

theorem bodyQmmBatch_own : OwnBody bodyQmmBatch := fun _ _ _ => runPlan_step fun _ => batchEffect_still.step

theorem execQmmBatch_owns {c : Fin 8} {aged : Bool} {s : State} : Owns c s (execQmmBatch c aged s) := .next (issueOp_step bodyQmmBatch_own)

theorem countDrain_still {s : State} {d : Desc} {rows : Nat} : Still s (countDrain s d rows) := .ite (.refl _) (.own rfl)

theorem drainEffect_step {s : State} {c : Nat} {q : QOp} : OwnStep c s (drainEffect s c q).st := by
  simp only [drainEffect]
  split
  · exact loseSump_still.step.after loseCtx_still.step
  · exact countDrain_still.step.after narrowWith_step

theorem bodyQdrain_own : OwnBody bodyQdrain := fun _ _ _ => runRecs_step fun _ => drainEffect_step

theorem execQdrain_owns {c : Fin 8} {aged : Bool} {s : State} : Owns c s (execQdrain c aged s) := .next (issueOp_step bodyQdrain_own)

theorem fillEffect_still {s : State} {c : Nat} {q : QOp} : Still s (fillEffect s c q).st := renewSump_still.after (countDrain_still.after (.own rfl))

theorem bodyQfill_own : OwnBody bodyQfill := fun _ _ _ => runRecs_step fun _ => fillEffect_still.step

theorem execQfill_owns {c : Fin 8} {aged : Bool} {s : State} : Owns c s (execQfill c aged s) := .next (issueOp_step bodyQfill_own)

theorem bodyQzero_own : OwnBody bodyQzero := fun _ _ _ => runRecs_step fun _ => zeroSlots_still.step

theorem execQzero_owns {c : Fin 8} {aged : Bool} {s : State} : Owns c s (execQzero c aged s) := .next (issueOp_step bodyQzero_own)

end Sys2Proof.Machine
end

/-! ## The Hauler -/

section
namespace Sys2Proof.Machine

theorem wrBytes_still {s : State} {c da : Nat} {bs : List Nat} : Still s (wrBytes s c da bs) := applyPuts_still

theorem encodeTensor_still {s : State} {c : Nat} {face : Nat → Nat} {f : Fmt} {base : Nat} {bs : List Nat} :
    Still s (encodeTensor s c face f base bs).1 := by
  simp only [encodeTensor]
  refine Still.foldl_fst (a := (s, 0)) fun a g => ?_
  have written (da : Nat) (l : List Nat) : Still a.1 (cruAdd (wrBytes a.1 c da l) (face g.2) cruSegs 1) := cruAdd_still.after wrBytes_still
  split
  · exact cruAdd_still.after (written ..)
  · split
    · exact cruAdd_still.after (written ..)
    · exact written ..

theorem unlosslessOut_still {s : State} {c : Nat} {face : Nat → Nat} {base : Nat} {d : Desc} {ext : List Nat} {out : List (Nat × Nat)} :
    Still s (unlosslessOut s c face base d ext out).st := by
  unfold unlosslessOut
  split
  · exact cruAdd_still.after loseCtx_still
  · exact applyPuts_still

theorem copyEff_step {s : State} {c die e : Nat} {ext : List Nat} : OwnStep c s (copyEff s c die e ext).st := by
  simp only [copyEff]
  split
  · split
    · exact loseKeys_still.step.after loseCtx_still.step
    · exact applyPuts_still.step
  · split
    · simp only
      exact expandOut_step
    · simp only
      exact packOut_step
    · exact unlosslessOut_still.step
    · exact encodeTensor_still.step
    · exact applyPuts_still.step
    · exact applyPuts_still.step

theorem copyBegin_step {s : State} {c die e : Nat} {ext : List Nat} : OwnStep c s (copyBegin s c die e ext).st := runAfter_step fun _ => copyEff_step

theorem setBegin_step {s : State} {c e : Nat} {ext : List Nat} : OwnStep c s (setBegin s c e ext).st := by
  unfold setBegin
  exact runAfter_step fun _ => applyPuts_still.step

theorem haulOrHold_step {s : State} {c : Nat} {q : QOp} {ext : List Nat} {acc : Access} {begin_ : State → List Nat → Result}
    (h : ∀ u x, OwnStep c u (begin_ u x).st) : OwnStep c s (haulOrHold s c q ext acc begin_).st := by
  simp only [haulOrHold]
  split
  · exact .refl s
  · exact h s ext

theorem bodyHcopy_own : OwnBody bodyHcopy := by
  intro s c q
  simp only [bodyHcopy]
  split
  · exact reject_still.step
  · exact haulOrHold_step fun _ _ => copyBegin_step

theorem execHcopy_owns {c : Fin 8} {die : Fin 6} {engine : Fin 8} {aged : Bool} {s : State} : Owns c s (execHcopy c die engine aged s) :=
  .next (issueOp_step bodyHcopy_own)

theorem bodyHset_own : OwnBody bodyHset := by
  intro s c q
  simp only [bodyHset]
  split
  · exact reject_still.step
  · exact haulOrHold_step fun _ _ => setBegin_step

theorem execHset_owns {c : Fin 8} {die : Fin 6} {engine : Fin 8} {aged : Bool} {s : State} : Owns c s (execHset c die engine aged s) :=
  .next (issueOp_step bodyHset_own)

theorem beginHeld_step {s : State} {c : Nat} {f : Flight} : OwnStep c s (beginHeld s c f) := by
  unfold beginHeld
  refine .after (updCtx_step fun _ => id) (.after (.ite loseOutputs_still.step (.refl _)) ?_)
  split
  · exact copyBegin_step
  · exact setBegin_step

end Sys2Proof.Machine
end

/-! ## Power levels -/

section
namespace Sys2Proof.Machine

theorem levelChange_kept {before : State} {cause : Nat} {s : State} : Kept s (levelChange before cause s) := by
  simp only [levelChange]
  split
  · exact .refl s
  · exact postEvent_kept.after (traceState_still.kept.after (.same rfl rfl rfl rfl))

theorem updPwr_kept {s : State} {f : PwrS → PwrS} : Kept s (updPwr s f) := .same rfl rfl rfl rfl

theorem driveAlert_kept {s : State} : Kept s (driveAlert s) := .ite updPwr_kept (.refl _)

theorem updMbx_kept {s : State} {f : MbxS → MbxS}
    (h : ((f s.mbx).taken.length, (f s.mbx).lost.length, (f s.mbx).fwState) = (s.mbx.taken.length, s.mbx.lost.length, s.mbx.fwState)) :
    Kept s (updMbx s f) :=
  .same h rfl rfl rfl

theorem irqUpdate_kept {s : State} : Kept s (irqUpdate s) := .ite (updMbx_kept rfl) (.ite (updMbx_kept rfl) (.refl _))

theorem fwStateChg_kept {s : State} : Kept s (fwStateChg s) := raiseIrq_kept

/-- Out of reset, FW_STATE may change. -/
theorem setFwState_kept {s : State} {v : Nat} (up : s.mode ≠ .offOrReset) : Kept s (setFwState s v) := by
  have set : Kept s (updMbx s fun m => { m with fwState := v }) :=
    ⟨id, rfl, id, id, .inl rfl, rfl, fun off => absurd off up, rfl, rfl, id, id, rfl, rfl, rfl⟩
  exact .ite (.refl s) (fwStateChg_kept.after set)

theorem updLabel_kept {s : State} {f : LabelS → LabelS} : Kept s (updLabel s f) := .same rfl rfl rfl rfl

theorem requestLabel_kept {s : State} : Kept s (requestLabel s) := by
  unfold requestLabel
  exact .after updLabel_kept (updMbx_kept (by simp))

theorem withHealth_kept {before s : State} : Kept s (withHealth before s) := .ite (.refl _) requestLabel_kept

/-- The mode changes from outside reset and relay-only. -/
theorem setMode_kept {s u : State} {m : Mode} {cause : Nat} (h : Kept s u) (up : s.mode ≠ .offOrReset ∧ s.mode ≠ .relayOnly)
    (hm : m ≠ .offOrReset) : Kept s (setMode u m cause) :=
  .ite h (withHealth_kept.after (postEvent_kept.after (fwStateChg_kept.after (h.mode_to up hm))))

theorem fwWrite_still {s : State} {ctx a v n : Nat} : Still s (fwWrite s ctx a v n) :=
  .after (.ite wrPhys_still wrNum_still) (noteTraffic_still.after clearBad_still)

theorem fwLose_still {s : State} {ctx a n : Nat} : Still s (fwLose s ctx a n) := .ite loseRange_still loseCtx_still

theorem cmdFail_still {s : State} {status detail : Nat} : Still s (cmdFail s status detail).st := .refl _

theorem cmdTry_kept_of_passed {s : State} {checks : List (Option (Nat × Nat))} {work : State → CmdOut} (h : Kept s (work s).st) :
    Kept s (cmdTry s checks work).st := by
  unfold cmdTry
  split
  · exact .refl s
  · exact h

theorem cmdTry_kept {s : State} {checks : List (Option (Nat × Nat))} {work : State → CmdOut} (h : ∀ u, Kept u (work u).st) :
    Kept s (cmdTry s checks work).st :=
  cmdTry_kept_of_passed (h s)

theorem dstWrite_still {s : State} {ctx a v n result : Nat} : Still s (dstWrite s ctx a v n result).st := by
  simp only [dstWrite]
  split
  · exact fwLose_still.after countUe_still
  · exact fwWrite_still

theorem updCmd_kept {s : State} {i : Nat} {f : Cmd → Cmd} : Kept s (updCmd s i f) := updMbx_kept (by simp)

theorem noteCmd_kept {s : State} {raw : Nat} {r : CmdOut} (h : Kept s r.st) : Kept s (noteCmd s raw r).st := by
  unfold noteCmd
  split
  · exact noteTraffic_still.kept.after h
  · exact h

theorem cmdRecord_kept {s : State} {i : Nat} {r : CmdOut} (h : Kept s r.st) : Kept s (cmdRecord i r) := updCmd_kept.after h

/-- A command keeps what its work keeps, where its own checks passed. -/
theorem runCmd_kept_of_checked {s : State} {i op : Nat} {kind : Nat → Bool} {work : State → Nat → CmdOut}
    (h : ∀ u raw, Still s u → cmdOp raw = op → s.mbx.fwState = 2 → cmdChecks u raw = none → Kept u (work u raw).st) :
    Kept s (runCmd s i op kind work) := by
  unfold runCmd
  split
  · exact .refl s
  · rename_i t taken
    split
    · rename_i turn
      simp only [Bool.and_eq_true, decide_eq_true_eq] at turn
      obtain ⟨⟨isOp, -⟩, begins⟩ := turn
      have runs : s.mbx.fwState = 2 := by
        simp only [cmdMayBegin, taken, Bool.and_eq_true, decide_eq_true_eq] at begins
        exact begins.1.2
      have traced : Still s (traceState s 40 (cmdCtx t.raw)) := traceState_still
      refine cmdRecord_kept (.after ?_ traced.kept)
      split
      · exact .refl _
      · rename_i checked
        exact noteCmd_kept (h _ _ traced isOp runs checked)
    · exact .refl s

theorem runCmd_kept {s : State} {i op : Nat} {kind : Nat → Bool} {work : State → Nat → CmdOut} (h : ∀ u raw, Kept u (work u raw).st) :
    Kept s (runCmd s i op kind work) :=
  runCmd_kept_of_checked fun u raw _ _ _ _ => h u raw

theorem takeCmds_kept {k : Nat} {s : State} : Kept s (takeCmds k s) := by
  induction k generalizing s with
  | zero => exact .refl s
  | succ k ih =>
    simp only [takeCmds]
    split
    · rename_i room
      split
      · exact loseRings_kept
      · refine ih.after (.after (.mailbox ?_ id rfl) (noteTraffic_still (rd := [(s.mbx.sqBase + 64 * s.mbx.sqHead, 64)]) (wr := [])).kept)
        simp only [Bool.and_eq_true, decide_eq_true_eq, outstanding] at room
        obtain ⟨⟨-, few⟩, -⟩ := room
        rw [noteTraffic_still.system.mbx]
        simp only [List.length_append, List.length_singleton]
        exact fun _ => of_decide_eq_true few
    · exact .refl s

theorem pumpSq_kept {s : State} : Kept s (pumpSq s) := takeCmds_kept

theorem actOnEnable_kept {s : State} : Kept s (actOnEnable s) :=
  .ite (.refl _) (.ite (pumpSq_kept.after (.after (.foldl fun _ _ => postEvent_kept) (updMbx_kept rfl))) (raiseIrq_kept.after (updMbx_kept rfl)))

theorem foremanServes_kept {s : State} : Kept s (foremanServes s) := pumpSq_kept.after actOnEnable_kept

theorem execSqDoorbell_keeps {value : BitVec 64} {s : State} : Keeps s (execSqDoorbell value s) :=
  .ite (.next (.refl _)) (.ite (.next raiseIrq_kept) (.next (pumpSq_kept.after (updMbx_kept rfl))))

theorem execCqDoorbell_keeps {value : BitVec 64} {s : State} : Keeps s (execCqDoorbell value s) :=
  .ite (.next (.refl _)) (.ite (.next raiseIrq_kept) (.next (pumpSq_kept.after (updMbx_kept rfl))))

theorem clearRingLost_kept {s : State} {v : Nat} : Kept s (clearRingLost s v) := .ite (updMbx_kept rfl) (.refl _)

theorem execRingEnable_keeps {value : BitVec 64} {s : State} : Keeps s (execRingEnable value s) :=
  .ite (.next (.refl _)) (.ite (.next clearRingLost_kept) (.next (actOnEnable_kept.after (.after (updMbx_kept rfl) clearRingLost_kept))))

theorem execRingDisable_keeps {value : BitVec 64} {s : State} : Keeps s (execRingDisable value s) := by
  simp only [execRingDisable]
  split
  · exact .next (.refl s)
  · split
    · exact .next ((updMbx_kept (by simp)).after clearRingLost_kept)
    · exact .next ((updMbx_kept rfl).after clearRingLost_kept)

theorem execMbxIrqClear_keeps {value : BitVec 64} {s : State} : Keeps s (execMbxIrqClear value s) :=
  .ite (.next (.refl _)) (.next (irqUpdate_kept.after (updMbx_kept rfl)))

theorem execEventsLost_keeps {s : State} : Keeps s (execEventsLost s) := by
  have zeroed (u : State) : Kept u (updMbx u fun m => { m with lost := List.replicate 12 0 }) := .mailbox id (fun _ => rfl) rfl
  simp only [execEventsLost]
  split
  · split
    · exact .next (raiseIrq_kept.after ((zeroed _).after postEntry_kept))
    · exact .next postEntry_kept
  · exact .next (.refl s)

theorem postCompletion_kept {s : State} {i : Nat} {t : Cmd} {r : Nat × Nat × Nat} : Kept s (postCompletion s i t r) := by
  have gone (u : State) : Kept u (updMbx u fun m => { m with taken := m.taken.eraseIdx i }) :=
    .mailbox (fun few => (List.length_eraseIdx_le ..).trans few) id rfl
  simp only [postCompletion]
  split
  · exact gone s
  · exact .after (.ite raiseIrq_kept (.refl _)) ((gone _).after postEntry_kept)

end Sys2Proof.Machine
end

/-! ## The mailbox and the link -/

section
namespace Sys2Proof.Machine

theorem updFab_still {s : State} {f : FabS → FabS} : Still s (updFab s f) := .own rfl

theorem fabCount_still {s : State} {i n : Nat} : Still s (fabCount s i n) := updFab_still

theorem logErr_still {s : State} {cls sev src ctx key : Nat} : Still s (logErr s cls sev src ctx key) := reportError_still.after (.own rfl)

theorem updPort_still {s : State} {p : Nat} {f : Port → Port} : Still s (updPort s p f) := updFab_still

theorem updTun_still {s : State} {t : Nat} {f : Tunnel → Tunnel} : Still s (updTun s t f) := updFab_still

theorem pushRx_still {s : State} {src vc : Nat} {k : Pkt} : Still s (pushRx s src vc k) := updFab_still

theorem placePkt_still {s t : State} {own : Bool} {from_ : Nat} {k : Pkt} (h : placePkt s own from_ k = some t) : Still s t := by
  unfold placePkt at h
  split at h
  · cases h
    exact pushRx_still
  · split at h
    · cases h
      exact updPort_still
    · simp only at h
      split at h
      · cases h
        exact updTun_still
      · cases h
    · cases h

theorem countDrop_still {s : State} {k : Pkt} : Still s (countDrop s k) := logErr_still.after fabCount_still

theorem sendQuiet_still {s : State} {own : Bool} {from_ : Nat} {k : Pkt} : Still s (sendQuiet s own from_ k) := by
  unfold sendQuiet
  cases placed : placePkt s own from_ k with
  | none => exact countDrop_still
  | some t => exact placePkt_still placed

theorem pumpTunnel_still {n : Nat} {s : State} {t : Nat} : Still s (pumpTunnel n s t) := by
  induction n generalizing s with
  | zero => exact .refl s
  | succ n ih =>
    simp only [pumpTunnel]
    split
    · exact .refl s
    · split
      · exact ih.after (.after (.ite sendQuiet_still (.refl _)) (fabCount_still.after updTun_still))
      · exact .refl s

theorem pumpTun_still {s : State} {t : Nat} : Still s (pumpTun s t) := pumpTunnel_still

theorem pumpTuns_still {s : State} : Still s (pumpTuns s) := .foldl fun _ _ => .ite (.refl _) pumpTun_still

theorem sendPkt_still {s : State} {own : Bool} {from_ : Nat} {k : Pkt} : Still s (sendPkt s own from_ k) := by
  unfold sendPkt
  split
  · rename_i placed
    exact pumpTuns_still.after (placePkt_still placed)
  · exact .after (.ite sendQuiet_still (.refl _)) countDrop_still

theorem freeRx_still {s : State} {r : RxPkt} : Still s (freeRx s r) := .ite updPort_still (.refl _)

theorem execLinkFrameReceive_owns {c : Nat} {port : Fin 16} {fec len frame : Nat} {s0 : State} :
    Owns c s0 (execLinkFrameReceive port fec len frame s0) := by
  simp only [execLinkFrameReceive]
  split
  · exact .next (.refl _)
  · split
    · exact .next (updPort_still.step.after fabCount_still.step)
    · split
      · split
        · exact .next
            (pushRx_still.step.after
              (updPort_still.step.after (.after (.ite fabCount_still.step (.refl _)) (updPort_still.step.after fabCount_still.step))))
        · exact .next
            (fabCount_still.step.after
              (updPort_still.step.after
                (updPort_still.step.after (.after (.ite fabCount_still.step (.refl _)) (updPort_still.step.after fabCount_still.step)))))
      · exact .next (updPort_still.step.after (.after (.ite fabCount_still.step (.refl _)) (updPort_still.step.after fabCount_still.step)))

theorem execAckReport_owns {c : Nat} {port : Fin 16} {s : State} : Owns c s (execAckReport port s) :=
  .ite (.next updPort_still.step) (.next (.refl _))

theorem laneEvent_still {s : State} {sev port lane : Nat} : Still s (laneEvent s sev port lane) := logErr_still

theorem portDown_still {s : State} {port st : Nat} : Still s (portDown s port st) :=
  .after (.foldl fun _ _ => sendPkt_still) (laneEvent_still.after updPort_still)

theorem laneSwapped_still {s : State} {port lane : Nat} : Still s (laneSwapped s port lane) :=
  logErr_still.after (laneEvent_still.after fabCount_still)

theorem execLaneSwap_keeps {port : Fin 16} {lane : Fin 4} {s0 : State} : Keeps s0 (execLaneSwap port lane s0) :=
  .ite (.next (withHealth_kept.after (laneSwapped_still.kept.after updPort_still.kept))) (.next (.refl _))

theorem execWidthChange_keeps {port : Fin 16} {lanes : BitVec 5} {s : State} : Keeps s (execWidthChange port lanes s) :=
  .ite
    (.ite (.next updPort_still.kept)
      (.ite (.next (withHealth_kept.after (portDown_still.kept.after (fabCount_still.kept.after updPort_still.kept))))
        (.next (withHealth_kept.after (laneEvent_still.kept.after (updPort_still.kept.after (fabCount_still.kept.after updPort_still.kept)))))))
    (.next (.refl _))

theorem execPortDown_keeps {port : Fin 16} {s : State} : Keeps s (execPortDown port s) :=
  .ite (.next (withHealth_kept.after portDown_still.kept)) (.next (.refl _))

theorem execPortInit_keeps {port : Fin 16} {peer : BitVec 15} {peerPort : Fin 16} {recordValid : Bool} {lanes : BitVec 5} {s : State} :
    Keeps s (execPortInit port peer peerPort recordValid lanes s) :=
  .ite (.next (.refl _)) (.ite (.next (withHealth_kept.after updPort_still.kept)) (.ite (.next updPort_still.kept) (.next (.refl _))))

theorem takeRx_still {s : State} {i : Nat} {r : RxPkt} : Still s (takeRx s i r) := freeRx_still.after updFab_still

theorem execPacketForward_keeps {i : Nat} {s : State} : Keeps s (execPacketForward i s) := by
  simp only [execPacketForward]
  split
  · exact .next (.refl _)
  · exact .ite (.next (.refl _))
      (.ite (.next (fabCount_still.kept.after takeRx_still.kept))
        (.ite (.next (.after (.ite sendQuiet_still.kept (.refl _)) (countDrop_still.kept.after takeRx_still.kept)))
          (.next (.after (.ite fabCount_still.kept (.refl _)) (sendPkt_still.kept.after takeRx_still.kept)))))

theorem execFabPerfClear_keeps {freeze : Bool} {s : State} : Keeps s (execFabPerfClear freeze s) := .ite (.next updFab_still.kept) (.next (.refl _))

end Sys2Proof.Machine
end

/-! ## The link's packets and the stash -/

section
namespace Sys2Proof.Machine

theorem putHandle_still {s : State} {c h e : Nat} : Still s (putHandle s c h e) := wrNum_still.after wrNum_still

theorem markGranules_still {s : State} {c : Nat} {own : Bool} {gs : List Nat} : Still s (markGranules s c own gs) := .foldl fun _ _ => wrNum_still

theorem countHeld_still {s : State} {c k : Nat} {add sub : Nat} : Still s (countHeld s c k add sub) := .own rfl

theorem takeRange_still {s : State} {c k off size : Nat} : Still s (takeRange s c k off size) := countHeld_still.after markGranules_still

theorem giveRange_still {s : State} {c k off size : Nat} : Still s (giveRange s c k off size) := countHeld_still.after markGranules_still

theorem releaseHandle_still {s : State} {c e : Nat} : Still s (releaseHandle s c e) := by
  simp only [releaseHandle]
  split
  · exact .refl _
  · exact .ite (.refl _) (.after (.ite giveRange_still (.refl _)) giveRange_still)

theorem countRecomp_still {s : State} {c : Nat} : Still s (countRecomp s c) := .own rfl

theorem countThrottle_still {s : State} {c : Nat} {pools : List Nat} : Still s (countThrottle s c pools) := .ite (.own rfl) (.refl _)

theorem storeForm_step {s : State} {c : Nat} {d : Desc} {comp : Nat} {ext : List Nat} {base : Nat} :
    OwnStep c s (storeForm s c d comp ext base).1 := by
  simp only [storeForm]
  split
  · simp only
    exact encodeTensor_still.step
  · split
    · simp only
      exact applyPuts_still.step
    · simp only
      exact packOut_step

theorem restoreForm_step {s : State} {c : Nat} {d : Desc} {e base : Nat} {ext : List Nat} : OwnStep c s (restoreForm s c d e base ext).st := by
  simp only [restoreForm]
  split
  · exact unlosslessOut_still.step
  · split
    · exact applyPuts_still.step
    · split
      · exact applyPuts_still.step
      · exact expandOut_step

theorem putState_still {s : State} {c h v : Nat} : Still s (putState s c h v) := wrNum_still

theorem putMove_step {s : State} {c env e : Nat} {ext : List Nat} : OwnStep c s (putMove s c env e ext).st :=
  wrNum_still.step.after (countThrottle_still.step.after storeForm_step)

theorem getMove_step {s : State} {c env e : Nat} {ext : List Nat} : OwnStep c s (getMove s c env e ext).st := by
  simp only [getMove]
  split
  · exact applyPuts_still.step
  · exact countThrottle_still.step.after restoreForm_step

theorem raiseMove_still {s : State} {c e : Nat} : Still s (raiseMove s c e).st := countThrottle_still.after applyPuts_still

theorem stashEff_step {s : State} {c op env e : Nat} {ext : List Nat} : OwnStep c s (stashEff s c op env e ext).st := by
  simp only [stashEff]
  split
  · exact putMove_step
  · split
    · exact getMove_step
    · exact raiseMove_still.step

theorem stashMove_step {s : State} {c op env e : Nat} {ext : List Nat} : OwnStep c s (stashMove s c op env e ext).st :=
  runAfter_step fun _ => stashEff_step

theorem freeHandle_still {s : State} {c h e : Nat} : Still s (freeHandle s c h e) := putState_still.after releaseHandle_still

theorem stashApply_still {s : State} {c op env e : Nat} {ext : List Nat} : Still s (stashApply s c op env e ext) := by
  simp only [stashApply]
  split
  · refine putHandle_still.after ?_
    split
    · exact takeRange_still
    · exact .refl s
  · exact .ite (.after (.ite freeHandle_still (.refl _)) (.ite countRecomp_still (.refl _))) (putState_still.after takeRange_still)

theorem stashUndo_still {s : State} {c : Nat} {later : List Flight} {op env e : Nat} : Still s (stashUndo s c later op env e) := by
  simp only [stashUndo]
  split
  · exact .refl _
  · split
    · exact freeHandle_still
    · split
      · exact putState_still.after giveRange_still
      · split
        · refine putState_still.after (.after (.ite takeRange_still (.refl _)) ?_)
          split
          · exact takeRange_still
          · exact .refl s
        · exact .refl _

theorem stashEnd_step {s : State} {r m : Result} {c op env e : Nat} (h : OwnStep c s m.st) : OwnStep c s (stashEnd r m c op env e).st := by
  simp only [stashEnd]
  split
  · exact stashUndo_still.step.after h
  · exact h

theorem stashGo_step {s s1 : State} {c op env e : Nat} {ext : List Nat} : OwnStep c s1 (stashGo s c op env e ext s1).st := by
  simp only [stashGo]
  split
  · exact .refl s1
  · split
    · exact stashEnd_step stashMove_step
    · exact .refl s1

theorem stashBody_own {op : Nat} : OwnBody (stashBody op) := by
  intro s c q
  simp only [stashBody]
  split
  · exact reject_still.step
  · exact stashGo_step.after stashApply_still.step

theorem stashBegin_step {s : State} {c : Nat} {f : Flight} : OwnStep c s (stashBegin s c f) :=
  .ite
    (.after (updCtx_step fun _ => id)
      (.after (.ite stashUndo_still.step (.refl _)) (.after (.ite loseOutputs_still.step (.refl _)) stashMove_step)))
    (updCtx_step fun _ => id)

theorem stashKick_kept {s : State} : Kept s (stashKick s) := by
  unfold stashKick
  exact .foldl fun _ _ => .foldl fun _ _ => .ite stashBegin_step.kept (.refl _)

theorem stashOp_step {c : Nat} {aged : Bool} {opcode : Nat} {body : Body} {s : State} (h : OwnBody body) :
    OwnStep c s (stashOp c aged opcode body s) :=
  issueOp_step h

theorem execSput_owns {c : Fin 8} {aged : Bool} {s : State} : Owns c s (execSput c aged s) := .next (stashOp_step stashBody_own)

theorem execSget_owns {c : Fin 8} {aged : Bool} {s : State} : Owns c s (execSget c aged s) := .next (stashOp_step stashBody_own)

theorem execSraise_owns {c : Fin 8} {aged : Bool} {s : State} : Owns c s (execSraise c aged s) := .next (stashOp_step stashBody_own)

theorem bodySfree_own : OwnBody bodySfree := by
  intro s c q
  simp only [bodySfree]
  split
  · exact reject_still.step
  · exact stashGo_step.after (.foldl fun _ _ => freeHandle_still.step)

theorem execSfree_owns {c : Fin 8} {aged : Bool} {s : State} : Owns c s (execSfree c aged s) := .next (stashOp_step bodySfree_own)

theorem execHazardRangeRelease_keeps {c : Fin 8} {die : Fin 6} {engine : Fin 8} {s : State} : Keeps s (execHazardRangeRelease c die engine s) := by
  simp only [execHazardRangeRelease]
  split
  · exact .next (.refl _)
  · exact .ite (.next (stashKick_kept.after beginHeld_step.kept)) (.next (.refl _))

theorem stashCtl_still {s : State} {clear : Bool} {mask : Nat} : Still s (stashCtl s clear mask) := .own rfl

theorem execClearPeak_keeps {mask : BitVec 8} {s : State} : Keeps s (execClearPeak mask s) := .ite (.next stashCtl_still.kept) (.next (.refl _))

end Sys2Proof.Machine
end

/-! ## The stash's operations, streams and the Taproot -/

section
namespace Sys2Proof.Machine

theorem updFeed_still {s : State} {c id : Nat} {g : Feed → Feed} : Still s (updFeed s c id g) := .own rfl

theorem tapAdd_still {s : State} {k n : Nat} : Still s (tapAdd s k n) := .own rfl

theorem lowWaterOne_kept {before : State} {s : State} {f : Feed} : Kept s (lowWaterOne before s f) :=
  .ite (.refl _) (.ite updFeed_still.kept (.ite (postEvent_kept.after (tapAdd_still.kept.after updFeed_still.kept)) (.refl _)))

theorem lowWater_kept {before s : State} {c : Nat} : Kept s (lowWater before s c) := .foldl fun _ _ => lowWaterOne_kept

theorem stopFeed_step {s : State} {c id st : Nat} : OwnStep c s (stopFeed s c id st) := .after (updCtx_step fun _ wf => wf) updFeed_still.step

theorem haltFeed_kept {s : State} {c id status da : Nat} : Kept s (haltFeed s c id status da) := postEvent_kept.after stopFeed_step.kept

theorem faultFeed_kept {s : State} {c id status da : Nat} : Kept s (faultFeed s c id status da) :=
  haltFeed_kept.after (.ite countUe_still.kept (reportError_still.kept.after drawFree_still.kept))

theorem feedTouch_still {s : State} {c : Nat} {reads writes : List (Nat × Nat)} : Still s (feedTouch s c reads writes) :=
  noteTraffic_still.after clearBad_still

theorem useWork_still {s : State} {f : Feed} {j need : Nat} : Still s (useWork s f j need) := loseCtx_still.after feedTouch_still

theorem rejectRecord_still {s : State} {f : Feed} {sample pos epoch reason detail : Nat} :
    Still s (rejectRecord s f sample pos epoch reason detail) :=
  tapAdd_still.after (updFeed_still.after (feedTouch_still.after wrNum_still))

theorem rejectWith_kept {s : State} {f : Feed} {sample pos epoch reason detail : Nat} {goOn : State → State} (h : ∀ u, Kept u (goOn u)) :
    Kept s (rejectWith s f sample pos epoch reason detail goOn) := by
  simp only [rejectWith]
  split
  · exact faultFeed_kept
  · split
    · refine postEvent_kept.after (reportError_still.kept.after (drawFree_still.kept.after (drawFree_still.kept.after ?_)))
      exact stopFeed_step.kept.after rejectRecord_still.kept
    · exact (h _).after rejectRecord_still.kept

theorem rejectSample_kept {s : State} {f : Feed} {sample pos epoch reason detail info : Nat} {zeros : List Put} :
    Kept s (rejectSample s f sample pos epoch reason detail info zeros) :=
  rejectWith_kept fun _ => updFeed_still.kept.after applyPuts_still.kept

theorem publishBatch_kept {s : State} {f : Feed} {slots : List (Bool × Nat)} {epoch first tTick : Nat} :
    Kept s (publishBatch s f slots epoch first tTick) :=
  lowWater_kept.after
    (updFeed_still.kept.after
      (addTally_step.kept.after
        (tapAdd_still.kept.after
          (.after (.ite setShapeWord_still.kept (.refl _))
            (wrNum_still.kept.after (wrNum_still.kept.after (wrNum_still.kept.after feedTouch_still.kept)))))))

theorem execBatchPublish_keeps {c : Fin 8} {feed : Fin 4} {s : State} : Keeps s (execBatchPublish c feed s) := by
  simp only [execBatchPublish]
  split
  · exact .next (.refl _)
  · split
    · split
      · exact .next faultFeed_kept
      · exact .next (.after (.ite stopFeed_step.kept (.refl _)) publishBatch_kept)
    · exact .next (.refl _)

theorem fillCache_still {s : State} {f : Feed} {sample cont bytes len : Nat} : Still s (fillCache s f sample cont bytes len) :=
  .ite (.refl _) (wrNum_still.after (applyPuts_still.after (wrNum_still.after wrNum_still)))

theorem countDecode_still {s : State} {pics samples damaged : Nat} {cores : List Nat} : Still s (countDecode s pics samples damaged cores) := .own rfl

theorem placeSample_still {s : State} {f : Feed} {i : IndexEntry} {hit : Bool} {k j q : Nat} : Still s (placeSample s f i hit k j q).1 := by
  have decoded (u : State) (m n o p : Nat) (l : List Nat) : Still u (if hit then u else tapAdd (countDecode u m n o l) 2 p) :=
    .ite (.refl u) (tapAdd_still.after countDecode_still)
  simp only [placeSample]
  refine .ite_fst (.ite fillCache_still (.refl s)) (.ite_fst (decoded ..) ?_)
  exact .after (.ite fillCache_still (.refl _)) (decoded ..)

theorem doSample_still {s : State} {f : Feed} {k j q : Nat} : Still s (doSample s f k j q).1 := by
  have counted (n : Nat) : Still s (if fbCache f = 0 then s else tapAdd s n 1) := .ite (.refl s) tapAdd_still
  simp only [doSample]
  split
  · exact .refl s
  · refine .ite_fst (.refl s) (.ite_fst (.refl s) (.ite_fst (.refl s) ?_))
    split
    · exact .refl s
    · split
      · exact .refl s
      · refine .ite_fst (counted _) ?_
        generalize (if (decide (fbCache f ≠ 0) && cacheHit s f (posSample f q)) = true then none else badTouched s _ : Option Nat) = bad
        cases bad with
        | some l => exact countUe_still.after (counted _)
        | none => exact placeSample_still.after (useWork_still.after (feedTouch_still.after (counted _)))

theorem endSample_kept {s : State} {f : Feed} {q : Nat} {r : SampleEnd} : Kept s (endSample s f q r) := by
  simp only [endSample]
  split
  · exact faultFeed_kept
  · exact rejectSample_kept
  · exact updFeed_still.kept.after applyPuts_still.kept

theorem execTaprootSample_keeps {c : Fin 8} {feed : Fin 4} {s : State} : Keeps s (execTaprootSample c feed s) := by
  simp only [execTaprootSample]
  split
  · exact .next (.refl _)
  · split
    · split
      · exact .next (faultFeed_kept.after (.same rfl rfl rfl rfl))
      · exact .next (endSample_kept.after (doSample_still.kept.after (feedTouch_still.kept.after (.same rfl rfl rfl rfl))))
    · exact .next (.refl _)

end Sys2Proof.Machine
end

/-! ## Fabric services -/

section
namespace Sys2Proof.Machine

theorem updTxn_still {s : State} {tag : Nat} {f : Txn → Txn} : Still s (updTxn s tag f) := updFab_still

theorem pumpTxns_still {s : State} : Still s (pumpTxns s) := by
  refine Still.foldl_fst (a := (s, [])) fun a t => ?_
  dsimp only
  refine .ite_fst (.refl _) (.ite_fst (.ite (.refl _) (fabCount_still.after updTxn_still)) (.ite_fst (.refl _) ?_))
  exact sendPkt_still.after updTxn_still

theorem addTxn_still {s : State} {half c i : Nat} {a : PkArgs} : Still s (addTxn s half c i a) := by
  unfold addTxn
  exact updFab_still

theorem addTxns_still {s : State} {half c i : Nat} {l : List PkArgs} : Still s (addTxns s half c i l) := .foldl fun _ _ => addTxn_still

theorem dropTxns_still {s : State} {c i : Nat} : Still s (dropTxns s c i) := updFab_still

theorem fabOp_step {s : State} {c : Nat} {half : Fin 2} {aged : Bool} {kind : QOp → Bool} {body : Body} (h : OwnBody body) :
    OwnStep c s (fabOp s c half aged kind body) :=
  .ite (pumpTxns_still.step.after (issueOp_step h)) (.refl s)

@[simp] theorem goesOn_st (r : Result) : (goesOn r).st = r.st := by
  unfold goesOn
  split <;> rfl

theorem bodyCwrite_own : OwnBody bodyCwrite := by
  intro s c q
  simp only [bodyCwrite, goesOn_st]
  exact runPlan_step fun _ => (Still.own rfl).step.after addTxns_still.step

theorem execCwrite_owns {c : Fin 8} {half : Fin 2} {aged : Bool} {s : State} : Owns c s (execCwrite c half aged s) :=
  .next (fabOp_step bodyCwrite_own)

theorem bodyCread_own : OwnBody bodyCread := by
  intro s c q
  simp only [bodyCread]
  split
  · rw [goesOn_st]
    exact runPlan_step fun _ => addTxns_still.step
  · simp only [goesOn_st]
    exact runPlan_step fun _ => addTxns_still.step

theorem execCread_owns {c : Fin 8} {half : Fin 2} {aged : Bool} {s : State} : Owns c s (execCread c half aged s) := .next (fabOp_step bodyCread_own)

theorem bodyCsignal_own : OwnBody bodyCsignal := by
  intro s c q
  simp only [bodyCsignal, goesOn_st]
  exact runPlan_step fun _ => addTxn_still.step

theorem execCsignal_owns {c : Fin 8} {half : Fin 2} {aged : Bool} {s : State} : Owns c s (execCsignal c half aged s) :=
  .next (fabOp_step bodyCsignal_own)

theorem updFlight_step {s : State} {c i : Nat} {g : Flight → Flight} : OwnStep c s (updFlight s c i g) := updCtx_step fun _ => id

theorem endRaced_still {s : State} {c i : Nat} : Still s (endRaced s c i) := by
  simp only [endRaced]
  split
  · exact .ite loseOutputs_still (.refl _)
  · exact .refl _

theorem endFab_step {s : State} {c i status detail : Nat} {flags : NumFlags} : OwnStep c s (endFab s c i status detail flags) :=
  updFlight_step.after (dropTxns_still.step.after endRaced_still.step)

theorem p2pFail_step {s : State} {c : Nat} {f : Flight} {status detail : Nat} : OwnStep c s (p2pFail s c f status detail) :=
  endFab_step.after (.ite loseCtx_still.step (.refl _))

theorem readFinish_step {s : State} {c : Nat} {f : Flight} : OwnStep c s (readFinish s c f) :=
  endFab_step.after (runAfter_step fun _ => applyPuts_still.step)

theorem p2pProgress_step {s : State} {c : Nat} {f : Flight} : OwnStep c s (p2pProgress s c f) :=
  .ite (.refl _) (.ite (updFlight_step.after addTxn_still.step) (.ite readFinish_step endFab_step))

theorem refuse_still {s : State} {r : RxPkt} : Still s (refuse s r) := sendPkt_still.after reportError_still

theorem deliverWrite_still {s : State} {r : RxPkt} : Still s (deliverWrite s r) := by
  simp only [deliverWrite]
  split
  · exact refuse_still
  · split
    · exact refuse_still
    · split
      · exact refuse_still.after countUe_still
      · exact sendPkt_still.after (noteTraffic_still.after (clearBad_still.after wrNum_still))

theorem deliverRead_still {s : State} {r : RxPkt} : Still s (deliverRead s r) := by
  simp only [deliverRead]
  split
  · exact refuse_still
  · split
    · exact refuse_still
    · split
      · exact refuse_still.after countUe_still
      · exact .after (.foldl fun _ _ => sendPkt_still) noteTraffic_still

theorem deliverSignal_kept {s : State} {r : RxPkt} : Kept s (deliverSignal s r) := by
  simp only [deliverSignal]
  split
  · exact refuse_still.kept
  · exact sendPkt_still.kept.after (lowWater_kept.after addTally_step.kept)

theorem execWrite_keeps {i : Nat} {s : State} : Keeps s (execWrite i s) := by
  simp only [execWrite]
  split
  · exact .next (deliverWrite_still.kept.after takeRx_still.kept)
  · exact .next (.refl _)

theorem execReadReq_keeps {i : Nat} {s : State} : Keeps s (execReadReq i s) := by
  simp only [execReadReq]
  split
  · exact .next (deliverRead_still.kept.after takeRx_still.kept)
  · exact .next (.refl _)

theorem execSignal_keeps {i : Nat} {s : State} : Keeps s (execSignal i s) := by
  simp only [execSignal]
  split
  · exact .next (deliverSignal_kept.after takeRx_still.kept)
  · exact .next (.refl _)

theorem execReadRsp_keeps {i : Nat} {s : State} : Keeps s (execReadRsp i s) := by
  simp only [execReadRsp]
  split
  · exact .next (.refl _)
  · split
    · exact .next takeRx_still.kept
    · split
      · exact .next (updTxn_still.kept.after (updFab_still.kept.after takeRx_still.kept))
      · split
        · exact .next (pumpTxns_still.kept.after (p2pProgress_step.kept.after (updFab_still.kept.after (updFab_still.kept.after takeRx_still.kept))))
        · exact .next (pumpTxns_still.kept.after (updFab_still.kept.after (updFab_still.kept.after takeRx_still.kept)))

end Sys2Proof.Machine
end

/-! ## Collectives, tunnels -/

section
namespace Sys2Proof.Machine

theorem colCount_still {s : State} {i n : Nat} : Still s (colCount s i n) := updFab_still

theorem noteIssue_still {s : State} {half c id : Nat} : Still s (noteIssue s half c id) := colCount_still.after updFab_still

theorem sendColl_still {s : State} {i : CollInst} {k : Pkt} : Still s (sendColl s i k) := sendPkt_still

theorem updInst_still {s : State} {i : CollInst} {f : CollInst → CollInst} : Still s (updInst s i f) := updFab_still

theorem giveReady_still {s : State} {i : CollInst} : Still s (giveReady s i) :=
  .foldl fun _ _ => .ite (.refl _) (.foldl fun _ _ => .ite (sendColl_still.after updInst_still) (.refl _))

theorem giveSums_still {s : State} {i : CollInst} : Still s (giveSums s i) :=
  .ite (.refl _) (.foldl fun _ _ => .ite (sendColl_still.after updInst_still) (.refl _))

theorem giveCounts_still {s : State} {i : CollInst} : Still s (giveCounts s i) :=
  .ite (.refl _) (.foldl fun _ _ => .ite (sendColl_still.after updInst_still) (.refl _))

theorem givePieces_still {s : State} {i : CollInst} : Still s (givePieces s i) :=
  .foldl
    fun _ _ =>
      .foldl
        fun _ _ =>
          .foldl
            fun _ _ => .after (.ite colCount_still (.refl _)) (colCount_still.after (updInst_still.after (.foldl fun _ _ => sendColl_still)))

theorem sendAborts_still {s : State} {i : CollInst} {ranks : List Nat} {status node : Nat} : Still s (sendAborts s i ranks status node) :=
  .foldl fun _ _ => colCount_still.after sendColl_still

theorem dropInst_still {s : State} {i : CollInst} : Still s (dropInst s i) := updFab_still

theorem collFail_step {s : State} {i : CollInst} {status detail node : Nat} : OwnStep i.ctx s (collFail s i status detail node) :=
  endFab_step.after (dropInst_still.step.after (loseCtx_still.step.after (.after (.ite colCount_still.step (.refl _)) sendAborts_still.step)))

theorem collEnd_step {s : State} {i : CollInst} {status detail : Nat} {flags : NumFlags} : OwnStep i.ctx s (collEnd s i status detail flags) :=
  endFab_step.after dropInst_still.step

theorem execEthernetFrameReceive_owns {c : Nat} {port : Fin 2} {len frame : Nat} {s : State} : Owns c s (execEthernetFrameReceive port len frame s) :=
  .ite (.next updFab_still.step) (.next (.refl _))

theorem jouDiscard_still {s : State} {port : Nat} : Still s (jouDiscard s port) := updFab_still

theorem sendJouAck_still {s : State} {t : Nat} : Still s (sendJouAck s t) := updTun_still

theorem addGateTxn_still {s : State} {t dg : Nat} {k : Pkt} : Still s (addGateTxn s t dg k) := updTxn_still.after addTxn_still

theorem injectPkt_still {s : State} {t dg : Nat} {k : Pkt} : Still s (injectPkt s t dg k) :=
  .ite addGateTxn_still (.ite updTun_still (.ite pushRx_still sendPkt_still))

theorem takeDatagram_still {s : State} {t seq : Nat} {ce : Bool} {len tsval : Nat} {ps : List Pkt} : Still s (takeDatagram s t seq ce len tsval ps) :=
  .after (.ite sendJouAck_still (.refl _))
    (pumpTxns_still.after (.after (.ite (.foldl fun _ _ => .ite injectPkt_still fabCount_still) (.refl _)) (fabCount_still.after updTun_still)))

theorem execJouData_owns {c : Nat} {port : Fin 2} {ce : Bool} {len data : Nat} {s : State} : Owns c s (execJouData port ce len data s) := by
  simp only [execJouData]
  split
  · exact .next (.refl _)
  · split
    · exact .next jouDiscard_still.step
    · exact .ite (.next jouDiscard_still.step) (.next takeDatagram_still.step)

theorem execJouAckTimer_owns {c : Nat} {tun : Fin 64} {s : State} : Owns c s (execJouAckTimer tun s) :=
  .ite (.next sendJouAck_still.step) (.next (.refl _))

theorem execJouFenceRelease_owns {c : Nat} {tun : Fin 64} {s : State} : Owns c s (execJouFenceRelease tun s) := by
  simp only [execJouFenceRelease]
  split
  · exact .next (.refl _)
  · split
    · exact .next (.refl _)
    · exact .next (pumpTxns_still.step.after (addGateTxn_still.step.after updTun_still.step))

theorem remoteError_still {s : State} {t origSrc origTag status dst da : Nat} : Still s (remoteError s t origSrc origTag status dst da) :=
  pumpTun_still.after updTun_still

theorem gatewayFail_still {s : State} {x : Txn} {status : Nat} : Still s (gatewayFail s x status) :=
  .after (.ite (.refl _) (.after (.foldl fun _ _ => remoteError_still) updTun_still)) (remoteError_still.after logErr_still)

theorem gatewayAnswer_still {s : State} {x : Txn} {status : Nat} : Still s (gatewayAnswer s x status) :=
  .after (.ite (.refl _) gatewayFail_still) updFab_still

theorem execJouAck_owns {c : Nat} {port : Fin 2} {len data : Nat} {s : State} : Owns c s (execJouAck port len data s) :=
  .ite (.next (.refl _)) (.ite (.next jouDiscard_still.step) (.ite (.next (.refl _)) (.next (pumpTun_still.step.after updTun_still.step))))

theorem execJouRetransmit_owns {c : Nat} {tun : Fin 64} {seq : BitVec 32} {timeout : Bool} {s : State} :
    Owns c s (execJouRetransmit tun seq timeout s) := by
  simp only [execJouRetransmit]
  split
  · exact .next (.refl _)
  · exact .ite (.next (.refl _)) (.next (updTun_still.step.after (fabCount_still.step.after fabCount_still.step)))

theorem tunnelDown_still {s : State} {t : Nat} : Still s (tunnelDown s t) :=
  .after (.foldl fun _ _ => sendPkt_still) (updFab_still.after updTun_still)

theorem execTunnelDown_keeps {tun : Fin 64} {s : State} : Keeps s (execTunnelDown tun s) :=
  .ite (.next (postEvent_kept.after (logErr_still.kept.after (fabCount_still.kept.after tunnelDown_still.kept)))) (.next (.refl _))

theorem execProbe_owns {c : Nat} {port : Fin 2} {len data : Nat} {s : State} : Owns c s (execProbe port len data s) :=
  .ite (.next (.refl _))
    (.ite (.next jouDiscard_still.step)
      (.ite (.next (updTun_still.step.after (.ite (.refl _) updTun_still.step))) (.next (.ite (.refl _) updTun_still.step))))

end Sys2Proof.Machine
end

/-! ## Operations on the fabric -/

section
namespace Sys2Proof.Machine

theorem addInst_still {s : State} {i : CollInst} : Still s (addInst s i) := loseCtx_still.after updFab_still

theorem touchLedger_step {s : State} {c e : Nat} : OwnStep c s (touchLedger s c e) := .foldl fun _ _ => ledgerTouch_step

theorem foldSummary_step {s : State} {i : CollInst} : OwnStep i.ctx s (foldSummary s i) := .ite ledgerPut_step (.refl _)

theorem crsEff_step {s : State} {i : CollInst} : OwnStep i.ctx s (crsEff s i).st := by
  simp only [crsEff]
  split
  · exact applyPuts_still.step.after foldSummary_step
  · exact applyPuts_still.step.after (.after (.ite (.refl _) ledgerFold_step) foldSummary_step)

theorem carEff_step {s : State} {i : CollInst} : OwnStep i.ctx s (carEff s i).st := applyPuts_still.step.after foldSummary_step

theorem cagEff_still {s : State} {i : CollInst} : Still s (cagEff s i).st := by
  simp only [cagEff]
  split
  · exact applyPuts_still
  · exact applyPuts_still

theorem digestEff_still {s : State} {i : CollInst} : Still s (digestEff s i).st := by
  simp only [digestEff]
  split
  · exact applyPuts_still
  · exact applyPuts_still

theorem cledgerEff_step {s : State} {i : CollInst} : OwnStep i.ctx s (cledgerEff s i).st := .foldl fun _ _ => ledgerPut_step

theorem a2aEff_still {s : State} {i : CollInst} : Still s (a2aEff s i).st := by
  simp only [a2aEff]
  split
  · exact applyPuts_still
  · exact .after (.ite (.foldl fun _ _ => setShapeWord_still) (.refl _)) (applyPuts_still.after (applyPuts_still.after applyPuts_still))

theorem collEff_step {s : State} {i : CollInst} : OwnStep i.ctx s (collEff s i).st := by
  simp only [collEff]
  split
  · exact crsEff_step
  · exact cagEff_still.step
  · exact carEff_step
  · exact a2aEff_still.step
  · exact cledgerEff_step
  · exact digestEff_still.step

theorem carMiddle_step {s : State} {i : CollInst} : OwnStep i.ctx s (carMiddle s i) :=
  .ite updInst_still.step (updInst_still.step.after (.ite (.refl _) ledgerFold_step))

theorem collFinish_step {s : State} {i : CollInst} : OwnStep i.ctx s (collFinish s i) :=
  .ite carMiddle_step (.ite (.after (.ite collFail_step collEnd_step) (runAfter_step fun _ => collEff_step)) (.refl _))

theorem sendToken_still {s : State} {i : CollInst} {no : Nat} : Still s (sendToken s i no) := sendColl_still.after updInst_still

theorem stageRound_still {s t : State} {i : CollInst} {r : Nat} (h : stageRound s i r = .inl t) : Still s t := by
  simp only [stageRound] at h
  split at h
  · cases h
  · cases h
    exact updInst_still

theorem writeRound_still {s : State} {i : CollInst} : Still s (writeRound s i) :=
  .foldl fun _ _ => .ite (noteTraffic_still.after wrNum_still) addTxn_still

theorem permStep_step {s : State} {i : CollInst} : OwnStep i.ctx s (permStep s i) := by
  simp only [permStep]
  split
  · exact collEnd_step
  · split
    · split
      · split
        · rename_i staged
          exact (stageRound_still staged).step
        · exact collFail_step.after countUe_still.step
      · exact .ite (.refl s) updInst_still.step
    · split
      · exact .foldl fun _ _ => sendToken_still.step
      · split
        · exact updInst_still.step.after (.ite writeRound_still.step (.refl s))
        · exact .refl s

theorem collPass_kept {s : State} {c op : Nat} : Kept s (collPass s c op) := by
  have again {u v : State} {f : State → CollInst → State} (h : ∀ v i, Kept v (f v i)) (k : Kept u v) :
      Kept u (match instOf v c op with
        | some i => f v i
        | none => v) := by
    split
    · exact (h _ _).after k
    · exact k
  simp only [collPass]
  split
  · exact .refl s
  · split
    · exact .refl s
    · split
      · exact permStep_step.kept
      · exact again (fun _ _ => collFinish_step.kept) (again (fun _ _ => givePieces_still.kept) (again (fun _ _ => giveCounts_still.kept)
          (again (fun _ _ => giveSums_still.kept) giveReady_still.kept)))

theorem collPump_kept {s : State} {c op : Nat} : Kept s (collPump s c op) := .foldl fun _ _ => collPass_kept

theorem collKick_kept {s : State} : Kept s (collKick s) := pumpTxns_still.kept.after (.foldl fun _ _ => collPump_kept)

theorem collTake_step {s : State} {i : CollInst} {k : Pkt} : OwnStep i.ctx s (collTake s i k) := by
  simp only [collTake]
  split
  · exact collFail_step
  · split
    · exact collFail_step
    · split
      · exact .refl _
      · exact .ite (.ite updInst_still.step (colCount_still.step.after updInst_still.step))
          (.ite updInst_still.step (.ite updInst_still.step updInst_still.step))

theorem takeHeld_kept {s : State} {c op : Nat} : Kept s (takeHeld s c op) := by
  simp only [takeHeld]
  split
  · exact .refl _
  · refine .after (.foldl fun _ _ => ?_) updFab_still.kept
    split
    · exact collTake_step.kept
    · exact .refl _

theorem bodyColl_own : OwnBody bodyColl := by
  intro s c q
  have ran (p : Plan) (reads : List (Nat × Nat)) (n : Nat) (u : State) : OwnStep c u (runPlan u c p reads [] fun s =>
      { st := addInst (if q.opcode = 0xB8 then touchLedger s c q.env else s) (mkInst (if q.opcode = 0xB8 then touchLedger s c q.env else s) c q n) }).st :=
    runPlan_step fun _ => addInst_still.step.after (.ite touchLedger_step (.refl _))
  have noted (p : Bool) (h g : Nat) : OwnStep c s (if p then noteIssue s h c g else s) := .ite noteIssue_still.step (.refl s)
  simp only [bodyColl]
  rw [apply_ite Result.st, apply_ite Result.st, goesOn_st]
  dsimp only
  exact .ite (.ite (sendAborts_still.step.after ((ran ..).after (noted ..))) ((ran ..).after (noted ..))) ((ran ..).after (noted ..))

theorem collIssue_kept {s : State} {c : Nat} {half : Fin 2} {aged : Bool} {kind : QOp → Bool} : Kept s (collIssue s c half aged kind) := by
  simp only [collIssue]
  split
  · exact .refl _
  · exact collKick_kept.after (takeHeld_kept.after ((fabOp_step bodyColl_own).kept))

theorem execCrs_keeps {c : Fin 8} {half : Fin 2} {aged : Bool} {s : State} : Keeps s (execCrs c half aged s) := .next collIssue_kept

theorem execCag_keeps {c : Fin 8} {half : Fin 2} {aged : Bool} {s : State} : Keeps s (execCag c half aged s) := .next collIssue_kept

theorem execCar_keeps {c : Fin 8} {half : Fin 2} {aged : Bool} {s : State} : Keeps s (execCar c half aged s) := .next collIssue_kept

theorem execCa2aDispatch_keeps {c : Fin 8} {half : Fin 2} {aged : Bool} {s : State} : Keeps s (execCa2aDispatch c half aged s) := .next collIssue_kept

theorem execCa2aCombine_keeps {c : Fin 8} {half : Fin 2} {aged : Bool} {s : State} : Keeps s (execCa2aCombine c half aged s) := .next collIssue_kept

theorem execCpermute_keeps {c : Fin 8} {half : Fin 2} {aged : Bool} {s : State} : Keeps s (execCpermute c half aged s) := .next collIssue_kept

theorem execCledger_keeps {c : Fin 8} {half : Fin 2} {aged : Bool} {s : State} : Keeps s (execCledger c half aged s) := .next collIssue_kept

theorem execCdigest_keeps {c : Fin 8} {half : Fin 2} {aged : Bool} {s : State} : Keeps s (execCdigest c half aged s) := .next collIssue_kept

theorem holdColl_still {s : State} {c id : Nat} {k : Pkt} : Still s (holdColl s c id k) := .ite updFab_still fabCount_still

theorem execColl_keeps {i : Nat} {s : State} : Keeps s (execColl i s) := by
  simp only [execColl]
  split
  · exact .next (.refl _)
  · split
    · exact .next (fabCount_still.kept.after takeRx_still.kept)
    · split
      · exact .next takeRx_still.kept
      · split
        · exact .next (countDrop_still.kept.after takeRx_still.kept)
        · split
          · exact .next (collKick_kept.after (collTake_step.kept.after takeRx_still.kept))
          · exact .ite (.next (holdColl_still.kept.after takeRx_still.kept)) (.next takeRx_still.kept)

theorem ckptFail_kept {s : State} {t : Txn} : Kept s (ckptFail s t) := by
  unfold ckptFail
  exact .after (updMbx_kept (by simp)) updFab_still.kept

theorem opFail_kept {s : State} {t : Txn} {status detail : Nat} : Kept s (opFail s t status detail) := by
  simp only [opFail]
  split
  · exact ckptFail_kept
  · split
    · exact dropTxns_still.kept
    · split
      · exact p2pFail_step.kept
      · split
        · exact collFail_step.kept
        · exact endFab_step.kept

theorem opProgress_kept {s : State} {t : Txn} : Kept s (opProgress s t) := by
  simp only [opProgress]
  split
  · exact .refl _
  · exact .ite p2pProgress_step.kept (.refl _)

theorem execAck_keeps {i : Nat} {s : State} : Keeps s (execAck i s) := by
  simp only [execAck]
  split
  · exact .next (.refl _)
  · split
    · exact .next takeRx_still.kept
    · exact .ite (.next (collKick_kept.after (gatewayAnswer_still.kept.after takeRx_still.kept)))
        (.ite (.next (collKick_kept.after (opFail_kept.after (updFab_still.kept.after takeRx_still.kept))))
          (.ite (.next (collKick_kept.after (opFail_kept.after (updFab_still.kept.after takeRx_still.kept))))
            (.next (collKick_kept.after (opProgress_kept.after (updFab_still.kept.after takeRx_still.kept))))))

theorem execRemoteTimeout_keeps {tag : Option Nat} {c : Fin 8} {opIndex : Nat} {node : BitVec 15} {s : State} :
    Keeps s (execRemoteTimeout tag c opIndex node s) := by
  simp only [execRemoteTimeout]
  split
  · exact .next (.refl _)
  · split
    · split
      · exact .next (.refl _)
      · exact .ite (.next (collKick_kept.after gatewayAnswer_still.kept)) (.next (collKick_kept.after opFail_kept))
    · split
      · exact .next (.refl _)
      · exact .ite (.next (collKick_kept.after collFail_step.kept)) (.next (.refl _))

theorem pfSignal_kept {s : State} {c : Nat} {f : Flight} : Kept s (pfSignal s c f) :=
  .ite (updFlight_step.kept.after (lowWater_kept.after addTally_step.kept)) (.refl _)

theorem execPrefetchSignal_keeps {c : Fin 8} {opIndex : Nat} {s : State} : Keeps s (execPrefetchSignal c opIndex s) := by
  simp only [execPrefetchSignal]
  split
  · exact .next (.refl _)
  · exact .next pfSignal_kept

theorem fabClose_still {s : State} {c : Nat} : Still s (fabClose s c) := by
  unfold fabClose
  exact updFab_still.after (.foldl fun _ _ => sendAborts_still)

theorem execColPerfClear_keeps {freeze : Bool} {s : State} : Keeps s (execColPerfClear freeze s) := .ite (.next updFab_still.kept) (.next (.refl _))

end Sys2Proof.Machine
end

/-! ## Domains, the ring store, codec sessions, feeds -/

section
namespace Sys2Proof.Machine

theorem traceOwn_still {s : State} {src type payload : Nat} : Still s (traceOwn s src type payload) := tracePut_still

theorem traceSuspend_still {s : State} {d : Nat} : Still s (traceSuspend s d) := .ite (.after (.own rfl) traceOwn_still) (.refl _)

theorem traceDrain_still {s : State} : Still s (traceDrain s) := .after (.foldl fun _ _ => traceWrite_still) (.own rfl)

theorem traceResume_still {s : State} : Still s (traceResume s) := .ite (traceDrain_still.after (traceWrite_still.after (.own rfl))) (.refl _)

theorem clearPlane_still {s : State} {plane : Nat} : Still s (clearPlane s plane) := .own rfl

theorem setSelfRef_still {s : State} {v : Bool} : Still s (setSelfRef s v) := .own rfl

theorem domLoses_still {s : State} {d : Nat} : Still s (domLoses s d) := by
  have stack (lo hi i : Nat) :
      Still s { loseRange s lo hi with memS := { s.memS with stackTemp := s.memS.stackTemp.set i 0xFF, selfRef := false } } :=
    .after (.own (by rw [← loseRange_still.ret])) loseRange_still
  simp only [domLoses]
  split
  · split
    · exact .after (.own rfl) clearPlane_still
    · exact .after (.own rfl) clearPlane_still
    · exact loseRange_still
    · exact stack ..
    · exact stack ..
    · exact .refl s
  · split
    · exact loseRange_still
    · exact loseRange_still
    · exact .own rfl
    · exact .refl s

theorem domFall_kept {s : State} {d : Nat} : Kept s (domFall s d) :=
  .ite (.refl _) (.after (.same rfl rfl rfl rfl) (domLoses_still.kept.after (traceSuspend_still.kept.after (.ite traceOwn_still.kept (.refl _)))))

theorem domRise_kept {s : State} {d : Nat} : Kept s (domRise s d) :=
  .ite (.refl _) (traceResume_still.kept.after (.after (.ite traceOwn_still.kept (.refl _)) (.same rfl rfl rfl rfl)))

theorem execDomainWake_keeps {d : Fin 64} {s : State} : Keeps s (execDomainWake d s) := .ite (.next domRise_kept) (.next (.refl _))

theorem execDomainIdlePowerDown_keeps {d : Fin 64} {s : State} : Keeps s (execDomainIdlePowerDown d s) := .ite (.next domFall_kept) (.next (.refl _))

theorem putDir_still {s : State} {c n e : Nat} : Still s (putDir s c n e) := wrNum_still

theorem touchSeq_still {s : State} {c n : Nat} : Still s (touchSeq s c n) := putDir_still

theorem updRing_step {s : State} {c : Nat} {f : RingUse → RingUse} : OwnStep c s (updRing s c f) := updCtx_step fun _ => id

theorem indexCtx_still {s : State} {c da count : Nat} : Still s (indexCtx s c da count) := by
  simp only [indexCtx]
  refine .foldl fun u p => ?_
  split
  · exact .mem fun h => memFill_wf h ..
  · exact .refl u

theorem pushFree_still {s : State} {c first depth v : Nat} : Still s (pushFree s c first depth v) := wrNum_still

theorem popFrame_step {s : State} {c : Nat} : OwnStep c s (popFrame s c).2 := by
  simp only [popFrame]
  split
  · simp only
    exact updRing_step
  · simp only
    exact updRing_step

theorem popTable_step {s : State} {c : Nat} : OwnStep c s (popTable s c).2 := by
  simp only [popTable]
  split
  · simp only
    exact updRing_step
  · simp only
    exact updRing_step

theorem allocPage_step {s : State} {c slot key : Nat} : OwnStep c s (allocPage s c slot key) := by
  have filled {u : State} {a b v w n m : Nat} (h : OwnStep c s u) : OwnStep c s (wrNum (wrNum (popFrame u c).2 c a v n) c b w m) :=
    wrNum_still.step.after (wrNum_still.step.after (popFrame_step.after h))
  simp only [allocPage]
  split
  · exact filled (.refl s)
  · exact filled (wrNum_still.step.after (wrNum_still.step.after popTable_step))

theorem freePage_step {s : State} {c slot key : Nat} : OwnStep c s (freePage s c slot key) := by
  simp only [freePage]
  split
  · exact .refl _
  · exact .after (.ite (.refl _) (wrNum_still.step.after (pushFree_still.step.after updRing_step)))
      (wrNum_still.step.after (pushFree_still.step.after updRing_step))

theorem freePages_step {s : State} {c slot lo hi : Nat} : OwnStep c s (freePages s c slot lo hi) := .foldl fun _ _ => freePage_step

theorem ringRollback_step {s : State} {c : Nat} {aux : List Nat} : OwnStep c s (ringRollback s c aux) := .foldl fun _ _ => freePages_step

theorem takeSlot_step {s : State} {c : Nat} : OwnStep c s (takeSlot s c).2 := by
  simp only [takeSlot]
  exact updRing_step.after drawFree_still.step

theorem giveSlot_step {s : State} {c slot : Nat} : OwnStep c s (giveSlot s c slot) := updRing_step

theorem rlbDrop_still {s : State} {p : Nat × Nat × Nat → Bool} : Still s (rlbDrop s p) := .own rfl

theorem rlbDropSeq_still {s : State} {c slot : Nat} : Still s (rlbDropSeq s c slot) := rlbDrop_still

theorem rlbTouch_still {s : State} {c slot key : Nat} : Still s (rlbTouch s c slot key) := .own rfl

theorem copyCtx_still {s : State} {c src dst n : Nat} : Still s (copyCtx s c src dst n) := applyPuts_still

theorem swapOut_step {s : State} {c n : Nat} {fail : Bool} : OwnStep c s (swapOut s c n fail).1 := by
  simp only [swapOut]
  split
  · exact .after (.own rfl) (drawFree_still.step.after loseCtx_still.step)
  · split
    · exact countUe_still.step.after (.after (.own rfl) (drawFree_still.step.after loseCtx_still.step))
    · exact .after (.own rfl)
        (putDir_still.step.after
          (rlbDropSeq_still.step.after
            (giveSlot_step.after
              (freePages_step.after (.after (.foldl fun _ _ => copyCtx_still.step) (wrNum_still.step.after noteTraffic_still.step))))))

theorem swapIn_step {s : State} {c n : Nat} {fail : Bool} : OwnStep c s (swapIn s c n fail).1 := by
  simp only [swapIn]
  split
  · exact .after (.own rfl) drawFree_still.step
  · split
    · exact .own rfl
    · exact .after (.own rfl)
        (putDir_still.step.after
          (clearBad_still.step.after
            (noteTraffic_still.step.after
              (.after (.foldl fun _ _ => copyCtx_still.step) (.after (.foldl fun _ _ => allocPage_step) takeSlot_step)))))

theorem runSwaps_step {s : State} {c : Nat} {fail : Option Nat} {l : List ((Bool × Nat) × Nat)} : OwnStep c s (runSwaps s c fail l).1 := by
  induction l generalizing s with
  | nil => exact .refl s
  | cons x r ih =>
    obtain ⟨⟨out, n⟩, i⟩ := x
    have swapped : OwnStep c s (if out then swapOut s c n (fail = some i) else swapIn s c n (fail = some i)).1 := by
      split
      · exact swapOut_step
      · exact swapIn_step
    simp only [runSwaps]
    split
    · exact swapped
    · exact ih.after (.after (.ite (Still.own rfl).step (.refl _)) swapped)

theorem makeResident_step {s : State} {c : Nat} {need : RingNeed} {fail : Option Nat} : OwnStep c s (makeResident s c need fail).1 := runSwaps_step

theorem grantOne_still {enc : Bool} {s : State} : Still s (grantOne enc s) := by
  simp only [grantOne]
  split
  · exact .refl _
  · exact .ite (.refl _) (.own rfl)

theorem vccGrant_still {s : State} : Still s (vccGrant s) := .after (.foldl fun _ _ => grantOne_still) (.foldl fun _ _ => grantOne_still)

theorem vccOpen_still {s : State} {w : VccSession} : Still s (vccOpen s w) := .own rfl

theorem openStreamSessions_still {s : State} {c id : Nat} {streams : List LiveStream} : Still s (openStreamSessions s c id streams) :=
  .foldl fun _ _ => vccOpen_still

theorem startFeed_still {s : State} {c e : Nat} {live : Bool} : Still s (startFeed s c e live) := openStreamSessions_still.after (.own rfl)

theorem bodyFeed_own {live : Bool} : OwnBody (bodyFeed live) := by
  intro s c q
  simp only [bodyFeed]
  split
  · exact reject_still.step
  · split
    · exact countUe_still.step.after noteTraffic_still.step
    · exact startFeed_still.step.after noteTraffic_still.step

theorem tapOp_step {c : Nat} {aged : Bool} {opcode : Nat} {body : Body} {s : State} (h : OwnBody body) : OwnStep c s (tapOp c aged opcode body s) :=
  issueOp_step h

theorem execTfeed_owns {c : Fin 8} {aged : Bool} {s : State} : Owns c s (execTfeed c aged s) := .next (tapOp_step bodyFeed_own)

theorem execTlive_owns {c : Fin 8} {aged : Bool} {s : State} : Owns c s (execTlive c aged s) := .next (tapOp_step bodyFeed_own)

theorem bodyTstop_own : OwnBody bodyTstop := by
  intro s c q
  simp only [bodyTstop]
  split
  · exact reject_still.step
  · split
    · exact reject_still.step
    · split
      · exact .refl _
      · split
        · exact .refl _
        · split
          · exact stopFeed_step
          · exact updFeed_still.step

theorem execTstop_owns {c : Fin 8} {aged : Bool} {s : State} : Owns c s (execTstop c aged s) := .next (tapOp_step bodyTstop_own)

theorem bodyTstate_own : OwnBody bodyTstate := by
  intro s c q
  simp only [bodyTstate]
  split
  · exact reject_still.step
  · split
    · exact reject_still.step
    · split
      · exact reject_still.step
      · exact noteTraffic_still.step.after (clearBad_still.step.after wrNum_still.step)

theorem execTstate_owns {c : Fin 8} {aged : Bool} {s : State} : Owns c s (execTstate c aged s) := .next (tapOp_step bodyTstate_own)

theorem updStream_still {s : State} {c id j : Nat} {g : LiveStream → LiveStream} : Still s (updStream s c id j g) := updFeed_still

theorem rejectLive_kept {s : State} {f : Feed} {source reason detail : Nat} : Kept s (rejectLive s f source reason detail) :=
  rejectWith_kept fun _ => .refl _

theorem frameComplete_kept {s : State} {f : Feed} {j : Nat} {fr : LiveFrame} : Kept s (frameComplete s f j fr) := by
  simp only [frameComplete]
  split
  · exact tapAdd_still.kept.after updStream_still.kept
  · split
    · exact updStream_still.kept
    · split
      · exact rejectLive_kept.after updStream_still.kept
      · exact .after (.ite tapAdd_still.kept (.refl _)) (updStream_still.kept.after updStream_still.kept)

theorem frameEnter_still {s : State} {f : Feed} {j : Nat} {fr : LiveFrame} : Still s (frameEnter s f j fr) :=
  .ite updStream_still (.ite tapAdd_still (updStream_still.after (tapAdd_still.after updStream_still)))

theorem frameFragment_kept {s : State} {f : Feed} {j len data : Nat} : Kept s (frameFragment s f j len data) := by
  simp only [frameFragment]
  split
  · exact .refl _
  · split
    · exact .ite (.refl _) (.ite frameComplete_kept updStream_still.kept)
    · exact .ite tapAdd_still.kept (.ite tapAdd_still.kept (.ite frameComplete_kept frameEnter_still.kept))

theorem execLiveDatagramReceive_keeps {port : Fin 2} {udpPort : BitVec 16} {len data : Nat} {s : State} :
    Keeps s (execLiveDatagramReceive port udpPort len data s) := by
  simp only [execLiveDatagramReceive]
  split
  · exact .next (.refl _)
  · split
    · exact .next tapAdd_still.kept
    · split
      · exact .next tapAdd_still.kept
      · exact .ite (.next tapAdd_still.kept) (.next (vccGrant_still.kept.after frameFragment_kept))

theorem execLiveFrameIncomplete_owns {c : Fin 8} {feed : Fin 4} {stream : Fin 32} {frame : BitVec 32} {s : State} :
    Owns c s (execLiveFrameIncomplete c feed stream frame s) := by
  simp only [execLiveFrameIncomplete]
  split
  · exact .next (.refl _)
  · split
    · exact .next (.refl _)
    · exact .next (tapAdd_still.step.after updStream_still.step)

theorem decodeLive_kept {s : State} {f : Feed} {j : Nat} : Kept s (decodeLive s f j) := by
  simp only [decodeLive]
  split
  · exact .refl _
  · split
    · exact rejectLive_kept.after updStream_still.kept
    · split
      · exact faultFeed_kept
      · exact .after (.ite (rejectLive_kept.after updStream_still.kept) updStream_still.kept) (countDecode_still.kept.after useWork_still.kept)

theorem tickSlot_still {tk j : Nat} {s : State} {f : Feed} : Still s (tickSlot tk j s f) := by
  simp only [tickSlot]
  split
  · exact tapAdd_still.after (updFeed_still.after applyPuts_still)
  · exact .ite (tapAdd_still.after (updFeed_still.after applyPuts_still)) (updFeed_still.after applyPuts_still)

theorem dropStale_still {s : State} {f : Feed} {moment : Nat} : Still s (dropStale s f moment) := tapAdd_still.after updFeed_still

theorem tickStep_still {c id tk : Nat} {s : State} {j : Nat} : Still s (tickStep c id tk s j) := by
  simp only [tickStep]
  split
  · exact .ite tickSlot_still (.refl _)
  · exact .refl _

theorem execLiveTick_keeps {c : Fin 8} {feed : Fin 4} {s : State} : Keeps s (execLiveTick c feed s) := by
  simp only [execLiveTick]
  split
  · exact .next (.refl _)
  · split
    · exact .next (.refl _)
    · split
      · exact .next updFeed_still.kept
      · split
        · exact .next (updFeed_still.kept.after tapAdd_still.kept)
        · split
          · exact .next faultFeed_kept
          · split
            · exact .ite
                (.next
                  (updFeed_still.kept.after
                    (publishBatch_kept.after (.after (.foldl fun _ _ => tickStep_still.kept) (dropStale_still.kept.after feedTouch_still.kept)))))
                (.next (.after (.foldl fun _ _ => tickStep_still.kept) (dropStale_still.kept.after feedTouch_still.kept)))
            · exact .next (.after (.foldl fun _ _ => tickStep_still.kept) (dropStale_still.kept.after feedTouch_still.kept))

theorem execTapPerfClear_keeps {freeze : Bool} {s : State} : Keeps s (execTapPerfClear freeze s) :=
  .ite (.next (.same rfl rfl rfl rfl)) (.next (.refl _))

end Sys2Proof.Machine
end

/-! ## Relay-only, and the commands on contexts -/

section
namespace Sys2Proof.Machine

theorem withdrawPkg_kept {s : State} {c : Nat} {p : Pkg} : Kept s (withdrawPkg s c p) := postEvent_kept

theorem abortCtx_kept {s : State} {c : Nat} : Kept s (abortCtx s c) :=
  pkgAbort_kept.after (.after (.foldl fun _ _ => withdrawPkg_kept) (updCtx_kept fun _ => id))

theorem stopFeeds_step {s : State} {c : Nat} : OwnStep c s (stopFeeds s c) := .foldl fun _ _ => stopFeed_step

theorem abortColls_kept {s : State} {c : Nat} : Kept s (abortColls s c) := by
  unfold abortColls
  exact updFab_still.kept.after (.foldl fun _ _ => collFail_step.kept)

theorem closeBegin_kept {s : State} {c : Nat} : Kept s (closeBegin s c) := abortColls_kept.after (stopFeeds_step.kept.after abortCtx_kept)

theorem dropCtx_kept {s : State} {c : Nat} : Kept s (dropCtx s c) := by
  have gone (u : State) : Kept u (zeroSlots (rlbDrop (fabClose u c) fun e => e.1 = c) (ctxOf s c).sumpFirst (ctxOf s c).sumpCount) :=
    zeroSlots_still.kept.after (rlbDrop_still.kept.after fabClose_still.kept)
  exact .after (.ctx rfl) (gone s)

theorem afterClose_kept {s : State} : Kept s (afterClose s) := by
  simp only [afterClose]
  split
  · exact .refl s
  · split
    · rename_i serving
      exact .after (.foldl fun _ _ => domFall_kept) (setSelfRef_still.kept.after (setMode_kept (.refl s) (by simp [serving]) (by simp)))
    · exact .foldl fun _ _ => domFall_kept

theorem closeEnd_kept {s : State} {c : Nat} : Kept s (closeEnd s c) := afterClose_kept.after (dropCtx_kept.after ledgerWriteBack_step.kept)

theorem closeNow_kept {s : State} {c : Nat} : Kept s (closeNow s c) := closeEnd_kept.after (.after (updCtx_kept fun _ => id) closeBegin_kept)

theorem abandonAll_kept {s : State} : Kept s (abandonAll s) :=
  .after (.foldl fun _ _ => postEvent_kept) (.foldl fun _ _ => dropCtx_kept.after abortColls_kept)

theorem closeTunnels_still {s : State} : Still s (closeTunnels s) := .foldl fun _ _ => updTun_still.after tunnelDown_still

theorem relayEnter_kept {s : State} {cause : Nat} : Kept s (relayEnter s cause) := by
  have fallen (u : State) : Kept u (relayOffDomains.foldl domFall (closeTunnels (abandonAll u))) :=
    .after (.foldl fun _ _ => domFall_kept) (closeTunnels_still.kept.after abandonAll_kept)
  have cleaned (u : State) (l : List BadRange) : Kept u { u with memS := { u.memS with bad := l } } := .same rfl rfl rfl rfl
  have redrawn (u : State) : Kept u (requestLabel { updMbx (loseRings u) fun m => { m with taken := m.taken.map relayCmd } with
      ras := closeAllCoal 32 (updMbx (loseRings u) fun m => { m with taken := m.taken.map relayCmd }).ras }) := by
    refine requestLabel_kept.after (.after (Still.ras (by simp)).kept ?_)
    exact .after (updMbx_kept (by simp)) loseRings_kept
  simp only [relayEnter]
  split
  · rename_i runs
    have up : s.mode ≠ .offOrReset ∧ s.mode ≠ .relayOnly := by
      simp only [Bool.or_eq_true, decide_eq_true_eq] at runs
      obtain e | e := runs <;> simp [e]
    refine (redrawn _).after (setMode_kept ?_ up (by simp))
    exact (cleaned ..).after ((fallen _).after (.same rfl rfl rfl rfl))
  · exact .ite (.same rfl rfl rfl rfl) (.refl s)

theorem zeroCtx_still {s : State} {c a n : Nat} : Still s (zeroCtx s c a n) := .foldl fun _ _ => clearBad_still.after zeroRange_still

theorem openTables_still {s : State} {n : Nat} : Still s (openTables s n) :=
  .after (.ite (.refl _) (indexCtx_still.after (indexCtx_still.after (zeroCtx_still.after zeroCtx_still)))) (.ite (.refl _) zeroCtx_still)

theorem openCtx_kept {s : State} {n b : Nat} (up : s.mode ≠ .offOrReset ∧ s.mode ≠ .relayOnly) : Kept s (openCtx s n b) := by
  have opened (st : StashS) : Kept s (planeDomains.foldl domRise (openTables { s with ctxs := s.ctxs.set n (openedCtx s b), stash := st } n)) :=
    .after (.foldl fun _ _ => domRise_kept) (openTables_still.kept.after (.ctx rfl))
  exact setMode_kept (setSelfRef_still.kept.after (.after (.ite (.refl _) (.foldl fun _ _ => domRise_kept)) (opened _))) up (by simp)

/-- An open is refused in relay-only. -/
theorem mode_ne_relayOnly_of_open_checked {s : State} {raw : Nat} (isOpen : cmdOp raw = 0x18) (checked : cmdChecks s raw = none) :
    s.mode ≠ .relayOnly := by
  intro relay
  have row : cmdRow raw = some ⟨false, .either, [(8, 8)]⟩ := by
    unfold cmdRow
    rw [isOpen]
    rfl
  simp [cmdChecks, row, relay, chk, firstSome] at checked

theorem workOpen_kept {s : State} {raw : Nat} (up : s.mode ≠ .offOrReset ∧ s.mode ≠ .relayOnly) : Kept s (workOpen s raw).st := by
  simp only [workOpen]
  refine cmdTry_kept_of_passed ?_
  simp only
  exact openCtx_kept up

/-- A stopped Foreman runs no command. -/
theorem execCtxOpen_keeps {place : Nat} {s : State} (stopped : s.mode = .offOrReset → s.mbx.fwState = 0) : Keeps s (execCtxOpen place s) := by
  refine .next (runCmd_kept_of_checked fun u raw traced isOp runs checked => workOpen_kept ⟨?_, mode_ne_relayOnly_of_open_checked isOp checked⟩)
  rw [traced.system.mode]
  intro off
  simp [stopped off] at runs

theorem workClose_kept {s : State} {raw : Nat} : Kept s (workClose s raw).st := cmdTry_kept fun _ => closeBegin_kept

theorem execCtxClose_keeps {place : Nat} {s : State} : Keeps s (execCtxClose place s) := .next (runCmd_kept fun _ _ => workClose_kept)

theorem workQuery_still {s : State} {raw : Nat} : Still s (workQuery s raw).st := .refl _

theorem execCtxQuery_keeps {place : Nat} {s : State} : Keeps s (execCtxQuery place s) := .next (runCmd_kept fun _ _ => workQuery_still.kept)

theorem workMap_kept {s : State} {raw : Nat} : Kept s (workMap s raw).st := cmdTry_kept fun _ => updCtx_kept fun _ => id

theorem execCtxMap_keeps {place : Nat} {s : State} : Keeps s (execCtxMap place s) := .next (runCmd_kept fun _ _ => workMap_kept)

theorem workSubmit_kept {s : State} {raw : Nat} : Kept s (workSubmit s raw).st := cmdTry_kept fun _ => updCtx_kept fun _ => id

theorem execPkgSubmit_keeps {place : Nat} {s : State} : Keeps s (execPkgSubmit place s) := .next (runCmd_kept fun _ _ => workSubmit_kept)

theorem workPkg_kept {act : State → Nat → State} {s : State} {raw : Nat} (h : ∀ u c, Kept u (act u c)) : Kept s (workPkg act s raw).st :=
  cmdTry_kept fun u => h u _

theorem execPkgRetry_keeps {place : Nat} {s : State} : Keeps s (execPkgRetry place s) :=
  .next (runCmd_kept fun _ _ => workPkg_kept fun _ _ => pkgRetry_step.kept)

theorem skipPkg_kept {s : State} {c : Nat} : Kept s (skipPkg s c) := pkgSkip_kept fun _ => lowWater_kept

theorem execPkgSkip_keeps {place : Nat} {s : State} : Keeps s (execPkgSkip place s) :=
  .next (runCmd_kept fun _ _ => workPkg_kept fun _ _ => skipPkg_kept)

theorem execPkgAbort_keeps {place : Nat} {s : State} : Keeps s (execPkgAbort place s) :=
  .next (runCmd_kept fun _ _ => workPkg_kept fun _ _ => pkgAbort_kept)

theorem workTallyRead_kept {s : State} {raw : Nat} : Kept s (workTallyRead s raw).st := cmdTry_kept fun _ => dstWrite_still.kept

theorem execTallyRead_keeps {place : Nat} {s : State} : Keeps s (execTallyRead place s) := .next (runCmd_kept fun _ _ => workTallyRead_kept)

theorem setTallies_kept {s : State} {c first count v : Nat} : Kept s (setTallies s c first count v) :=
  .foldl fun _ _ => lowWater_kept.after setTally_step.kept

theorem workTallySet_kept {s : State} {raw : Nat} : Kept s (workTallySet s raw).st := cmdTry_kept fun _ => setTallies_kept

theorem execTallySetCmd_keeps {place : Nat} {s : State} : Keeps s (execTallySetCmd place s) := .next (runCmd_kept fun _ _ => workTallySet_kept)

theorem workLedgerRead_kept {s : State} {raw : Nat} : Kept s (workLedgerRead s raw).st := cmdTry_kept fun _ => dstWrite_still.kept

theorem execLedgerRead_keeps {place : Nat} {s : State} : Keeps s (execLedgerRead place s) := .next (runCmd_kept fun _ _ => workLedgerRead_kept)

theorem ledgerStore_step {s : State} {c first count v : Nat} : OwnStep c s (ledgerStore s c first count v) :=
  fwWrite_still.step.after (updCtx_step fun _ => id)

theorem workLedgerWrite_kept {s : State} {raw : Nat} : Kept s (workLedgerWrite s raw).st := cmdTry_kept fun _ => ledgerStore_step.kept

theorem execLedgerWrite_keeps {place : Nat} {s : State} : Keeps s (execLedgerWrite place s) := .next (runCmd_kept fun _ _ => workLedgerWrite_kept)

theorem writeMapper_still {s : State} {c h e : Nat} : Still s (writeMapper s c h e) := wrNum_still.after (wrNum_still.after wrNum_still)

theorem workStashWrite_kept {s : State} {raw : Nat} : Kept s (workStashWrite s raw).st :=
  cmdTry_kept fun _ => .foldl fun _ _ => writeMapper_still.kept

theorem execStashWrite_keeps {place : Nat} {s : State} : Keeps s (execStashWrite place s) := .next (runCmd_kept fun _ _ => workStashWrite_kept)

end Sys2Proof.Machine
end

/-! ## Error events and records -/

section
namespace Sys2Proof.Machine

theorem repairEvent_still {s : State} {kind item : Nat} : Still s (repairEvent s kind item) := logErr_still

theorem markSuspect_kept {s : State} {ch : Nat} : Kept s (markSuspect s ch) := .ite (.refl _) (repairEvent_still.kept.after (.same rfl rfl rfl rfl))

theorem noteUeRow_kept {s : State} {line : Nat} : Kept s (noteUeRow s line) := .after (.ite markSuspect_kept (.refl _)) (.same rfl rfl rfl rfl)

theorem noteCeLine_kept {s : State} {line : Nat} : Kept s (noteCeLine s line) := .after (.ite markSuspect_kept (.refl _)) (.same rfl rfl rfl rfl)

theorem noteSpBit_kept {s : State} {line bitNo : Nat} : Kept s (noteSpBit s line bitNo) :=
  .ite (.ite (.refl _) (repairEvent_still.kept.after (.same rfl rfl rfl rfl))) (.same rfl rfl rfl rfl)

theorem undoOne_still {later : List Flight} {s : State} {u : Nat × Nat × Nat} : Still s (undoOne later s u) := .ite (.refl _) wrPhys_still

theorem failFabric_kept {s : State} {c : Nat} {f : Flight} {status detail : Nat} : Kept s (failFabric s c f status detail) := by
  simp only [failFabric]
  split
  · split
    · exact collFail_step.kept
    · exact dropTxns_still.kept
  · exact .refl _

theorem failFlight_kept {s : State} {c : Nat} {f : Flight} {status detail : Nat} : Kept s (failFlight s c f status detail) :=
  .after (updCtx_kept fun _ => id)
    (.after (.ite stashUndo_still.kept (.refl _))
      (.after (.ite ringRollback_step.kept (.refl _))
        (.after (.foldl fun _ _ => undoOne_still.kept) (loseOutputs_still.kept.after failFabric_kept))))

theorem endReader_kept {s : State} {c : Nat} {b : BadRange} : Kept s (endReader s c b) := by
  simp only [endReader]
  split
  · exact .refl _
  · split
    · exact failFlight_kept
    · split
      · exact haltFeed_kept
      · exact .refl _

theorem farFlight_kept {s : State} {c : Nat} {f : Flight} : Kept s (farFlight s c f) := by
  simp only [farFlight]
  split
  · exact .ite failFlight_kept (.refl _)
  · exact .refl _

theorem withdrawFar_kept {s : State} : Kept s (withdrawFar s) := by
  have withdrawn (u : State) : Kept u { u with memS := { u.memS with farWithdrawn := true } } := .same rfl rfl rfl rfl
  simp only [withdrawFar]
  split
  · exact .refl s
  · exact (withdrawn _).after (.foldl fun _ _ => .foldl fun _ _ => farFlight_kept)

theorem addBad_still {s : State} {b : BadRange} : Still s (addBad s b) := .ite (.refl _) (.own rfl)

theorem arrayFault_kept {s : State} : Kept s (arrayFault s) := by
  simp only [arrayFault]
  split
  · exact .refl _
  · exact failFlight_kept

theorem sumpError_kept {s : State} {key : Nat} : Kept s (sumpError s key) := by
  simp only [sumpError]
  split
  · exact .refl _
  · exact .after (.foldl fun _ _ => .foldl fun _ _ => .ite failFlight_kept (.refl _)) (.after (.same rfl rfl rfl rfl) drawFree_still.kept)

@[simp] theorem countOverwritten_first (r : RasS) : (countOverwritten r).first = r.first := by
  simp only [countOverwritten]
  split <;> rfl

@[simp] theorem persist_first (r : RasS) (now rec : Nat) : (persist r now rec).first = r.first := by
  simp only [persist]
  split <;> rfl

@[simp] theorem putRecord_first (r : RasS) (rec : Nat) : (putRecord r rec).first = r.first := rfl

theorem eventEffect_kept {s : State} {e : ErrEvent} : Kept s (eventEffect s e) :=
  .ite (.ite (noteSpBit_kept.after (.same rfl rfl rfl rfl)) (endReader_kept.after (addBad_still.kept.after (.same rfl rfl rfl rfl))))
    (.ite
      (.ite (noteCeLine_kept.after (.same rfl rfl rfl rfl))
        (noteUeRow_kept.after (endReader_kept.after (addBad_still.kept.after (.same rfl rfl rfl rfl)))))
      (.ite (.ite (.same rfl rfl rfl rfl) (.ite (.ite (endReader_kept.after (.same rfl rfl rfl rfl)) (.refl _)) withdrawFar_kept))
        (.ite (.ite (.ite (.same rfl rfl rfl rfl) (.ite sumpError_kept (.refl _))) (.ite arrayFault_kept (.refl _))) (.refl _))))

theorem execErrorEvent_keeps {cls : Fin 16} {sev : Fin 4} {src inst ctx : BitVec 8} {key : BitVec 64} {info : BitVec 128} {s : State} :
    Keeps s (execErrorEvent cls sev src inst ctx key info s) :=
  .ite (.next (.refl _)) (.next (withHealth_kept.after (.after (.ite relayEnter_kept (.refl _)) (reportError_still.kept.after eventEffect_kept))))

theorem execCoalesceClose_keeps {entry : Fin 32} {s : State} : Keeps s (execCoalesceClose entry s) := .next (Still.ras (by simp)).kept

theorem errorLogged_kept {s : State} {cls seq : Nat} : Kept s (errorLogged s cls seq) := .ite (postEvent_kept.after (.same rfl rfl rfl rfl)) (.refl _)

theorem commitEvent_kept {s : State} {e : Coal} : Kept s (commitEvent s e) := by
  have committed (r : RasS) (t n p c q : Nat) (h : r.first.length = s.ras.first.length) :
      Kept s (errorLogged (traceEvent { s with ras := r } t n p c) e.ev.cls q) :=
    errorLogged_kept.after (traceEvent_still.kept.after (Still.ras h).kept)
  simp only [commitEvent]
  refine .after (.ite requestLabel_kept (.refl _)) (committed _ _ _ _ _ _ ?_)
  split
  · simp
  · simp

theorem execLogCommit_keeps {s : State} : Keeps s (execLogCommit s) := by
  simp only [execLogCommit]
  split
  · exact .next (.refl s)
  · split
    · exact .next (Still.ras (by simp)).kept
    · split
      · exact .next (Still.ras (by simp)).kept
      · split
        · exact .next (.refl s)
        · exact .next (withHealth_kept.after (commitEvent_kept.after (Still.ras (by rfl)).kept))

theorem execRasFirstClr_keeps {value : BitVec 64} {s : State} : Keeps s (execRasFirstClr value s) :=
  .ite (.next (.refl s)) (.next (Still.ras (by simp)).kept)

theorem execHwReset_keeps {s : State} : Keeps s (execHwReset s) := .ite (.next (.refl _)) (.next (.same rfl rfl rfl rfl))

theorem workIdentify_kept {s : State} {raw : Nat} : Kept s (workIdentify s raw).st := cmdTry_kept fun _ => dstWrite_still.kept

theorem execIdentify_keeps {place : Nat} {s : State} : Keeps s (execIdentify place s) := .next (runCmd_kept fun _ _ => workIdentify_kept)

end Sys2Proof.Machine
end

/-! ## Administration, boxes, the Canopy, the Chisel -/

section
namespace Sys2Proof.Machine

theorem workHealth_kept {s : State} {raw : Nat} : Kept s (workHealth s raw).st := cmdTry_kept fun _ => dstWrite_still.kept

theorem execHealth_keeps {place : Nat} {s : State} : Keeps s (execHealth place s) := .next (runCmd_kept fun _ _ => workHealth_kept)

theorem workCfgGet_still {s : State} {raw : Nat} : Still s (workCfgGet s raw).st := by
  simp only [workCfgGet]
  split
  · exact cmdFail_still
  · exact .refl _

theorem execCfgGet_keeps {place : Nat} {s : State} : Keeps s (execCfgGet place s) := .next (runCmd_kept fun _ _ => workCfgGet_still.kept)

theorem setInterleave_still {s : State} {global : Bool} : Still s (setInterleave s global) := .ite (.refl _) (loseRange_still.after (.own rfl))

theorem workCfgSet_kept {s : State} {raw : Nat} : Kept s (workCfgSet s raw).st := by
  simp only [workCfgSet]
  split
  · refine cmdTry_kept fun _ => ?_
    simp only
    exact setInterleave_still.kept
  · split
    · refine cmdTry_kept fun _ => ?_
      simp only
      exact updMbx_kept rfl
    · split
      · refine cmdTry_kept fun _ => ?_
        simp only
        exact updMbx_kept rfl
      · exact cmdFail_still.kept

theorem execCfgSet_keeps {place : Nat} {s : State} : Keeps s (execCfgSet place s) := .next (runCmd_kept fun _ _ => workCfgSet_kept)

theorem workLogRead_kept {s : State} {raw : Nat} : Kept s (workLogRead s raw).st := by
  have noted (u : State) (n : Nat) : Kept u { u with ras := { u.ras with highRead := n } } := .same rfl rfl rfl rfl
  simp only [workLogRead]
  refine cmdTry_kept fun _ => ?_
  rw [apply_ite CmdOut.st]
  exact .ite ((noted _ _).after dstWrite_still.kept) dstWrite_still.kept

theorem execLogRead_keeps {place : Nat} {s : State} : Keeps s (execLogRead place s) := .next (runCmd_kept fun _ _ => workLogRead_kept)

theorem workPwrCap_kept {s : State} {raw : Nat} : Kept s (workPwrCap s raw).st := by
  unfold workPwrCap
  refine cmdTry_kept fun _ => ?_
  simp only
  exact updPwr_kept

theorem execPwrCap_keeps {place : Nat} {s : State} : Keeps s (execPwrCap place s) := .next (runCmd_kept fun _ _ => workPwrCap_kept)

theorem setGroup_still {s : State} {st g : Nat} : Still s (setGroup s st g) := by
  have put : Still s { s with memS := { s.memS with ret := s.memS.ret.set g st } } := .own (by simp)
  simp only [setGroup]
  split
  · exact .refl s
  · split
    · exact clearBad_still.after (zeroRange_still.after put)
    · exact .after (.ite loseRange_still (.refl _)) put

theorem workPwrRetain_kept {s : State} {raw : Nat} : Kept s (workPwrRetain s raw).st :=
  cmdTry_kept fun _ => traceState_still.kept.after (.foldl fun _ _ => setGroup_still.kept)

theorem execPwrRetain_keeps {place : Nat} {s : State} : Keeps s (execPwrRetain place s) := .next (runCmd_kept fun _ _ => workPwrRetain_kept)

theorem bdCount_still {s : State} {c e n : Nat} : Still s (bdCount s c e n) := .ite setShapeWord_still (.refl _)

theorem bdBodyOf_own {mk : State → Nat → Nat → Plan} {outs : State → Nat → Nat → List (Nat × Nat)} {eff : State → Nat → Nat → Result}
    (h : ∀ u c e, OwnStep c u (eff u c e).st) : OwnBody (bdBodyOf mk outs eff) := by
  intro u c q
  simp only [bdBodyOf]
  split
  · split
    · exact bdCount_still.step
    · exact reject_still.step
  · exact runAfter_step fun _ => h ..

theorem bdBody_own {mk : State → Nat → Nat → Plan} {eff : State → Nat → Nat → Result} (h : ∀ u c e, OwnStep c u (eff u c e).st) :
    OwnBody (bdBody mk eff) :=
  bdBodyOf_own h

theorem bdOp_step {c face : Nat} {aged : Bool} {opcode : Nat} {body : Body} {s : State} (h : OwnBody body) :
    OwnStep c s (bdOp c face aged opcode body s) :=
  issueOp_step h

theorem boxdecEff_still {s : State} {c e : Nat} : Still s (boxdecEff s c e).st := applyPuts_still

theorem bodyBoxdec_own : OwnBody bodyBoxdec := bdBody_own fun _ _ _ => boxdecEff_still.step

theorem execBoxdec_owns {c : Fin 8} {face : Fin 4} {aged : Bool} {s : State} : Owns c s (execBoxdec c face aged s) := .next (bdOp_step bodyBoxdec_own)

theorem boxselEff_still {s : State} {c e : Nat} : Still s (boxselEff s c e).st := bdCount_still.after applyPuts_still

theorem bodyBoxsel_own : OwnBody bodyBoxsel := bdBodyOf_own fun _ _ _ => boxselEff_still.step

theorem execBoxsel_owns {c : Fin 8} {face : Fin 4} {aged : Bool} {s : State} : Owns c s (execBoxsel c face aged s) := .next (bdOp_step bodyBoxsel_own)

theorem nmsEff_still {s : State} {c e : Nat} : Still s (nmsEff s c e).st := bdCount_still.after applyPuts_still

theorem bodyNms_own : OwnBody bodyNms := bdBodyOf_own fun _ _ _ => nmsEff_still.step

theorem execNms_owns {c : Fin 8} {face : Fin 4} {aged : Bool} {s : State} : Owns c s (execNms c face aged s) := .next (bdOp_step bodyNms_own)

theorem argmaxEff_still {s : State} {c e : Nat} : Still s (argmaxEff s c e).st := applyPuts_still

theorem bodyArgmax_own : OwnBody bodyArgmax := bdBody_own fun _ _ _ => argmaxEff_still.step

theorem execArgmax_owns {c : Fin 8} {face : Fin 4} {aged : Bool} {s : State} : Owns c s (execArgmax c face aged s) := .next (bdOp_step bodyArgmax_own)

theorem swapDetail_still {s : State} {l : List Nat} {x : Nat × Nat} : Still s (swapDetail s l x).1 := by
  simp only [swapDetail]
  split
  · exact .refl s
  · split
    · exact .refl s
    · exact drawFree_still

theorem listOp_step {s : State} {c : Nat} {p : Plan} {l : List Nat} {t : Nat} {zero : Bool} {swapFail : Option Nat} {run : State → Result}
    (h : ∀ u, OwnStep c u (run u).st) : OwnStep c s (listOp s c p l t zero swapFail run).st := by
  simp only [listOp]
  split
  · exact reject_still.step
  · split
    · exact reject_still.step
    · have resident : OwnStep c s (makeResident s c (needOf s c l t) swapFail).1 := makeResident_step
      split
      · rename_i s1 x eq
        rw [eq] at resident
        exact swapDetail_still.step.after resident
      · rename_i s1 eq
        rw [eq] at resident
        exact (h _).after (.after (.foldl fun _ _ => touchSeq_still.step) resident)

theorem countPages_still {s : State} {c : Nat} {g : RingCfg} {plan : List (Task × List Nat × List Nat × Bool)} : Still s (countPages s c g plan) :=
  .after (.own rfl) (drawFree_still.after (.foldl fun _ _ => .foldl fun _ _ => rlbTouch_still))

theorem cattnRun_step {p : Plan} {s : State} {c e : Nat} {l : List Nat} : OwnStep c s (cattnRun p s c e l).st := by
  unfold cattnRun
  exact runAfter_step fun _ => .ite (narrowOut_step.after (narrowOut_step.after countPages_still.step)) (narrowOut_step.after countPages_still.step)

theorem bodyCattn_own {swapFail : Option Nat} : OwnBody (bodyCattn swapFail) := by
  unfold bodyCattn
  exact fun _ _ _ => listOp_step fun _ => cattnRun_step

theorem canopyOp_step {c : Nat} {aged : Bool} {kind : QOp → Bool} {body : Body} {s : State} (h : OwnBody body) :
    OwnStep c s (canopyOp c aged kind body s) :=
  issueOp_step h

theorem execCattn_owns {c : Fin 8} {aged : Bool} {swapFail : Option Nat} {s : State} : Owns c s (execCattn c aged swapFail s) :=
  .next (canopyOp_step bodyCattn_own)

theorem writeSummary_still {s : State} {c : Nat} {g : RingCfg} {f h : Nat} : Still s (writeSummary s c g f h) :=
  wrNum_still.after (wrNum_still.after wrNum_still)

/-- Steps over what an append has done so far. -/
theorem foldl_append_step {c : Nat} {α : Type} {f : Append → α → Append} (h : ∀ a x, OwnStep c a.st (f a x).st) {a : Append} {l : List α} :
    OwnStep c a.st (l.foldl f a).st := by
  induction l generalizing a with
  | nil => exact .refl a.st
  | cons x r ih => exact ih.after (h a x)

theorem storeRow_still {s : State} {c : Nat} {g : RingCfg} {d : Desc} {exp : Int} {idx : Nat → List Nat} {da : Nat} {a : Append} :
    Still a.st (storeRow s c g d exp idx da a).st := wrNum_still

theorem appendPage_step {s : State} {c e : Nat} {g : RingCfg} {slot b start t0 n lp grp : Nat} {a : Append} :
    OwnStep c a.st (appendPage s c e g slot b start t0 n lp grp a).st := by
  simp only [appendPage]
  refine .after (foldl_append_step fun u h => ?_) ?_
  · have rows (v : State) (l : List Nat) (fl : NumFlags) (bad : Nat) (f : Append → Nat → Append) (stored : ∀ a t, OwnStep c a.st (f a t).st) :
        OwnStep c v (l.foldl f ⟨v, fl, bad⟩).st :=
      foldl_append_step (a := ⟨v, fl, bad⟩) stored
    have begun (p : Bool) (da v : Nat) : OwnStep c u.st (if p then u.st else wrNum u.st c da v 3) := .ite (.refl _) wrNum_still.step
    split
    · exact writeSummary_still.step.after ((rows _ _ _ _ _ fun _ _ => storeRow_still.step.after storeRow_still.step).after (begun ..))
    · exact (rows _ _ _ _ _ fun _ _ => storeRow_still.step.after storeRow_still.step).after (begun ..)
  · split
    · exact allocPage_step
    · exact .refl _

theorem appendEntry_step {s : State} {c e : Nat} {g : RingCfg} {slot b start t : Nat} {a : Append} :
    OwnStep c a.st (appendEntry s c e g slot b start t a).st :=
  foldl_append_step fun _ _ => foldl_append_step fun _ _ => appendPage_step

theorem rappendRun_step {p : Plan} {s : State} {c e : Nat} {l : List Nat} {t : Nat} : OwnStep c s (rappendRun p s c e l t).st := by
  simp only [rappendRun]
  refine runAfter_step fun u => ?_
  have appended (f : Append → Nat × Nat → Append) (h : ∀ a x, OwnStep c a.st (f a x).st) :
      OwnStep c u (l.zipIdx.foldl f ⟨u, {}, 0⟩).st :=
    foldl_append_step (a := ⟨u, {}, 0⟩) h
  have lengths (st : State) (f : State → Nat → State) (h : ∀ v n, OwnStep c v (f v n)) : OwnStep c st (l.dedup.foldl f st) := .foldl h
  split
  · exact countUe_still.step.after noteTraffic_still.step
  · simp only
    refine .after (.own rfl) (noteTraffic_still.step.after (clearBad_still.step.after ?_))
    exact (lengths _ _ fun _ _ => putDir_still.step).after (appended _ fun _ _ => appendEntry_step)

theorem bodyRappend_own {swapFail : Option Nat} : OwnBody (bodyRappend swapFail) := fun _ _ _ => listOp_step fun _ => rappendRun_step

theorem execRappend_owns {c : Fin 8} {aged : Bool} {swapFail : Option Nat} {s : State} : Owns c s (execRappend c aged swapFail s) :=
  .next (canopyOp_step bodyRappend_own)

theorem rseqBody_own {swapFail : Option Nat} {eff : State → Nat → Nat → Result} (h : ∀ u c e, OwnStep c u (eff u c e).st) :
    OwnBody (rseqBody swapFail eff) := by
  intro u c q
  simp only [rseqBody]
  split
  · exact reject_still.step
  · have resident : OwnStep c u (makeResident u c (rqNeed u c q.env) swapFail).1 := makeResident_step
    split
    · rename_i s1 x eq
      rw [eq] at resident
      exact swapDetail_still.step.after resident
    · rename_i s1 eq
      rw [eq] at resident
      exact (h ..).after resident

theorem rseqOpen_step {s : State} {c e : Nat} : OwnStep c s (rseqOpen s c e).st := putDir_still.step.after (wrNum_still.step.after takeSlot_step)

theorem execRseqOpen_owns {c : Fin 8} {aged : Bool} {swapFail : Option Nat} {s : State} : Owns c s (execRseqOpen c aged swapFail s) :=
  .next (canopyOp_step (rseqBody_own fun _ _ _ => rseqOpen_step))

theorem rseqClose_step {s : State} {c e : Nat} : OwnStep c s (rseqClose s c e).st :=
  putDir_still.step.after (.ite (rlbDropSeq_still.step.after (giveSlot_step.after freePages_step)) (.refl _))

theorem execRseqClose_owns {c : Fin 8} {aged : Bool} {s : State} : Owns c s (execRseqClose c aged s) :=
  .next (canopyOp_step (rseqBody_own fun _ _ _ => rseqClose_step))

theorem rseqPriority_still {s : State} {c e : Nat} : Still s (rseqPriority s c e).st := putDir_still

theorem execRseqPriority_owns {c : Fin 8} {aged : Bool} {s : State} : Owns c s (execRseqPriority c aged s) :=
  .next (canopyOp_step (rseqBody_own fun _ _ _ => rseqPriority_still.step))

theorem rseqTruncate_step {s : State} {c e : Nat} : OwnStep c s (rseqTruncate s c e).st :=
  putDir_still.step.after
    (.after (.ite (.refl _) (.foldl fun _ _ => .foldl fun _ _ => wrNum_still.step)) (rlbDropSeq_still.step.after freePages_step))

theorem execRseqTruncate_owns {c : Fin 8} {aged : Bool} {swapFail : Option Nat} {s : State} : Owns c s (execRseqTruncate c aged swapFail s) :=
  .next (canopyOp_step (rseqBody_own fun _ _ _ => rseqTruncate_step))

theorem rseqEvict_step {swapFail : Option Nat} {s : State} {c e : Nat} : OwnStep c s (rseqEvict swapFail s c e).st := by
  simp only [rseqEvict]
  split
  · have out : OwnStep c s (swapOut s c (rqSeq e) (swapFail = some 0)).1 := swapOut_step
    split
    · rename_i s1 x eq
      rwa [eq] at out
    · rename_i s1 eq
      rwa [eq] at out
  · exact .refl s

theorem execRseqEvict_owns {c : Fin 8} {aged : Bool} {swapFail : Option Nat} {s : State} : Owns c s (execRseqEvict c aged swapFail s) :=
  .next (canopyOp_step (rseqBody_own fun _ _ _ => rseqEvict_step))

theorem rseqFetch_still {s : State} {c e : Nat} : Still s (rseqFetch s c e).st := touchSeq_still

theorem execRseqFetch_owns {c : Fin 8} {aged : Bool} {swapFail : Option Nat} {s : State} : Owns c s (execRseqFetch c aged swapFail s) :=
  .next (canopyOp_step (rseqBody_own fun _ _ _ => rseqFetch_still.step))

theorem execRsPerfClear_keeps {freeze : Bool} {s : State} : Keeps s (execRsPerfClear freeze s) :=
  .ite (.next (.same rfl rfl rfl rfl)) (.next (.refl _))

theorem cmvEffect_step {s : State} {c : Nat} {q : QOp} : OwnStep c s (cmvEffect s c q).st := narrowOut_step

theorem bodyCmv_own : OwnBody bodyCmv := fun _ _ _ => runPlan_step fun _ => cmvEffect_step

theorem execCmv_owns {c : Fin 8} {aged : Bool} {s : State} : Owns c s (execCmv c aged s) := .next (issueOp_step bodyCmv_own)

end Sys2Proof.Machine
end

/-! ## Checkpoints, firmware, calibration -/

section
namespace Sys2Proof.Machine

theorem saveCopies_step {m : Nat} {s : State} {c v img total k : Nat} : OwnStep c s (saveCopies m s c v img total k).st := by
  induction m generalizing s k with
  | zero => exact .refl s
  | succ m ih =>
    simp only [saveCopies]
    split
    · exact .refl s
    · split
      · exact pumpTxns_still.step.after addTxns_still.step
      · split
        · exact loseCtx_still.step.after countUe_still.step
        · exact ih.after fwWrite_still.step

theorem saveStep_kept {s : State} {t : Cmd} : Kept s (saveStep s t).st := by
  simp only [saveStep]
  split
  · exact .refl _
  · split
    · exact .refl _
    · exact saveCopies_step.kept

theorem workSave_kept {s : State} {raw : Nat} : Kept s (workSave s raw).st :=
  cmdTry_kept fun _ => saveCopies_step.kept.after (noteTraffic_still.kept.after ledgerWriteBack_step.kept)

theorem execCkptSave_keeps {place : Nat} {s : State} : Keeps s (execCkptSave place s) := .next (runCmd_kept fun _ _ => workSave_kept)

theorem seqResidentIn_step {img : Nat} {c : Nat} {s : State} {o : Nat} : OwnStep c s (seqResidentIn img c s o) :=
  putDir_still.step.after
    (drawFree_still.step.after (.after (.foldl fun _ _ => wrNum_still.step) (.after (.foldl fun _ _ => allocPage_step) takeSlot_step)))

theorem seqSwappedIn_still {img : Nat} {c : Nat} {s : State} {o : Nat} : Still s (seqSwappedIn img c s o) :=
  putDir_still.after (drawFree_still.after wrNum_still)

theorem restoreLedger_step {s : State} {c img : Nat} : OwnStep c s (restoreLedger s c img) :=
  .after (.foldl fun _ _ => ledgerStore_step.after wrNum_still.step) drawFree_still.step

theorem restoreApply_kept {s : State} {raw img : Nat} : Kept s (restoreApply s raw img).st :=
  .after (.ite (fwWrite_still.kept.after (setTallies_kept.after (updCtx_kept fun _ => id))) (.refl _))
    (.after (.ite restoreLedger_step.kept (.refl _))
      (.after (.foldl fun _ _ => seqSwappedIn_still.kept)
        (.after (.foldl fun _ _ => seqResidentIn_step.kept)
          (.after (.ite (.foldl fun _ _ => fwWrite_still.kept) (.refl _)) (.ite (.refl _) noteTraffic_still.kept)))))

theorem restoreImage_kept {s : State} {raw img : Nat} : Kept s (restoreImage s raw img).st := by
  simp only [restoreImage]
  split
  · exact cmdFail_still.kept
  · refine cmdTry_kept fun _ => ?_
    split
    · exact loseCtx_still.kept.after countUe_still.kept
    · exact restoreApply_kept

theorem askImage_still {s : State} {raw n : Nat} : Still s (askImage s raw n) := pumpTxns_still.after addTxns_still

theorem restoreStep_kept {s : State} {t : Cmd} : Kept s (restoreStep s t).st := by
  simp only [restoreStep]
  split
  · exact dropTxns_still.kept
  · split
    · exact .refl _
    · split
      · split
        · exact askImage_still.kept.after dropTxns_still.kept
        · exact cmdFail_still.kept.after dropTxns_still.kept
      · exact restoreImage_kept.after dropTxns_still.kept

theorem restoreLocal_kept {s : State} {raw : Nat} : Kept s (restoreLocal s raw).st := by
  simp only [restoreLocal]
  split
  · exact cmdFail_still.kept
  · refine cmdTry_kept fun _ => ?_
    split
    · exact cmdFail_still.kept
    · split
      · exact cmdFail_still.kept
      · exact restoreImage_kept.after noteTraffic_still.kept

theorem workRestore_kept {s : State} {raw : Nat} : Kept s (workRestore s raw).st := by
  refine cmdTry_kept fun _ => ?_
  split
  · exact askImage_still.kept
  · exact restoreLocal_kept

theorem execCkptRestore_keeps {place : Nat} {s : State} : Keeps s (execCkptRestore place s) := .next (runCmd_kept fun _ _ => workRestore_kept)

theorem updRegion_kept {s : State} {r : Nat} {f : FwRegion → FwRegion} : Kept s (updRegion s r f) := .same rfl rfl rfl rfl

theorem stageImage_kept {s : State} {r img len : Nat} : Kept s (stageImage s r img len).st := by
  simp only [stageImage]
  split
  · exact logErr_still.kept.after updRegion_kept
  · exact updRegion_kept

theorem workFwStage_kept {s : State} {raw : Nat} : Kept s (workFwStage s raw).st := cmdTry_kept fun _ => stageImage_kept

theorem execFwStage_keeps {place : Nat} {s : State} : Keeps s (execFwStage place s) := .next (runCmd_kept fun _ _ => workFwStage_kept)

theorem mapFeeds_still {s : State} {g : Feed → Feed} : Still s (mapFeeds s g) := .own rfl

theorem keepOld_kept {s : State} {r : Nat} : Kept s (keepOld s r) := by
  have marked (u : State) (c : Nat) : Kept u (updCtx u c fun x => { x with flight := x.flight.map markOld }) := updCtx_kept fun _ => id
  simp only [keepOld]
  split
  · exact mapFeeds_still.kept.after (.foldl marked)
  · exact .ite mapFeeds_still.kept (.refl s)

theorem activateImage_kept {s : State} {r : Nat} : Kept s (activateImage s r) :=
  .after (.ite (.same rfl rfl rfl rfl) (.refl _)) (keepOld_kept.after updRegion_kept)

theorem workFwActivate_kept {s : State} {raw : Nat} : Kept s (workFwActivate s raw).st := cmdTry_kept fun _ => activateImage_kept

theorem execFwActivate_keeps {place : Nat} {s : State} : Keeps s (execFwActivate place s) := .next (runCmd_kept fun _ _ => workFwActivate_kept)

theorem workFwStatus_kept {s : State} {raw : Nat} : Kept s (workFwStatus s raw).st := cmdTry_kept fun _ => .refl _

theorem execFwStatus_keeps {place : Nat} {s : State} : Keeps s (execFwStatus place s) := .next (runCmd_kept fun _ _ => workFwStatus_kept)

theorem retireImage_kept {s : State} {r : Nat} : Kept s (retireImage s r) := .after (.ite (.same rfl rfl rfl rfl) (.refl _)) updRegion_kept

theorem execImageRetire_keeps {region : Fin 5} {s : State} : Keeps s (execImageRetire region s) := .ite (.next retireImage_kept) (.next (.refl _))

theorem workCalRead_kept {s : State} {raw : Nat} : Kept s (workCalRead s raw).st := cmdTry_kept fun _ => .refl _

theorem execCalRead_keeps {place : Nat} {s : State} : Keeps s (execCalRead place s) := .next (runCmd_kept fun _ _ => workCalRead_kept)

theorem writeCal_kept {s : State} {f : SMap W32 → SMap W32} : Kept s (writeCal s f) := .same rfl rfl rfl rfl

theorem workCalWrite_kept {s : State} {raw : Nat} : Kept s (workCalWrite s raw).st := by
  unfold workCalWrite
  refine cmdTry_kept fun _ => ?_
  simp only
  exact writeCal_kept

theorem execCalWrite_keeps {place : Nat} {s : State} : Keeps s (execCalWrite place s) := .next (runCmd_kept fun _ _ => workCalWrite_kept)

end Sys2Proof.Machine
end

/-! ## Self-test, repair, the label, fabric commands -/

section
namespace Sys2Proof.Machine

theorem unitReset_still {s : State} {cls inst : Nat} : Still s (unitReset s cls inst) := by
  simp only [unitReset]
  split
  · exact .own rfl
  · exact .own rfl
  · exact .own rfl
  · exact .own rfl
  · exact .own rfl
  · exact .own rfl
  · exact .own rfl
  · exact .own rfl
  · exact clearBad_still.after (clearPlane_still.after (clearPlane_still.after zeroRange_still))
  · exact .refl _

theorem loseFace_kept {s : State} {f : Nat} : Kept s (loseFace s f) := relayEnter_kept.after updPwr_kept

theorem columnFail_kept {s : State} {p col : Nat} : Kept s (columnFail s p col) :=
  .ite (.ite (.same rfl rfl rfl rfl) (.ite loseFace_kept (repairEvent_still.kept.after (.same rfl rfl rfl rfl)))) (.ite (.refl _) loseFace_kept)

theorem rowFail_kept {s : State} {line : Nat} : Kept s (rowFail s line) :=
  .ite (.refl _)
    (.after (.ite loseFace_kept (.refl _))
      (repairEvent_still.kept.after (.after (.ite (.refl _) (.same rfl rfl rfl rfl)) (.same rfl rfl rfl rfl))))

theorem fenceUnit_kept {s : State} {cls inst : Nat} : Kept s (fenceUnit s cls inst) :=
  .ite (.refl _) (.after (.foldl fun _ _ => domFall_kept) (logErr_still.kept.after (.same rfl rfl rfl rfl)))

theorem coreFail_kept {s : State} {cls inst : Nat} : Kept s (coreFail s cls inst) :=
  .ite (.refl _) (.after (.ite fenceUnit_kept (repairEvent_still.kept.after logErr_still.kept)) (.same rfl rfl rfl rfl))

theorem bistFail_kept {s : State} {cls inst : Nat} {o : BistOutcome} : Kept s (bistFail s cls inst o) :=
  .ite (.after (.ite fenceUnit_kept (.refl _)) (.after (.foldl fun _ _ => columnFail_kept) logErr_still.kept))
    (.ite (.after (.ite loseFace_kept (.refl _)) (.after (.foldl fun _ _ => rowFail_kept) logErr_still.kept))
      (.ite (loseFace_kept.after logErr_still.kept) (.after (.ite coreFail_kept fenceUnit_kept) logErr_still.kept)))

theorem bistPass_kept {s : State} {cls inst : Nat} : Kept s (bistPass s cls inst) :=
  .ite (repairEvent_still.kept.after (.same rfl rfl rfl rfl)) (.refl _)

theorem runBist_kept {s : State} {cls inst : Nat} {o : BistOutcome} : Kept s (runBist s cls inst o) :=
  .after (.ite (.refl _) (.foldl fun _ _ => domFall_kept))
    (.after (.ite bistFail_kept bistPass_kept) (unitReset_still.kept.after (.foldl fun _ _ => domRise_kept)))

theorem workBist_kept {o : BistOutcome} {s : State} {raw : Nat} : Kept s (workBist o s raw).st := by
  have closed (u : State) (l : List Nat) : Kept u (l.foldl closeBegin u) := .foldl fun _ _ => closeBegin_kept
  have retired (u : State) : Kept u (if (regionFw u 4).old then retireImage u 4 else u) := .ite retireImage_kept (.refl u)
  simp only [workBist]
  refine cmdTry_kept fun u => ?_
  rw [apply_ite CmdOut.st]
  have run (cls inst : Nat) (o : BistOutcome) := (retired (withHealth u (runBist u cls inst o))).after (withHealth_kept.after runBist_kept)
  exact .ite ((closed _ _).after (run ..)) (run ..)

theorem execBistRun_keeps {place : Nat} {outcome : BistOutcome} {s : State} : Keeps s (execBistRun place outcome s) :=
  .next (runCmd_kept fun _ _ => workBist_kept)

theorem mapOut_kept {s : State} {ch : Nat} : Kept s (mapOut s ch) := repairEvent_still.kept.after (.same rfl rfl rfl rfl)

theorem workMapOut_kept {s : State} {raw : Nat} : Kept s (workMapOut s raw).st := cmdTry_kept fun _ => withHealth_kept.after mapOut_kept

theorem execRepairMapOut_keeps {place : Nat} {s : State} : Keeps s (execRepairMapOut place s) := .next (runCmd_kept fun _ _ => workMapOut_kept)

theorem workUnmap_kept {s : State} {raw : Nat} : Kept s (workUnmap s raw).st := by
  simp only [workUnmap]
  split
  · exact withHealth_kept.after (repairEvent_still.kept.after (.same rfl rfl rfl rfl))
  · exact .refl _

theorem execRepairUnmap_keeps {place : Nat} {s : State} : Keeps s (execRepairUnmap place s) := .next (runCmd_kept fun _ _ => workUnmap_kept)

theorem workLaneSwap_kept {s : State} {raw : Nat} : Kept s (workLaneSwap s raw).st :=
  cmdTry_kept fun _ => withHealth_kept.after (laneSwapped_still.kept.after updPort_still.kept)

theorem execRepairLaneSwap_keeps {place : Nat} {s : State} : Keeps s (execRepairLaneSwap place s) := .next (runCmd_kept fun _ _ => workLaneSwap_kept)

theorem workLabel_kept {s : State} {raw : Nat} : Kept s (workLabel s raw).st := cmdTry_kept fun _ => requestLabel_kept.after updLabel_kept

theorem execLabelUpdate_keeps {place : Nat} {s : State} : Keeps s (execLabelUpdate place s) := .next (runCmd_kept fun _ _ => workLabel_kept)

/-- A change of what is known of each command taken. -/
theorem mapTaken_kept {s : State} {g : Cmd → Cmd} : Kept s (updMbx s fun m => { m with taken := m.taken.map g }) := updMbx_kept (by simp)

theorem beginDrawing_kept {s : State} : Kept s (beginDrawing s) := by
  simp only [beginDrawing]
  exact updLabel_kept.after mapTaken_kept

theorem endDrawing_kept {s : State} : Kept s (endDrawing s) := by
  have step (u : State) (n : Nat) : Kept u { u with aoc := { u.aoc with lastStep := n } } := .same rfl rfl rfl rfl
  simp only [endDrawing]
  exact .ite ((step _ _).after (updLabel_kept.after mapTaken_kept)) (updLabel_kept.after mapTaken_kept)

theorem execLabelDrawing_keeps {cold : Bool} {s : State} : Keeps s (execLabelDrawing cold s) :=
  .ite (.next (.refl _)) (.ite (.next endDrawing_kept) (.ite (.next beginDrawing_kept) (.next (.refl _))))

theorem applyRecord_still {s : State} {r : Nat} : Still s (applyRecord s r) := updFab_still

theorem workFabRecord_kept {s : State} {raw : Nat} : Kept s (workFabRecord s raw).st := by
  refine cmdTry_kept fun _ => ?_
  split
  · exact .same rfl rfl rfl rfl
  · exact requestLabel_kept.after (applyRecord_still.kept.after (.same rfl rfl rfl rfl))

theorem execFabRecord_keeps {place : Nat} {s : State} : Keeps s (execFabRecord place s) := .next (runCmd_kept fun _ _ => workFabRecord_kept)

theorem workFabRoute_kept {s : State} {raw : Nat} : Kept s (workFabRoute s raw).st := by
  unfold workFabRoute
  refine cmdTry_kept fun _ => ?_
  simp only
  exact updFab_still.kept

theorem execFabRoute_keeps {place : Nat} {s : State} : Keeps s (execFabRoute place s) := .next (runCmd_kept fun _ _ => workFabRoute_kept)

theorem workTunOpen_kept {s : State} {raw : Nat} : Kept s (workTunOpen s raw).st := cmdTry_kept fun _ => updTun_still.kept

theorem execFabTunnelOpen_keeps {place : Nat} {s : State} : Keeps s (execFabTunnelOpen place s) := .next (runCmd_kept fun _ _ => workTunOpen_kept)

theorem workTunClose_kept {s : State} {raw : Nat} : Kept s (workTunClose s raw).st :=
  cmdTry_kept fun _ => updTun_still.kept.after tunnelDown_still.kept

theorem execFabTunnelClose_keeps {place : Nat} {s : State} : Keeps s (execFabTunnelClose place s) := .next (runCmd_kept fun _ _ => workTunClose_kept)

theorem stopPort_still {s : State} {p st : Nat} : Still s (stopPort s p st) := .ite portDown_still updPort_still

theorem workFabPort_kept {st : Nat} {s : State} {raw : Nat} : Kept s (workFabPort st s raw).st :=
  cmdTry_kept fun _ => withHealth_kept.after stopPort_still.kept

theorem execFabPortDisable_keeps {place : Nat} {s : State} : Keeps s (execFabPortDisable place s) := .next (runCmd_kept fun _ _ => workFabPort_kept)

theorem workPortEnable_kept {s : State} {raw : Nat} : Kept s (workPortEnable s raw).st := cmdTry_kept fun _ => .ite (.refl _) updPort_still.kept

theorem execFabPortEnable_keeps {place : Nat} {s : State} : Keeps s (execFabPortEnable place s) := .next (runCmd_kept fun _ _ => workPortEnable_kept)

theorem execFabPortRetrain_keeps {place : Nat} {s : State} : Keeps s (execFabPortRetrain place s) := .next (runCmd_kept fun _ _ => workFabPort_kept)

end Sys2Proof.Machine
end

/-! ## Tracing, completion, control operations, time -/

section
namespace Sys2Proof.Machine

theorem updTrc_still {s : State} {f : TrcS → TrcS} : Still s (updTrc s f) := .own rfl

theorem workTraceConfig_kept {s : State} {raw : Nat} : Kept s (workTraceConfig s raw).st := by
  unfold workTraceConfig
  refine cmdTry_kept fun _ => ?_
  simp only
  exact updTrc_still.kept

theorem execTraceConfig_keeps {place : Nat} {s : State} : Keeps s (execTraceConfig place s) := .next (runCmd_kept fun _ _ => workTraceConfig_kept)

theorem traceStart_kept {s : State} : Kept s (traceStart s) := traceOwn_still.kept.after (updTrc_still.kept.after domRise_kept)

theorem workTraceStart_kept {s : State} {_raw : Nat} : Kept s (workTraceStart s _raw).st := cmdTry_kept fun _ => traceStart_kept

theorem execTraceStart_keeps {place : Nat} {s : State} : Keeps s (execTraceStart place s) := .next (runCmd_kept fun _ _ => workTraceStart_kept)

theorem traceStop_kept {s : State} : Kept s (traceStop s) :=
  domFall_kept.after (updTrc_still.kept.after (.ite (traceOwn_still.kept.after traceDrain_still.kept) updTrc_still.kept))

theorem workTraceStop_kept {s : State} {_raw : Nat} : Kept s (workTraceStop s _raw).st := .ite (.refl _) traceStop_kept

theorem execTraceStop_keeps {place : Nat} {s : State} : Keeps s (execTraceStop place s) := .next (runCmd_kept fun _ _ => workTraceStop_kept)

theorem workTraceFlush_still {s : State} {_raw : Nat} : Still s (workTraceFlush s _raw).st := .ite traceDrain_still (.refl _)

theorem execTraceFlush_keeps {place : Nat} {s : State} : Keeps s (execTraceFlush place s) := .next (runCmd_kept fun _ _ => workTraceFlush_still.kept)

theorem finishOp_kept {s : State} {c : Nat} {f : Flight} : Kept s (finishOp s c f) := by
  unfold finishOp
  exact .after (completeOp_kept fun _ => lowWater_kept) pfSignal_kept

theorem execOperationCompletion_keeps {c : Fin 8} {opIndex : Nat} {s : State} : Keeps s (execOperationCompletion c opIndex s) := by
  simp only [execOperationCompletion]
  split
  · exact .next (.refl _)
  · exact .next (stashKick_kept.after finishOp_kept)

theorem closeStep_kept {s : State} {t : Cmd} : Kept s (closeStep s t).st := by
  simp only [closeStep]
  split
  · simp only
    exact closeEnd_kept
  · simp only
    exact .refl _

theorem bistStep_kept {s : State} {t : Cmd} : Kept s (bistStep s t).st := by
  simp only [bistStep]
  split
  · exact .foldl fun _ _ => closeEnd_kept
  · exact .refl _

theorem cmdStep_kept {s : State} {t : Cmd} : Kept s (cmdStep s t).st := by
  simp only [cmdStep]
  split
  · exact closeStep_kept
  · split
    · exact bistStep_kept
    · split
      · exact saveStep_kept
      · split
        · exact restoreStep_kept
        · simp only
          exact .refl _

theorem beginUnknown_kept {s : State} {i : Nat} {t : Cmd} : Kept s (beginUnknown s i t) := by
  unfold beginUnknown
  split
  · split
    · exact cmdRecord_kept cmdFail_still.kept
    · exact .refl s
  · exact .refl s

theorem advanceCmd_kept {s : State} {i : Nat} {t : Cmd} : Kept s (advanceCmd s i t) := .ite (cmdRecord_kept cmdStep_kept) beginUnknown_kept

theorem finishCmd_kept {s : State} {i : Nat} : Kept s (finishCmd s i) := by
  simp only [finishCmd]
  split
  · exact .refl _
  · split
    · exact .refl _
    · exact .ite (pumpSq_kept.after postCompletion_kept) (.refl _)

theorem execCommandCompletion_keeps {place : Nat} {s : State} : Keeps s (execCommandCompletion place s) := by
  simp only [execCommandCompletion]
  split
  · exact .next (.refl _)
  · split
    · exact .next (.refl _)
    · exact .next (finishCmd_kept.after advanceCmd_kept)

theorem controlDone_step {s : State} {c e : Nat} {status detail : Nat} : OwnStep c s (controlDone s c e status detail) :=
  endAtOnce_step.after advanceDispatch_step

theorem execNop_owns {c : Fin 8} {s : State} : Owns c s (execNop c s) := by
  simp only [execNop]
  split
  · exact .next (.refl _)
  · split
    · exact .next controlDone_step
    · exact .next controlDone_step

theorem execStepAdvance_owns {c : Fin 8} {s : State} : Owns c s (execStepAdvance c s) := by
  simp only [execStepAdvance]
  split
  · exact .next (.refl _)
  · split
    · split
      · exact .next controlDone_step
      · exact .next (controlDone_step.after (traceState_still.step.after (.after (updCtx_step fun _ => id) ledgerWriteBack_step)))
    · exact .next (.refl _)

theorem execTallySet_owns {c : Fin 8} {s : State} : Owns c s (execTallySet c s) := by
  simp only [execTallySet]
  split
  · exact .next (.refl _)
  · split
    · exact .next controlDone_step
    · exact .ite (.next controlDone_step) (.next (controlDone_step.after (.foldl fun _ _ => setTally_step)))

theorem execShapeSet_owns {c : Fin 8} {s : State} : Owns c s (execShapeSet c s) := by
  simp only [execShapeSet]
  split
  · exact .next (.refl _)
  · split
    · exact .next controlDone_step
    · split
      · exact .next controlDone_step
      · split
        · exact .next (controlDone_step.after countUe_still.step)
        · exact .next (controlDone_step.after (.foldl fun _ _ => setShapeWord_still.step))

theorem execPackageStart_keeps {c : Fin 8} {s : State} : Keeps s (execPackageStart c s) := by
  simp only [execPackageStart]
  split
  · exact .next (.refl _)
  · exact .ite (.ite (.next (.after (updCtx_kept fun _ => id) noteTraffic_still.kept)) (.next (endPkg_kept.after noteTraffic_still.kept)))
      (.next (.refl _))

theorem execEnvelopeDispatch_owns {c : Fin 8} {s : State} : Owns c s (execEnvelopeDispatch c s) := by
  simp only [execEnvelopeDispatch]
  split
  · exact .next (.refl _)
  · split
    · exact .next (.refl _)
    · split
      · exact .next (rejectEnv_step.after countUe_still.step)
      · split
        · exact .next rejectEnv_step
        · exact .ite (.next (.refl _))
            (.ite (.next (traceState_still.step.after (advanceDispatch_step.after (updCtx_step fun _ => id)))) (.next (.refl _)))

theorem execWaitTimeout_owns {c : Fin 8} {cls : Fin 14} {inst : Nat} {s : State} : Owns c s (execWaitTimeout c cls inst s) := by
  simp only [execWaitTimeout]
  refine .ite (.next (.refl s)) (.ite ?_ ?_)
  · split
    · exact .next (.refl s)
    · exact .ite (.next controlDone_step) (.next (.refl s))
  · split
    · exact .next (.refl s)
    · exact .ite (.next (endAtOnce_step.after (updCtx_step fun _ => id))) (.next (.refl s))

theorem updTime_kept {s : State} {f : TimeS → TimeS} : Kept s (updTime s f) := .same rfl rfl rfl rfl

theorem timeChanged_kept {before s : State} : Kept s (timeChanged before s) := .ite (.refl _) postEvent_kept

theorem chooseSource_kept {s : State} : Kept s (chooseSource s) := updTime_kept

theorem discipline_kept {s : State} {est : W64} {errNs : Nat} : Kept s (discipline s est errNs) := by
  unfold discipline
  exact updTime_kept

theorem takeEstimate_kept {s : State} {src : Nat} {est : W64} {errNs : Nat} : Kept s (takeEstimate s src est errNs) := .ite discipline_kept (.refl _)

theorem workTimeRead_kept {s : State} {raw : Nat} : Kept s (workTimeRead s raw).st := cmdTry_kept fun _ => dstWrite_still.kept

theorem execTimeRead_keeps {place : Nat} {s : State} : Keeps s (execTimeRead place s) := .next (runCmd_kept fun _ _ => workTimeRead_kept)

theorem workTimeConfig_kept {s : State} {raw : Nat} : Kept s (workTimeConfig s raw).st :=
  cmdTry_kept fun _ => timeChanged_kept.after (chooseSource_kept.after updTime_kept)

theorem execTimeConfig_keeps {place : Nat} {s : State} : Keeps s (execTimeConfig place s) := .next (runCmd_kept fun _ _ => workTimeConfig_kept)

theorem execPtpMessageReceive_keeps {port : Fin 2} {domain : BitVec 8} {estimate : BitVec 64} {asymmetry : Nat} {s : State} :
    Keeps s (execPtpMessageReceive port domain estimate asymmetry s) :=
  .ite (.next (.refl _)) (.next (timeChanged_kept.after (takeEstimate_kept.after (chooseSource_kept.after updTime_kept))))

theorem loseTime_kept {s : State} : Kept s (loseTime s) := updTime_kept

@[simp] theorem nth_zero_set_succ {α : Type} (d : α) (l : List α) (n : Nat) (x : α) : nth d (l.set (n + 1) x) 0 = nth d l 0 := by
  cases l with
  | nil => rfl
  | cons a r => rfl

theorem execTimeHoldoverExpiry_keeps {s : State} : Keeps s (execTimeHoldoverExpiry s) :=
  .ite (.next (timeChanged_kept.after (chooseSource_kept.after loseTime_kept))) (.next (.refl _))

theorem execTimElapsedRead_keeps {s : State} : Keeps s (execTimElapsedRead s) :=
  .ite (.next (.refl _)) (.next (.after (.same rfl rfl rfl rfl) updTime_kept))

theorem updAoc_kept {s : State} {f : AocS → AocS} (h : (nth false (f s.aoc).level 0, bit (f s.aoc).causes rcTray, (f s.aoc).stuck.length) =
    (nth false s.aoc.level 0, bit s.aoc.causes rcTray, s.aoc.stuck.length)) : Kept s (updAoc s f) :=
  .same rfl h rfl rfl

/-- A change of the level held of an input other than TRAY_RESET_N. -/
theorem setLevel_kept {s : State} {n : Nat} {b : Bool} : Kept s (updAoc s fun a => { a with level := a.level.set (n + 1) b }) :=
  updAoc_kept (by simp)

theorem countEvent_kept {s : State} {n : Nat} : Kept s (countEvent s n) := updAoc_kept rfl

theorem countDropped_kept {s : State} {n : Nat} : Kept s (countDropped s n) := updAoc_kept rfl

theorem unstick_kept {s : State} {n : Nat} {level : Bool} : Kept s (unstick s (n + 1) level) :=
  withHealth_kept.after (updAoc_kept (by simp))

theorem ppsAcquire_kept {s : State} : Kept s (ppsAcquire s) := updAoc_kept rfl

theorem execPpsEdge_keeps {s : State} : Keeps s (execPpsEdge s) := by
  have edges (u : State) (l : List Nat) : Kept u (updAoc u fun a => { a with ppsEdges := l }) := updAoc_kept rfl
  simp only [execPpsEdge]
  split
  · exact .next (.refl s)
  · split
    · exact .next (ppsAcquire_kept.after setLevel_kept)
    · split
      · exact .next (countDropped_kept.after setLevel_kept)
      · have counted : Kept s (countEvent (unstick s 3 true) 3) := countEvent_kept.after unstick_kept
        exact .next (.ite (updTime_kept.after ((edges _ _).after counted)) ((edges _ _).after counted))

end Sys2Proof.Machine
end

/-! ## The sideband ring -/

section
namespace Sys2Proof.Machine

theorem updSbr_still {s : State} {f : SbrS → SbrS} : Still s (updSbr s f) := updFab_still

theorem ringOut_still {s : State} {f len : Nat} : Still s (ringOut s f len) := updSbr_still

theorem ringOriginate_still {s : State} {type len payload : Nat} : Still s (ringOriginate s type len payload) := ringOut_still

theorem ringForward_still {s : State} {f : Nat} : Still s (ringForward s f) := .ite (.refl _) ringOut_still

theorem ringBad_still {s : State} : Still s (ringBad s) := fabCount_still

theorem execRingFrameReceive_keeps {len frame : Nat} {s : State} : Keeps s (execRingFrameReceive len frame s) :=
  .ite (.next (.refl _))
    (.ite (.next ringBad_still.kept)
      (.ite (.next (.refl _))
        (.ite (.next (ringOut_still.kept.after (updSbr_still.kept.after updSbr_still.kept)))
          (.next (ringForward_still.kept.after updSbr_still.kept)))))

theorem closeRelays_still {s : State} : Still s (closeRelays s) := .ite updSbr_still (.refl _)

theorem execRingInsert_keeps {s : State} : Keeps s (execRingInsert s) := .ite (.next updSbr_still.kept) (.next (.refl _))

theorem execRingLockLost_keeps {s : State} : Keeps s (execRingLockLost s) := .next (.after (.ite closeRelays_still.kept (.refl _)) updSbr_still.kept)

theorem execInsertWindow_keeps {s : State} : Keeps s (execInsertWindow s) :=
  .ite (.next (ringOriginate_still.kept.after drawFree_still.kept)) (.next (.refl _))

theorem execDiscover_keeps {s : State} : Keeps s (execDiscover s) := .ite (.next ringOriginate_still.kept) (.next (.refl _))

theorem execTimeFrameSend_keeps {s : State} : Keeps s (execTimeFrameSend s) :=
  .ite (.next (ringOriginate_still.kept.after updSbr_still.kept)) (.next (.refl _))

theorem timeForward_still {s : State} {f residence : Nat} : Still s (timeForward s f residence) := ringForward_still

theorem takeTimeFrame_kept {s : State} {f residence : Nat} : Kept s (takeTimeFrame s f residence) :=
  timeForward_still.kept.after
    (timeChanged_kept.after
      (takeEstimate_kept.after (chooseSource_kept.after (updSbr_still.kept.after (fabCount_still.kept.after drawFree_still.kept)))))

theorem execTimeFrameReceive_keeps {len frame : Nat} {residence : BitVec 32} {s : State} : Keeps s (execTimeFrameReceive len frame residence s) :=
  .ite (.next (.refl _)) (.ite (.next ringBad_still.kept) (.ite (.next (.refl _)) (.next takeTimeFrame_kept)))

theorem execTimeFrameTimeout_keeps {s : State} : Keeps s (execTimeFrameTimeout s) :=
  .next (timeChanged_kept.after (chooseSource_kept.after updSbr_still.kept))

theorem postRemoteError_kept {s : State} {pay : Nat} : Kept s (postRemoteError s pay) := by
  unfold postRemoteError
  exact postEvent_kept.after drawFree_still.kept

theorem execCtrl_keeps {i : Nat} {s : State} : Keeps s (execCtrl i s) := by
  simp only [execCtrl]
  split
  · exact .next (.refl _)
  · exact .ite (.next (postRemoteError_kept.after takeRx_still.kept)) (.next takeRx_still.kept)

end Sys2Proof.Machine
end

/-! ## Inputs and the PCIe link -/

section
namespace Sys2Proof.Machine

theorem loseDevice_still {s : State} : Still s (loseDevice s) := loseRange_still.after (loseRange_still.after (loseRange_still.after loseRange_still))

theorem bit_eq_testBit (n k : Nat) : bit n k = n.testBit k := by simp [bit, Nat.testBit, Nat.one_and_eq_mod_two]

/-- A set bit taken away leaves the bits below it. -/
theorem bit_sub_above {n k j : Nat} (set : bit n k = true) (below : j < k) : bit (n - 2 ^ k) j = bit n j := by
  rw [bit_eq_testBit] at set
  obtain ⟨m, rfl⟩ := Nat.exists_eq_add_of_le (Nat.ge_two_pow_of_testBit set)
  simp only [bit_eq_testBit, Nat.add_sub_cancel_left, Nat.testBit_two_pow_add_gt below]

/-- The button's cause ends; TRAY_RESET's stays as it is. -/
theorem dropButton_kept {s : State} : Kept s (dropCause s rcButton) := by
  refine updAoc_kept ?_
  split
  · rename_i set
    simp only [bit_sub_above set (show rcTray < rcButton by decide)]
  · rfl

theorem execInputLow_keeps {s : State} : Keeps s (execInputLow s) :=
  .ite (.next (.refl _)) (.next (withHealth_kept.after (relayEnter_kept.after logErr_still.kept)))

theorem execInputDip_keeps {s : State} : Keeps s (execInputDip s) := .next (.refl _)

theorem inputEvent_kept {s : State} {n spacing : Nat} : Kept s (inputEvent s n spacing) := by
  simp only [inputEvent]
  split
  · exact .ite countDropped_kept countEvent_kept
  · exact countEvent_kept

theorem inputLevel_kept {s : State} {n : Nat} {v : Bool} : Kept s (inputLevel s (n + 1) v) := setLevel_kept

theorem execResetButtonOpen_keeps {s : State} : Keeps s (execResetButtonOpen s) :=
  .ite (.next (dropButton_kept.after unstick_kept)) (.next (.refl s))

theorem stuckError_still {s : State} {n : Nat} : Still s (stuckError s n) := logErr_still

theorem execButtonStuck_keeps {s : State} : Keeps s (execButtonStuck s) := by
  have stuck : Kept s (updAoc s fun a => { a with buttonStuck := true, buttonIgnored := true, stuck := a.stuck.set 2 true }) :=
    updAoc_kept (by simp)
  exact .ite (.next (withHealth_kept.after (stuckError_still.kept.after (inputEvent_kept.after (dropButton_kept.after stuck))))) (.next (.refl s))

theorem execButtonIgnoredClear_keeps {s : State} : Keeps s (execButtonIgnoredClear s) := .ite (.next (updAoc_kept rfl)) (.next (.refl _))

theorem stuckEvent_kept {s : State} {n : Nat} : Kept s (stuckEvent s n) :=
  .ite (.after (updAoc_kept rfl) countEvent_kept) (.ite countDropped_kept inputEvent_kept)

theorem execInputStuck_keeps {n : Fin 6} {s : State} : Keeps s (execInputStuck n s) := by
  have stuck : Kept s (updAoc s fun a => { a with stuck := a.stuck.set n true }) := updAoc_kept (by simp)
  simp only [execInputStuck]
  exact .ite (.next (.refl s)) (.next (withHealth_kept.after (stuckError_still.kept.after (stuckEvent_kept.after stuck))))

theorem execSyncEdge_keeps {s : State} : Keeps s (execSyncEdge s) := by
  have stamped (u : State) : Kept u (updAoc u fun a => { a with syncStamp := s.elapsed }) := updAoc_kept rfl
  simp only [execSyncEdge]
  exact .ite (.next (.refl s)) (.next (.ite (countDropped_kept.after unstick_kept) ((stamped _).after (countEvent_kept.after unstick_kept))))

theorem hostFlight_kept {s : State} {c : Nat} {f : Flight} : Kept s (hostFlight s c f) := by
  simp only [hostFlight]
  split
  · exact .ite failFlight_kept (.refl _)
  · exact .refl _

theorem endHostFlights_kept {s : State} {c : Nat} : Kept s (endHostFlights s c) := .foldl fun _ _ => hostFlight_kept

theorem linkDown_kept {s : State} : Kept s (linkDown s) :=
  .ite (.refl _) (loseRings_kept.after (.after (.foldl fun _ _ => endHostFlights_kept) (.after (.same rfl rfl rfl rfl) traceSuspend_still.kept)))

theorem dropForeman_still {s : State} : Still s (dropForeman s) := updFab_still

theorem abandonCmds_kept {s : State} : Kept s (abandonCmds s) :=
  dropForeman_still.kept.after (.mailbox (fun _ => Nat.zero_le 64) id rfl)

theorem apsOk_resetHif : apsOk resetHif := by
  unfold apsOk resetHif
  decide

/-- The host-interface island's reset: legal apertures, no command outstanding, and what the Foreman itself holds. -/
theorem islandReset_kept {s : State} :
    Kept s { s with hif := { warmHif s.hif s.hif.on with perst := true }, mbx := perstMbx s.mbx } where
  memory := id
  contexts := rfl
  commands _ := Nat.zero_le 64
  apertures _ := apsOk_resetHif
  mode := .inl rfl
  power := rfl
  firmware _ := rfl
  level := rfl
  cause := rfl
  tallies := id
  lost := id
  first := rfl
  ret := rfl
  stuck := rfl

theorem execPerstAssert_keeps {s : State} : Keeps s (execPerstAssert s) := by
  simp only [execPerstAssert]
  refine .ite (.next (.refl s)) (.next (islandReset_kept.after (abandonCmds_kept.after (linkDown_kept.after ?_))))
  exact .after (updAoc_kept rfl) (inputEvent_kept.after inputLevel_kept)

theorem execPerstRelease_keeps {s : State} : Keeps s (execPerstRelease s) := by
  have released : Kept s { s with hif := { s.hif with perst := false } } := .same rfl rfl rfl rfl
  exact .ite (.next (unstick_kept.after released)) (.next (.refl s))

theorem execPcieLinkUp_keeps {s : State} : Keeps s (execPcieLinkUp s) :=
  .ite (.next (traceResume_still.kept.after (.same rfl rfl rfl rfl))) (.next (.refl _))

theorem execPcieLinkDown_keeps {s : State} : Keeps s (execPcieLinkDown s) := .next linkDown_kept

theorem execHeartbeatTick_keeps {s : State} : Keeps s (execHeartbeatTick s) := .ite (.next (updMbx_kept rfl)) (.next (.refl _))

end Sys2Proof.Machine
end

/-! ## Start-up, recovery and restart -/

section
namespace Sys2Proof.Machine

theorem bootBank_kept {s : State} {k : Nat} : Kept s (bootBank s k) :=
  .after (.ite (.refl _) (logErr_still.kept.after (.after (.same rfl rfl rfl rfl) updRegion_kept))) (.same rfl rfl rfl rfl)

theorem reachStep_kept {s : State} {n : Nat} : Kept s (reachStep s n) := updAoc_kept rfl

theorem bootFails_kept {s : State} (up : s.mode ≠ .offOrReset) : Kept s (bootFails s) := by
  unfold bootFails
  exact requestLabel_kept.after (clearBad_still.kept.after (zeroRange_still.kept.after (domRise_kept.after (setFwState_kept up))))

theorem replayRecord_kept {s : State} {rec : Nat} : Kept s (replayRecord s rec) := by
  have put (last : Nat) (seen : Bool) : Kept s { s with ras := { putRecord (countOverwritten s.ras) (setFld rec 3 1 (fld rec 3 1 ||| 2)) with
      lastFault := last, sevSeen := seen } } :=
    (Still.ras (by simp)).kept
  exact errorLogged_kept.after (put ..)

theorem replayLog_kept {s : State} : Kept s (replayLog s) := .foldl fun _ _ => replayRecord_kept

theorem applyCal_kept {s : State} : Kept s (applyCal s) := by
  simp only [applyCal]
  split
  · exact updPwr_kept
  · exact logErr_still.kept.after (drawFree_still.kept.after updPwr_kept)

theorem startLabel_kept {s : State} {cold : Bool} : Kept s (startLabel s cold) := .after (.ite (.refl _) beginDrawing_kept) requestLabel_kept

theorem step6_kept {s : State} {cold : Bool} : Kept s (step6 s cold) :=
  reachStep_kept.after (.after (.foldl fun _ _ => domRise_kept) (startLabel_kept.after (applyCal_kept.after replayLog_kept)))

theorem startBist_kept {s : State} {b : Fin 17 × Fin 16 × BistOutcome} : Kept s (startBist s b) := .ite bistFail_kept (.refl _)

theorem spareRows_kept {s : State} : Kept s (spareRows s) := .foldl fun _ _ => .ite (loseFace_kept.after logErr_still.kept) (.refl _)

theorem step7_kept {s : State} {bist : List (Fin 17 × Fin 16 × BistOutcome)} : Kept s (step7 s bist) :=
  reachStep_kept.after
    (.after (.foldl fun _ _ => domFall_kept)
      (spareRows_kept.after (.after (.foldl fun _ _ => startBist_kept) (.after (.foldl fun _ _ => domRise_kept) (.same rfl rfl rfl rfl)))))

theorem logChannel_still {s : State} {ch : Nat} : Still s (logChannel s ch) := reportError_still.after drawFree_still

theorem startMapOut_kept {s : State} {ch : Nat} : Kept s (startMapOut s ch) :=
  .ite (.refl _)
    (.ite (relayEnter_kept.after logChannel_still.kept)
      (.after (.ite (.refl _) (repairEvent_still.kept.after (.same rfl rfl rfl rfl))) (.same rfl rfl rfl rfl)))

theorem startFar_kept {s : State} {fails : Bool} : Kept s (startFar s fails) := .ite (logErr_still.kept.after withdrawFar_kept) (.refl _)

theorem startRowRepair_kept {s : State} {row : Nat} : Kept s (startRowRepair s row) :=
  .ite (.refl _) (.after (.ite (.same rfl rfl rfl rfl) startMapOut_kept) (.same rfl rfl rfl rfl))

theorem step8_kept {s : State} {dead : List (Fin 256)} {rows : List (BitVec 29)} {farFail : Bool} : Kept s (step8 s dead rows farFail) :=
  reachStep_kept.after
    (.after (.same rfl rfl rfl rfl)
      (zeroRange_still.kept.after
        (zeroRange_still.kept.after
          (loseRange_still.kept.after
            (startFar_kept.after
              (.after (.foldl fun _ _ => domRise_kept) (.after (.foldl fun _ _ => startMapOut_kept) (.foldl fun _ _ => startRowRepair_kept))))))))

theorem trainPorts_still {s : State} : Still s (trainPorts s) := updFab_still

theorem step9_kept {s : State} : Kept s (step9 s) :=
  reachStep_kept.after (.after (.foldl fun _ _ => domRise_kept) (trainPorts_still.kept.after (.ite applyRecord_still.kept (.refl _))))

theorem Kept.fwState {s u : State} {v : Nat} (h : Kept s u) (up : s.mode ≠ .offOrReset) : Kept s (setFwState u v) :=
  (setFwState_kept (h.mode_ne_off up)).after h

theorem foremanUp_kept {s u : State} (h : Kept s u) (up : s.mode ≠ .offOrReset) : Kept s (foremanUp u) := by
  have shown : Kept u (updMbx { u with vcc := { u.vcc with version := activeVersion u 1 } } fun m => { m with iface := 1 }) :=
    .same rfl rfl rfl rfl
  have booted (v : State) : Kept v { v with flash := { v.flash with failedBoots := 0 } } := .same rfl rfl rfl rfl
  simp only [foremanUp]
  exact .fwState ((booted _).after (.after (.ite retireImage_kept (.refl _)) (shown.after h))) up

theorem startMode_kept {s u : State} (h : Kept s u) (up : s.mode ≠ .offOrReset ∧ s.mode ≠ .relayOnly) : Kept s (startMode u) := by
  simp only [startMode]
  refine .ite (setMode_kept (setSelfRef_still.kept.after h) up (by simp)) (setMode_kept (.after ?_ h) up (by simp))
  exact .after (.foldl fun _ _ => domFall_kept) (Still.ras (by simp)).kept

theorem step10_kept {s u : State} (h : Kept s u) (up : s.mode ≠ .offOrReset ∧ s.mode ≠ .relayOnly) : Kept s (step10 u) :=
  foremanServes_kept.after (reachStep_kept.after (startMode_kept (foremanUp_kept (domRise_kept.after h) up.1) up))

theorem startRest_kept {s u : State} {o : StartOutcome} (h : Kept s u) (up : s.mode ≠ .offOrReset ∧ s.mode ≠ .relayOnly) :
    Kept s (startRest u o) :=
  step10_kept (step9_kept.after (step8_kept.after (step7_kept.after (step6_kept.after h)))) up

theorem startImage_kept {s u : State} {o : StartOutcome} (h : Kept s u) (up : s.mode ≠ .offOrReset ∧ s.mode ≠ .relayOnly) :
    Kept s (startImage u o) := by
  have failed (v : State) (n : Nat) : Kept v { v with flash := { v.flash with failedBoots := n } } := .same rfl rfl rfl rfl
  exact .ite (startRest_kept (h.fwState up.1) up) ((failed _ _).after (h.fwState up.1))

theorem execStartUp_keeps {outcome : StartOutcome} {s : State} : Keeps s (execStartUp outcome s) := by
  simp only [execStartUp]
  split
  · exact .next (.refl s)
  · rename_i begins
    have up : s.mode ≠ .offOrReset ∧ s.mode ≠ .relayOnly := by
      simp only [ne_eq, Bool.or_eq_true, decide_eq_true_eq, not_or, Classical.not_not] at begins
      simp [begins.1]
    have reached : Kept s (reachStep s 5) := reachStep_kept
    split
    · exact .next (withHealth_kept.after ((bootFails_kept (reached.mode_ne_off up.1)).after reached))
    · exact .next (withHealth_kept.after (startImage_kept (bootBank_kept.after reached) up))

theorem setScratch_kept {s : State} {n : Nat} {v : W64} : Kept s (setScratch s n v) := updMbx_kept rfl

theorem installRecovery_kept {s : State} : Kept s (installRecovery s) := .after (.same rfl rfl rfl rfl) updRegion_kept

/-- A stopped Foreman does not wait for an image. -/
theorem execRecoveryImageLoad_keeps {value : BitVec 64} {outcome : StartOutcome} {s : State} (stopped : s.mode = .offOrReset → s.mbx.fwState = 0) :
    Keeps s (execRecoveryImageLoad value outcome s) := by
  simp only [execRecoveryImageLoad]
  refine .ite (.next (.refl s)) ?_
  split
  · exact .next setScratch_kept
  · rename_i waits
    have up : s.mode ≠ .offOrReset := fun off => by simp [recovers, stopped off] at waits
    split
    · exact .next (setScratch_kept.after setScratch_kept)
    · have installed : Kept s (setScratch (installRecovery s) 1 0) := setScratch_kept.after installRecovery_kept
      refine .next (withHealth_kept.after ?_)
      split
      · rename_i starting
        exact startImage_kept installed (by simp [starting])
      · exact foremanServes_kept.after (foremanUp_kept (installed.fwState up) up)

theorem restartCloses_kept {s : State} : Kept s (restartCloses s) := by
  unfold restartCloses
  exact .after (updMbx_kept rfl) (.foldl fun _ _ => closeNow_kept)

theorem restartBoot_kept {s u : State} {bad0 bad1 : Bool} (h : Kept s u) (up : s.mode ≠ .offOrReset) : Kept s (restartBoot u bad0 bad1) := by
  simp only [restartBoot]
  refine .ite (h.fwState up) ?_
  split
  · exact (h.fwState up).fwState up
  · exact foremanServes_kept.after (foremanUp_kept ((bootBank_kept.after (h.fwState up)).fwState up) up)

theorem logRestart_still {s : State} : Still s (logRestart s) := logErr_still.after drawFree_still

/-- BAR0 does not answer in reset. -/
theorem execForemanRestart_keeps {value : BitVec 64} {badBank0 badBank1 : Bool} {s : State} (dark : s.mode = .offOrReset → s.hif.on = false) :
    Keeps s (execForemanRestart value badBank0 badBank1 s) := by
  simp only [execForemanRestart]
  split
  · rename_i written
    have up : s.mode ≠ .offOrReset := fun off => by simp [barOn, dark off] at written
    exact .next (withHealth_kept.after (logRestart_still.kept.after (restartBoot_kept (restartCloses_kept.after abandonCmds_kept) up)))
  · exact .next (.refl s)

end Sys2Proof.Machine
end

/-! ## Heat, power, retention, and the codec's decoder -/

section
namespace Sys2Proof.Machine

theorem thermalNote_still {s : State} {key : Nat} : Still s (thermalNote s key) := logErr_still.after drawFree_still

theorem thermalEmergency_kept {s : State} {key : Nat} : Kept s (thermalEmergency s key) := relayEnter_kept.after (logErr_still.kept.after updPwr_kept)

theorem setJunction_kept {s : State} {f : Nat} {t : Int} : Kept s (setJunction s f t) := updPwr_kept

theorem junctionTrip_kept {s : State} {f : Nat} : Kept s (junctionTrip s f) :=
  relayEnter_kept.after (logErr_still.kept.after (updPwr_kept.after (.foldl fun _ _ => domFall_kept)))

theorem actOnJunction_kept {s : State} {f : Nat} {t : Int} : Kept s (actOnJunction s f t) :=
  .after (.ite junctionTrip_kept (.refl _))
    (.after (.ite thermalEmergency_kept (.refl _))
      (.after (.ite thermalNote_still.kept (.refl _)) (driveAlert_kept.after (levelChange_kept.after setJunction_kept))))

theorem execFaceJunctionReading_keeps {face : Fin 4} {sensors : List Int} {s : State} : Keeps s (execFaceJunctionReading face sensors s) := by
  simp only [execFaceJunctionReading]
  split
  · exact .next (.refl _)
  · split
    · exact .next (withHealth_kept.after (levelChange_kept.after (updPwr_kept.after (.ite thermalNote_still.kept (.refl _)))))
    · exact .next (withHealth_kept.after (driveAlert_kept.after (actOnJunction_kept.after (.ite thermalNote_still.kept (.refl _)))))

theorem execJunctionThrottleStep_keeps {face : Fin 4} {s : State} : Keeps s (execJunctionThrottleStep face s) :=
  .ite (.next (.refl _)) (.next (levelChange_kept.after updPwr_kept))

theorem execNeighbourThrottleStep_keeps {face : Fin 4} {s : State} : Keeps s (execNeighbourThrottleStep face s) :=
  .ite (.next (.refl _))
    (.ite (.next (levelChange_kept.after updPwr_kept))
      (.ite (.next (.refl _)) (.next (levelChange_kept.after (updPwr_kept.after drawFree_still.kept)))))

theorem execHbmTempReading_keeps {stack : Fin 8} {reading : Int} {s : State} : Keeps s (execHbmTempReading stack reading s) :=
  .ite (.next (.refl _))
    (.next
      (withHealth_kept.after
        (driveAlert_kept.after
          (.after (.ite thermalEmergency_kept (.refl _))
            (.after (.ite thermalNote_still.kept (.refl _))
              (driveAlert_kept.after (levelChange_kept.after (.after (.same rfl rfl rfl rfl) drawFree_still.kept))))))))

theorem execFarTempReport_owns {c : Nat} {pkg : Fin 16} {reading : Int} {mult : Nat} {s : State} : Owns c s (execFarTempReport pkg reading mult s) :=
  .ite (.next (.refl _)) (.next (.own rfl))

theorem execThermAlertRelease_keeps {s : State} : Keeps s (execThermAlertRelease s) := .ite (.next (.refl _)) (.next updPwr_kept)

theorem inputHigh_kept {s : State} {vin : Nat} : Kept s (inputHigh s vin) := by
  simp only [inputHigh]
  split
  · exact updPwr_kept
  · split
    · exact updPwr_kept
    · exact .ite (.refl _) (logErr_still.kept.after (drawFree_still.kept.after updPwr_kept))

theorem execPowerSample_keeps {vin pin : BitVec 16} {s : State} : Keeps s (execPowerSample vin pin s) :=
  .ite (.next (.refl s)) (.next (mapTaken_kept.after (updPwr_kept.after inputHigh_kept)))

theorem execCapLevelStep_keeps {s : State} : Keeps s (execCapLevelStep s) := .ite (.next (.refl _)) (.next (levelChange_kept.after updPwr_kept))

theorem execRetentionAutoEntry_keeps {group : Fin 32} {s : State} : Keeps s (execRetentionAutoEntry group s) := by
  have put : Still s { s with memS := { s.memS with ret := s.memS.ret.set group 1 } } := .own (by simp)
  exact .ite (.next put.kept) (.next (.refl s))

theorem scrubCorrected_kept {s : State} {cls line info : Nat} : Kept s (scrubCorrected s cls line info) :=
  reportError_still.kept.after eventEffect_kept

theorem execStockpileScrub_keeps {line : Fin 16777216} {corrected : Option (Fin 576)} {s : State} :
    Keeps s (execStockpileScrub line corrected s) := by
  simp only [execStockpileScrub]
  split
  · exact .next (.refl _)
  · refine .next (withHealth_kept.after ?_)
    split
    · exact scrubCorrected_kept.after (.after (.ite countUe_still.kept (.refl _)) noteTraffic_still.kept)
    · exact .after (.ite countUe_still.kept (.refl _)) noteTraffic_still.kept

theorem execNearScrub_keeps {line : Fin 6442450944} {corrected : Bool} {s : State} : Keeps s (execNearScrub line corrected s) :=
  .ite (.next (.refl _))
    (.next
      (withHealth_kept.after
        (.ite
          (scrubCorrected_kept.after
            (drawFree_still.kept.after (.after (.ite (noteUeRow_kept.after countUe_still.kept) (.refl _)) noteTraffic_still.kept)))
          (.after (.ite (noteUeRow_kept.after countUe_still.kept) (.refl _)) noteTraffic_still.kept))))

theorem vccAdd_still {s : State} {k n : Nat} : Still s (vccAdd s k n) := .own rfl

theorem putCount_still {s : State} {c sw v : Nat} : Still s (putCount s c sw v) := .ite setShapeWord_still (.refl _)

theorem vccOp_step {c : Nat} {aged : Bool} {opcode : Nat} {body : Body} {s : State} (h : OwnBody body) : OwnStep c s (vccOp c aged opcode body s) :=
  vccGrant_still.step.after (issueOp_step h)

theorem inPictures_step {s : State} {c : Nat} {q : QOp} {p : VccProgress} {r : Result} (h : OwnStep c s r.st) :
    OwnStep c s (inPictures c q p r).st :=
  .ite h (vccOpen_still.step.after h)

theorem vdecEff_still {s : State} {c e bytes len : Nat} {h : StreamHead} {p : VdecPick} : Still s (vdecEff s c e bytes len h p).st :=
  vccAdd_still.after (putCount_still.after applyPuts_still)

theorem bodyVdec_own : OwnBody bodyVdec := by
  intro s c q
  have ran (p : Plan) (reads writes : List (Nat × Nat)) (e bytes len : Nat) (h : StreamHead) (k : VdecPick) :
      OwnStep c s (runAfter s c p reads writes fun s => vdecEff s c e bytes len h k).st :=
    runAfter_step fun _ => vdecEff_still.step
  simp only [bodyVdec]
  split
  · exact reject_still.step
  · split
    · exact reject_still.step.after (.ite vccAdd_still.step (.refl s))
    · rw [apply_ite Result.st]
      exact .ite (ran ..) (inPictures_step (ran ..))

theorem execVdec_owns {c : Fin 8} {aged : Bool} {s : State} : Owns c s (execVdec c aged s) := .next (vccOp_step bodyVdec_own)

theorem endGrant_still {s : State} {e : VccEntry} : Still s (endGrant s e) := .own rfl

theorem opPicture_step {s : State} {c i : Nat} : OwnStep c s (opPicture s c i) := by
  simp only [opPicture]
  split
  · exact .refl _
  · exact .after (updCtx_step fun _ => id) (.ite (vccAdd_still.step.after vccAdd_still.step) (vccAdd_still.step.after vccAdd_still.step))

theorem sessPicture_kept {s : State} {w : VccSession} : Kept s (sessPicture s w) := by
  simp only [sessPicture]
  split
  · split
    · exact decodeLive_kept
    · exact .refl _
  · exact opPicture_step.kept

theorem execVccPicture_keeps {session : VccSession} {s : State} : Keeps s (execVccPicture session s) := by
  have run (t : State) (e : VccEntry) : Kept t (vccGrant (sessPicture (endGrant t e) session)) :=
    vccGrant_still.kept.after (sessPicture_kept.after endGrant_still.kept)
  delta execVccPicture
  extract_lets t
  have granted : Kept s t := vccGrant_still.kept
  clear_value t
  split
  · exact .ite (.next ((run t _).after granted)) (.next (.refl s))
  · exact .next (.refl s)

theorem execVccPerfClear_keeps {freeze : Bool} {s : State} : Keeps s (execVccPerfClear freeze s) :=
  .ite (.next (.same rfl rfl rfl rfl)) (.next (.refl _))

end Sys2Proof.Machine
end

/-! ## Registers and BAR2 -/

section
namespace Sys2Proof.Machine

/-- A change of the host interface that keeps its power and legal apertures. -/
theorem Kept.interface {s u : State} {x : HifS} (h : Kept s u) (power : x.on = s.hif.on) (apertures : apsOk s.hif → apsOk x) :
    Kept s { u with hif := x } :=
  { h with power := power, apertures := apertures }

theorem execI2cRegisterRead_keeps {addr : BitVec 7} {offset : BitVec 16} {s : State} : Keeps s (execI2cRegisterRead addr offset s) := by
  have counted : Kept s (countEvent (countEvent (unstick s 5 true) 5) 5) := countEvent_kept.after (countEvent_kept.after unstick_kept)
  exact .ite (.next (.refl s)) (.next (counted.interface rfl id))

theorem execQryPerfClear_keeps {freeze : Bool} {s : State} : Keeps s (execQryPerfClear freeze s) :=
  .ite (.next (.same rfl rfl rfl rfl)) (.next (.refl _))

theorem execMemPerfClear_keeps {freeze : Bool} {s : State} : Keeps s (execMemPerfClear freeze s) :=
  .ite (.next (.same rfl rfl rfl rfl)) (.next (.refl _))

theorem mbxWrite_kept {s : State} {o v : Nat} : Kept s (mbxWrite s o v) := by
  simp only [mbxWrite]
  split
  · exact .ite (.refl _) (updMbx_kept rfl)
  · exact .ite (.refl _) (updMbx_kept rfl)
  · exact irqUpdate_kept.after (updMbx_kept rfl)
  · exact setScratch_kept
  · exact setScratch_kept
  · exact setScratch_kept
  · exact .refl _

theorem apWrite_kept {s : State} {n v : Nat} : Kept s (apWrite s n v) := by
  refine (Kept.refl s).interface rfl fun legal => ?_
  obtain ⟨low, high, sixteen, aligned⟩ := legal
  refine ⟨low, high, by simpa using sixteen, fun a ha => ?_⟩
  obtain ha | rfl := List.mem_or_eq_of_mem_set ha
  · exact aligned a ha
  · exact Nat.dvd_mul_left ..

theorem feedWrite_still {s : State} {c m v : Nat} : Still s (feedWrite s c m v) := .ite mapFeeds_still (.refl _)

theorem unitWrite_kept {s : State} {o v : Nat} : Kept s (unitWrite s o v) := by
  have memory (u : State) (m : MemS) (h : m.ret.length = u.memS.ret.length) : Kept u { u with memS := m } :=
    .same rfl rfl rfl (by rw [h])
  simp only [unitWrite]
  split
  · exact .same rfl rfl rfl rfl
  · exact stashCtl_still.kept
  · exact .same rfl rfl rfl rfl
  · exact .same rfl rfl rfl rfl
  · exact .same rfl rfl rfl rfl
  · refine memory s _ ?_
    split
    · rfl
    · rfl
  · exact .same rfl rfl rfl rfl
  · exact .same rfl rfl rfl rfl
  · exact updFab_still.kept
  · exact updFab_still.kept
  · exact .ite (updAoc_kept rfl) (.refl s)
  · exact .ite feedWrite_still.kept (.refl s)

theorem mboxWrite_still {s : State} {o v : Nat} : Still s (mboxWrite s o v) := wrPhys_still

theorem execRegisterWrite_keeps {offset : BitVec 24} {value : BitVec 64} {s : State} : Keeps s (execRegisterWrite offset value s) :=
  .ite (.next (.refl _)) (.ite (.next mbxWrite_kept) (.ite (.next apWrite_kept) (.ite (.next mboxWrite_still.kept) (.next unitWrite_kept))))

/-- The near tier begins at a multiple of the largest aperture. -/
theorem apSize_dvd_nearBase (size : Fin 6) : 2 ^ (32 + size.val) ∣ nearBase :=
  (Nat.pow_dvd_pow 2 (show 32 + size.val ≤ 37 by omega)).trans (by decide)

theorem execBar2Resize_keeps {size : Fin 6} {s : State} : Keeps s (execBar2Resize size s) := by
  have resized : Kept s { s with hif := { s.hif with
      bar2Log2 := 36 + size, aps := (List.range 16).map fun n => (nearBase + n * 2 ^ (32 + size.val), true) } } := by
    refine (Kept.refl s).interface rfl fun _ => ⟨by simp, by simp only; omega, by simp, fun a ha => ?_⟩
    obtain ⟨n, -, rfl⟩ := List.mem_map.1 ha
    have size : 36 + size.val - 4 = 32 + size.val := by omega
    simpa only [size] using Nat.dvd_add (apSize_dvd_nearBase _) (Nat.dvd_mul_left ..)
  exact .ite (.next resized) (.next (.refl s))

theorem readBack_kept {s : State} {status data : Nat} : Kept s (readBack s status data) := .same rfl rfl rfl rfl

theorem bar2Ur_kept {s : State} {write : Bool} : Kept s (bar2Ur s write) := .ite (.refl _) readBack_kept

theorem bar2Refuse_kept {s : State} {write : Bool} {da : Nat} : Kept s (bar2Refuse s write da) := bar2Ur_kept.after logErr_still.kept

theorem bar2Read_kept {s : State} {da n : Nat} : Kept s (bar2Read s da n) := by
  simp only [bar2Read]
  split
  · exact readBack_kept.after (drawFree_still.kept.after (countUe_still.kept.after noteTraffic_still.kept))
  · exact readBack_kept.after (drawFree_still.kept.after noteTraffic_still.kept)

theorem countHostUe_still {s : State} {line : Nat} : Still s (countHostUe s line) := by
  refine .own ?_
  split
  · rfl
  · split
    · rfl
    · rfl

theorem bar2Write_kept {s : State} {da n data : Nat} : Kept s (bar2Write s da n data) := by
  simp only [bar2Write]
  split
  · exact logErr_still.kept.after (countHostUe_still.kept.after noteTraffic_still.kept)
  · exact ledgerHostWrite_kept.after (wrPhys_still.kept.after (noteTraffic_still.kept.after clearBad_still.kept))

theorem windowPut_still {s : State} {a b : Nat} : Still s (windowPut s a b) := .ite (.refl _) (.own rfl)

theorem bar2Window_kept {s : State} {write : Bool} {da n data : Nat} : Kept s (bar2Window s write da n data) :=
  .ite (renewSump_still.kept.after (.foldl fun _ _ => windowPut_still.kept)) (.ite (readBack_kept.after drawFree_still.kept) readBack_kept)

theorem bar2Dark_kept {s : State} {write : Bool} {da n : Nat} : Kept s (bar2Dark s write da n) :=
  .ite (.refl _) (.after (.ite readBack_kept readBack_kept) drawFree_still.kept)

theorem bar2Go_kept {s : State} {r : Region} {write : Bool} {da n data : Nat} : Kept s (bar2Go s r write da n data) :=
  .ite bar2Dark_kept (.ite (.ite bar2Window_kept bar2Refuse_kept) (.ite bar2Refuse_kept (.ite bar2Write_kept bar2Read_kept)))

theorem execBar2Access_keeps {write : Bool} {addr len data : Nat} {s : State} : Keeps s (execBar2Access write addr len data s) := by
  simp only [execBar2Access]
  split
  · exact .next (.refl _)
  · split
    · exact .next bar2Ur_kept
    · split
      · exact .next bar2Refuse_kept
      · exact .next (withHealth_kept.after bar2Go_kept)

end Sys2Proof.Machine
end

/-! ## The Splitter -/

section
namespace Sys2Proof.Machine

theorem putWords_still {s : State} {c : Nat} {ws : List (Nat × Nat)} : Still s (putWords s c ws) := .foldl fun _ _ => setShapeWord_still

theorem splRun_step {s : State} {c : Nat} {p : Plan} {writes : List (Nat × Nat)} {zeros : List Nat} {eff : State → SplitOut} :
    OwnStep c s (splRun s c p writes zeros eff).st := by
  simp only [splRun]
  split
  · split
    · exact putWords_still.step
    · exact reject_still.step
  · exact runAfter_step fun _ => .after (.own rfl) (putWords_still.step.after applyPuts_still.step)

theorem splitOp_step {c face : Nat} {aged : Bool} {opcode : Nat} {body : Body} {s : State} (h : OwnBody body) :
    OwnStep c s (splitOp c face aged opcode body s) :=
  issueOp_step h

theorem bodyEroute_own : OwnBody bodyEroute := fun _ _ _ => splRun_step

theorem execEroute_owns {c : Fin 8} {face : Fin 4} {aged : Bool} {s : State} : Owns c s (execEroute c face aged s) :=
  .next (splitOp_step bodyEroute_own)

theorem bodyCompact_own : OwnBody bodyCompact := fun _ _ _ => splRun_step

theorem execCompact_owns {c : Fin 8} {face : Fin 4} {aged : Bool} {s : State} : Owns c s (execCompact c face aged s) :=
  .next (splitOp_step bodyCompact_own)

theorem bodyMgate_own : OwnBody bodyMgate := fun _ _ _ => splRun_step

theorem execMgate_owns {c : Fin 8} {face : Fin 4} {aged : Bool} {s : State} : Owns c s (execMgate c face aged s) := .next (splitOp_step bodyMgate_own)

theorem execSplPerfClear_keeps {freeze : Bool} {s : State} : Keeps s (execSplPerfClear freeze s) :=
  .ite (.next (.same rfl rfl rfl rfl)) (.next (.refl _))

end Sys2Proof.Machine
end

/-! ## The codec's encoder -/

section
namespace Sys2Proof.Machine

theorem vencEff_still {s : State} {c e : Nat} : Still s (vencEff s c e).st := by
  have stream (u : State) (n : Nat) (f : State × Nat → EncPic × Nat × Nat → State × Nat) (l : List (EncPic × Nat × Nat))
      (h : ∀ a x, Still a.1 (f a x).1) : Still u (l.foldl f (u, n)).1 :=
    .foldl_fst (a := (u, n)) h
  simp only [vencEff]
  refine vccAdd_still.after (putCount_still.after (applyPuts_still.after (.after (stream _ _ _ _ fun _ _ => wrNum_still) ?_)))
  exact .ite (.refl s) wrNum_still

theorem bodyVenc_own : OwnBody bodyVenc := by
  intro s c q
  have ran (p : Plan) (reads writes : List (Nat × Nat)) : OwnStep c s (runAfter s c p reads writes fun s => vencEff s c q.env).st :=
    runAfter_step fun _ => vencEff_still.step
  simp only [bodyVenc]
  split
  · exact reject_still.step
  · rw [apply_ite Result.st]
    exact .ite (ran ..) (inPictures_step (ran ..))

theorem execVenc_owns {c : Fin 8} {aged : Bool} {s : State} : Owns c s (execVenc c aged s) := .next (vccOp_step bodyVenc_own)

end Sys2Proof.Machine
end

/-! ## The clock -/

section
namespace Sys2Proof.Machine

theorem slewTick_kept {s : State} : Kept s (slewTick s) := .ite (.refl _) updTime_kept

theorem waitTick_still {s : State} : Still s (waitTick s) := .ite (.refl _) updFab_still

theorem idleTick_still {s : State} : Still s (idleTick s) := .ite (.refl _) (.own rfl)

theorem tick_kept {s : State} : Kept s (tick s) :=
  .ite (idleTick_still.kept.after (waitTick_still.kept.after (slewTick_kept.after (.same rfl rfl rfl rfl)))) (.refl _)

end Sys2Proof.Machine
end

/-! ## Units leave the rest alone (O45) -/

section
namespace Sys2Proof.Machine

/-- Every row of a unit is an operation of its own context. -/
theorem unitRows_own {c : Fin 8} {face : Fin 4} {die : Fin 6} {engine : Fin 8} {aged : Bool} {fail : Option Nat} {s : State} :
    ∀ i ∈ unitRows c face die engine aged fail, Owns c s (exec i s) := by
  simp only [unitRows, List.forall_mem_append, List.forall_mem_cons]
  exact ⟨⟨⟨⟨⟨execQmm_owns, execQmmBatch_owns, execQdrain_owns, execQfill_owns, execQzero_owns, execCmv_owns, List.forall_mem_nil _⟩,
    execEw_owns, execAct_owns, execActBwd_owns, execNorm_owns, execNormBwd_owns, execSmx_owns, execSmxBwd_owns, execSmxMerge_owns, execRed_owns,
    execCvt_owns, execSplit3_owns, execEsAcc_owns, execEsFinal_owns, execGather_owns, execScatter_owns, execScatterAdd_owns, execAdamw_owns,
    List.forall_mem_nil _⟩,
    execCgq_owns, execCgdq_owns, execCprobe_owns, execSput_owns, execSget_owns, execSraise_owns, execSfree_owns, execHcopy_owns, execHset_owns,
    execCattn_owns, execRappend_owns, List.forall_mem_nil _⟩,
    execRseqOpen_owns, execRseqClose_owns, execRseqPriority_owns, execRseqTruncate_owns, execRseqEvict_owns, execRseqFetch_owns,
    List.forall_mem_nil _⟩,
    execEroute_owns, execCompact_owns, execMgate_owns, execTfeed_owns, execTlive_owns, execTstop_owns, execTstate_owns, execVdec_owns,
    execVenc_owns, execBoxdec_owns, execBoxsel_owns, execNms_owns, execArgmax_owns, List.forall_mem_nil _⟩

/-- Settles O45. -/
theorem unitOperationsKeepTheRest : Obligations.UnitOperationsKeepTheRest := by
  intro c face die engine aged fail i s t hi h
  have own := unitRows_own i hi t h
  exact ⟨own.system, own.contexts, own.others⟩

end Sys2Proof.Machine
end

/-! ## Module reset and its release (R15, R468, R469, R472) -/

section
namespace Sys2Proof.Machine

/-- The invariant, but for what it says of TRAY_RESET_N. -/
def InvButTray (s : State) : Prop := Inv { s with aoc := { s.aoc with level := [] } }

theorem Inv.butTray {s : State} (h : Inv s) : InvButTray s := { h with tray := fun asserted => by simp [nth] at asserted }

/-- Where the input is not asserted, or is a cause of the reset that holds, the invariant is whole. -/
theorem InvButTray.inv {s : State} (h : InvButTray s)
    (tray : nth false s.aoc.level 0 = true → bit s.aoc.causes rcTray = true ∧ s.mode = .offOrReset) : Inv s :=
  { h with tray := tray }

/-- A change of levels and causes of the inputs. -/
theorem InvButTray.inputs {s : State} {a : AocS} (h : InvButTray s) (stuck : a.stuck.length = s.aoc.stuck.length) :
    InvButTray { s with aoc := a } := by
  obtain ⟨lost, first, ret, six⟩ := h.tables
  exact { h with tray := fun asserted => by simp [nth] at asserted, tables := ⟨lost, first, ret, stuck.trans six⟩ }

theorem Kept.butTray {s t : State} (h : Kept s t) (inv : InvButTray s) : InvButTray t := by
  have inputs : Kept { s with aoc := { s.aoc with level := [] } } { t with aoc := { t.aoc with level := [] } } := { h with level := rfl }
  exact inputs.inv inv

/-- A module reset meets the invariant, where an asserted TRAY_RESET_N is one of its causes. -/
theorem resetModule_inv {s : State} (h : InvButTray s) (tray : nth false s.aoc.level 0 = true → bit s.aoc.causes rcTray = true) :
    Inv (resetModule s) where
  memory := loseDevice_still.memory h.memory
  contexts := rfl
  commands := Nat.zero_le 64
  apertures := apsOk_resetHif
  stopped _ := ⟨rfl, rfl⟩
  tray asserted := ⟨tray asserted, rfl⟩
  tallies := show ∀ x ∈ State.reset.ctxs, smWf 0 x.tallies = true by decide
  tables := ⟨rfl, h.tables.2.1, rfl, h.tables.2.2.2⟩

/-- A cause that is asserted resets the module, or finds it in reset. -/
theorem assertCause_mode (s : State) (k : Nat) : (assertCause s k).mode = .offOrReset := by
  simp only [assertCause]
  split
  · assumption
  · rfl

theorem assertCause_inv {s : State} {k : Nat} (h : InvButTray s)
    (tray : nth false s.aoc.level 0 = true → bit s.aoc.causes rcTray = true ∨ k = rcTray) : Inv (assertCause s k) := by
  have recorded : InvButTray (updAoc s fun a => { a with causes := a.causes ||| 2 ^ k, seen := a.seen ||| 2 ^ k }) := h.inputs rfl
  have held : nth false s.aoc.level 0 = true → bit (s.aoc.causes ||| 2 ^ k) rcTray = true := fun asserted => by
    obtain set | rfl := tray asserted
    · simp only [bit_eq_testBit] at set
      simp [bit_eq_testBit, set]
    · simp [bit_eq_testBit]
  simp only [assertCause]
  split
  · rename_i off
    exact recorded.inv fun asserted => ⟨held asserted, off⟩
  · exact resetModule_inv recorded held

/-! ### Rows that reset the module -/

/-- A row keeps the invariant, leaves relay-only only into reset, and stays in reset. -/
def Safe (s : State) (o : Host.Outcome State Fault Refusal) : Prop :=
  Inv s → ∀ t, o = .next t →
    Inv t ∧ (s.mode = .relayOnly → t.mode = .relayOnly ∨ t.mode = .offOrReset) ∧ (s.mode = .offOrReset → t.mode = .offOrReset)

theorem Kept.mode_of_away {s t : State} (h : Kept s t) (away : Away s) : t.mode = s.mode := by
  obtain same | ⟨⟨on, serving⟩, -⟩ := h.mode
  · exact same
  · exact absurd away (by simp [Away, on, serving])

/-- What keeps the invariant and, where the module serves no one, the mode. -/
theorem Safe.of_mode {s t : State} (inv : Inv s → Inv t) (mode : Away s → t.mode = s.mode) : Safe s (.next t) := by
  rintro h _ ⟨⟩
  exact ⟨inv h, fun relay => .inl ((mode (.inl relay)).trans relay), fun off => (mode (.inr off)).trans off⟩

/-- What keeps the invariant's parts is safe; it may use the invariant. -/
theorem Safe.of_keeps {s : State} {o : Host.Outcome State Fault Refusal} (h : Inv s → Keeps s o) : Safe s o := by
  rintro inv t rfl
  have kept := h inv t rfl
  exact Safe.of_mode kept.inv kept.mode_of_away inv t rfl

theorem Keeps.safe {s : State} {o : Host.Outcome State Fault Refusal} (h : Keeps s o) : Safe s o := .of_keeps fun _ => h

/-- A row that resets the module. -/
theorem Safe.reset {s t : State} (inv : Inv s → Inv t) (off : t.mode = .offOrReset) : Safe s (.next t) := by
  rintro h _ ⟨⟩
  exact ⟨inv h, fun _ => .inr off, fun _ => off⟩

theorem Safe.ite {s : State} {p : Prop} [Decidable p] {o o' : Host.Outcome State Fault Refusal} (h : Safe s o) (k : Safe s o') :
    Safe s (if p then o else o') := by
  split
  · exact h
  · exact k

theorem Safe.same {s : State} : Safe s (.next s) := (Keeps.next (.refl s)).safe

/-- A cause asserted after steps that keep the invariant. -/
theorem assertCause_safe {s u : State} {k : Nat} (h : Kept s u) : Safe s (.next (assertCause u k)) :=
  .reset (fun inv => assertCause_inv (h.butTray inv.butTray) fun asserted => .inl ((h.inv inv).tray asserted).1) (assertCause_mode u k)

theorem execModuleReset_safe {value : BitVec 64} {s : State} : Safe s (execModuleReset value s) := .ite (assertCause_safe (.refl s)) .same

theorem execInputUndervolt_safe {s : State} : Safe s (execInputUndervolt s) := .ite (assertCause_safe (.refl s)) .same

/-- What follows a reset and keeps the invariant's parts changes nothing of the reset. -/
theorem Safe.after_reset {s t u : State} (h : Safe s (.next t)) (off : t.mode = .offOrReset) (k : Kept t u) : Safe s (.next u) := by
  refine .reset (fun inv => k.inv (h inv t rfl).1) ?_
  obtain same | ⟨⟨on, -⟩, -⟩ := k.mode
  · exact same.trans off
  · exact absurd off on

theorem execRailFault_safe {s : State} : Safe s (execRailFault s) :=
  .ite ((assertCause_safe (.refl s)).after_reset (assertCause_mode ..) withHealth_kept) .same

theorem execResetButtonClose_safe {s : State} : Safe s (execResetButtonClose s) := by
  have closed : Kept s (inputEvent (inputLevel s 2 true) 2 inputSpacing) := inputEvent_kept.after inputLevel_kept
  simp only [execResetButtonClose]
  refine .ite .same ?_
  split
  · exact (Keeps.next closed).safe
  · exact assertCause_safe closed

theorem execTrayResetAssert_safe {s : State} : Safe s (execTrayResetAssert s) := by
  refine .ite (.reset (fun inv => assertCause_inv ?_ fun _ => .inr rfl) (assertCause_mode ..)) .same
  exact inputEvent_kept.butTray (inv.butTray.inputs rfl)

theorem nth_zero_set_zero (l : List Bool) : nth false (l.set 0 false) 0 = false := by
  cases l with
  | nil => rfl
  | cons b r => rfl

/-- The deassertion of TRAY_RESET_N ends its cause and changes no mode. -/
theorem execTrayResetDeassert_safe {s : State} : Safe s (execTrayResetDeassert s) := by
  let low := updAoc s fun a => { a with stuck := a.stuck.set 0 false, level := a.level.set 0 false }
  have released : Kept low (unstick s 0 false) := withHealth_kept
  have level : nth false (dropCause (unstick s 0 false) rcTray).aoc.level 0 = false := released.level.trans (nth_zero_set_zero _)
  refine .ite (.of_mode (fun inv => ?_) released.mode_of_away) .same
  have still : InvButTray (unstick s 0 false) := released.butTray (inv.butTray.inputs (by simp))
  exact InvButTray.inv (still.inputs rfl) fun asserted => by simp [level] at asserted

theorem coldReset_inv {s : State} {slot : Nat} {valid : Bool} (h : Inv s) : Inv (coldReset s slot valid) where
  memory := loseDevice_still.memory h.memory
  contexts := rfl
  commands := Nat.zero_le 64
  apertures := apsOk_resetHif
  stopped _ := ⟨rfl, rfl⟩
  tray asserted := by simp [coldReset, resetAoc, nth] at asserted
  tallies := show ∀ x ∈ State.reset.ctxs, smWf 0 x.tallies = true by decide
  tables := ⟨rfl, rfl, rfl, rfl⟩

theorem execMgmtPowerOn_safe {slot : BitVec 2} {valid : Bool} {s : State} : Safe s (execMgmtPowerOn slot valid s) := by
  have cold (valid : Bool) : Safe s (.next (coldReset s slot.toNat valid)) := .reset coldReset_inv rfl
  cases valid with
  | true => exact cold true
  | false => exact (cold false).after_reset rfl logErr_still.kept

theorem execMgmtPowerLoss_safe {s : State} : Safe s (execMgmtPowerLoss s) := by
  have gone (u : State) : Kept u { u with
      aoc := { u.aoc with on := false, label := { u.aoc.label with busy := false } }, pwr := { u.pwr with alert := false } } :=
    .same rfl rfl rfl rfl
  have reset : Safe s (.next (resetModule s)) := .reset (fun inv => resetModule_inv inv.butTray fun asserted => (inv.tray asserted).1) rfl
  exact reset.after_reset rfl (gone _)

/-! ### The release -/

theorem domRise_mode (s : State) (d : Nat) : (domRise s d).mode = s.mode := by
  simp only [domRise]
  split
  · rfl
  · refine traceResume_still.system.mode.trans ?_
    split
    · exact traceOwn_still.system.mode
    · rfl

theorem withHealth_mode (before s : State) : (withHealth before s).mode = s.mode := by
  unfold withHealth
  split <;> rfl

theorem mayRelease_iff {s : State} : mayRelease s = true ↔
    s.aoc.on = true ∧ s.mode = .offOrReset ∧ bit s.aoc.causes rcTray = false ∧ bit s.aoc.causes rcButton = false := by
  simp [mayRelease, and_assoc]

/-- The state in which start-up begins at step 3. -/
def startUpBegun (s : State) : State :=
  { s with
    aoc := { s.aoc with cause := s.aoc.seen, seen := 0, causes := 0, lastStep := 3 }, boot := (s.boot + 1) % 2 ^ 32, mode := .startUp
    hif := { s.hif with on := true } }

/-- A release takes a module in reset, which no input holds, into start-up. -/
theorem execModuleResetRelease_cases {s t : State} (h : execModuleResetRelease s = .next t) :
    t = s ∨ mayRelease s = true ∧ Kept (startUpBegun s) t ∧ t.mode = .startUp := by
  simp only [execModuleResetRelease] at h
  split at h
  · rename_i may
    obtain rfl := Host.Outcome.next.inj h
    refine .inr ⟨may, withHealth_kept.after (fwStateChg_kept.after (domRise_kept.after domRise_kept)), ?_⟩
    rw [withHealth_mode, fwStateChg, raiseIrq, domRise_mode, domRise_mode]
  · exact .inl (Host.Outcome.next.inj h).symm

/-- TRAY_RESET_N is not asserted, since it would be a cause. -/
theorem startUpBegun_inv {s : State} (inv : Inv s) (may : mayRelease s = true) : Inv (startUpBegun s) := by
  obtain ⟨-, -, tray, -⟩ := mayRelease_iff.1 may
  exact { inv with
    stopped := fun off => nomatch off
    tray := fun asserted => absurd (inv.tray asserted).1 (by simp [tray]) }

end Sys2Proof.Machine
end

/-! ## Every step: the invariant, and the modes that only a module reset leaves (O40, O42) -/

section
namespace Sys2Proof.Machine

/-- Every row but the release of module reset. -/
theorem exec_safe {i : Instr} {s : State} (h : i ≠ .moduleResetRelease) : Safe s (exec i s) := by
  cases i with
  | nop => exact execNop_owns.keeps.safe
  | stepAdvance => exact execStepAdvance_owns.keeps.safe
  | tallySet => exact execTallySet_owns.keeps.safe
  | shapeSet => exact execShapeSet_owns.keeps.safe
  | qmm => exact execQmm_owns.keeps.safe
  | qmmBatch => exact execQmmBatch_owns.keeps.safe
  | qdrain => exact execQdrain_owns.keeps.safe
  | qfill => exact execQfill_owns.keeps.safe
  | qzero => exact execQzero_owns.keeps.safe
  | cmv => exact execCmv_owns.keeps.safe
  | ew => exact execEw_owns.keeps.safe
  | act => exact execAct_owns.keeps.safe
  | actBwd => exact execActBwd_owns.keeps.safe
  | norm => exact execNorm_owns.keeps.safe
  | normBwd => exact execNormBwd_owns.keeps.safe
  | smx => exact execSmx_owns.keeps.safe
  | smxBwd => exact execSmxBwd_owns.keeps.safe
  | smxMerge => exact execSmxMerge_owns.keeps.safe
  | red => exact execRed_owns.keeps.safe
  | cvt => exact execCvt_owns.keeps.safe
  | split3 => exact execSplit3_owns.keeps.safe
  | esAcc => exact execEsAcc_owns.keeps.safe
  | esFinal => exact execEsFinal_owns.keeps.safe
  | gather => exact execGather_owns.keeps.safe
  | scatter => exact execScatter_owns.keeps.safe
  | scatterAdd => exact execScatterAdd_owns.keeps.safe
  | adamw => exact execAdamw_owns.keeps.safe
  | cgq => exact execCgq_owns.keeps.safe
  | cgdq => exact execCgdq_owns.keeps.safe
  | cprobe => exact execCprobe_owns.keeps.safe
  | sput => exact execSput_owns.keeps.safe
  | sget => exact execSget_owns.keeps.safe
  | sraise => exact execSraise_owns.keeps.safe
  | sfree => exact execSfree_owns.keeps.safe
  | hcopy => exact execHcopy_owns.keeps.safe
  | hset => exact execHset_owns.keeps.safe
  | cattn => exact execCattn_owns.keeps.safe
  | rappend => exact execRappend_owns.keeps.safe
  | rseqOpen => exact execRseqOpen_owns.keeps.safe
  | rseqClose => exact execRseqClose_owns.keeps.safe
  | rseqPriority => exact execRseqPriority_owns.keeps.safe
  | rseqTruncate => exact execRseqTruncate_owns.keeps.safe
  | rseqEvict => exact execRseqEvict_owns.keeps.safe
  | rseqFetch => exact execRseqFetch_owns.keeps.safe
  | eroute => exact execEroute_owns.keeps.safe
  | compact => exact execCompact_owns.keeps.safe
  | mgate => exact execMgate_owns.keeps.safe
  | cwrite => exact execCwrite_owns.keeps.safe
  | cread => exact execCread_owns.keeps.safe
  | csignal => exact execCsignal_owns.keeps.safe
  | crs => exact execCrs_keeps.safe
  | cag => exact execCag_keeps.safe
  | car => exact execCar_keeps.safe
  | ca2aDispatch => exact execCa2aDispatch_keeps.safe
  | ca2aCombine => exact execCa2aCombine_keeps.safe
  | cpermute => exact execCpermute_keeps.safe
  | cledger => exact execCledger_keeps.safe
  | cdigest => exact execCdigest_keeps.safe
  | tfeed => exact execTfeed_owns.keeps.safe
  | tlive => exact execTlive_owns.keeps.safe
  | tstop => exact execTstop_owns.keeps.safe
  | tstate => exact execTstate_owns.keeps.safe
  | vdec => exact execVdec_owns.keeps.safe
  | venc => exact execVenc_owns.keeps.safe
  | boxdec => exact execBoxdec_owns.keeps.safe
  | boxsel => exact execBoxsel_owns.keeps.safe
  | nms => exact execNms_owns.keeps.safe
  | argmax => exact execArgmax_owns.keeps.safe
  | packageStart => exact execPackageStart_keeps.safe
  | envelopeDispatch => exact execEnvelopeDispatch_owns.keeps.safe
  | waitTimeout => exact execWaitTimeout_owns.keeps.safe
  | operationCompletion => exact execOperationCompletion_keeps.safe
  | hazardRangeRelease => exact execHazardRangeRelease_keeps.safe
  | prefetchSignal => exact execPrefetchSignal_keeps.safe
  | taprootSample => exact execTaprootSample_keeps.safe
  | batchPublish => exact execBatchPublish_keeps.safe
  | liveDatagramReceive => exact execLiveDatagramReceive_keeps.safe
  | liveTick => exact execLiveTick_keeps.safe
  | vccPicture session => exact (execVccPicture_keeps (session := session)).safe
  | imageRetire => exact execImageRetire_keeps.safe
  | sqDoorbell => exact execSqDoorbell_keeps.safe
  | cqDoorbell => exact execCqDoorbell_keeps.safe
  | ringEnable => exact execRingEnable_keeps.safe
  | ringDisable => exact execRingDisable_keeps.safe
  | mbxIrqClear => exact execMbxIrqClear_keeps.safe
  | moduleReset => exact execModuleReset_safe
  | foremanRestart => exact .of_keeps fun inv => execForemanRestart_keeps fun off => (inv.stopped off).1
  | recoveryImageLoad => exact .of_keeps fun inv => execRecoveryImageLoad_keeps fun off => (inv.stopped off).2
  | eventsLost => exact execEventsLost_keeps.safe
  | identify => exact execIdentify_keeps.safe
  | health => exact execHealth_keeps.safe
  | cfgGet => exact execCfgGet_keeps.safe
  | cfgSet => exact execCfgSet_keeps.safe
  | fwStage => exact execFwStage_keeps.safe
  | fwActivate => exact execFwActivate_keeps.safe
  | fwStatus => exact execFwStatus_keeps.safe
  | calRead => exact execCalRead_keeps.safe
  | calWrite => exact execCalWrite_keeps.safe
  | bistRun => exact execBistRun_keeps.safe
  | repairMapOut => exact execRepairMapOut_keeps.safe
  | repairUnmap => exact execRepairUnmap_keeps.safe
  | repairLaneSwap => exact execRepairLaneSwap_keeps.safe
  | labelUpdate => exact execLabelUpdate_keeps.safe
  | ctxOpen => exact .of_keeps fun inv => execCtxOpen_keeps fun off => (inv.stopped off).2
  | ctxClose => exact execCtxClose_keeps.safe
  | ctxQuery => exact execCtxQuery_keeps.safe
  | ctxMap => exact execCtxMap_keeps.safe
  | pkgSubmit => exact execPkgSubmit_keeps.safe
  | pkgRetry => exact execPkgRetry_keeps.safe
  | pkgSkip => exact execPkgSkip_keeps.safe
  | pkgAbort => exact execPkgAbort_keeps.safe
  | tallyRead => exact execTallyRead_keeps.safe
  | tallySetCmd => exact execTallySetCmd_keeps.safe
  | ledgerRead => exact execLedgerRead_keeps.safe
  | ledgerWrite => exact execLedgerWrite_keeps.safe
  | stashWrite => exact execStashWrite_keeps.safe
  | ckptSave => exact execCkptSave_keeps.safe
  | ckptRestore => exact execCkptRestore_keeps.safe
  | fabRecord => exact execFabRecord_keeps.safe
  | fabRoute => exact execFabRoute_keeps.safe
  | fabTunnelOpen => exact execFabTunnelOpen_keeps.safe
  | fabTunnelClose => exact execFabTunnelClose_keeps.safe
  | fabPortDisable => exact execFabPortDisable_keeps.safe
  | fabPortEnable => exact execFabPortEnable_keeps.safe
  | fabPortRetrain => exact execFabPortRetrain_keeps.safe
  | timeRead => exact execTimeRead_keeps.safe
  | timeConfig => exact execTimeConfig_keeps.safe
  | traceConfig => exact execTraceConfig_keeps.safe
  | traceStart => exact execTraceStart_keeps.safe
  | traceStop => exact execTraceStop_keeps.safe
  | traceFlush => exact execTraceFlush_keeps.safe
  | logRead => exact execLogRead_keeps.safe
  | pwrCap => exact execPwrCap_keeps.safe
  | pwrRetain => exact execPwrRetain_keeps.safe
  | bar2Access => exact execBar2Access_keeps.safe
  | bar2Resize => exact execBar2Resize_keeps.safe
  | timElapsedRead => exact execTimElapsedRead_keeps.safe
  | qryPerfClear => exact execQryPerfClear_keeps.safe
  | clearPeak => exact execClearPeak_keeps.safe
  | cruPerfClear => exact execCruPerfClear_keeps.safe
  | rsPerfClear => exact execRsPerfClear_keeps.safe
  | splPerfClear => exact execSplPerfClear_keeps.safe
  | memPerfClear => exact execMemPerfClear_keeps.safe
  | tapPerfClear => exact execTapPerfClear_keeps.safe
  | vccPerfClear => exact execVccPerfClear_keeps.safe
  | fabPerfClear => exact execFabPerfClear_keeps.safe
  | colPerfClear => exact execColPerfClear_keeps.safe
  | rasFirstClr => exact execRasFirstClr_keeps.safe
  | hwReset => exact execHwReset_keeps.safe
  | registerWrite => exact execRegisterWrite_keeps.safe
  | i2cRegisterRead => exact execI2cRegisterRead_keeps.safe
  | mgmtPowerOn => exact execMgmtPowerOn_safe
  | mgmtPowerLoss => exact execMgmtPowerLoss_safe
  | inputUndervolt => exact execInputUndervolt_safe
  | inputLow => exact execInputLow_keeps.safe
  | inputDip => exact execInputDip_keeps.safe
  | moduleResetRelease => exact absurd rfl h
  | startUp => exact execStartUp_keeps.safe
  | trayResetAssert => exact execTrayResetAssert_safe
  | trayResetDeassert => exact execTrayResetDeassert_safe
  | perstAssert => exact execPerstAssert_keeps.safe
  | perstRelease => exact execPerstRelease_keeps.safe
  | resetButtonClose => exact execResetButtonClose_safe
  | resetButtonOpen => exact execResetButtonOpen_keeps.safe
  | buttonStuck => exact execButtonStuck_keeps.safe
  | buttonIgnoredClear => exact execButtonIgnoredClear_keeps.safe
  | inputStuck => exact execInputStuck_keeps.safe
  | ppsEdge => exact execPpsEdge_keeps.safe
  | syncEdge => exact execSyncEdge_keeps.safe
  | heartbeatTick => exact execHeartbeatTick_keeps.safe
  | labelDrawing => exact execLabelDrawing_keeps.safe
  | faceJunctionReading => exact execFaceJunctionReading_keeps.safe
  | junctionThrottleStep => exact execJunctionThrottleStep_keeps.safe
  | neighbourThrottleStep => exact execNeighbourThrottleStep_keeps.safe
  | hbmTempReading => exact execHbmTempReading_keeps.safe
  | farTempReport => exact (execFarTempReport_owns (c := 0)).keeps.safe
  | thermAlertRelease => exact execThermAlertRelease_keeps.safe
  | powerSample => exact execPowerSample_keeps.safe
  | capLevelStep => exact execCapLevelStep_keeps.safe
  | domainWake => exact execDomainWake_keeps.safe
  | domainIdlePowerDown => exact execDomainIdlePowerDown_keeps.safe
  | retentionAutoEntry => exact execRetentionAutoEntry_keeps.safe
  | stockpileScrub => exact execStockpileScrub_keeps.safe
  | nearScrub => exact execNearScrub_keeps.safe
  | timeFrameReceive => exact execTimeFrameReceive_keeps.safe
  | timeFrameSend => exact execTimeFrameSend_keeps.safe
  | timeFrameTimeout => exact execTimeFrameTimeout_keeps.safe
  | ptpMessageReceive => exact execPtpMessageReceive_keeps.safe
  | timeHoldoverExpiry => exact execTimeHoldoverExpiry_keeps.safe
  | ringFrameReceive => exact execRingFrameReceive_keeps.safe
  | ringInsert => exact execRingInsert_keeps.safe
  | insertWindow => exact execInsertWindow_keeps.safe
  | discover => exact execDiscover_keeps.safe
  | linkFrameReceive => exact (execLinkFrameReceive_owns (c := 0)).keeps.safe
  | ackReport => exact (execAckReport_owns (c := 0)).keeps.safe
  | laneSwap => exact execLaneSwap_keeps.safe
  | widthChange => exact execWidthChange_keeps.safe
  | portDown => exact execPortDown_keeps.safe
  | portInit => exact execPortInit_keeps.safe
  | packetForward => exact execPacketForward_keeps.safe
  | write => exact execWrite_keeps.safe
  | readReq => exact execReadReq_keeps.safe
  | readRsp => exact execReadRsp_keeps.safe
  | ack => exact execAck_keeps.safe
  | signal => exact execSignal_keeps.safe
  | coll => exact execColl_keeps.safe
  | ctrl => exact execCtrl_keeps.safe
  | remoteTimeout => exact execRemoteTimeout_keeps.safe
  | ethernetFrameReceive => exact (execEthernetFrameReceive_owns (c := 0)).keeps.safe
  | jouData => exact (execJouData_owns (c := 0)).keeps.safe
  | jouAck => exact (execJouAck_owns (c := 0)).keeps.safe
  | probe => exact (execProbe_owns (c := 0)).keeps.safe
  | jouAckTimer => exact (execJouAckTimer_owns (c := 0)).keeps.safe
  | jouRetransmit => exact (execJouRetransmit_owns (c := 0)).keeps.safe
  | jouFenceRelease => exact (execJouFenceRelease_owns (c := 0)).keeps.safe
  | tunnelDown => exact execTunnelDown_keeps.safe
  | errorEvent => exact execErrorEvent_keeps.safe
  | coalesceClose => exact execCoalesceClose_keeps.safe
  | logCommit => exact execLogCommit_keeps.safe
  | commandCompletion => exact execCommandCompletion_keeps.safe
  | pcieLinkUp => exact execPcieLinkUp_keeps.safe
  | pcieLinkDown => exact execPcieLinkDown_keeps.safe
  | railFault => exact execRailFault_safe
  | liveFrameIncomplete => exact execLiveFrameIncomplete_owns.keeps.safe
  | ringLockLost => exact execRingLockLost_keeps.safe

/-- A step is a tick of the clock, or the command at the front of the queue. -/
theorem step_cases {s t : State} (h : step s = .next t) :
    t = tick s ∨ ∃ i rest, s.pending = i :: rest ∧ exec i { s with pending := rest } = .next t := by
  unfold step at h
  split at h
  · exact .inl (Host.Outcome.next.inj h).symm
  · rename_i i rest front
    exact .inr ⟨i, rest, front, h⟩

theorem Inv.pending {s : State} (inv : Inv s) (rest : List Instr) : Inv { s with pending := rest } := { inv with }

/-- Settles O40. -/
theorem invariantKept : Obligations.InvariantKept := by
  intro s t inv h
  obtain rfl | ⟨i, rest, -, h⟩ := step_cases h
  · exact tick_kept.inv inv
  · by_cases release : i = .moduleResetRelease
    · subst release
      obtain rfl | ⟨may, begun, -⟩ := execModuleResetRelease_cases h
      · exact inv.pending rest
      · exact begun.inv (startUpBegun_inv (inv.pending rest) may)
    · exact (exec_safe release (inv.pending rest) t h).1

/-- Settles O42. -/
theorem awayLeftOnlyByReset : Obligations.AwayLeftOnlyByReset := by
  intro s t inv h
  obtain rfl | ⟨i, rest, front, h⟩ := step_cases h
  · exact ⟨fun relay => .inl ((tick_kept.mode_of_away (.inl relay)).trans relay), fun off => .inl ((tick_kept.mode_of_away (.inr off)).trans off)⟩
  · by_cases release : i = .moduleResetRelease
    · subst release
      obtain rfl | ⟨may, -, starts⟩ := execModuleResetRelease_cases h
      · exact ⟨.inl, .inl⟩
      · obtain ⟨-, off, tray, button⟩ := mayRelease_iff.1 may
        rw [bit_eq_testBit] at tray button
        exact ⟨fun relay => absurd (off.symm.trans relay) (by simp), fun _ => .inr ⟨starts, by simp [front], tray, button⟩⟩
    · obtain ⟨-, relay, off⟩ := exec_safe release (inv.pending rest) t h
      exact ⟨relay, fun reset => .inl (off reset)⟩

end Sys2Proof.Machine
end

/-! ## Floating elements: what a format holds, and its own code back (R43, R57 to R59, R64, R65) -/

section
namespace Sys2Proof.Machine

/-- A bit as a number. -/
theorem b2n_bit (x i : Nat) : b2n (bit x i) = (x >>> i) % 2 := by
  rcases Nat.mod_two_eq_zero_or_one (x >>> i) with h | h <;> simp [bit, b2n, h]

/-- The code of a sign, an exponent field and a mantissa field. -/
def floatCode (f : FloatSpec) (neg : Bool) (e m : Nat) : Nat := b2n neg <<< (f.eb + f.mb) + e <<< f.mb + m

/-- The magnitude of a finite element: a normal one has the hidden bit. -/
def fieldMag (f : FloatSpec) (e m : Nat) : Nat := if e = 0 then m else m + 2 ^ f.mb

/-- The exponent of a finite element: a subnormal one has that of the smallest normal. -/
def fieldExp (f : FloatSpec) (e : Nat) : Int := (max e 1 : Nat) - f.bias - f.mb

/-- The fields of an infinity or a NaN. -/
def isSpecial (f : FloatSpec) (e m : Nat) : Bool :=
  match f.kind with
  | .ieee => e = 2 ^ f.eb - 1
  | .e4m3 => e = 2 ^ f.eb - 1 && m = 2 ^ f.mb - 1
  | .plain => false

theorem fieldExp_zero (f : FloatSpec) : fieldExp f 0 = eminOf f - f.mb := by simp [fieldExp, eminOf]

theorem fieldExp_normal (f : FloatSpec) {e : Nat} (he : e ≠ 0) : fieldExp f e = (e : Int) - f.bias - f.mb := by
  rw [fieldExp, Nat.max_eq_left (Nat.one_le_iff_ne_zero.2 he)]

theorem bits_lt (x lo len : Nat) : bits x lo len < 2 ^ len := Nat.mod_lt _ (by positivity)

/-- A code is the code of its fields. -/
theorem floatCode_of_bits {f : FloatSpec} {x : Nat} (h : x < 2 ^ (f.eb + f.mb + 1)) :
    floatCode f (bit x (f.eb + f.mb)) (bits x f.mb f.eb) (bits x 0 f.mb) = x := by
  have sign : x / 2 ^ (f.eb + f.mb) % 2 = x / 2 ^ f.mb / 2 ^ f.eb := by
    rw [Nat.add_comm f.eb, Nat.pow_add, ← Nat.div_div_eq_div_mul]
    refine Nat.mod_eq_of_lt ?_
    rw [Nat.div_div_eq_div_mul, ← Nat.pow_add, Nat.div_lt_iff_lt_mul (by positivity)]
    calc x < 2 ^ (f.eb + f.mb + 1) := h
      _ = 2 * 2 ^ (f.mb + f.eb) := by ring
  simp only [floatCode, b2n_bit, bits, Nat.shiftRight_eq_div_pow, Nat.shiftLeft_eq, Nat.pow_zero, Nat.div_one, sign]
  calc x / 2 ^ f.mb / 2 ^ f.eb * 2 ^ (f.eb + f.mb) + x / 2 ^ f.mb % 2 ^ f.eb * 2 ^ f.mb + x % 2 ^ f.mb
      = (2 ^ f.eb * (x / 2 ^ f.mb / 2 ^ f.eb) + x / 2 ^ f.mb % 2 ^ f.eb) * 2 ^ f.mb + x % 2 ^ f.mb := by ring
    _ = x := by rw [Nat.div_add_mod, Nat.div_add_mod']

/-- A stored element's value, by its fields (R43). -/
theorem decodeFloat_eq (f : FloatSpec) (x : Nat) :
    decodeFloat f x =
      if isSpecial f (bits x f.mb f.eb) (bits x 0 f.mb) then
        (if f.kind = .ieee && bits x 0 f.mb = 0 then .inf (bit x (f.eb + f.mb)) else .nan)
      else .fin (bit x (f.eb + f.mb)) (fieldMag f (bits x f.mb f.eb) (bits x 0 f.mb)) (fieldExp f (bits x f.mb f.eb)) := by
  have finite (neg : Bool) (e m : Nat) : FVal.fin neg (fieldMag f e m) (fieldExp f e) =
      if e = 0 then .fin neg m (eminOf f - f.mb) else .fin neg (m + 2 ^ f.mb) ((e : Int) - f.bias - f.mb) := by
    split
    case isTrue zero => rw [zero, fieldExp_zero, fieldMag, if_pos rfl]
    case isFalse normal => rw [fieldExp_normal f normal, fieldMag, if_neg normal]
  rw [finite]
  rfl

/-- A finite element is no special one, and its value is its fields'. -/
theorem decodeFloat_of_isFin {f : FloatSpec} {x : Nat} (h : isFin (decodeFloat f x) = true) :
    isSpecial f (bits x f.mb f.eb) (bits x 0 f.mb) = false ∧
      decodeFloat f x = .fin (bit x (f.eb + f.mb)) (fieldMag f (bits x f.mb f.eb) (bits x 0 f.mb)) (fieldExp f (bits x f.mb f.eb)) := by
  rw [decodeFloat_eq] at h ⊢
  cases special : isSpecial f (bits x f.mb f.eb) (bits x 0 f.mb)
  case false => simp
  case true =>
    rw [special, if_pos rfl] at h
    split at h <;> cases h

section
variable {f : FloatSpec} {e m : Nat}

/-- The binary exponent of a normal element. -/
theorem log2X_normal (he : e ≠ 0) (hm : m < 2 ^ f.mb) : log2X (fieldMag f e m) (fieldExp f e) = e - f.bias := by
  have log : (m + 2 ^ f.mb).log2 = f.mb := by
    rw [Nat.log2_eq_iff (by positivity)]
    exact ⟨Nat.le_add_left .., by rw [Nat.pow_succ]; omega⟩
  rw [log2X, fieldMag, if_neg he, log, fieldExp_normal f he]
  ring

/-- The binary exponent of a subnormal element is below the smallest normal's. -/
theorem log2X_subnormal (hz : m ≠ 0) (hm : m < 2 ^ f.mb) : log2X (fieldMag f 0 m) (fieldExp f 0) < eminOf f := by
  have log : m.log2 < f.mb := (Nat.log2_lt hz).2 hm
  rw [log2X, fieldMag, if_pos rfl, fieldExp_zero]
  omega

/-- No normal element's binary exponent is below the smallest normal's. -/
theorem eminOf_le_normal (he : e ≠ 0) : eminOf f ≤ e - f.bias := by
  rw [eminOf]
  omega

/-- The quantum at an element of the format is the element's own: its magnitude is a whole number of quanta (R58). -/
theorem quantumExp_fields (hz : fieldMag f e m ≠ 0) (hm : m < 2 ^ f.mb) :
    quantumExp f.mb (eminOf f) (fieldMag f e m) (fieldExp f e) = fieldExp f e := by
  by_cases he : e = 0
  · subst he
    have below := log2X_subnormal (f := f) (by simpa [fieldMag] using hz) hm
    rw [quantumExp, max_eq_right below.le, fieldExp_zero]
  · rw [quantumExp, log2X_normal he hm, max_eq_left (eminOf_le_normal he), fieldExp_normal f he]

theorem splitQ_self (m : Nat) (e : Int) : splitQ m e e = (m, 0, 0) := by simp [splitQ]

/-- The code of a finite value other than zero. -/
theorem encodeFloat_of_ne_zero (f : FloatSpec) (n : Bool) {m : Nat} (e : Int) (h : m ≠ 0) :
    encodeFloat f (.fin n m e) =
      if log2X m e < eminOf f then b2n n <<< (f.eb + f.mb) + (splitQ m e (eminOf f - f.mb)).1
      else b2n n <<< (f.eb + f.mb) + (log2X m e + f.bias).toNat <<< f.mb + (splitQ m e (log2X m e - f.mb)).1 % 2 ^ f.mb := by
  obtain ⟨k, rfl⟩ := Nat.exists_eq_succ_of_ne_zero h
  rfl

/-- An element's value encodes to the code of its fields (R43). -/
theorem encodeFloat_fields (neg : Bool) (hm : m < 2 ^ f.mb) :
    encodeFloat f (.fin neg (fieldMag f e m) (fieldExp f e)) = floatCode f neg e m := by
  by_cases he : e = 0
  · subst he
    by_cases zero : m = 0
    · simp [zero, encodeFloat, fieldMag, floatCode]
    · rw [encodeFloat_of_ne_zero _ _ _ (by simpa [fieldMag] using zero), if_pos (log2X_subnormal zero hm), ← fieldExp_zero, splitQ_self]
      simp [fieldMag, floatCode]
  · rw [encodeFloat_of_ne_zero _ _ _ (by simp [fieldMag, he]), log2X_normal he hm, if_neg (eminOf_le_normal he).not_gt,
      ← fieldExp_normal f he, splitQ_self]
    simp [fieldMag, he, floatCode, Nat.mod_eq_of_lt hm]

end

/-- A whole number of quanta rounds to itself, under either rounding (R58, R59). -/
theorem roundQ_self {r : Rnd} (hr : ∀ k, r = .sr k → k < 2 ^ 16) (m : Nat) (e : Int) : roundQ r m e e = m := by
  cases r with
  | rne => simp [roundQ, rneQ, splitQ_self]
  | sr k =>
    have below : ¬65536 ≤ k := by simpa using hr k rfl
    simp [roundQ, srQ, splitQ_self, below]

/-- Such a value is left as it is. -/
theorem roundFloat_of_exact {r : Rnd} (hr : ∀ k, r = .sr k → k < 2 ^ 16) {p m : Nat} {emin e : Int} (n : Bool) (h : m ≠ 0)
    (whole : quantumExp p emin m e = e) : roundFloat r p emin (.fin n m e) = .fin n m e := by
  obtain ⟨k, rfl⟩ := Nat.exists_eq_succ_of_ne_zero h
  simp only [roundFloat, whole, roundQ_self hr]

/-- M quanta 2^E are not below m quanta 2^e, the finer, where they are as many of the finer or more. -/
theorem ltX_eq_false_of_le {M m : Nat} {E e : Int} (he : e ≤ E) (hm : m ≤ M * 2 ^ (E - e).toNat) :
    ltX (.fin false M E) (.fin false m e) = false := by
  have order : (m : Int) ≤ (M : Int) * 2 ^ (E - e).toNat := by exact_mod_cast hm
  simp [ltX, cmpX, intAt, he, Nat.shiftLeft_eq, isNan, Int.sign_neg_iff, order]

/-- No magnitude is below zero. -/
theorem ltX_zero (M : Nat) (E e : Int) : ltX (.fin false M E) (.fin false 0 e) = false := by
  simp [ltX, cmpX, intAt, isNan, Nat.shiftLeft_eq]

theorem fmtMax_finite (f : Fmt) : ∃ M E, fmtMax f = .fin false M E := by
  cases f <;> exact ⟨_, _, rfl⟩

/-- Narrowing of a finite value that is a whole number of the target's quanta, and not above its largest: its own code, with no event (R58 to R65). -/
theorem narrowElem_of_exact {f : Fmt} {r : Rnd} {m : Nat} {e : Int} (float : isIntFmt f = false) (hr : ∀ k, r = .sr k → k < 2 ^ 16)
    (whole : m ≠ 0 → quantumExp (floatSpec f).mb (eminOf (floatSpec f)) m e = e) (fits : ltX (fmtMax f) (.fin false m e) = false)
    (n ovf : Bool) : narrowElem f r ovf (.fin n m e) = (encodeFloat (floatSpec f) (.fin n m e), {}) := by
  by_cases zero : m = 0
  · subst zero
    obtain ⟨M, E, largest⟩ := fmtMax_finite f
    simp [narrowElem, float, roundFloat, fabs, largest, ltX_zero, encodeFloat]
  · have nonzero : isZero (.fin n m e) = false := by
      obtain ⟨k, rfl⟩ := Nat.exists_eq_succ_of_ne_zero zero
      rfl
    simp [narrowElem, float, roundFloat_of_exact hr n zero (whole zero), fabs, fits, nonzero]

/-- The floating formats without a block scale (R43). -/
def floatFmts : List Fmt := [.fp32, .bf16, .fp16, .e4m3, .e5m2, .e8m39]

theorem decodeElem_float {f : Fmt} (h : f ∈ floatFmts) (x : Nat) : decodeElem f x = decodeFloat (floatSpec f) x := by
  simp only [floatFmts, List.mem_cons, List.not_mem_nil, or_false] at h
  rcases h with rfl | rfl | rfl | rfl | rfl | rfl <;> rfl

/-- The largest finite element of a format whose top exponent is kept for infinities and NaNs: all bits one below that exponent (R43). -/
theorem fmtMax_ieee : ∀ f ∈ floatFmts, f ≠ .e4m3 → (floatSpec f).kind = .ieee ∧
    fmtMax f = .fin false (2 ^ ((floatSpec f).mb + 1) - 1) (fieldExp (floatSpec f) (2 ^ (floatSpec f).eb - 2)) := by
  decide

theorem fieldMag_le {f : FloatSpec} {e m : Nat} (hm : m < 2 ^ f.mb) : fieldMag f e m ≤ 2 ^ (f.mb + 1) - 1 := by
  rw [fieldMag, Nat.pow_succ]
  split <;> omega

theorem fieldExp_mono (f : FloatSpec) {e e' : Nat} (h : e ≤ e') : fieldExp f e ≤ fieldExp f e' := by
  simp only [fieldExp]
  omega

/-- No finite element of E4M3 is above 448: at the top exponent, whose last mantissa is the NaN, the magnitude is at most 14 of its quanta (R43). -/
theorem ltX_fmtMax_e4m3 {e m : Nat} (he : e < 16) (hm : m < 8) (finite : isSpecial (floatSpec .e4m3) e m = false) :
    ltX (fmtMax .e4m3) (.fin false (fieldMag (floatSpec .e4m3) e m) (fieldExp (floatSpec .e4m3) e)) = false := by
  by_cases top : e = 15
  · subst top
    have last : m ≠ 7 := of_decide_eq_false finite
    refine ltX_eq_false_of_le (by decide) ?_
    show m + 8 ≤ 14
    omega
  · have expo : fieldExp (floatSpec .e4m3) e ≤ 4 := fieldExp_mono (floatSpec .e4m3) (show e ≤ 14 by omega)
    refine ltX_eq_false_of_le (by omega) ?_
    calc fieldMag (floatSpec .e4m3) e m ≤ 15 := fieldMag_le (f := floatSpec .e4m3) hm
      _ ≤ 7 * 2 ^ 2 := by decide
      _ ≤ 7 * 2 ^ (6 - fieldExp (floatSpec .e4m3) e).toNat := Nat.mul_le_mul_left _ (Nat.pow_le_pow_right (by decide) (by omega))

/-- No finite element is above its format's largest (R43, R64). -/
theorem ltX_fmtMax_fields {f : Fmt} (h : f ∈ floatFmts) {e m : Nat} (he : e < 2 ^ (floatSpec f).eb) (hm : m < 2 ^ (floatSpec f).mb)
    (finite : isSpecial (floatSpec f) e m = false) :
    ltX (fmtMax f) (.fin false (fieldMag (floatSpec f) e m) (fieldExp (floatSpec f) e)) = false := by
  by_cases special : f = .e4m3
  · subst special
    exact ltX_fmtMax_e4m3 he hm finite
  · obtain ⟨kind, largest⟩ := fmtMax_ieee f h special
    have below : e ≠ 2 ^ (floatSpec f).eb - 1 := by simpa [isSpecial, kind] using finite
    rw [largest]
    exact ltX_eq_false_of_le (fieldExp_mono _ (by omega)) ((fieldMag_le hm).trans (Nat.le_mul_of_pos_right _ (by positivity)))

/-- Settles O58: a finite element's value is a whole number of its own quanta and not above the largest, so it rounds to itself and encodes to its fields. -/
theorem formatsKeepTheirValues : Obligations.FormatsKeepTheirValues := by
  intro f r ovf x mem hr hx fin
  have float : isIntFmt f = false := (show ∀ f ∈ floatFmts, isIntFmt f = false by decide) f mem
  rw [decodeElem_float mem] at fin ⊢
  obtain ⟨finite, value⟩ := decodeFloat_of_isFin fin
  have fits := ltX_fmtMax_fields mem (bits_lt ..) (bits_lt ..) finite
  rw [value, narrowElem_of_exact float hr (fun nonzero => quantumExp_fields nonzero (bits_lt ..)) fits, encodeFloat_fields _ (bits_lt ..),
    floatCode_of_bits hx]

end Sys2Proof.Machine
end

/-! ## BAR2: apertures and accesses (R33) -/

section
namespace Sys2Proof.Machine

/-- What an aperture register reads. -/
theorem regValue_aperture (s : State) {k : Nat} (hk : k < 16) : regValue s (0x2000 + 8 * k) = apReg s k := by
  have above : ¬0x2000 + 8 * k < 0x2000 := by omega
  have below : 0x2000 + 8 * k < 0x2080 := by omega
  have index : (0x2000 + 8 * k - 0x2000) / 8 = k := by omega
  simp only [regValue, above, below, index, if_false, if_true]

theorem apReg_of_getElem? {s : State} {k a : Nat} {on : Bool} (h : s.hif.aps[k]? = some (a, on)) : apReg s k = a + b2n on := by
  simp [apReg, nth, List.getD, h]

/-- What an aperture register reads after a write of it. -/
theorem apReg_apWrite_same (s : State) {k : Nat} (v : Nat) (hk : k < s.hif.aps.length) :
    apReg (apWrite s k v) k = bits v 0 48 / apSize s * apSize s + b2n (bit v 0) :=
  apReg_of_getElem? (List.getElem?_set_self hk)

/-- What an aperture register reads after a write of another. -/
theorem apReg_apWrite_other (s : State) {j k : Nat} (v : Nat) (h : j ≠ k) : apReg (apWrite s k v) j = apReg s j := by
  simp [apReg, nth, List.getD, apWrite, List.getElem?_set_ne h.symm]

/-- R7, R33: a write at an aperture register's offset writes that register. -/
theorem execRegisterWrite_aperture {s : State} (h : barOn s = true) {k : Nat} (hk : k < 16) (v : BitVec 64) :
    exec (.registerWrite (BitVec.ofNat 24 (0x2000 + 8 * k)) v) s = .next (apWrite s k v.toNat) := by
  have offset : (BitVec.ofNat 24 (0x2000 + 8 * k)).toNat = 0x2000 + 8 * k := by
    rw [BitVec.toNat_ofNat]
    omega
  have above : ¬0x2000 + 8 * k < 0x2000 := by omega
  have below : 0x2000 + 8 * k < 0x2080 := by omega
  have index : (0x2000 + 8 * k - 0x2000) / 8 = k := by omega
  rw [execRegisterWrite_of_barOn h (by omega)]
  simp only [offset, above, below, index, if_false, if_true]

/-- The DA that an offset reaches through an enabled aperture. -/
theorem bar2Da_of_getElem? {s : State} {addr a : Nat} (h : s.hif.aps[addr / apSize s]? = some (a, true)) :
    bar2Da s addr = some (a + addr % apSize s) := by
  simp [bar2Da, nth, List.getD, h]

/-- The host interface's part of a state that BAR2_RESIZE leaves: the size, and aperture k on the near tier at k times the aperture size (R33). -/
structure Resized (n : Nat) (t : State) : Prop where
  size : t.hif.bar2Log2 = 36 + n
  aperture : ∀ k < 16, t.hif.aps[k]? = some (nearBase + k * 2 ^ (32 + n), true)

theorem execBar2Resize_resized {s : State} (h : barOn s = true) (n : Fin 6) : ∃ t, exec (.bar2Resize n) s = .next t ∧ Resized n t :=
  ⟨_, if_pos h, rfl, fun k hk => by simp [hk]⟩

theorem Resized.apSize {n : Nat} {t : State} (h : Resized n t) : apSize t = 2 ^ (32 + n) := by
  rw [Machine.apSize, h.size]
  congr 1
  omega

/-- After a resize BAR2 is the near tier from its first byte on. -/
theorem Resized.bar2Da {n : Nat} {t : State} (h : Resized n t) {addr : Nat} (within : addr < 2 ^ (36 + n)) :
    bar2Da t addr = some (nearBase + addr) := by
  have index : addr / 2 ^ (32 + n) < 16 := by
    rw [Nat.div_lt_iff_lt_mul (by positivity)]
    calc addr < 2 ^ (36 + n) := within
      _ = 16 * 2 ^ (32 + n) := by ring
  rw [bar2Da_of_getElem? (by rw [h.apSize]; exact h.aperture _ index), h.apSize, Nat.add_assoc, Nat.div_add_mod']

/-- Settles O57. -/
theorem bar2Directs : Obligations.Bar2Directs := by
  refine ⟨fun s n on => ?_, fun s k v on inv => ?_⟩
  · obtain ⟨t, runs, resized⟩ := execBar2Resize_resized on n
    refine ⟨t, runs, resized.size, fun addr within => resized.bar2Da within, fun k => ?_⟩
    rw [regValue_aperture t k.isLt, apReg_of_getElem? (resized.aperture k k.isLt)]
    rfl
  · obtain ⟨-, -, sixteen, -⟩ := inv.apertures
    refine ⟨_, execRegisterWrite_aperture on k.isLt v, ?_, fun j other => ?_⟩
    · rw [regValue_aperture _ k.isLt, apReg_apWrite_same s _ (by omega), b2n_bit]
      rfl
    · rw [regValue_aperture _ j.isLt, regValue_aperture _ j.isLt, apReg_apWrite_other s _ (Fin.val_ne_of_ne other)]

/-- A BAR2 access in range goes to the region that its bytes lie in (R33). -/
theorem execBar2Access_of_region {s : State} {addr len da : Nat} {r : Region} (on : barOn s = true) (some_byte : 1 ≤ len)
    (page : addr % 4096 + len ≤ 4096) (within : addr + len ≤ 2 ^ s.hif.bar2Log2) (reaches : bar2Da s addr = some da)
    (region : bar2Region s da len = some r) (write : Bool) (data : Nat) :
    exec (.bar2Access write addr len data) s = .next (withHealth s (bar2Go s r write da len data)) := by
  have nonempty : len ≠ 0 := by omega
  show execBar2Access write addr len data s = _
  simp [execBar2Access, on, nonempty, page.not_gt, within.not_gt, reaches, region]

/-- What an access to powered memory does, outside the Sump window and groups that are OFF. -/
theorem bar2Go_of_memory {s : State} {r : Region} {da : Nat} (sump : r ≠ .sump) (on : regionOn s r da = true)
    (kept : r = .stockpile → retOf s da ≠ 2) (write : Bool) (len data : Nat) :
    bar2Go s r write da len data = if write then bar2Write s da len data else bar2Read s da len := by
  have live : (r = .stockpile && retOf s da = 2) = false := by simpa using kept
  simp [bar2Go, on, sump, live]

/-- Settles O32. -/
theorem bar2AccessesRun : Obligations.Bar2AccessesRun := by
  intro s addr len data da r on some_byte page within reaches region sump powered kept
  have runs := execBar2Access_of_region on some_byte page within reaches region
  simp only [bar2Go_of_memory sump powered kept] at runs
  exact ⟨runs false data, runs true data⟩

end Sys2Proof.Machine
end

/-! ## The state after reset (R468) -/

section
namespace Sys2Proof.Machine

theorem ctxOf_reset (c : Nat) : ctxOf State.reset c = resetCtx := List.getElem?_getD_replicate_default_eq (d := resetCtx) 8 c

theorem isOpen_reset (c : Nat) : isOpen State.reset c = false := by
  simp [isOpen, ctxOf_reset, resetCtx]

theorem counterAt_replicate_zero (n k : Nat) : counterAt (List.replicate n 0) k = 0 := by
  simp [counterAt, nth, List.getElem?_getD_replicate_default_eq]

/-- R24: a unit register is read in its unit's block of 4 KiB. -/
theorem regValue_unit (s : State) {o : Nat} (h : 0x100000 ≤ o) : regValue s o = unitReg s o := by
  have mailbox : ¬o < 0x2000 := by omega
  have aperture : ¬o < 0x2080 := by omega
  have memory : ¬o < 0x20000 := by omega
  simp [regValue, mailbox, aperture, memory]

/-- R215: a context's stash counters. -/
theorem regValue_stashCounter (s : State) {c k : Nat} (hc : c < 8) (hk : k < 8) :
    regValue s (0x102000 + 64 * c + 8 * k) = counterAt s.stash.cnt (8 * c + k) := by
  have block : (0x102000 + 64 * c + 8 * k) / 0x1000 = 0x102 := by omega
  have place : (0x102000 + 64 * c + 8 * k) % 0x1000 = 64 * c + 8 * k := by omega
  have counters : 64 * c + 8 * k < 0x200 := by omega
  have index : (64 * c + 8 * k) / 8 = 8 * c + k := by omega
  simp [regValue_unit s (show 0x100000 ≤ 0x102000 + 64 * c + 8 * k by omega), unitReg, block, place, stashReg, counters, index]

/-- R33: BAR2 is of 64 GiB, on the near tier. -/
theorem resized_reset : Resized 0 State.reset :=
  ⟨rfl, fun k hk => by simp [State.reset, resetHif, hk, nearBase]⟩

/-- Settles O60: the registers of fixed offsets are evaluated, the tables by what their lists hold. -/
theorem resetLeaves : Obligations.ResetLeaves := by
  refine ⟨rfl, rfl, isOpen_reset, rfl, rfl, rfl, rfl, rfl, rfl, rfl, by decide, by decide, by decide, fun k => ?_, by decide, fun c k => ?_⟩
  · rw [regValue_aperture _ k.isLt, apReg_of_getElem? (resized_reset.aperture k k.isLt)]
    rfl
  · rw [regValue_stashCounter _ c.isLt k.isLt]
    exact counterAt_replicate_zero 64 _

end Sys2Proof.Machine
end

/-! ## Operations of the array, the drain engine, the Chisel and the Crushers (R113, R128, R130, R131, R177, R233 to R235) -/

section
namespace Sys2Proof.Machine

/-- A row that issues its operation answers what the row's body makes of it at the unit. -/
theorem answersAs_of_body {i : Instr} {c cls inst : Nat} {aged : Bool} {kind : State → QOp → Bool} {ok : State → QOp → Prop}
    {eff : State → QOp → Result} {body : Body} (row : ∀ s, exec i s = .next (issueOp s c cls inst aged (kind s) body))
    (answer : ∀ u q, ok u q → body u c q = eff u q) : AnswersAs i c cls inst aged kind ok eff := by
  intro s q may pass
  rw [row s, issueOp_of_mayIssue may, answer _ q pass]

/-- A row whose body runs a plan runs as the plan and the effect say. -/
theorem runsAs_of_runPlan {i : Instr} {c cls inst : Nat} {aged : Bool} {kind : State → QOp → Bool} {plan : State → QOp → Plan}
    {reads writes : State → QOp → List (Nat × Nat)} {eff : QOp → State → Result} {body : Body}
    (row : ∀ s, exec i s = .next (issueOp s c cls inst aged (kind s) body))
    (run : ∀ u q, body u c q = runPlan u c (plan u q) (reads u q) (writes u q) (eff q)) :
    RunsAs i c cls inst aged kind plan reads writes eff :=
  answersAs_of_body row fun u q pass => (run u q).trans (runPlan_of_passes pass (eff q))

/-- A row whose body runs a plan on the plan's own records runs as the records say. -/
theorem runsRecs_of_runRecs {i : Instr} {c cls inst opcode : Nat} {aged : Bool} {plan : State → QOp → Plan} {eff : QOp → State → Result}
    {body : Body} (row : ∀ s, exec i s = .next (issueOp s c cls inst aged (isOp opcode) body))
    (run : ∀ u q, body u c q = runRecs u c (plan u q) (eff q)) : RunsRecs i c cls inst aged opcode plan eff :=
  runsAs_of_runPlan row run

/-- A QMM that passes runs its plan; its record names the unit that ROUTE gives (R119). -/
theorem bodyQmm_of_passes {u : State} {c : Nat} {q : QOp} (pass : Passes u c (qmmPlan u c q) (qmmReads u c q) []) :
    bodyQmm u c q = { ranOp u c (qmmPlan u c q) (qmmReads u c q) [] (fun v => qmmEffect v c q) with
      ucls := some (if routesToChisel u c q then ucChisel else ucQuarry) } := by
  simp only [bodyQmm, pass.checks, runAfter_of_passes pass]

/-- Settles O2: each row issues a body that runs its plan; QMM's body names its unit besides. -/
theorem matrixVectorOpsRun : Obligations.MatrixVectorOpsRun := by
  refine ⟨fun c aged => ⟨?qmm, ?batch⟩, fun c aged => ⟨?drain, ?fill, ?zero⟩, fun c face aged => ⟨?cmv, ?cgq, ?cgdq, ?cprobe⟩⟩
  case qmm => exact answersAs_of_body (body := bodyQmm) (fun _ => rfl) fun _ _ => bodyQmm_of_passes
  case batch => exact runsAs_of_runPlan (body := bodyQmmBatch) (fun _ => rfl) fun _ _ => rfl
  case drain => exact runsRecs_of_runRecs (body := bodyQdrain) (fun _ => rfl) fun _ _ => rfl
  case fill => exact runsRecs_of_runRecs (body := bodyQfill) (fun _ => rfl) fun _ _ => rfl
  case zero => exact runsRecs_of_runRecs (body := bodyQzero) (fun _ => rfl) fun _ _ => rfl
  case cmv => exact runsAs_of_runPlan (body := bodyCmv) (fun _ => rfl) fun _ _ => rfl
  case cgq => exact runsRecs_of_runRecs (body := bodyCgq) (fun _ => rfl) fun _ _ => rfl
  case cgdq => exact runsRecs_of_runRecs (body := bodyCgdq) (fun _ => rfl) fun _ _ => rfl
  case cprobe => exact runsRecs_of_runRecs (body := bodyCprobe) (fun _ => rfl) fun _ _ => rfl

end Sys2Proof.Machine
end

/-! ## The sequencer: control operations, dispatch and its ends (R135, R138, R143, R146, R155 to R157, R160, R164 to R166, R209, R419) -/

section
namespace Sys2Proof.Machine

/-! ### Check lists -/

/-- The first offending offset is that of the first check that fails. -/
theorem firstBad_eq_find (l : List (Nat × Bool)) : firstBad l = (l.find? (·.2)).map (·.1) := by
  induction l with
  | nil => rfl
  | cons x r ih =>
    obtain ⟨o, b⟩ := x
    cases b
    · simpa [firstBad] using ih
    · simp [firstBad]

/-- A list of checks that all hold offends nowhere. -/
theorem firstBad_map_range_none {n : Nat} {o : Nat → Nat} {bad : Nat → Bool} (h : ∀ k < n, bad k = false) :
    firstBad ((List.range n).map fun k => (o k, bad k)) = none := by
  rw [firstBad_eq_find, List.find?_map, Option.map_map, Option.map_eq_none_iff, List.find?_eq_none]
  intro k hk
  simp [h k (List.mem_range.1 hk)]

/-- A list of checks of which the `k`-th is the first that fails offends at that one's offset. -/
theorem firstBad_map_range_first {n k : Nat} {o : Nat → Nat} {bad : Nat → Bool} (hk : k < n) (fails : bad k = true)
    (first : ∀ j < k, bad j = false) : firstBad ((List.range n).map fun k => (o k, bad k)) = some (o k) := by
  have found : (List.range n).find? bad = some k := List.find?_range_eq_some.2 ⟨fails, List.mem_range.2 hk, fun j hj => by simp [first j hj]⟩
  rw [firstBad_eq_find, List.find?_map, Option.map_map]
  exact congrArg (Option.map o) found

/-! ### The dispatch point -/

/-- A control operation is ready where its envelope is the next one, passes its checks, and its waits are met (R155). -/
theorem controlReady_eq_some {s : State} {c op : Nat} {p : Pkg} {e : Nat} (h : controlReady s c op = some (p, e)) :
    nextEnv s c = some (p, e) ∧ envOpcode e = op := by
  unfold controlReady at h
  split at h
  · cases h
  · rename_i p' e' next
    simp only [Bool.and_eq_true, decide_eq_true_eq] at h
    split at h
    · rename_i ready
      cases h
      exact ⟨next, ready.1.1.1.1⟩
    · cases h

/-- Where no envelope may be dispatched, no control operation is ready. -/
theorem controlReady_of_nextEnv_none {s : State} {c : Nat} (h : nextEnv s c = none) (op : Nat) : controlReady s c op = none := by
  simp [controlReady, h]

/-- While a STEP_ADVANCE is in flight no envelope is next (R156). -/
theorem nextEnv_of_stepping {s : State} {c : Nat} {f : Flight} (hf : f ∈ (ctxOf s c).flight) (op : f.op.opcode = 0x01) : nextEnv s c = none := by
  have held : mayDispatch (ctxOf s c) = false := by
    have : ((ctxOf s c).flight.any fun f => f.op.opcode = 0x01) = true := List.any_eq_true.2 ⟨f, hf, by simpa using op⟩
    simp [mayDispatch, this]
  simp only [nextEnv, held, Bool.false_and, Bool.false_eq_true, if_false]
  split <;> rfl

/-! ### TALLY_SET and SHAPE_SET (R155) -/

theorem setReserved_eq_none {e : Nat} (h : ∀ k : Fin 8, entryReserved (setEntry e k) = false) : setReserved e = none :=
  firstBad_map_range_none fun k hk => h ⟨k, hk⟩

theorem setReserved_eq_first {e : Nat} {k : Fin 8} (fails : entryReserved (setEntry e k) = true)
    (first : ∀ j : Fin 8, j < k → entryReserved (setEntry e j) = false) : setReserved e = some (0x40 + 8 * k.val) :=
  firstBad_map_range_first (o := fun k => 0x40 + 8 * k) (bad := fun k => entryReserved (setEntry e k)) k.isLt fails
    fun j hj => first ⟨j, hj.trans k.isLt⟩ hj

theorem setIndices_eq_nil {e : Nat} (h : ∀ k : Fin 8, bit (setEntry e k) 15 = false) : setIndices e = [] := by
  rw [setIndices, List.map_eq_nil_iff, List.filter_eq_nil_iff]
  intro k hk
  simp [h ⟨k, List.mem_range.1 hk⟩]

theorem mem_enabled {e : Nat} {k : Fin 8} (h : bit (setEntry e k) 15 = true) : k.val ∈ (List.range 8).filter fun k => bit (setEntry e k) 15 :=
  List.mem_filter.2 ⟨List.mem_range.2 k.isLt, h⟩

/-- Two enabled entries that name one index are listed twice. -/
theorem not_nodup_setIndices {e : Nat} {j k : Fin 8} (ne : j ≠ k) (hj : bit (setEntry e j) 15 = true) (hk : bit (setEntry e k) 15 = true)
    (same : bits (setEntry e j) 0 12 = bits (setEntry e k) 0 12) : ¬ (setIndices e).Nodup := fun nodup =>
  ne (Fin.ext (List.inj_on_of_nodup_map nodup (mem_enabled hj) (mem_enabled hk) same))

theorem setInvalid_eq_false {e : Nat} (named : setIndices e ≠ []) (nodup : (setIndices e).Nodup) : setInvalid e = false := by
  simp [setInvalid, named, nodup]

/-- A TALLY_SET or SHAPE_SET with a reserved value is refused. -/
theorem exec_set_reserved {c : Fin 8} {s : State} {p : Pkg} {e op o : Nat} {i : Instr}
    (hi : (i, op) ∈ [(Instr.tallySet c, 0x02), (Instr.shapeSet c, 0x03)]) (ready : controlReady s c op = some (p, e))
    (reserved : setReserved e = some o) : exec i s = .next (controlDone s c e stReserved o) := by
  simp only [List.mem_cons, Prod.mk.injEq, List.not_mem_nil, or_false] at hi
  obtain ⟨rfl, rfl⟩ | ⟨rfl, rfl⟩ := hi
  · simp [exec, execTallySet, ready, reserved]
  · simp [exec, execShapeSet, ready, reserved]

/-- A TALLY_SET or SHAPE_SET that names nothing, or one index twice, is refused. -/
theorem exec_set_invalid {c : Fin 8} {s : State} {p : Pkg} {e op : Nat} {i : Instr}
    (hi : (i, op) ∈ [(Instr.tallySet c, 0x02), (Instr.shapeSet c, 0x03)]) (ready : controlReady s c op = some (p, e))
    (unreserved : setReserved e = none) (invalid : setInvalid e = true) : exec i s = .next (controlDone s c e stControl 0) := by
  simp only [List.mem_cons, Prod.mk.injEq, List.not_mem_nil, or_false] at hi
  obtain ⟨rfl, rfl⟩ | ⟨rfl, rfl⟩ := hi
  · simp [exec, execTallySet, ready, unreserved, invalid]
  · simp [exec, execShapeSet, ready, unreserved, invalid]

/-- Settles O49: the checks of the two set operations, in their order. -/
theorem setsRefused : Obligations.SetsRefused := by
  refine fun c s p e op i hi ready => ⟨fun k fails first => exec_set_reserved hi ready (setReserved_eq_first fails first), ?_⟩
  intro unreserved broken
  refine exec_set_invalid hi ready (setReserved_eq_none unreserved) ?_
  obtain unnamed | ⟨j, k, ne, hj, hk, same⟩ := broken
  · simp [setInvalid, setIndices_eq_nil unnamed]
  · simp [setInvalid, not_nodup_setIndices ne hj hk same]

/-- Settles O11: each row at the dispatch point, its checks passed. -/
theorem controlOpsRun : Obligations.ControlOpsRun := by
  intro c s p e
  refine ⟨?nop, ?step, ?tally, ?shape⟩
  case nop =>
    intro ready zero
    simp [exec, execNop, ready, zero]
  case step =>
    intro ready zero queued flight
    simp [exec, execStepAdvance, ready, zero, queued, flight]
  case tally =>
    intro ready unreserved named nodup
    simp [exec, execTallySet, ready, unreserved, setInvalid_eq_false named nodup]
  case shape =>
    intro ready unreserved named nodup whole
    simp [exec, execShapeSet, ready, unreserved, setInvalid_eq_false named nodup, whole]

/-! ### STEP_ADVANCE (R156) -/

/-- A control operation that ends moves the dispatch point on and is in flight, ended, with its status (R155). -/
theorem ctxOf_controlDone {s : State} {c : Nat} (hc : c < s.ctxs.length) (e status detail : Nat) :
    ∃ f, ctxOf (controlDone s c e status detail) c =
        { ctxOf s c with
          nextIndex := (ctxOf s c).nextIndex + 1, nextOff := (ctxOf s c).nextOff + envBytes e, flight := (ctxOf s c).flight ++ [f] } ∧
      f.op = mkOp (ctxOf s c) e ∧ f.status = status ∧ f.detail = detail ∧ f.ended = true := by
  have fetched : c < (noteFetch s c e).ctxs.length := by rwa [noteFetch_still.ctxs]
  have advanced : c < (advanceDispatch s c e).ctxs.length := by rwa [advanceDispatch_step.contexts]
  rw [controlDone, endAtOnce, ctxOf_updCtx_same _ _ advanced, advanceDispatch, ctxOf_updCtx_same _ _ fetched, noteFetch_still.ctxOf_eq]
  exact ⟨_, rfl, rfl, rfl, rfl, rfl⟩

/-- The stores of a ledger that is written back (R75). -/
def ledgerStored (s : State) (c : Nat) : State :=
  (ctxOf s c).ledger.foldl (fun s l => wrNum s c (entryDa s c l.slot) l.entry 64)
    (noteTraffic s [] (physPieces s c ((ctxOf s c).ledger.map fun l => (entryDa s c l.slot, 64))))

theorem ledgerStored_still {s : State} {c : Nat} : Still s (ledgerStored s c) := .after (.foldl fun _ _ => wrNum_still) noteTraffic_still

theorem ledgerStored_trc (s : State) (c : Nat) : (ledgerStored s c).trc = s.trc :=
  (foldl_keeps (f := fun s (l : LedgerLine) => wrNum s c (entryDa s c l.slot) l.entry 64) State.trc (fun _ _ => rfl) _ _).trans (noteTraffic_trc ..)

/-- A ledger is written back by its stores, and then no longer cached (R75). -/
theorem ledgerWriteBack_eq (s : State) (c : Nat) : ledgerWriteBack s c = updCtx (ledgerStored s c) c fun x => { x with ledger := [] } := by
  simp only [ledgerWriteBack, ledgerStored, noteTraffic_still.ctxOf_eq]

theorem ctxOf_ledgerWriteBack {s : State} {c : Nat} (hc : c < s.ctxs.length) : ctxOf (ledgerWriteBack s c) c = { ctxOf s c with ledger := [] } := by
  rw [ledgerWriteBack_eq, ctxOf_updCtx_same _ _ (by rwa [ledgerStored_still.ctxs]), ledgerStored_still.ctxOf_eq]

theorem ledgerWriteBack_trc (s : State) (c : Nat) : (ledgerWriteBack s c).trc = s.trc := by
  rw [ledgerWriteBack_eq, updCtx_trc, ledgerStored_trc]

/-- Without tracing nothing is traced. -/
theorem traceState_of_off {s : State} (h : s.trc.st = 0) (src ctx : Nat) : traceState s src ctx = s := by
  simp [traceState, h]

/-- The context once STEP_ADVANCE has written its ledger back and moved STEP on (R156). -/
theorem ctxOf_stepped {s : State} {c : Nat} (hc : c < s.ctxs.length) :
    c < (traceState (updCtx (ledgerWriteBack s c) c fun x => { x with step := x.step + 1 }) 0 c).ctxs.length ∧
    ctxOf (traceState (updCtx (ledgerWriteBack s c) c fun x => { x with step := x.step + 1 }) 0 c) c =
      { ctxOf s c with ledger := [], step := (ctxOf s c).step + 1 } := by
  have written : c < (ledgerWriteBack s c).ctxs.length := by rwa [ledgerWriteBack_step.contexts]
  rw [traceState_still.ctxs, traceState_still.ctxOf_eq, ctxOf_updCtx_same _ _ written, ctxOf_ledgerWriteBack hc, updCtx_ctxs, updAt_length]
  exact ⟨written, rfl⟩

/-- Settles O52: at its place by what ends there; while it is in flight no envelope is next. -/
theorem stepAdvances : Obligations.StepAdvances := by
  refine ⟨fun c s p e ready => ⟨fun busy => ?waits, fun queued flight zero inv => ?runs⟩, fun c s f hf op => ?holds⟩
  case waits =>
    obtain queued | flight := busy
    · simp [exec, execStepAdvance, ready, queued]
    · simp [exec, execStepAdvance, ready, flight]
  case runs =>
    have hc : c.val < s.ctxs.length := by rw [inv.contexts]; exact c.isLt
    obtain ⟨known, stepped⟩ := ctxOf_stepped hc
    obtain ⟨f, done, hop, status, -, ended⟩ := ctxOf_controlDone known e stOk 0
    rw [stepped] at done
    refine ⟨_, f, (controlOpsRun c s p e).2.1 ready zero queued flight, congrArg Ctx.step done, congrArg Ctx.ledger done, fun off => ?_, ?_, ?_,
      status, ended⟩
    · rw [controlDone_mem, traceState_of_off (by rwa [updCtx_trc, ledgerWriteBack_trc]), updCtx_mem]
    · rw [done, flight, List.nil_append]
    · exact (congrArg QOp.opcode hop).trans (controlReady_eq_some ready).2
  case holds =>
    have last := nextEnv_of_stepping hf op
    have unready := controlReady_of_nextEnv_none last
    simp [exec, execEnvelopeDispatch, last, execNop, execStepAdvance, execTallySet, execShapeSet, unready]

/-! ### Packages, envelopes and waits (R135, R138, R146, R160) -/

/-- Settles O12: each of the sequencer's rows under its conditions. -/
theorem sequencerRuns : Obligations.SequencerRuns := by
  refine ⟨?start, ?dispatch, fun c s p running limit => ⟨?head, ?control⟩⟩
  case start =>
    intro c s p rest pkgs idle waiting power ok
    simp [exec, execPackageStart, pkgs, idle, waiting, power, ok]
  case dispatch =>
    intro c s p e next power whole good unit room
    simp [exec, execEnvelopeDispatch, next, power, whole, good, unit, room]
  case head =>
    intro cls inst q unit head thawed unmet
    simp [exec, execWaitTimeout, running, limit, unit, head, thawed, unmet]
  case control =>
    intro inst e p' next op good unmet
    simp [exec, execWaitTimeout, running, limit, next, op, good, unmet]

/-! ### Ends (R143, R209, R419) -/

/-- Settles O13: the end runs as `finishOp` says, and a PF_TALLY not yet signalled is signalled as `pfSignal` says. -/
theorem operationsComplete : Obligations.OperationsComplete := by
  refine fun c i s => ⟨fun f ended => ?completes, fun f flying fabric enabled unsignalled => ?signals⟩
  case completes => simp [exec, execOperationCompletion, ended, finishOp]
  case signals => simp [exec, execPrefetchSignal, flying, pfSignal, fabric, enabled, unsignalled]

/-! ### Haulers (R164 to R166) -/

/-- An operation on a Hauler begins where none waits there before it and no tracked range conflicts. -/
theorem haulOrHold_of_free {s : State} {c : Nat} {q : QOp} (first : anyHeld s c q.inst = false)
    (free : mayBegin s c q.inst (needRanges q.opcode q.env) = true) (ext : List Nat) (acc : Access) (begin_ : State → List Nat → Result) :
    haulOrHold s c q ext acc begin_ = { begin_ s ext with ranges := needRanges q.opcode q.env } := by
  simp [haulOrHold, first, free]

/-- Settles O5: both bodies check, then begin what no range holds; the release begins the first that waits. -/
theorem haulerOpsRun : Obligations.HaulerOpsRun := by
  refine fun c die engine aged => ⟨?copy, ?set, fun s f waiting free => ?release⟩
  case copy =>
    refine answersAs_of_body (body := bodyHcopy) (fun _ => rfl) fun u q ⟨checks, first, free⟩ => ?_
    simp only [bodyHcopy, checks, haulOrHold_of_free first free]
  case set =>
    refine answersAs_of_body (body := bodyHset) (fun _ => rfl) fun u q ⟨checks, first, free⟩ => ?_
    simp only [bodyHset, checks, haulOrHold_of_free first free]
  case release => simp only [exec, execHazardRangeRelease, waiting, free, if_true]

end Sys2Proof.Machine
end

/-! ## What signals add to the tallies, and what leaves them alone (R149) -/

section
namespace Sys2Proof.Machine

/-! ### Sparse maps -/

theorem smGet_above {β : Type} (d : β) {l : SMap β} {a : Nat} (h : KeysAbove a l) : smGet d l a = d := by
  cases l with
  | nil => rfl
  | cons p r =>
    obtain ⟨k, v⟩ := p
    have above : a < k := h (k, v) List.mem_cons_self
    simp [smGet, above.ne', above]

theorem smGet_smPut {β : Type} (d : β) (l : SMap β) (a : Nat) (b : β) (x : Nat) : smGet d (smPut l a b) x = if x = a then b else smGet d l x := by
  induction l with
  | nil =>
    simp only [smPut, smGet]
    grind
  | cons p r ih =>
    obtain ⟨k, v⟩ := p
    simp only [smPut]
    split
    · simp only [smGet]
      grind
    · split <;> grind [smGet]

theorem smGet_smDel {β : Type} [DecidableEq β] {d : β} {l : SMap β} (wf : smWf d l = true) (a x : Nat) :
    smGet d (smDel l a) x = if x = a then d else smGet d l x := by
  induction l with
  | nil => simp [smDel, smGet]
  | cons p r ih =>
    obtain ⟨k, v⟩ := p
    obtain ⟨above, -, wf'⟩ := (smWf_cons d k v r).1 wf
    have ih := ih wf'
    have beyond {y : Nat} (hy : y ≤ k) : smGet d r y = d := smGet_above d fun p hp => hy.trans_lt (above p hp)
    simp only [smDel]
    split
    · grind [smGet]
    · split <;> grind [smGet]

/-- A sparse map in its form, written at a key, reads as written there and as before elsewhere. -/
theorem smGet_smSet {β : Type} [DecidableEq β] {d : β} {l : SMap β} (wf : smWf d l = true) (a : Nat) (b : β) (x : Nat) :
    smGet d (smSet d l a b) x = if x = a then b else smGet d l x := by
  unfold smSet
  split
  · rename_i isDefault
    rw [smGet_smDel wf, isDefault]
  · exact smGet_smPut d l a b x

/-! ### Tallies -/

/-- The tallies of a context are in their form. -/
theorem TalliesWf.context {s : State} (wf : TalliesWf s) {c : Nat} (hc : c < s.ctxs.length) : smWf 0 (ctxOf s c).tallies = true := by
  refine wf _ ?_
  simp only [ctxOf, nth, List.getD_eq_getElem _ _ hc, List.getElem_mem]

theorem tallyOf_addTally {s : State} {c : Nat} (wf : TalliesWf s) (hc : c < s.ctxs.length) (t n x : Nat) :
    tallyOf (addTally s c t n) c x = tallyOf s c x + if t = x then BitVec.ofNat 32 n else 0 := by
  rw [tallyOf, addTally, setTally, ctxOf_updCtx_same _ _ hc, smGet_smSet (wf.context hc)]
  by_cases h : x = t
  · simp [h]
  · simp [h, Ne.symm h, tallyOf]

/-- A signal entry adds its ADD to the tally that it names where it is enabled (R149). -/
theorem tallyOf_applySignal {s : State} {c : Nat} (wf : TalliesWf s) (hc : c < s.ctxs.length) (x n : Nat) :
    tallyOf (applySignal s c x) c n = tallyOf s c n + if bit x 15 = true ∧ bits x 0 12 = n then BitVec.ofNat 32 (bits x 32 32) else 0 := by
  unfold applySignal
  split
  · rename_i enabled
    simp [tallyOf_addTally wf hc, enabled]
  · rename_i disabled
    simp [disabled]

/-- Both entries add, also where they name one tally (R149). -/
theorem tallyOf_applySignals {s : State} {c : Nat} (wf : TalliesWf s) (hc : c < s.ctxs.length) (e n : Nat) :
    tallyOf (applySignals s c e) c n = tallyOf s c n +
      (if bit (envSignal e 0) 15 = true ∧ bits (envSignal e 0) 0 12 = n then BitVec.ofNat 32 (bits (envSignal e 0) 32 32) else 0) +
      (if bit (envSignal e 1) 15 = true ∧ bits (envSignal e 1) 0 12 = n then BitVec.ofNat 32 (bits (envSignal e 1) 32 32) else 0) := by
  have first : OwnStep c s (applySignal s c (envSignal e 0)) := applySignal_step
  rw [applySignals, tallyOf_applySignal (first.tallies wf) (by rwa [first.contexts]), tallyOf_applySignal wf hc]

/-- The met test compares modulo 2 to the 32 (R149). -/
theorem waitMet_iff (t v : W32) : waitMet t v = true ↔ (t - v).toNat < 2 ^ 31 := by
  rw [waitMet, decide_eq_true_iff, BitVec.toInt_eq_toNat_cond]
  split <;> omega

/-! ### Steps that leave every tally as it is -/

/-- From `s` to `t` no context's tallies change. -/
structure SameTallies (s t : State) : Prop where
  tallies : ∀ d, (ctxOf t d).tallies = (ctxOf s d).tallies

namespace SameTallies

theorem refl (s : State) : SameTallies s s := ⟨fun _ => rfl⟩

theorem after {s t u : State} (k : SameTallies t u) (h : SameTallies s t) : SameTallies s u := ⟨fun d => (k.tallies d).trans (h.tallies d)⟩

theorem ite {s t u : State} {p : Prop} [Decidable p] (h : SameTallies s t) (k : SameTallies s u) : SameTallies s (if p then t else u) := by
  split
  · exact h
  · exact k

theorem foldl {α : Type} {f : State → α → State} (h : ∀ u x, SameTallies u (f u x)) {s : State} {l : List α} : SameTallies s (l.foldl f s) := by
  induction l generalizing s with
  | nil => exact refl s
  | cons x r ih => exact ih.after (h s x)

theorem of_ctxs {s t : State} (h : t.ctxs = s.ctxs) : SameTallies s t := ⟨fun d => by simp only [ctxOf, h]⟩

/-- A change of the mailbox. -/
theorem mbx {u : State} {m : MbxS} : SameTallies u { u with mbx := m } := .of_ctxs rfl

/-- A change of a context beside its tallies. -/
theorem ctx {s : State} {c : Nat} {f : Ctx → Ctx} (h : ∀ x, (f x).tallies = x.tallies) : SameTallies s (updCtx s c f) :=
  ⟨fun d => ctxOf_updCtx_part s c d Ctx.tallies h⟩

theorem tallyOf_eq {s t : State} (h : SameTallies s t) (c n : Nat) : tallyOf t c n = tallyOf s c n := by rw [tallyOf, h.tallies c, tallyOf]

end SameTallies

theorem Still.sameTallies {s t : State} (h : Still s t) : SameTallies s t := .of_ctxs h.ctxs

/-! ### Events, records and packages -/

theorem raiseIrq_tallies {s : State} {b : Nat} : SameTallies s (raiseIrq s b) := .mbx

theorem loseRings_tallies {s : State} : SameTallies s (loseRings s) := .ite (raiseIrq_tallies.after .mbx) (.refl s)

theorem postEntry_tallies {s : State} {tag status code ctx detail result : Nat} :
    SameTallies s (postEntry s tag status code ctx detail result) :=
  .ite loseRings_tallies (.after .mbx (wrPhys_still.sameTallies.after noteTraffic_still.sameTallies))

theorem postEvent_tallies {s : State} {code ctx detail result : Nat} : SameTallies s (postEvent s code ctx detail result) := by
  have counted (u : State) : SameTallies u { u with mbx := { u.mbx with lost := updAt u.mbx.lost (code - 0x80) (· + 1) } } := .mbx
  simp only [postEvent]
  exact .ite (.refl s) (.ite (.ite (raiseIrq_tallies.after postEntry_tallies) ((counted _).after postEntry_tallies)) (counted s))

theorem lowWaterOne_tallies {before s : State} {f : Feed} : SameTallies s (lowWaterOne before s f) :=
  .ite (.refl _) (.ite updFeed_still.sameTallies
    (.ite (postEvent_tallies.after (tapAdd_still.sameTallies.after updFeed_still.sameTallies)) (.refl _)))

theorem lowWater_tallies {before s : State} {c : Nat} : SameTallies s (lowWater before s c) := .foldl fun _ _ => lowWaterOne_tallies

theorem endPkg_tallies {s : State} {c : Nat} {p : Pkg} {outcome st : Nat} : SameTallies s (endPkg s c p outcome st) := by
  unfold endPkg
  exact postEvent_tallies.after (.ctx fun _ => rfl)

theorem tryEndPkg_tallies {s : State} {c : Nat} : SameTallies s (tryEndPkg s c) := by
  simp only [tryEndPkg]
  split
  · exact .refl s
  · exact .ite endPkg_tallies (.refl s)

/-- An operation that completes with a completing status changes tallies by its signals alone (R143, R149). -/
theorem completeOp_tallies {s : State} {c : Nat} {f : Flight} {p : Pkg} {afterSignal : State → State}
    (running : runningPkg (ctxOf s c) = some p) (ok : completing f.status = true) (h : ∀ u, SameTallies u (afterSignal u)) :
    SameTallies (applySignals s c f.op.env) (completeOp s c f afterSignal) := by
  have goesOn : halting f.status = false := by simp [halting, ok]
  simp only [completeOp, running, ok, goesOn, if_true, Bool.false_and, Bool.false_eq_true, if_false]
  refine tryEndPkg_tallies.after (.after (.ite postEvent_tallies (.refl _)) (traceEvent_still.sameTallies.after ?_))
  exact .after (.ctx fun _ => rfl) (.after (.ite writeRecord_still.sameTallies (.refl _)) (h _))

/-! ### Ledger entries and packed tensors -/

theorem ledgerEvict_tallies {s : State} : SameTallies s (ledgerEvict s) := by
  simp only [ledgerEvict]
  split
  · exact .refl s
  · split
    · exact .after (.ctx fun _ => rfl) (wrNum_still.sameTallies.after (noteTraffic_still.sameTallies.after drawFree_still.sameTallies))
    · exact drawFree_still.sameTallies

theorem ledgerPut_tallies {s : State} {c slot e : Nat} : SameTallies s (ledgerPut s c slot e) :=
  .after (.ctx fun _ => rfl) (.ite (.refl _) ledgerEvict_tallies)

theorem ledgerTouch_tallies {s : State} {c slot : Nat} : SameTallies s (ledgerTouch s c slot) := by
  simp only [ledgerTouch]
  refine ledgerPut_tallies.after ?_
  split
  · exact wrNum_still.sameTallies.after (noteTraffic_still.sameTallies.after noteTraffic_still.sameTallies)
  · exact noteTraffic_still.sameTallies

theorem ledgerFold_tallies {s : State} {c : Nat} {d : Desc} {t : OutStat} : SameTallies s (ledgerFold s c d t) := .ite ledgerPut_tallies (.refl _)

theorem packOut_tallies {s : State} {c : Nat} {face : FaceOf} {d : Desc} {ext : List Nat} {f : List Nat → FVal} :
    SameTallies s (packOut s c face d ext f).1 :=
  .after (.foldl fun _ _ => (cruAdd_still.after cruAdd_still).sameTallies) (ledgerFold_tallies.after applyPuts_still.sameTallies)

theorem expandOut_tallies {s : State} {c : Nat} {face : FaceOf} {src dst : Desc} {ext : List Nat} :
    SameTallies s (expandOut s c face src dst ext).1 :=
  countExpand_still.sameTallies.after (ledgerFold_tallies.after applyPuts_still.sameTallies)

theorem touchAll_tallies {s : State} {c : Nat} {recs : List Rec} : SameTallies s (touchAll s c recs) :=
  .foldl fun _ _ => .ite ledgerTouch_tallies (.refl _)

/-- A transfer changes tallies only as its effect does. -/
theorem runAfter_tallies {s : State} {c : Nat} {p : Plan} {reads writes : List (Nat × Nat)} {eff : State → Result}
    (h : ∀ u, SameTallies u (eff u).st) : SameTallies s (runAfter s c p reads writes eff).st := by
  simp only [runAfter]
  split
  · exact memFault_still.sameTallies
  · split
    · exact memFault_still.sameTallies
    · refine scrambleOverlap_still.sameTallies.after (noteTraffic_still.sameTallies.after (clearBad_still.sameTallies.after ?_))
      exact (h _).after touchAll_tallies

/-! ### Stash operations that begin (R206, R207, R213) -/

theorem storeForm_tallies {s : State} {c : Nat} {d : Desc} {comp : Nat} {ext : List Nat} {base : Nat} :
    SameTallies s (storeForm s c d comp ext base).1 := by
  simp only [storeForm]
  split
  · exact encodeTensor_still.sameTallies
  · split
    · exact applyPuts_still.sameTallies
    · simp only
      exact packOut_tallies

theorem restoreForm_tallies {s : State} {c : Nat} {d : Desc} {e base : Nat} {ext : List Nat} : SameTallies s (restoreForm s c d e base ext).st := by
  simp only [restoreForm]
  split
  · exact unlosslessOut_still.sameTallies
  · split
    · exact applyPuts_still.sameTallies
    · split
      · exact applyPuts_still.sameTallies
      · exact expandOut_tallies

theorem putMove_tallies {s : State} {c env e : Nat} {ext : List Nat} : SameTallies s (putMove s c env e ext).st :=
  wrNum_still.sameTallies.after (countThrottle_still.sameTallies.after storeForm_tallies)

theorem getMove_tallies {s : State} {c env e : Nat} {ext : List Nat} : SameTallies s (getMove s c env e ext).st := by
  simp only [getMove]
  split
  · exact applyPuts_still.sameTallies
  · exact countThrottle_still.sameTallies.after restoreForm_tallies

theorem stashEff_tallies {s : State} {c op env e : Nat} {ext : List Nat} : SameTallies s (stashEff s c op env e ext).st := by
  simp only [stashEff]
  split
  · exact putMove_tallies
  · split
    · exact getMove_tallies
    · exact raiseMove_still.sameTallies

theorem stashMove_tallies {s : State} {c op env e : Nat} {ext : List Nat} : SameTallies s (stashMove s c op env e ext).st :=
  runAfter_tallies fun _ => stashEff_tallies

theorem stashBegin_tallies {s : State} {c : Nat} {f : Flight} : SameTallies s (stashBegin s c f) := by
  unfold stashBegin
  refine .ite (SameTallies.after (.ctx fun _ => rfl) (.after (.ite stashUndo_still.sameTallies (.refl _)) ?_)) ?_
  · exact .after (.ite loseOutputs_still.sameTallies (.refl _)) stashMove_tallies
  · exact .ctx fun _ => rfl

theorem stashKick_tallies {s : State} : SameTallies s (stashKick s) := by
  unfold stashKick
  exact .foldl fun _ _ => .foldl fun _ _ => .ite stashBegin_tallies (.refl _)

/-- The end of an operation with a completing status, with the stash operations that then begin, changes tallies by its signals alone. -/
theorem stashKick_finishOp_tallies {s : State} {c : Nat} {f : Flight} {p : Pkg} (running : runningPkg (ctxOf (pfSignal s c f) c) = some p)
    (ok : completing f.status = true) : SameTallies (applySignals (pfSignal s c f) c f.op.env) (stashKick (finishOp s c f)) := by
  unfold finishOp
  exact stashKick_tallies.after (completeOp_tallies running ok fun _ => lowWater_tallies)

/-- Settles O53: the completion's signals add, and what follows them leaves tallies alone. -/
theorem signalsAndWaits : Obligations.SignalsAndWaits := by
  refine ⟨waitMet_iff, fun c i s f p inv ended running ok => ?_⟩
  have signalled : Inv (pfSignal s c f) := pfSignal_kept.inv inv
  have hc : c.val < (pfSignal s c f).ctxs.length := by rw [signalled.contexts]; exact c.isLt
  refine ⟨stashKick (finishOp s c f), by simp only [exec, execOperationCompletion, ended], fun n => ?_⟩
  rw [(stashKick_finishOp_tallies running ok).tallyOf_eq, tallyOf_applySignals signalled.tallies hc]

end Sys2Proof.Machine
end

/-! ## Operations of the Dressing (R182 to R198) -/

section
namespace Sys2Proof.Machine

/-- A row that issues a Dressing body at its Face runs as the body's plan and effect say. -/
theorem runsRecs_of_drBody {i : Instr} {c face opcode : Nat} {aged : Bool} (mk : State → Nat → Nat → Plan) (eff : State → Nat → Nat → Result)
    (row : ∀ s, exec i s = .next (dressOp c face aged opcode (drBody mk eff) s)) :
    RunsRecs i c ucDressing face aged opcode (fun s q => mk s c q.env) (fun q s => eff s c q.env) :=
  runsRecs_of_runRecs row fun _ _ => rfl

/-- A scatter runs its plan on SRC, the index list and the rows of DST that the list names, which it reads besides only where it adds (R195). -/
theorem scatterBody_eq (mk : State → Nat → Nat → Plan) (reads : Bool) (eff : State → Nat → Nat → Result) (s : State) (c : Nat) (q : QOp) :
    scatterBody mk reads eff s c q = runPlan s c (mk s c q.env)
      (readsOf s c [drIn q.env 0, drIn q.env 1] ++ if reads then movedTo s c q.env else []) (movedTo s c q.env) (fun s => eff s c q.env) := rfl

/-- SCATTER reads nothing of DST. -/
theorem bodyScatter_eq (s : State) (c : Nat) (q : QOp) :
    bodyScatter s c q = runPlan s c (scatterPlan s c q.env) (readsOf s c [drIn q.env 0, drIn q.env 1]) (movedTo s c q.env)
      (fun s => scatterEff s c q.env) := by
  simp only [bodyScatter, scatterBody_eq, Bool.false_eq_true, if_false, List.append_nil]

/-- SCATTER_ADD reads the rows of DST that it adds to. -/
theorem bodyScatterAdd_eq (s : State) (c : Nat) (q : QOp) :
    bodyScatterAdd s c q = runPlan s c (scatterAddPlan s c q.env) (readsOf s c [drIn q.env 0, drIn q.env 1] ++ movedTo s c q.env)
      (movedTo s c q.env) (fun s => scatterAddEff s c q.env) := by
  simp only [bodyScatterAdd, scatterBody_eq, if_true]

/-- Settles O3: each row issues a body that runs its plan, on the plan's own records but for the scatters, which touch the rows named. -/
theorem dressingOpsRun : Obligations.DressingOpsRun := by
  refine ⟨fun c face aged => ⟨?ew, ?act, ?actBwd, ?norm, ?normBwd, ?smx, ?smxBwd, ?smxMerge, ?red, ?cvt, ?split3⟩,
    fun c face aged => ⟨?esAcc, ?esFinal, ?gather, ?scatter, ?scatterAdd, ?adamw⟩⟩
  case ew => exact runsRecs_of_drBody ewPlan ewEff fun _ => rfl
  case act => exact runsRecs_of_drBody actPlan actEff fun _ => rfl
  case actBwd => exact runsRecs_of_drBody actBwdPlan actBwdEff fun _ => rfl
  case norm => exact runsRecs_of_drBody normPlan normEff fun _ => rfl
  case normBwd => exact runsRecs_of_drBody normBwdPlan normBwdEff fun _ => rfl
  case smx => exact runsRecs_of_drBody smxPlan smxEff fun _ => rfl
  case smxBwd => exact runsRecs_of_drBody smxBwdPlan smxBwdEff fun _ => rfl
  case smxMerge => exact runsRecs_of_drBody smxMergePlan smxMergeEff fun _ => rfl
  case red => exact runsRecs_of_drBody redPlan redEff fun _ => rfl
  case cvt => exact runsRecs_of_drBody cvtPlan cvtEff fun _ => rfl
  case split3 => exact runsRecs_of_drBody split3Plan split3Eff fun _ => rfl
  case esAcc => exact runsRecs_of_drBody esAccPlan esAccEff fun _ => rfl
  case esFinal => exact runsRecs_of_drBody esFinalPlan esFinalEff fun _ => rfl
  case gather => exact runsRecs_of_drBody gatherPlan gatherEff fun _ => rfl
  case scatter => exact runsAs_of_runPlan (body := bodyScatter) (fun _ => rfl) fun u q => bodyScatter_eq u c q
  case scatterAdd => exact runsAs_of_runPlan (body := bodyScatterAdd) (fun _ => rfl) fun u q => bodyScatterAdd_eq u c q
  case adamw => exact runsRecs_of_drBody adamwPlan adamwEff fun _ => rfl

end Sys2Proof.Machine
end

/-! ## Stash operations (R204 to R210, R213) -/

section
namespace Sys2Proof.Machine

/-- Without a faulty line in what is read or written in part, a run is its effect; no check of the plan is made again. -/
theorem runAfter_of_noFaults {s : State} {c : Nat} {p : Plan} {rd wr : List (Nat × Nat)} (reads : badTouched s (physPieces s c rd) = none)
    (writes : badPartly s (physPieces s c wr) = none) (eff : State → Result) : runAfter s c p rd wr eff = ranOp s c p rd wr eff := by
  simp only [runAfter, reads, writes, ranOp]

/-! ### An operation that nothing holds -/

/-- An operation that passes its checks acts on its handle and granules and goes on from there. -/
theorem stashBody_of_runs {u : State} {c op e : Nat} {q : QOp} {ext : List Nat} (h : StashRuns u c op q e ext) :
    stashBody op u c q = stashGo u c op q.env e ext (stashApply u c op q.env e ext) := by
  simp only [stashBody, h.checks, h.entry, h.extents]

/-- Nothing holds it and it has no bytes to move: it is in flight as it is. -/
theorem stashGo_of_still {s v : State} {c op env e : Nat} {ext : List Nat} (free : stashHolds s c op env e ext = false)
    (still : stashMoves op env e ext = false) : stashGo s c op env e ext v = stashFlight s c op env e ext v := by
  simp only [stashGo, free, still, Bool.false_eq_true, if_false]

/-- Nothing holds it and it has bytes to move: its transfer runs at once. -/
theorem stashGo_of_moves {s v : State} {c op env e : Nat} {ext : List Nat} (free : stashHolds s c op env e ext = false)
    (moves : stashMoves op env e ext = true) :
    stashGo s c op env e ext v = stashEnd (stashFlight s c op env e ext v) (stashMove v c op env e ext) c op env e := by
  simp only [stashGo, free, moves, Bool.false_eq_true, if_false, if_true]

/-- A row that issues the body of SPUT, SGET or SRAISE runs its operation. -/
theorem runsStash_of_stashOp {i : Instr} {c op : Nat} {aged : Bool} (row : ∀ s, exec i s = .next (stashOp c aged op (stashBody op) s)) :
    RunsStash i c op aged := by
  rintro s _ _ q e ext may rfl runs rfl
  rw [row s, stashOp, issueOp_of_mayIssue may, stashBody_of_runs runs]
  refine ⟨fun still => ?still, fun moves reads writes => ?moves⟩
  case still => rw [stashGo_of_still runs.free still]
  case moves => rw [stashGo_of_moves runs.free moves, stashMove, runAfter_of_noFaults reads writes]

/-! ### SFREE (R204, R207) -/

/-- SFREE moves no bytes. -/
theorem stashMoves_sfree (env e : Nat) (ext : List Nat) : stashMoves 0x7B env e ext = false := rfl

/-- SFREE has no transfer, so only an earlier operation on a handle that it names holds it (R209). -/
theorem stashHolds_sfree (s : State) (c env e : Nat) (ext : List Nat) :
    stashHolds s c 0x7B env e ext = (ctxOf s c).flight.any (stashMeets (ctxOf s c).stash 0x7B env e) := by
  simp [stashHolds, stashWaits, stashFacesOf, stashMoves_sfree]

/-- SFREE in flight waits for no range and uses no Face. -/
theorem stashFlight_sfree (s v : State) (c env : Nat) :
    stashFlight s c 0x7B env 0 [] v = { st := v, aux := 0 :: List.replicate 6 1 } := rfl

/-- The handles that SFREE names are released in order. -/
theorem foldl_stHandles_sfree (s : State) (c env : Nat) :
    (stHandles 0x7B env).foldl (fun s h => freeHandle s c h (handleAt s c h)) s = freeHandles s c (stHandle env) (stCount env) :=
  List.foldl_map

/-- SFREE that passes its checks and that no earlier operation holds releases its handles. -/
theorem bodySfree_of_free {u : State} {c : Nat} {q : QOp} (checks : sfreeChecks u c q.env = none)
    (free : (ctxOf u c).flight.any (stashMeets (ctxOf u c).stash 0x7B q.env 0) = false) :
    bodySfree u c q = { st := freeHandles u c (stHandle q.env) (stCount q.env), aux := 0 :: List.replicate 6 1 } := by
  simp only [bodySfree, checks]
  rw [stashGo_of_still ((stashHolds_sfree ..).trans free) (stashMoves_sfree ..), foldl_stHandles_sfree, stashFlight_sfree]

/-- Settles O6: SPUT, SGET and SRAISE share one body, whose transfer runs where it has one; SFREE has its own and moves nothing. -/
theorem stashOpsRun : Obligations.StashOpsRun := by
  refine fun c aged => ⟨?sput, ?sget, ?sraise, ?sfree⟩
  case sput => exact runsStash_of_stashOp fun _ => rfl
  case sget => exact runsStash_of_stashOp fun _ => rfl
  case sraise => exact runsStash_of_stashOp fun _ => rfl
  case sfree => exact answersAs_of_body (body := bodySfree) (fun _ => rfl) fun _ _ ⟨checks, free⟩ => bodySfree_of_free checks free

end Sys2Proof.Machine
end

/-! ## Operations of the box units and the Splitters (R246 to R250, R278, R279, R282, R286, R288) -/

section
namespace Sys2Proof.Machine

/-- A box operation that passes runs its plan on its records, what it stores and its count (R246). -/
theorem bdBodyOf_of_passes {u : State} {c : Nat} {q : QOp} {mk : State → Nat → Nat → Plan} {outs : State → Nat → Nat → List (Nat × Nat)}
    (pass : Passes u c (mk u c q.env) (readsOf u c (mk u c q.env).recs) (outs u c q.env ++ bdCountIv u c q.env))
    (eff : State → Nat → Nat → Result) :
    bdBodyOf mk outs eff u c q = ranOp u c (mk u c q.env) (readsOf u c (mk u c q.env).recs) (outs u c q.env ++ bdCountIv u c q.env)
      fun s => eff s c q.env := by
  simp only [bdBodyOf, pass.checks, runAfter_of_passes pass]

/-- A Splitter operation that passes runs its plan on its records, what it stores and its count words (R277, R279). -/
theorem splRun_of_passes {u : State} {c : Nat} {p : Plan} {wr : List (Nat × Nat)} {words : List Nat}
    (pass : Passes u c p (readsOf u c p.recs) (wr ++ wordIvs u c words)) (eff : State → SplitOut) :
    splRun u c p wr words eff = ranOp u c p (readsOf u c p.recs) (wr ++ wordIvs u c words) fun s => splitResult s c (eff s) := by
  simp only [splRun, pass.checks]
  exact runAfter_of_passes pass _

/-- A row whose body is the box operations' form, storing what `boxWrites` names for its opcode, runs as its plan and effect say. -/
theorem runsAs_of_bdBodyOf {i : Instr} {c face opcode : Nat} {aged : Bool} {body : Body} {mk : State → Nat → Nat → Plan}
    {eff : State → Nat → Nat → Result} (row : ∀ s, exec i s = .next (bdOp c face aged opcode body s))
    (form : body = bdBodyOf mk (fun s c e => boxWrites s c opcode e) eff) :
    RunsAs i c ucBds face aged (fun _ => isOp opcode) (fun s q => mk s c q.env) (fun s q => readsOf s c (mk s c q.env).recs)
      (fun s q => boxWrites s c opcode q.env ++ bdCountIv s c q.env) (fun q s => eff s c q.env) :=
  answersAs_of_body row fun u q pass => (congrFun (congrFun (congrFun form u) c) q).trans (bdBodyOf_of_passes pass eff)

/-- A row whose body is a Splitter's run of a plan runs as the plan, its count words and its outputs say. -/
theorem runsAs_of_splRun {i : Instr} {c face opcode : Nat} {aged : Bool} {body : Body} {plan : State → QOp → Plan}
    {wr : State → QOp → List (Nat × Nat)} {words : QOp → List Nat} {eff : QOp → State → SplitOut}
    (row : ∀ s, exec i s = .next (splitOp c face aged opcode body s))
    (run : ∀ u q, body u c q = splRun u c (plan u q) (wr u q) (words q) (eff q)) :
    RunsAs i c ucSplitter face aged (fun _ => isOp opcode) plan (fun s q => readsOf s c (plan s q).recs)
      (fun s q => wr s q ++ wordIvs s c (words q)) (fun q s => splitResult s c (eff q s)) :=
  answersAs_of_body row fun u q pass => (run u q).trans (splRun_of_passes pass (eff q))

/-- Settles O4: the box operations share one form, by what each stores before its count; the Splitter operations share another, by what each stores before its count words. -/
theorem boxSplitterOpsRun : Obligations.BoxSplitterOpsRun := by
  refine fun c face aged => ⟨fun i opcode plan eff h => ?box, ?eroute, ?compact, ?mgate⟩
  case box =>
    simp only [List.mem_cons, List.not_mem_nil, or_false, Prod.mk.injEq] at h
    obtain ⟨rfl, rfl, rfl, rfl⟩ | ⟨rfl, rfl, rfl, rfl⟩ | ⟨rfl, rfl, rfl, rfl⟩ | ⟨rfl, rfl, rfl, rfl⟩ := h
    · exact runsAs_of_bdBodyOf (body := bodyBoxdec) (fun _ => rfl) rfl
    · exact runsAs_of_bdBodyOf (body := bodyBoxsel) (fun _ => rfl) rfl
    · exact runsAs_of_bdBodyOf (body := bodyNms) (fun _ => rfl) rfl
    · exact runsAs_of_bdBodyOf (body := bodyArgmax) (fun _ => rfl) rfl
  case eroute => exact runsAs_of_splRun (body := bodyEroute) (fun _ => rfl) fun _ _ => rfl
  case compact => exact runsAs_of_splRun (body := bodyCompact) (fun _ => rfl) fun _ _ => rfl
  case mgate => exact runsAs_of_splRun (body := bodyMgate) (fun _ => rfl) fun _ _ => rfl

end Sys2Proof.Machine
end

/-! ## Operations of the Canopy (R254, R261, R265, R272, R273) -/

section
namespace Sys2Proof.Machine

/-- An operation over a LIST whose checks pass and whose swaps all succeed notes each sequence it names as active, then runs (R265, R273). -/
theorem listOp_of_resident {s : State} {c t : Nat} {p : Plan} {l : List Nat} {zero : Bool} {fail : Option Nat}
    (checks : issueChecks s c (relsFirst p) = none) (listed : listChecks s c l t zero = none)
    (swaps : (makeResident s c (needOf s c l t) fail).2 = none) (run : State → Result) :
    listOp s c p l t zero fail run = run (l.dedup.foldl (fun s n => touchSeq s c n) (makeResident s c (needOf s c l t) fail).1) := by
  have resident : makeResident s c (needOf s c l t) fail = ((makeResident s c (needOf s c l t) fail).1, none) := Prod.ext rfl swaps
  simp only [listOp, checks, listed]
  rw [resident]

/-- An RSEQ function whose checks pass and whose swaps all succeed acts on what the swaps leave (R272, R273). -/
theorem rseqBody_of_resident {u : State} {c : Nat} {q : QOp} {swap : Option Nat} (checks : rqChecks u c q.env = none)
    (swaps : (makeResident u c (rqNeed u c q.env) swap).2 = none) (eff : State → Nat → Nat → Result) :
    rseqBody swap eff u c q = eff (makeResident u c (rqNeed u c q.env) swap).1 c q.env := by
  have resident : makeResident u c (rqNeed u c q.env) swap = ((makeResident u c (rqNeed u c q.env) swap).1, none) := Prod.ext rfl swaps
  simp only [rseqBody, checks]
  rw [resident]

/-- A row that issues the shared form of RSEQ answers as its function's effect says. -/
theorem answersAs_of_rseqBody {i : Instr} {c func : Nat} {aged : Bool} {swap : Option Nat} {eff : State → Nat → Nat → Result}
    (row : ∀ s, exec i s = .next (canopyOp c aged (isRseq func) (rseqBody swap eff) s)) :
    AnswersAs i c ucCanopy 0 aged (fun _ => isRseq func)
      (fun u q => rqChecks u c q.env = none ∧ (makeResident u c (rqNeed u c q.env) swap).2 = none)
      (fun u q => eff (makeResident u c (rqNeed u c q.env) swap).1 c q.env) :=
  answersAs_of_body row fun _ _ ⟨checks, swaps⟩ => rseqBody_of_resident checks swaps eff

/-- Settles O7: CATTN and RAPPEND share the form of an operation over a LIST; the six functions of RSEQ share another. -/
theorem canopyOpsRun : Obligations.CanopyOpsRun := by
  refine ⟨fun c aged fail => ⟨?cattn, ?rappend⟩, fun c aged fail i func swap eff h => ?rseq⟩
  case cattn =>
    refine answersAs_of_body (body := bodyCattn fail) (fun _ => rfl) fun u q ⟨checks, listed, swaps⟩ => ?_
    simp only [bodyCattn, listOp_of_resident checks listed swaps]
  case rappend =>
    refine answersAs_of_body (body := bodyRappend fail) (fun _ => rfl) fun u q ⟨checks, listed, swaps⟩ => ?_
    simp only [bodyRappend, listOp_of_resident checks listed swaps]
  case rseq =>
    simp only [List.mem_cons, List.not_mem_nil, or_false, Prod.mk.injEq] at h
    obtain ⟨rfl, rfl, rfl, rfl⟩ | ⟨rfl, rfl, rfl, rfl⟩ | ⟨rfl, rfl, rfl, rfl⟩ | ⟨rfl, rfl, rfl, rfl⟩ | ⟨rfl, rfl, rfl, rfl⟩ | ⟨rfl, rfl, rfl, rfl⟩ := h
    all_goals exact answersAs_of_rseqBody fun _ => rfl

end Sys2Proof.Machine
end

/-! ## Heat and power (R315, R316, R497, R501 to R503) -/

section
namespace Sys2Proof.Machine

/-! ### Readings and throttle steps while the module has power -/

/-- A Face reading with all sensors usable acts on the highest, corrected (R501). -/
theorem execFaceJunctionReading_of_usable {s : State} {l : List Int} {t : Int} (up : powered s = true)
    (highest : (usableSensors l).max? = some t) (complete : (usableSensors l).length = l.length) (face : Fin 4) :
    exec (.faceJunctionReading face l) s = .next (withHealth s (driveAlert (actOnJunction s face (t + calEff s (0x30 + face))))) := by
  show execFaceJunctionReading face l s = _
  simp [execFaceJunctionReading, up, highest, complete]

theorem execJunctionThrottleStep_of_powered {s : State} (up : powered s = true) (face : Fin 4) :
    exec (.junctionThrottleStep face) s = .next (levelChange s 2 (updPwr s fun p => { p with
      jLevel := p.jLevel.set face (if 1 ≤ nth 0 s.pwr.jRow face then min (nth 0 s.pwr.jLevel face + 1) levelTop else nth 0 s.pwr.jLevel face - 1) })) := by
  show execJunctionThrottleStep face s = _
  simp [execJunctionThrottleStep, up]

/-- R502: the levels of a Face rise beyond 20 °C over its coolest neighbour, hold beyond 15 °C, and fall at 15 °C or less. -/
theorem execNeighbourThrottleStep_of_powered {s : State} (up : powered s = true) (face : Fin 4) :
    exec (.neighbourThrottleStep face) s = .next
      (if 20000 < hotterBy s face then levelChange s 3 (updPwr s fun p => neighbourUp p face)
       else if 15000 < hotterBy s face then s
       else levelChange { s with free := s.free + 1 } 3
         (updPwr { s with free := s.free + 1 } fun p => neighbourDown (Config.freeBit s.free) p face)) := by
  show execNeighbourThrottleStep face s = _
  simp only [execNeighbourThrottleStep, up, Bool.not_true, Bool.false_eq_true, if_false]
  split
  · rfl
  · split <;> rfl

theorem execFarTempReport_of_powered {s : State} {pkg : Fin 16} (up : powered s = true)
    (on : domIsOn s (if pkg.val < 8 then 43 else 55) = true) (r : Int) (mult : Nat) :
    exec (.farTempReport pkg r mult) s = .next { s with memS := { s.memS with
      farHot := s.memS.farHot.set pkg (if 105000 < r then true else if r ≤ 100000 then false else nth false s.memS.farHot pkg)
      farMult := s.memS.farMult.set pkg mult } } := by
  show execFarTempReport pkg r mult s = _
  simp only [execFarTempReport, up, on, Bool.not_true, Bool.or_self, Bool.false_eq_true, if_false]

/-- What a stack's corrected temperature makes of the state, before an emergency is decided (R315). -/
def stackHeated (s : State) (k : Fin 8) (t : Int) : State :=
  driveAlert (levelChange { s with free := s.free + 1 } 4 { s with
    free := s.free + 1
    memS := { s.memS with stackStep := s.memS.stackStep.set k (stackStepOf (nth 0 s.memS.stackStep k) t)
                          stackTemp := s.memS.stackTemp.set k (stackByte s.free t) } })

/-- R315: a reading whose step does not rise is kept; above 95 °C it is an emergency where step 2 was in force and no emergency is. -/
theorem execHbmTempReading_of_not_rising {s : State} {k : Fin 8} {r : Int} (up : powered s = true) (on : domIsOn s (stackDomain k) = true)
    (held : stackStepOf (nth 0 s.memS.stackStep k) (r + calEff s (0x40 + k)) ≤ nth 0 s.memS.stackStep k) :
    exec (.hbmTempReading k r) s = .next (withHealth s (driveAlert
      (if 95000 < r + calEff s (0x40 + k) ∧ nth 0 s.memS.stackStep k = 2 ∧ (stackHeated s k (r + calEff s (0x40 + k))).pwr.emergency = false
       then thermalEmergency (stackHeated s k (r + calEff s (0x40 + k))) (8 + k) else stackHeated s k (r + calEff s (0x40 + k))))) := by
  show execHbmTempReading k r s = _
  simp only [execHbmTempReading, up, on, held.not_gt, Bool.not_true, Bool.or_self, Bool.false_eq_true, if_false]
  exact congrArg (fun u => Host.Outcome.next (withHealth s (driveAlert u))) (if_congr (by simp [stackHeated, drawFree, and_assoc]) rfl rfl)

theorem execCapLevelStep_of_powered {s : State} (up : powered s = true) :
    exec .capLevelStep s = .next (levelChange s 1 (updPwr s fun p => { p with
      capLevel := if capInForce s < s.pwr.pin then min (s.pwr.capLevel + 1) levelTop
        else if 100 * s.pwr.pin < 95 * capInForce s then s.pwr.capLevel - 1 else s.pwr.capLevel })) := by
  show execCapLevelStep s = _
  simp only [execCapLevelStep, up, Bool.not_true, Bool.false_eq_true, if_false]

/-! ### The alert and the input power -/

theorem execThermAlertRelease_of_clear {s : State} (clear : alertCond s = false) :
    exec .thermAlertRelease s = .next (updPwr s fun p => { p with alert := false }) := by
  show execThermAlertRelease s = _
  simp [execThermAlertRelease, clear]

theorem execPowerSample_of_on {s : State} (on : s.aoc.on = true) (vin pin : BitVec 16) :
    exec (.powerSample vin pin) s = .next (updMbx
      (updPwr (inputHigh s vin.toNat) fun p => { p with vin := vin.toNat, pin := pin.toNat }) fun m => { m with
        taken := m.taken.map (capDone s.pwr.cap pin.toNat) }) := by
  show execPowerSample vin pin s = _
  simp [execPowerSample, on]

/-- Settles O33: each row's meaning with power on; the neighbour row splits at 20 °C and 15 °C, and the stack row takes a step that does not rise. -/
theorem heatAndPowerAct : Obligations.HeatAndPowerAct := by
  refine ⟨fun s up => ⟨?junction, ?junctionStep, ?neighbour, ?far⟩, fun s => ⟨?stack, ?alert, ?sample, ?cap⟩⟩
  case junction => exact fun face l t highest complete => execFaceJunctionReading_of_usable up highest complete face
  case junctionStep =>
    rintro face l rfl
    exact execJunctionThrottleStep_of_powered up face
  case neighbour =>
    refine fun face => ⟨fun hot => ?_, fun mild warm => ?_, fun cool => ?_⟩
    · rw [execNeighbourThrottleStep_of_powered up, if_pos hot]
    · rw [execNeighbourThrottleStep_of_powered up, if_neg mild.not_gt, if_pos warm]
    · rw [execNeighbourThrottleStep_of_powered up, if_neg (by omega), if_neg cool.not_gt]
  case far =>
    rintro pkg r mult hot on rfl
    exact execFarTempReport_of_powered up on r mult
  case stack =>
    rintro up k r t u on rfl rfl held
    exact execHbmTempReading_of_not_rising up on held
  case alert => exact execThermAlertRelease_of_clear
  case sample => exact execPowerSample_of_on
  case cap =>
    rintro up l rfl
    exact execCapLevelStep_of_powered up

end Sys2Proof.Machine
end

/-! ## Domains, idle groups and scrubbers (R294, R296, R301, R495) -/

section
namespace Sys2Proof.Machine

/-- R495: a domain wakes in the serving and report modes, unless it is fenced, for an operation, an open context or the far tier. -/
theorem execDomainWake_of_needed {s : State} {d : Fin 64} (mode : s.mode = .serving ∨ s.mode = .relayAndReport) (live : domFenced s d = false)
    (needed : demandDomains.contains d.val = true ∧ domInUse s d = true ∨ planeDomains.contains d.val = true ∧ anyOpen s = true ∨
      farDomains.contains d.val = true) :
    exec (.domainWake d) s = .next (domRise s d) :=
  if_pos (by simpa [live, or_assoc] using ⟨mode, by simpa using needed⟩)

/-- R495: a demand domain out of use falls, and a far-tier domain that no context needs may. -/
theorem execDomainIdlePowerDown_of_idle {s : State} {d : Fin 64} (idle : demandDomains.contains d.val = true ∧ domInUse s d = false ∨
    farDomains.contains d.val = true ∧ anyOpen s = false ∧ s.mode = .relayAndReport) :
    exec (.domainIdlePowerDown d) s = .next (domFall s d) :=
  if_pos (by simpa [and_assoc] using idle)

theorem execRetentionAutoEntry_of_idle {s : State} {g : Fin 32} (enabled : s.mbx.autoRetainUs ≠ 0) (on : nth 0 s.memS.ret g = 0)
    (power : domIsOn s (10 * (g.val / 8) + 2) = true) :
    exec (.retentionAutoEntry g) s = .next { s with memS := { s.memS with ret := s.memS.ret.set g 1 } } :=
  if_pos (by simp [enabled, on, power])

/-- R294: a scrub of a Stockpile line free of uncorrectable errors reads it, and reports the bit that it corrects. -/
theorem execStockpileScrub_of_sound {s : State} {l : Fin 16777216} (power : domIsOn s (10 * (64 * l.val / 0x10000000) + 2) = true)
    (kept : retOf s (64 * l.val) ≠ 2) (sound : badTouched s [(64 * l.val, 64)] = none) (corrected : Option (Fin 576)) :
    exec (.stockpileScrub l corrected) s = .next (withHealth s (match corrected with
      | some b => scrubCorrected (noteTraffic s [(64 * l.val, 64)] []) 0 (64 * l.val) b
      | none => noteTraffic s [(64 * l.val, 64)] [])) := by
  show execStockpileScrub l corrected s = _
  cases corrected <;> simp [execStockpileScrub, power, kept, sound]

/-- R301: a scrub of a near-tier line free of uncorrectable errors reads it, and reports an error that it corrects. -/
theorem execNearScrub_of_sound {s : State} {l : Fin 6442450944} (near : regionOf s (nearBase + 64 * l.val) = some .near)
    (power : domIsOn s (stackDomain ((nearPlace s (nearBase + 64 * l.val)).1 / 32)) = true)
    (sound : badTouched s [(nearBase + 64 * l.val, 64)] = none) (corrected : Bool) :
    exec (.nearScrub l corrected) s = .next (withHealth s (if corrected then
        scrubCorrected (drawFree (noteTraffic s [(nearBase + 64 * l.val, 64)] [])).2 1 (nearBase + 64 * l.val)
          (Config.freeWord (noteTraffic s [(nearBase + 64 * l.val, 64)] []).free).toNat
      else noteTraffic s [(nearBase + 64 * l.val, 64)] [])) := by
  show execNearScrub l corrected s = _
  simp [execNearScrub, near, power, sound, drawFree]

/-- Settles O34: each row's meaning where its guard holds, the scrubbers with and without an error that they correct. -/
theorem powerManagementActs : Obligations.PowerManagementActs := by
  refine fun s => ⟨?wake, ?fall, ?retain, ?stockpile, ?near⟩
  case wake => exact fun _ => execDomainWake_of_needed
  case fall => exact fun _ => execDomainIdlePowerDown_of_idle
  case retain => exact fun _ => execRetentionAutoEntry_of_idle
  case stockpile =>
    intro l b power kept sound
    have scrub := execStockpileScrub_of_sound power kept sound
    exact ⟨scrub none, scrub (some b)⟩
  case near =>
    rintro l u near power rfl sound
    have scrub := execNearScrub_of_sound near power sound
    exact ⟨scrub false, scrub true⟩

end Sys2Proof.Machine
end

/-! ## Retention groups (R296, R297, R466) -/

section
namespace Sys2Proof.Machine

/-! ### Accesses (R297) -/

/-- An access touches a group's range. -/
def touchesGroup (ps : List (Nat × Nat)) (g : Nat) : Bool :=
  ps.any fun p => overlaps p.1 (p.1 + p.2) (g * 0x2000000) ((g + 1) * 0x2000000)

theorem wakeGroups_ret (s : State) (ps : List (Nat × Nat)) :
    (wakeGroups s ps).memS.ret = s.memS.ret.zipIdx.map fun p => if p.1 = 1 && touchesGroup ps p.2 then 0 else p.1 :=
  rfl

/-- Accesses turn a group in RETAIN that they touch ON, and leave every other one as it is. -/
theorem nth_wakeGroups_ret (s : State) (ps : List (Nat × Nat)) (g : Nat) :
    nth 0 (wakeGroups s ps).memS.ret g = if nth 0 s.memS.ret g = 1 && touchesGroup ps g then 0 else nth 0 s.memS.ret g := by
  obtain unlisted | ⟨v, listed⟩ := Option.eq_none_or_eq_some s.memS.ret[g]?
  · simp [wakeGroups_ret, nth, unlisted]
  · simp [wakeGroups_ret, nth, listed]

theorem noteTraffic_ret (s : State) (rd wr : List (Nat × Nat)) : (noteTraffic s rd wr).memS.ret = (wakeGroups s (rd ++ wr)).memS.ret := by
  have woken : (postHost (wakeStacks (wakeGroups s (rd ++ wr)) (rd ++ wr)) wr).memS.ret = (wakeGroups s (rd ++ wr)).memS.ret := by
    simp only [postHost, wakeStacks]
    split <;> split <;> rfl
  simp only [noteTraffic]
  split <;> exact woken

/-- A group that is ON stays ON under any traffic. -/
theorem nth_noteTraffic_ret_of_on {s : State} {g : Nat} (on : nth 0 s.memS.ret g = 0) (rd wr : List (Nat × Nat)) :
    nth 0 (noteTraffic s rd wr).memS.ret g = 0 := by
  simp [noteTraffic_ret, nth_wakeGroups_ret, on]

/-- Traffic that touches a group in RETAIN turns it ON. -/
theorem nth_noteTraffic_ret_of_touched {s : State} {g : Nat} {rd wr : List (Nat × Nat)} (retain : nth 0 s.memS.ret g = 1)
    (touched : touchesGroup (rd ++ wr) g = true) : nth 0 (noteTraffic s rd wr).memS.ret g = 0 := by
  simp [noteTraffic_ret, nth_wakeGroups_ret, retain, touched]

theorem touchesGroup_of_first_byte {g a n : Nat} (some_byte : 1 ≤ n) (low : g * 0x2000000 ≤ a) (high : a < (g + 1) * 0x2000000) :
    touchesGroup [(a, n)] g = true := by
  simp only [touchesGroup, overlaps, List.any_cons, List.any_nil, Bool.or_false, Bool.and_eq_true, decide_eq_true_eq]
  omega

/-! ### Trace records while tracing does not run -/

/-- While tracing does not run, a record changes at most what the trace unit stages and counts (R530). -/
theorem tracePut_of_not_running {s : State} (stopped : s.trc.st ≠ 1) (rec : Nat) :
    ∃ trc, tracePut s rec = { s with trc := trc } ∧ trc.st = s.trc.st := by
  simp only [tracePut, if_neg stopped]
  split
  · split
    · exact ⟨_, rfl, rfl⟩
    · exact ⟨_, rfl, rfl⟩
  · exact ⟨_, rfl, rfl⟩

/-- While tracing does not run, a STATE record leaves memory, the groups and the state of tracing. -/
theorem traceState_frame {s : State} (stopped : s.trc.st ≠ 1) (src ctx : Nat) :
    (traceState s src ctx).mem = s.mem ∧ (traceState s src ctx).memS = s.memS ∧ (traceState s src ctx).trc.st = s.trc.st := by
  simp only [traceState, traceEvent]
  split
  · split
    · obtain ⟨trc, e, same⟩ := tracePut_of_not_running (s := (drawFree s).2) stopped _
      rw [e]
      exact ⟨rfl, rfl, same⟩
    · exact ⟨rfl, rfl, rfl⟩
  · exact ⟨rfl, rfl, rfl⟩

/-! ### Putting groups into a state (R296, R297) -/

@[simp] theorem clearBad_ret (s : State) (ps : List (Nat × Nat)) : (clearBad s ps).memS.ret = s.memS.ret := rfl

@[simp] theorem loseRange_memS (s : State) (lo hi : Nat) : (loseRange s lo hi).memS = s.memS := by
  unfold loseRange
  split <;> rfl

/-- Putting a group into a state writes that state at its place. -/
theorem setGroup_ret (s : State) (st g : Nat) : (setGroup s st g).memS.ret = if nth 0 s.memS.ret g = st then s.memS.ret else s.memS.ret.set g st := by
  simp only [setGroup, groupRange]
  split
  · rfl
  · split
    · simp
    · split <;> simp

theorem nth_setGroup_ret_same {s : State} {g : Nat} (listed : g < s.memS.ret.length) (st : Nat) : nth 0 (setGroup s st g).memS.ret g = st := by
  rw [setGroup_ret]
  split
  · assumption
  · simp [nth, listed]

theorem nth_setGroup_ret_other (s : State) (st : Nat) {g k : Nat} (other : k ≠ g) : nth 0 (setGroup s st k).memS.ret g = nth 0 s.memS.ret g := by
  rw [setGroup_ret]
  split
  · rfl
  · simp [nth, List.getElem?_set_ne other]

theorem setGroup_trc (s : State) (st g : Nat) : (setGroup s st g).trc = s.trc := by
  simp only [setGroup, loseRange]
  split
  · rfl
  · split
    · rfl
    · split
      · split <;> rfl
      · rfl

theorem setGroup_of_same {s : State} {st g : Nat} (same : nth 0 s.memS.ret g = st) : setGroup s st g = s :=
  if_pos same

/-- Putting a group into a state stores nothing outside the group. -/
theorem setGroup_storesNothingAt (s : State) (st : Nat) {a k : Nat} (out : a < k * 0x2000000 ∨ (k + 1) * 0x2000000 ≤ a) :
    StoresNothingAt a s (setGroup s st k) := by
  simp only [setGroup, groupRange]
  split
  · exact .refl a s
  · split
    · exact fun wf => ⟨memFill_wf wf _ _ _, byteAt_of_memGet_eq (memGet_memFill_outside wf _ out)⟩
    · split
      · exact StoresNothingAt.trans (t := { s with memS := { s.memS with ret := s.memS.ret.set k st } }) (.of_mem_eq rfl) (loseRange_storesNothingAt _ out)
      · exact .of_mem_eq rfl

/-- Leaving OFF, a group is zero. -/
theorem byteAt_setGroup_of_off {s : State} {st g a : Nat} (off : nth 0 s.memS.ret g = 2) (leaves : st ≠ 2)
    (low : g * 0x2000000 ≤ a) (high : a < (g + 1) * 0x2000000) (space : a < spaceTop) : byteAt (setGroup s st g) a = 0 := by
  have mem : (setGroup s st g).mem = memFill s.mem (g * 0x2000000) ((g + 1) * 0x2000000) .zeros := by
    simp [setGroup, groupRange, off, leaves.symm]
  simp [byteAt, space, mem, memGet_memFill_zeros s.mem ⟨low, high⟩]

/-- A group is ON and the byte at `a` is zero, in memory of canonical form. -/
structure OnAndZeroAt (g a : Nat) (s : State) : Prop where
  memory : memWf s.mem = true
  on : nth 0 s.memS.ret g = 0
  zero : byteAt s a = 0

/-- A group that is ON and zero stays so while groups are turned on. -/
theorem OnAndZeroAt.setGroup {g a : Nat} {s : State} (h : OnAndZeroAt g a s) (low : g * 0x2000000 ≤ a) (high : a < (g + 1) * 0x2000000)
    (k : Nat) : OnAndZeroAt g a (setGroup s 0 k) := by
  by_cases same : k = g
  · rwa [same, setGroup_of_same h.on]
  · obtain ⟨wf, e⟩ := setGroup_storesNothingAt s 0 (a := a) (k := k) (by omega) h.memory
    exact ⟨wf, (nth_setGroup_ret_other s 0 same).trans h.on, e.trans h.zero⟩

/-- Turning on several groups turns each one among them that is OFF on, and zero. -/
theorem onAndZeroAt_foldl_setGroup {g a : Nat} (low : g * 0x2000000 ≤ a) (high : a < (g + 1) * 0x2000000) (space : a < spaceTop)
    {l : List Nat} (named : g ∈ l) {s : State} (wf : memWf s.mem = true) (listed : g < s.memS.ret.length) (off : nth 0 s.memS.ret g = 2) :
    OnAndZeroAt g a (l.foldl (fun s k => setGroup s 0 k) s) := by
  induction l generalizing s with
  | nil => cases named
  | cons k r ih =>
    rw [List.foldl_cons]
    have wf' := setGroup_still (s := s) (st := 0) (g := k) |>.memory wf
    by_cases same : k = g
    · subst same
      have here : OnAndZeroAt k a (setGroup s 0 k) := ⟨wf', nth_setGroup_ret_same listed 0, byteAt_setGroup_of_off off (by decide) low high space⟩
      exact List.foldlRecOn r _ here fun _ h x _ => h.setGroup low high x
    · refine ih ((List.mem_cons.1 named).resolve_left (Ne.symm same)) wf' ?_ ((nth_setGroup_ret_other s 0 same).trans off)
      rwa [setGroup_still.ret]

/-! ### PWR_RETAIN (R466) -/

theorem lt_of_mem_namedGroups {raw g : Nat} (named : g ∈ namedGroups raw) : g < 32 :=
  List.mem_range.1 (List.mem_filter.1 named).1

/-- OFF for a group that an open context's map covers is refused, and changes nothing. -/
theorem workPwrRetain_of_mapped {s : State} {raw : Nat} (faces : fld raw 8 1 ≤ 15) (off : fld raw 10 1 = 2)
    (mapped : (namedGroups raw).any (groupMapped s) = true) : workPwrRetain s raw = cmdFail s msConflict 0 := by
  simp [workPwrRetain, cmdTry, chk, firstSome, faces.not_gt, off, mapped]

/-- ON is never refused for a legal mask of Faces. -/
theorem workPwrRetain_on {s : State} {raw : Nat} (faces : fld raw 8 1 ≤ 15) (on : fld raw 10 1 = 0) :
    workPwrRetain s raw = { st := traceState ((namedGroups raw).foldl (fun s g => setGroup s 0 g) s) 35 0xFF } := by
  simp [workPwrRetain, cmdTry, chk, firstSome, faces.not_gt, on]

/-- A refused PWR_RETAIN ends with STATE_CONFLICT and does nothing else. -/
theorem execPwrRetain_of_mapped {s : State} {place : Nat} {t : Cmd} (begins : Begins s place 0x45 anyKind t) (faces : fld t.raw 8 1 ≤ 15)
    (off : fld t.raw 10 1 = 2) (mapped : (namedGroups t.raw).any (groupMapped (begun s t.raw)) = true) :
    exec (.pwrRetain place) s = .next (updCmd (begun s t.raw) place fun t => { t with begun := true, ready := some (0xF3, 0, 0), aux := [] }) := by
  show Host.Outcome.next (runCmd s place 0x45 anyKind workPwrRetain) = _
  rw [runCmd_of_begins begins, workPwrRetain_of_mapped faces off mapped]
  rfl

/-- A group that is OFF and turned on by PWR_RETAIN is zero. -/
theorem execPwrRetain_on_zero {s : State} {place g a : Nat} {t : Cmd} (inv : Inv s) (begins : Begins s place 0x45 anyKind t)
    (faces : fld t.raw 8 1 ≤ 15) (on : fld t.raw 10 1 = 0) (named : g ∈ namedGroups t.raw) (off : nth 0 s.memS.ret g = 2)
    (low : g * 0x2000000 ≤ a) (high : a < (g + 1) * 0x2000000) (stopped : s.trc.st ≠ 1) :
    ∃ u, exec (.pwrRetain place) s = .next u ∧ nth 0 u.memS.ret g = 0 ∧ byteAt u a = 0 := by
  have small := lt_of_mem_namedGroups named
  have space : a < spaceTop := by simp only [spaceTop]; omega
  obtain ⟨-, -, groups, -⟩ := inv.tables
  obtain ⟨mem, memS, st⟩ := traceState_frame stopped 40 (cmdCtx t.raw)
  have done : OnAndZeroAt g a ((namedGroups t.raw).foldl (fun s k => setGroup s 0 k) (begun s t.raw)) :=
    onAndZeroAt_foldl_setGroup low high space named (by rw [begun, mem]; exact inv.memory) (by rw [begun, memS]; omega) (by rw [begun, memS]; exact off)
  have stopped' : ((namedGroups t.raw).foldl (fun s k => setGroup s 0 k) (begun s t.raw)).trc.st ≠ 1 := by
    rwa [foldl_keeps State.trc (fun s k => setGroup_trc s 0 k), begun, st]
  obtain ⟨mem', memS', -⟩ := traceState_frame stopped' 35 0xFF
  refine ⟨_, congrArg Host.Outcome.next (runCmd_ok begins (workPwrRetain_on faces on)), ?_, ?_⟩
  · exact nth_noteTraffic_ret_of_on (by rw [memS']; exact done.on) _ []
  · exact (byteAt_of_mem_eq ((noteTraffic_mem _ _ []).trans mem') a).trans done.zero

/-! ### BAR2 (R297) -/

/-- An access over BAR2 to a group that is OFF is refused. -/
theorem bar2Go_of_off {s : State} {da : Nat} (power : regionOn s .stockpile da = true) (off : retOf s da = 2) (write : Bool) (n data : Nat) :
    bar2Go s .stockpile write da n data = bar2Refuse s write da := by
  simp [bar2Go, power, off]

/-- Settles O56: the named groups are turned on one after another, and the one that was OFF stays zero through those that follow. -/
theorem retentionActs : Obligations.RetentionActs := by
  refine ⟨?wake, ?mapped, ?zero, ?bar2⟩
  case wake =>
    intro s g a n retain some_byte low high
    have touched := touchesGroup_of_first_byte some_byte low high
    exact ⟨nth_noteTraffic_ret_of_touched retain touched, nth_noteTraffic_ret_of_touched retain touched⟩
  case mapped => exact fun _ _ _ => execPwrRetain_of_mapped
  case zero => exact fun _ _ _ _ _ => execPwrRetain_on_zero
  case bar2 =>
    intro s addr len data da on some_byte page within reaches region power off
    rw [execBar2Access_of_region on some_byte page within reaches region, bar2Go_of_off power off]
    rfl

end Sys2Proof.Machine
end


/-! ## Feeds: TFEED, TLIVE, TSTOP and TSTATE, and the codec's operations (R320, R341, R346, R347, R358, R361, R364) -/

section
namespace Sys2Proof.Machine

/-! ### The Taproot's operations at their unit -/

/-- A feed whose blocks pass the checks and hold no bad line starts (R320, R341, R345). -/
theorem bodyFeed_of_passes {u : State} {c : Nat} {q : QOp} {live : Bool} (checks : tapChecks u c q.env live = none)
    (sound : badTouched u (physPieces u c (blockIvs u c q.env live)) = none) :
    bodyFeed live u c q = { st := startFeed (noteTraffic u (physPieces u c (blockIvs u c q.env live)) []) c q.env live
                            acc := { rd := physPieces u c (blockIvs u c q.env live) } } := by
  simp only [bodyFeed, checks, sound]

/-- A TSTOP that passes its checks stops its feed at once, unless MODE 0 lets the batch in progress finish (R346). -/
theorem bodyTstop_of_passes {u : State} {c : Nat} {q : QOp}
    (reserved : firstBad (([(0x40, bits (par q.env 0 1) 2 6 ≠ 0)] : List (Nat × Bool)) ++ parZero q.env 2 0x40) = none)
    (mode : par q.env 1 1 ≤ 1) :
    bodyTstop u c q = match feedOf u c (tfId q.env) with
      | none => { st := u }
      | some f =>
        if feedBusy f = false then { st := u }
        else if par q.env 1 1 = 1 || f.live || f.slots = [] then { st := stopFeed u c (tfId q.env) 0 }
        else { st := updFeed u c (tfId q.env) fun f => { f with st := 2 }, ended := false } := by
  cases found : feedOf u c (tfId q.env) <;> simp only [bodyTstop, reserved, mode.not_gt, found, if_false, Bool.not_eq_true']

/-- A TSTATE that passes its checks writes its feed's 64 bytes, zeros where there is no feed (R347). -/
theorem bodyTstate_of_passes {u : State} {c : Nat} {q : QOp}
    (reserved : firstBad (([(0x40, bits (par q.env 0 1) 2 6 ≠ 0)] : List (Nat × Bool)) ++ parZero q.env 1 8 ++ parZero q.env 0xE 0x40) = none)
    (reach : footOk u c [.near] false true [(tfCfg q.env, 64)] = true) (aligned : tfCfg q.env % 64 = 0) :
    bodyTstate u c q = { st := noteTraffic (clearBad (wrNum u c (tfCfg q.env) (((feedOf u c (tfId q.env)).map stateBlock).getD 0) 64)
                           (physPieces u c [(tfCfg q.env, 64)])) [] (physPieces u c [(tfCfg q.env, 64)])
                         acc := { wr := physPieces u c [(tfCfg q.env, 64)] } } := by
  simp only [bodyTstate, reserved, reach, aligned, Bool.not_true, Bool.false_eq_true, ne_eq, not_true_eq_false, if_false]

/-! ### The codec's operations at their unit -/

/-- An operation of the codec that may issue is in flight, and the cores go to the sessions that wait (R352). -/
theorem vccOp_of_mayIssue {s : State} {c opcode : Nat} {aged : Bool} {q : QOp}
    (may : MayIssue s c ucVcc 0 aged (fun q => isOp opcode q && vccRoom s c q) q) (body : Body) :
    vccOp c aged opcode body s = vccGrant (inFlight s c q (body (atUnit s c q) c q)) := by
  rw [vccOp, issueOp_of_mayIssue may]

/-- VDEC's effect is no memory fault: damage has a status of its own (R361). -/
theorem vdecEff_status_ne (s : State) (c e bytes len : Nat) (h : StreamHead) (k : VdecPick) :
    (vdecEff s c e bytes len h k).status ≠ stMemFault := by
  show (if vdecDamage e bytes len h k = 0 then stOk else 0xD1) ≠ stMemFault
  split <;> decide

/-- VENC's effect is no memory fault: a stream that does not fit has a status of its own (R367). -/
theorem vencEff_status_ne (s : State) (c e : Nat) : (vencEff s c e).status ≠ stMemFault := by
  show (if (vencDone s c e).length < veRunFrames s c e then 0xD4 else stOk) ≠ stMemFault
  split <;> decide

theorem ranOp_status (s : State) (c : Nat) (p : Plan) (reads writes : List (Nat × Nat)) (eff : State → Result) :
    (ranOp s c p reads writes eff).status = (eff (touchAll s c p.recs)).status := rfl

section Vdec

/-! A VDEC whose checks pass and whose stream, of `len` bytes, holds no bad line. -/

variable {u : State} {c : Nat} {q : QOp} {len bytes : Nat} {h : StreamHead} {k : VdecPick}
  (checks : issueChecks u c (vdecPlan u c q.env) = none) (length : len = nth 1 (runExt u c (envRec q.env 0)) 0)
  (stream : bytes = rdNum u c (envRec q.env 0).base len) (head : h = readHead (vdCont q.env) bytes len) (pick : k = vdecPick q.env h)
  (sound : badTouched u (physPieces u c [((envRec q.env 0).base, len)]) = none)

include checks length stream head pick sound

/-- A stream that does not fit is refused, and each refusal but that of a work area too small is counted (R357). -/
theorem bodyVdec_of_refused {st d : Nat} (refused : vdecRefusal q.env h k = some (st, d)) :
    bodyVdec u c q = reject (if st = 0xD2 then vccAdd u 5 1 else u) st d := by
  subst length stream head pick
  simp only [bodyVdec, checks, sound, Option.isSome_none, Bool.false_eq_true, if_false, refused]

/-- An accepted stream is decoded, and the session's pictures are to come (R352, R358). -/
theorem bodyVdec_of_accepted {reads writes : List (Nat × Nat)} (accepted : vdecRefusal q.env h k = none)
    (rd : reads = readsOf u c (vdecPlan u c q.env).recs) (wr : writes = writesOf u c ((vdecPlan u c q.env).recs.filter fun x => x.idx ≠ 5))
    (pass : Passes u c (vdecPlan u c q.env) reads writes) :
    bodyVdec u c q = inPictures c q (vdecProgress q.env bytes len h k)
      (ranOp u c (vdecPlan u c q.env) reads writes fun v => vdecEff v c q.env bytes len h k) := by
  subst length stream head pick rd wr
  simp only [bodyVdec, checks, sound, Option.isSome_none, Bool.false_eq_true, if_false, accepted, runAfter_of_passes pass, ranOp_status,
    vdecEff_status_ne]

end Vdec

/-- A VENC that passes encodes its frames, and its pictures are to come (R352, R364). -/
theorem bodyVenc_of_passes {u : State} {c : Nat} {q : QOp}
    (pass : Passes u c (vencPlan u c q.env) (readsOf u c (vencPlan u c q.env).recs) (vencWrites u c q.env)) :
    bodyVenc u c q = inPictures c q (vencProgress q.env (vencDone u c q.env))
      (ranOp u c (vencPlan u c q.env) (readsOf u c (vencPlan u c q.env).recs) (vencWrites u c q.env) fun v => vencEff v c q.env) := by
  simp only [bodyVenc, pass.checks, runAfter_of_passes pass, ranOp_status, vencEff_status_ne, if_false]

/-- Settles O8: the Taproot's rows answer as their bodies do; the codec's grant their cores besides, VDEC by what becomes of its stream. -/
theorem feedCodecOpsRun : Obligations.FeedCodecOpsRun := by
  refine ⟨fun c aged => ⟨?tfeed, ?tlive, ?tstop, ?tstate⟩, fun c aged => ⟨?vdec, ?venc⟩⟩
  case tfeed => exact answersAs_of_body (body := bodyFeed false) (fun _ => rfl) fun _ _ ⟨checks, sound⟩ => bodyFeed_of_passes checks sound
  case tlive => exact answersAs_of_body (body := bodyFeed true) (fun _ => rfl) fun _ _ ⟨checks, sound⟩ => bodyFeed_of_passes checks sound
  case tstop => exact answersAs_of_body (body := bodyTstop) (fun _ => rfl) fun _ _ ⟨reserved, mode⟩ => bodyTstop_of_passes reserved mode
  case tstate =>
    exact answersAs_of_body (body := bodyTstate) (fun _ => rfl) fun _ _ ⟨reserved, reach, aligned⟩ => bodyTstate_of_passes reserved reach aligned
  case vdec =>
    rintro s u q len bytes h k may rfl length stream head pick sound pass
    have issued : exec (.vdec c aged) s = .next (vccGrant (inFlight s c q (bodyVdec (atUnit s c q) c q))) :=
      congrArg Host.Outcome.next (vccOp_of_mayIssue may bodyVdec)
    refine ⟨fun st d refused => ?refused, fun accepted => ?accepted⟩
    · rw [issued, bodyVdec_of_refused pass.checks length stream head pick sound refused]
    · rw [issued, bodyVdec_of_accepted pass.checks length stream head pick sound accepted rfl rfl pass]
  case venc =>
    rintro s u q may rfl pass
    rw [← bodyVenc_of_passes pass]
    exact congrArg Host.Outcome.next (vccOp_of_mayIssue may bodyVenc)

end Sys2Proof.Machine
end

/-! ## Samples, batches, live sets and pictures (R318, R320, R325, R339 to R342, R352, R353) -/

section
namespace Sys2Proof.Machine

/-! ### A feed and its changes -/

theorem find?_updFirst {α : Type} (p : α → Bool) (g : α → α) (l : List α) (h : ∀ x, p x = true → p (g x) = true) :
    (updFirst p g l).find? p = (l.find? p).map g := by
  induction l with
  | nil => rfl
  | cons a r ih =>
    by_cases hp : p a = true
    · simp [updFirst, hp, h a hp]
    · simp [updFirst, hp, ih]

theorem updFirst_congr {α : Type} {p : α → Bool} {l : List α} {a : α} {g h : α → α} (found : l.find? p = some a) (same : g a = h a) :
    updFirst p g l = updFirst p h l := by
  induction l with
  | nil => rfl
  | cons b r ih =>
    by_cases hp : p b = true
    · obtain rfl : b = a := by simpa [hp] using found
      simp [updFirst, hp, same]
    · simp [updFirst, hp, ih (by simpa [hp] using found)]

/-- A change that keeps a feed's context and FEED ID is what that feed then reads. -/
theorem feedOf_updFeed_same (s : State) (c id : Nat) {g : Feed → Feed} (keeps : ∀ f, (g f).ctx = f.ctx ∧ (g f).id = f.id) :
    feedOf (updFeed s c id g) c id = (feedOf s c id).map g :=
  find?_updFirst _ g _ fun f hf => by rwa [(keeps f).1, (keeps f).2]

/-- Changes of a feed are told apart by that feed alone. -/
theorem updFeed_congr {s : State} {c id : Nat} {f : Feed} {g h : Feed → Feed} (named : feedOf s c id = some f) (same : g f = h f) :
    updFeed s c id g = updFeed s c id h := by
  rw [updFeed, updFeed, updFirst_congr named same]

theorem feedOf_ids {s : State} {c id : Nat} {f : Feed} (named : feedOf s c id = some f) : f.ctx = c ∧ f.id = id := by
  simpa using List.find?_some named

theorem feedOf_of_feeds {s t : State} (same : t.tap.feeds = s.tap.feeds) (c id : Nat) : feedOf t c id = feedOf s c id := by
  rw [feedOf, same, feedOf]

/-! ### What a sample does before it ends leaves the feeds as they are -/

theorem feeds_ite {s t u : State} {p : Prop} [Decidable p] (ht : t.tap.feeds = s.tap.feeds) (hu : u.tap.feeds = s.tap.feeds) :
    (if p then t else u).tap.feeds = s.tap.feeds := by
  split
  · exact ht
  · exact hu

theorem feeds_ite_fst {s : State} {α : Type} {a b : State × α} {p : Prop} [Decidable p] (ha : a.1.tap.feeds = s.tap.feeds)
    (hb : b.1.tap.feeds = s.tap.feeds) : (if p then a else b).1.tap.feeds = s.tap.feeds := by
  split
  · exact ha
  · exact hb

@[simp] theorem tapAdd_feeds (s : State) (k n : Nat) : (tapAdd s k n).tap.feeds = s.tap.feeds := rfl
@[simp] theorem clearBad_tap (s : State) (ps : List (Nat × Nat)) : (clearBad s ps).tap = s.tap := rfl
@[simp] theorem countUe_tap (s : State) (pa ctx : Nat) : (countUe s pa ctx).tap = s.tap := rfl
@[simp] theorem wrNum_tap (s : State) (c da v n : Nat) : (wrNum s c da v n).tap = s.tap := rfl
@[simp] theorem applyPuts_tap (s : State) (c : Nat) (ps : List Put) : (applyPuts s c ps).tap = s.tap := rfl
@[simp] theorem countDecode_tap (s : State) (pics samples damaged : Nat) (cores : List Nat) :
    (countDecode s pics samples damaged cores).tap = s.tap := rfl

@[simp] theorem wakeGroups_tap (s : State) (ps : List (Nat × Nat)) : (wakeGroups s ps).tap = s.tap := rfl

@[simp] theorem wakeStacks_tap (s : State) (ps : List (Nat × Nat)) : (wakeStacks s ps).tap = s.tap := by
  simp only [wakeStacks]
  split <;> rfl

@[simp] theorem postHost_tap (s : State) (wr : List (Nat × Nat)) : (postHost s wr).tap = s.tap := by
  simp only [postHost]
  split <;> rfl

@[simp] theorem noteTraffic_tap (s : State) (rd wr : List (Nat × Nat)) : (noteTraffic s rd wr).tap = s.tap := by
  simp only [noteTraffic]
  split <;> simp

@[simp] theorem feedTouch_tap (s : State) (c : Nat) (reads writes : List (Nat × Nat)) : (feedTouch s c reads writes).tap = s.tap := by
  simp [feedTouch]

@[simp] theorem loseRange_tap (s : State) (lo hi : Nat) : (loseRange s lo hi).tap = s.tap := by
  simp only [loseRange]
  split <;> rfl

@[simp] theorem loseCtx_tap (s : State) (c : Nat) (ivs : List (Nat × Nat)) : (loseCtx s c ivs).tap = s.tap :=
  foldl_keeps State.tap (fun _ _ => loseRange_tap ..) _ s

@[simp] theorem useWork_tap (s : State) (f : Feed) (j need : Nat) : (useWork s f j need).tap = s.tap := by
  simp [useWork]

theorem fillCache_feeds (s : State) (f : Feed) (sample cont bytes len : Nat) :
    (fillCache s f sample cont bytes len).tap.feeds = s.tap.feeds :=
  feeds_ite rfl rfl

theorem placeSample_feeds (s : State) (f : Feed) (i : IndexEntry) (hit : Bool) (k j q : Nat) :
    (placeSample s f i hit k j q).1.tap.feeds = s.tap.feeds := by
  have decoded (m n o p : Nat) (l : List Nat) : (if hit then s else tapAdd (countDecode s m n o l) 2 p).tap.feeds = s.tap.feeds := feeds_ite rfl rfl
  have filled (u : State) (fill : Bool) (sample cont bytes len : Nat) :
      (if fill then fillCache u f sample cont bytes len else u).tap.feeds = u.tap.feeds :=
    feeds_ite (fillCache_feeds ..) rfl
  simp only [placeSample]
  exact feeds_ite_fst (filled ..) (feeds_ite_fst (decoded ..) ((filled ..).trans (decoded ..)))

theorem doSample_feeds (s : State) (f : Feed) (k j q : Nat) : (doSample s f k j q).1.tap.feeds = s.tap.feeds := by
  have counted (n : Nat) : (if fbCache f = 0 then s else tapAdd s n 1).tap.feeds = s.tap.feeds := feeds_ite rfl rfl
  simp only [doSample]
  split
  · rfl
  · refine feeds_ite_fst rfl (feeds_ite_fst rfl (feeds_ite_fst rfl ?_))
    split
    · rfl
    · split
      · rfl
      · refine feeds_ite_fst (counted _) ?_
        generalize (if (decide (fbCache f ≠ 0) && cacheHit s f (posSample f q)) = true then none else badTouched s _ : Option Nat) = bad
        cases bad with
        | some l => exact counted _
        | none => exact (placeSample_feeds ..).trans (by simp [counted])

/-! ### Samples and batches of dataset feeds -/

/-- R318, R325: in a feed's turn, a sample that is neither rejected nor meets a fault fills the next slot. -/
theorem execTaprootSample_of_stores {s u s1 : State} {c : Fin 8} {feed : Fin 4} {f : Feed} {ps : List Put} (named : feedOf s c feed = some f)
    (power : domIsOn s 45 = true) (turn : feedTurn s f = true) (served : u = { s with tap := { s.tap with served := 4 * c.val + feed.val } })
    (reach : feedAccess u c [] (batchSlot f f.slots.length) = none)
    (placed : doSample (feedTouch u c [] (batchSlot f f.slots.length)) f f.published f.slots.length (slotPos f f.published f.slots.length) =
      (s1, .stores ps)) :
    exec (.taprootSample c feed) s = .next (updFeed (applyPuts s1 f.ctx ps) f.ctx f.id fun g =>
      { g with slots := g.slots ++ [(true, posSample f (slotPos f f.published f.slots.length))] }) := by
  have feeds : (applyPuts s1 f.ctx ps).tap.feeds = s.tap.feeds := by
    have kept := doSample_feeds (feedTouch u c [] (batchSlot f f.slots.length)) f f.published f.slots.length (slotPos f f.published f.slots.length)
    rwa [placed, feedTouch_tap, served, ← applyPuts_tap s1 f.ctx ps] at kept
  have named' : feedOf (applyPuts s1 f.ctx ps) f.ctx f.id = some f := by
    obtain ⟨context, id⟩ := feedOf_ids named
    rw [feedOf_of_feeds feeds, context, id, named]
  rw [← updFeed_congr named' (g := fun g => { g with slots := g.slots ++ [(true, posSample g (slotPos f f.published f.slots.length))] }) rfl]
  subst served
  show execTaprootSample c feed s = _
  simp only [execTaprootSample, named, turn, power, Bool.and_self, if_true, reach, placed, endSample]

/-- R320, R321: a full batch is published, and a feed that is stopping then stops. -/
theorem execBatchPublish_of_full {s : State} {c : Fin 8} {feed : Fin 4} {f : Feed} (named : feedOf s c feed = some f) (busy : feedBusy f = true)
    (power : domIsOn s 45 = true) (dataset : f.live = false) (full : f.slots.length = fbB f) (reach : feedAccess s c [] (publishRange f) = none) :
    exec (.batchPublish c feed) s = .next
      (if f.st = 2 then
        stopFeed (publishBatch s f f.slots (posEpoch f (slotPos f f.published 0)) (slotPos f f.published 0) 0) c feed 0
      else publishBatch s f f.slots (posEpoch f (slotPos f f.published 0)) (slotPos f f.published 0) 0) := by
  show execBatchPublish c feed s = _
  simp only [execBatchPublish, named, busy, dataset, full, power, reach, Bool.not_false, Bool.and_self, decide_true, if_true]

/-! ### Live sets -/

/-- R341: a tick of a live set with valid time, a free buffer and no fault publishes the frames of its streams. -/
theorem execLiveTick_of_decided {s s2 : State} {c : Fin 8} {feed : Fin 4} {f g : Feed} (named : feedOf s c feed = some f) (live : f.live = true)
    (running : f.st = 1) (power : domIsOn s 45 = true) (valid : s.time.valid = true) (free : bufferFree s f = true)
    (reach : feedAccess s c [] ((List.range (liveS f)).flatMap (batchSlot f) ++ publishRange f) = none)
    (filled : s2 = (List.range (liveS f)).foldl (tickStep c feed (tickTime f))
      (dropStale (feedTouch s c [] ((List.range (liveS f)).flatMap (batchSlot f))) f (tickTime f + holdNs f)))
    (named' : feedOf s2 c feed = some g) (running' : g.st = 1) :
    exec (.liveTick c feed) s = .next (updFeed (publishBatch s2 g g.slots 0 g.tick (tickTime f)) c feed
      fun x => { x with tick := x.tick + 1, slots := [] }) := by
  subst filled
  show execLiveTick c feed s = _
  simp only [execLiveTick, named, live, running, power, valid, free, reach, named', running', Bool.and_self, decide_true, Bool.not_true,
    Bool.false_eq_true, if_false, if_true]

/-- R342: without valid time a tick is skipped. -/
theorem execLiveTick_of_invalid {s : State} {c : Fin 8} {feed : Fin 4} {f : Feed} (named : feedOf s c feed = some f) (live : f.live = true)
    (running : f.st = 1) (power : domIsOn s 45 = true) (invalid : s.time.valid = false) :
    exec (.liveTick c feed) s = .next (updFeed s c feed fun f => { f with tick := f.tick + 1, slots := [] }) := by
  show execLiveTick c feed s = _
  simp only [execLiveTick, named, live, running, power, invalid, Bool.and_self, decide_true, Bool.not_true, Bool.not_false,
    Bool.false_eq_true, if_false, if_true]

/-- The live sets that receive a UDP port's datagrams on an Ethernet port (R339). -/
def listeners (s : State) (port : Fin 2) (udp : BitVec 16) : List Feed :=
  s.tap.feeds.filter fun f => f.live && feedBusy f && lb f 0x18 2 = udp.toNat && bit (lb f 0x1A 1) port

theorem mem_listeners {s : State} {port : Fin 2} {udp : BitVec 16} {f : Feed} :
    f ∈ listeners s port udp ↔
      f ∈ s.tap.feeds ∧ f.live = true ∧ feedBusy f = true ∧ lb f 0x18 2 = udp.toNat ∧ bit (lb f 0x1A 1) port = true := by
  simp [listeners, and_assoc]

/-- R339: a well-formed fragment of a stream that a set receives joins its frame, and the cores go to the sessions that wait. -/
theorem execLiveDatagramReceive_of_fragment {s : State} {port : Fin 2} {udp : BitVec 16} {len data : Nat} {f : Feed}
    (power : domIsOn s 45 = true) (valid : s.time.valid = true)
    (found : ((listeners s port udp).find? fun f => f.streams.any fun x => x.source = fld data 4 4) = some f)
    (sound : datagramBad (nth (openStream 0) f.streams (f.streams.findIdx fun x => x.source = fld data 4 4)) len data = false) :
    exec (.liveDatagramReceive port udp len data) s =
      .next (vccGrant (frameFragment s f (f.streams.findIdx fun x => x.source = fld data 4 4) len data)) := by
  have some_set : listeners s port udp ≠ [] := List.ne_nil_of_mem (List.mem_of_find?_eq_some found)
  rw [listeners] at found some_set
  show execLiveDatagramReceive port udp len data s = _
  simp only [execLiveDatagramReceive, some_set, power, valid, found, sound, decide_false, Bool.not_true, Bool.or_self, Bool.false_eq_true, if_false]

/-- R342: without valid time a datagram for a set is dropped and counted. -/
theorem execLiveDatagramReceive_of_invalid {s : State} {port : Fin 2} {udp : BitVec 16} (power : domIsOn s 45 = true)
    (invalid : s.time.valid = false) (received : ∃ f, f ∈ listeners s port udp) (len data : Nat) :
    exec (.liveDatagramReceive port udp len data) s = .next (tapAdd s 13 1) := by
  obtain ⟨f, mem⟩ := received
  have some_set : listeners s port udp ≠ [] := List.ne_nil_of_mem mem
  rw [listeners] at some_set
  show execLiveDatagramReceive port udp len data s = _
  simp only [execLiveDatagramReceive, some_set, power, invalid, decide_false, Bool.not_true, Bool.not_false, Bool.or_self, Bool.false_eq_true,
    if_false, if_true]

/-- R340: a frame that a stream still reassembles is dropped and counted. -/
theorem execLiveFrameIncomplete_of_part {s : State} {c : Fin 8} {feed : Fin 4} {stream : Fin 32} {frame : BitVec 32} {f : Feed}
    (named : feedOf s c feed = some f) (part : (nth (openStream 0) f.streams stream).parts.any (fun p => p.num = frame.toNat) = true) :
    exec (.liveFrameIncomplete c feed stream frame) s = .next (tapAdd
      (updStream s c feed stream fun x => { x with parts := x.parts.filter fun p => p.num ≠ frame.toNat }) 8 1) := by
  obtain ⟨p, found⟩ := Option.isSome_iff_exists.mp (List.find?_isSome.mpr (List.any_eq_true.mp part))
  show execLiveFrameIncomplete c feed stream frame s = _
  simp only [execLiveFrameIncomplete, named, found]

/-! ### Pictures -/

theorem grantOne_tap (enc : Bool) (s : State) : (grantOne enc s).tap = s.tap := by
  simp only [grantOne]
  split
  · rfl
  · split <;> rfl

/-- Granting cores leaves every feed as it is. -/
theorem vccGrant_tap (s : State) : (vccGrant s).tap = s.tap :=
  (foldl_keeps State.tap (fun s _ => grantOne_tap true s) _ _).trans (foldl_keeps State.tap (fun s _ => grantOne_tap false s) _ _)

theorem endGrant_tap (s : State) (e : VccEntry) : (endGrant s e).tap = s.tap := rfl

/-- R352: a session that holds cores completes a picture and gives its grant back; the cores then go to the sessions that wait. -/
theorem execVccPicture_of_granted {s u : State} {w : VccSession} {e : VccEntry} (power : domIsOn s 46 = true)
    (granted : ((sessTable (vccGrant s)).find? fun e => e.who = w && e.cores ≠ []) = some e)
    (ended : u = endGrant (vccGrant s) e) : exec (.vccPicture w) s = .next (vccGrant (sessPicture u w)) := by
  show execVccPicture w s = _
  unfold execVccPicture
  generalize vccGrant s = t at granted ended ⊢
  simp only [granted, power, ended, if_true]

/-- An operation's picture takes one off what its flight has left, and ends it with the last (R352). -/
theorem opPicture_flight {s : State} {c i : Nat} {f : Flight} (context : c < s.ctxs.length) (flying : sessFlight s c i = some f) :
    (ctxOf (opPicture s c i) c).flight = (ctxOf s c).flight.map fun g =>
      if g.cls = ucVcc && g.op.opIndex = i && !g.ended then
        { g with aux := ({ progressOf f.aux with left := (progressOf f.aux).left - 1, bytes := (progressOf f.aux).bytes.tail } : VccProgress).toAux
                 ended := decide ((progressOf f.aux).left - 1 = 0) }
      else g := by
  have counted : ∀ p : VccProgress, Still s (if p.enc then vccAdd (vccAdd s 2 1) 3 (nth 0 p.bytes 0) else vccAdd (vccAdd s 0 1) 1 p.samples) :=
    fun _ => .ite (vccAdd_still.after vccAdd_still) (vccAdd_still.after vccAdd_still)
  simp only [opPicture, flying]
  rw [ctxOf_updCtx_same _ _ (by rwa [(counted _).ctxs]), (counted _).ctxOf_eq]

/-- Settles O14: each row's meaning where it acts; a session's picture is its operation's or its stream's, after a grant that leaves contexts and feeds as they are. -/
theorem feedStepsRun : Obligations.FeedStepsRun := by
  refine ⟨fun c feed s f named busy power => ⟨?sample, ?publish, ?tick⟩, fun s => ⟨?fragment, ?incomplete⟩,
    fun s u c e power granted => ⟨?picture, ?stream⟩⟩
  case sample => exact fun u s1 ps turn served reach placed => execTaprootSample_of_stores named power turn served reach placed
  case publish => exact fun dataset full reach => execBatchPublish_of_full named busy power dataset full reach
  case tick =>
    exact fun g s2 live running valid free reach filled named' running' =>
      execLiveTick_of_decided named live running power valid free reach filled named' running'
  case fragment => exact fun port udp len data f power valid found sound => execLiveDatagramReceive_of_fragment power valid found sound
  case incomplete => exact fun c feed stream frame f named part => execLiveFrameIncomplete_of_part named part
  case picture =>
    intro i f holds contexts flying
    have still : Still s u := granted ▸ endGrant_still.after vccGrant_still
    refine ⟨execVccPicture_of_granted power holds granted, ?_⟩
    rw [opPicture_flight (f := f) (by rw [still.ctxs, contexts]; exact c.isLt) (by rwa [sessFlight, still.ctxOf_eq]), still.ctxOf_eq]
  case stream =>
    intro feed stream f holds named
    have feeds : u.tap.feeds = s.tap.feeds := by rw [granted, endGrant_tap, vccGrant_tap]
    rw [← feedOf_of_feeds feeds] at named
    rw [execVccPicture_of_granted power holds granted]
    simp only [sessPicture, named]

/-- Settles O55: a skipped tick changes its feed alone, and a dropped datagram its counter alone. -/
theorem liveSetsWaitForTime : Obligations.LiveSetsWaitForTime := by
  refine fun s invalid => ⟨fun c feed f named live running power => ?tick, fun port udp len data power received => ?datagram⟩
  case tick =>
    refine ⟨_, execLiveTick_of_invalid named live running power invalid, rfl, rfl, rfl, rfl, ?_⟩
    rw [feedOf_updFeed_same (keeps := by exact fun _ => ⟨rfl, rfl⟩), named]
    rfl
  case datagram =>
    obtain ⟨f, mem, for_set⟩ := received
    exact execLiveDatagramReceive_of_invalid power invalid ⟨f, mem_listeners.mpr ⟨mem, for_set⟩⟩ len data

end Sys2Proof.Machine
end

/-! ## Module reset, its causes and its inputs (R15, R18, R427, R468 to R475, R477, R507, R541) -/

section
namespace Sys2Proof.Machine

/-- Settles O1. -/
theorem stepTakesFront : Obligations.StepTakesFront := by
  refine ⟨fun s c rest front => ?_, fun s idle => ?_⟩
  · simp only [step, front]
  · simp only [step, idle]

/-- Settles O24: each row's guard holds, and its cause is asserted. -/
theorem resetCausesReset : Obligations.ResetCausesReset := by
  intro s on
  refine ⟨fun v bar key reset => if_pos ?_, if_pos on, if_pos on, if_pos on, fun heeded => ?_⟩
  · simp [bar, key, reset]
  · show execResetButtonClose s = _
    simp [execResetButtonClose, on, heeded]

/-- An asserted cause is recorded and, out of reset, resets the module. -/
theorem assertCause_eq (s : State) (k : Nat) :
    assertCause s k =
      if s.mode = .offOrReset then updAoc s fun a => { a with causes := a.causes ||| 2 ^ k, seen := a.seen ||| 2 ^ k }
      else resetModule (updAoc s fun a => { a with causes := a.causes ||| 2 ^ k, seen := a.seen ||| 2 ^ k }) :=
  rfl

/-- Settles O25: a module in reset only records the cause; any other is reset. -/
theorem assertedCauseResets : Obligations.AssertedCauseResets := by
  intro s k
  refine ⟨assertCause_mode s k, ?_⟩
  rw [assertCause_eq]
  split
  · rename_i off
    exact ⟨rfl, rfl, rfl, rfl, rfl, fun up => absurd off up⟩
  · exact ⟨rfl, rfl, rfl, rfl, rfl, fun _ => ⟨rfl, rfl, rfl, rfl, rfl⟩⟩

/-- Settles O26: each row's meaning under its guard. -/
theorem resetInputsRun : Obligations.ResetInputsRun := by
  intro s on
  refine ⟨if_pos on, if_pos on, fun held heeded => ?_, fun open_ => ?_, fun off tray button => ?_⟩
  · exact if_pos (by simp [on, held, heeded])
  · exact if_pos (by simp [on, open_])
  · exact if_pos (mayRelease_iff.2 ⟨on, off, tray, button⟩)

/-- Settles O28: each row's meaning under its guard. -/
theorem hostLinkRuns : Obligations.HostLinkRuns := by
  intro s
  refine ⟨fun on u made => ?_, fun on => if_pos on, fun power perst up => ?_, fun link => ?_, fun runs => if_pos runs⟩
  · subst made
    exact if_neg (by simp [on])
  · exact if_pos (by simp [power, perst, up])
  · show Host.Outcome.next (linkDown s) = _
    simp [linkDown, link]

/-- A SYNC_IN that has had no edge since power-on is not stuck (R474). -/
theorem execInputStuck_of_no_sync_edge {s : State} (edgeless : nth none s.aoc.lastEvent 4 = none) : exec (.inputStuck 4) s = .next s :=
  if_pos (by simp [edgeless])

theorem withHealth_aoc_stuck (before s : State) : (withHealth before s).aoc.stuck = s.aoc.stuck := by
  unfold withHealth
  split <;> rfl

/-- Refutes O27: with the management island just powered SYNC_IN has had no edge, so its timeout changes nothing (R474), where the statement has its STUCK bit set. -/
theorem not_edgesRun : ¬ Obligations.EdgesRun := by
  intro h
  obtain ⟨-, -, -, -, stuck⟩ := h State.reset rfl
  have claimed := stuck 4 (by decide) (fun low => absurd low (by decide)) rfl
  rw [execInputStuck_of_no_sync_edge rfl] at claimed
  have bits := congrArg (fun t : State => nth false t.aoc.stuck 4) (Host.Outcome.next.inj claimed)
  rw [withHealth_aoc_stuck] at bits
  exact absurd bits (by decide)

/-- Settles O41: each table of the reset state has its form. -/
theorem resetHoldsInvariant : Obligations.ResetHoldsInvariant where
  memory := rfl
  contexts := rfl
  commands := Nat.zero_le 64
  apertures := apsOk_resetHif
  stopped _ := ⟨rfl, rfl⟩
  tray asserted := by simp [State.reset, resetAoc, nth] at asserted
  tallies := by decide
  tables := ⟨rfl, rfl, rfl, rfl⟩

end Sys2Proof.Machine
end

/-! ## What a Foreman command answers (R435, R436, R440) -/

section
namespace Sys2Proof.Machine

/-! ### Checks -/

@[simp] theorem chk_eq_none {bad : Bool} {status detail : Nat} : chk bad status detail = none ↔ bad = false := by
  cases bad <;> simp [chk]

@[simp] theorem firstSome_eq_none {α : Type} {l : List (Option α)} : firstSome l = none ↔ ∀ x ∈ l, x = none := by
  induction l with
  | nil => simp [firstSome]
  | cons a r ih => cases a <;> simp [firstSome, ih]

/-- A command whose checks all pass does its work. -/
theorem cmdTry_of_passed {s : State} {checks : List (Option (Nat × Nat))} (passed : ∀ x ∈ checks, x = none) (work : State → CmdOut) :
    cmdTry s checks work = work s := by
  simp only [cmdTry, firstSome_eq_none.2 passed]

@[simp] theorem srcChk_eq_none {s : State} {ctx a n off : Nat} : srcChk s ctx a n off = none ↔ fwOk s ctx a n false = true := by
  simp [srcChk]

@[simp] theorem dstChk_eq_none {s : State} {ctx a n off : Nat} : dstChk s ctx a n off = none ↔ fwOk s ctx a n true = true := by
  simp [dstChk]

@[simp] theorem srcFault_eq_none {s : State} {ctx a n : Nat} : srcFault s ctx a n = none ↔ badTouched s (fwPieces s ctx a n) = none := by
  simp [srcFault]

/-- A destination without a faulty word or line written in part is written. -/
theorem dstWrite_of_whole {s : State} {ctx a n : Nat} (whole : badPartly s (fwPieces s ctx a n) = none) (v result : Nat) :
    dstWrite s ctx a v n result = { st := fwWrite s ctx a v n, result := result } := by
  simp only [dstWrite, whole]

/-! ### Rows -/

/-- A row whose work answers OK completes with the state and RESULT that its work gives. -/
theorem completesAs_of_work {i : Nat → Instr} {op : Nat} {kind : Nat → Bool} {ok : State → Nat → Prop} {eff : State → Nat → State}
    {res : State → Nat → Nat} {work : State → Nat → CmdOut} (row : ∀ place s, exec (i place) s = .next (runCmd s place op kind work))
    (answer : ∀ s r, ok s r → work s r = { st := eff s r, result := res s r }) : CompletesAs i op kind ok eff res := by
  intro s place t begins holds
  rw [row, runCmd_ok begins (answer _ _ holds)]

/-- A row whose work waits. -/
theorem waitsAs_of_work {i : Nat → Instr} {op : Nat} {kind : Nat → Bool} {ok : State → Nat → Prop} {eff : State → Nat → State}
    {aux : State → Nat → List Nat} {work : State → Nat → CmdOut} (row : ∀ place s, exec (i place) s = .next (runCmd s place op kind work))
    (answer : ∀ s r, ok s r → work s r = { st := eff s r, wait := true, aux := aux s r }) : WaitsAs i op kind ok eff aux := by
  intro s place t begins holds
  rw [row, runCmd_waits begins (answer _ _ holds)]

/-- A row of the Foreman's commands is the shared meaning of commands with a work of its own. -/
theorem commandRow_runs {o : BistOutcome} {r : CommandRow} (hr : r ∈ commandRows o) :
    ∃ work, ∀ place s, exec (r.row place) s = .next (runCmd s place r.opcode r.kind work) := by
  simp only [commandRows, List.mem_append, List.mem_cons, List.not_mem_nil, or_false] at hr
  obtain (module | contexts) | links := hr
  · obtain rfl | rfl | rfl | rfl | rfl | rfl | rfl | rfl | rfl | rfl | rfl | rfl | rfl | rfl := module
    all_goals exact ⟨_, fun _ _ => rfl⟩
  · obtain rfl | rfl | rfl | rfl | rfl | rfl | rfl | rfl | rfl | rfl | rfl | rfl | rfl | rfl | rfl := contexts
    all_goals exact ⟨_, fun _ _ => rfl⟩
  · obtain rfl | rfl | rfl | rfl | rfl | rfl | rfl | rfl | rfl | rfl | rfl | rfl | rfl | rfl | rfl | rfl := links
    all_goals exact ⟨_, fun _ _ => rfl⟩

/-- A command that fails the checks of every command is finished with their answer. -/
theorem runCmd_of_refused {s : State} {place op : Nat} {kind : Nat → Bool} {t : Cmd} {st d : Nat} (taken : s.mbx.taken[place]? = some t)
    (opcode : cmdOp t.raw = op) (named : kind t.raw = true) (turn : cmdMayBegin s place = true)
    (refused : cmdChecks (begun s t.raw) t.raw = some (st, d)) (work : State → Nat → CmdOut) :
    runCmd s place op kind work =
      updCmd (begun s t.raw) place fun t => { t with begun := true, ready := some (st, d, 0), aux := [] } := by
  rw [begun] at refused
  simp only [runCmd, taken, opcode, named, turn, refused, decide_true, Bool.and_self, if_true]
  rfl

/-- Settles O48: every row is the shared meaning of commands, whose checks come before its work. -/
theorem commandsRefused : Obligations.CommandsRefused := by
  intro o r s place t st d hr taken opcode named turn refused
  obtain ⟨work, row⟩ := commandRow_runs hr
  rw [row, runCmd_of_refused taken opcode named turn refused]

end Sys2Proof.Machine
end

/-! ## Identity, health and configuration items (R441 to R443) -/

section
namespace Sys2Proof.Machine

theorem workIdentify_of_mayWrite {s : State} {raw : Nat} (dst : MayWrite s 0xFF (fld raw 8 8) 512) :
    workIdentify s raw = { st := fwWrite s 0xFF (fld raw 8 8) (identifyData s) 512, result := 1 } := by
  rw [workIdentify, cmdTry_of_passed (by simpa using dst.reach), dstWrite_of_whole dst.whole]

theorem workHealth_of_mayWrite {s : State} {raw : Nat} (dst : MayWrite s 0xFF (fld raw 8 8) 256) :
    workHealth s raw =
      { st := fwWrite s 0xFF (fld raw 8 8) (healthData s) 256, result := modeCode s.mode + healthCode s * 2 ^ 16 } := by
  rw [workHealth, cmdTry_of_passed (by simpa using dst.reach), dstWrite_of_whole dst.whole]

theorem workCfgGet_of_item {s : State} {raw v : Nat} (item : cfgItem s (fld raw 8 2) = some v) : workCfgGet s raw = { st := s, result := v } := by
  simp only [workCfgGet, item]

/-- Settles O17: each command past its own checks. -/
theorem identityCommandsComplete : Obligations.IdentityCommandsComplete := by
  refine ⟨?identify, ?health, ?get, ?interleave, ?mask, ?retain⟩
  case identify => exact completesAs_of_work (fun _ _ => rfl) fun _ _ => workIdentify_of_mayWrite
  case health => exact completesAs_of_work (fun _ _ => rfl) fun _ _ => workHealth_of_mayWrite
  case get =>
    intro item val listed
    refine completesAs_of_work (work := workCfgGet) (fun _ _ => rfl) fun s r named => workCfgGet_of_item ?_
    simp only [List.mem_cons, Prod.mk.injEq, List.not_mem_nil, or_false] at listed
    obtain ⟨rfl, rfl⟩ | ⟨rfl, rfl⟩ | ⟨rfl, rfl⟩ := listed <;> rw [named, cfgItem]
  case interleave =>
    refine completesAs_of_work (work := workCfgSet) (fun _ _ => rfl) fun s r ⟨item, legal, shut⟩ => ?_
    rw [workCfgSet, if_pos item, cmdTry_of_passed (by simpa using ⟨legal, shut⟩)]
  case mask =>
    refine completesAs_of_work (work := workCfgSet) (fun _ _ => rfl) fun s r ⟨item, legal⟩ => ?_
    rw [workCfgSet, if_neg (by omega), if_pos item, cmdTry_of_passed (by simpa using legal)]
  case retain =>
    refine completesAs_of_work (work := workCfgSet) (fun _ _ => rfl) fun s r ⟨item, legal⟩ => ?_
    rw [workCfgSet, if_neg (by omega), if_neg (by omega), if_pos item, cmdTry_of_passed (by simpa using legal)]

end Sys2Proof.Machine
end

/-! ## Firmware and calibration commands (R444 to R447, R481, R488) -/

section
namespace Sys2Proof.Machine

theorem workFwStage_of_passed {s : State} {raw : Nat} (region : fld raw 8 1 ≤ 4) (src : MayRead s 0xFF (fld raw 0x10 8) (fld raw 0x18 4))
    (idle : regionBusy s raw = false) :
    workFwStage s raw = stageImage s (fld raw 8 1) (fwRead s 0xFF (fld raw 0x10 8) (fld raw 0x18 4)) (fld raw 0x18 4) := by
  rw [workFwStage, cmdTry_of_passed (by simpa using ⟨region, src.reach, idle, src.whole⟩)]

theorem workFwActivate_of_staged {s : State} {raw : Nat} (region : fld raw 8 1 ≤ 4) (idle : regionBusy s raw = false)
    (staged : (regionFw s (fld raw 8 1)).staged = true) : workFwActivate s raw = { st := activateImage s (fld raw 8 1) } := by
  rw [workFwActivate, cmdTry_of_passed (by simpa using ⟨region, idle, staged⟩)]

/-- The regions after one has retired its old image (R445, R481). -/
theorem retireImage_regions (s : State) (r : Nat) :
    (retireImage s r).flash.regions =
      updAt s.flash.regions r fun g => { g with old := false, counter := max g.counter (min (bankOf g g.active).svn 64) } := by
  simp only [retireImage]
  split <;> rfl

/-- Settles O18: each command past its own checks; the image's own checks decide what FW_STAGE leaves in the bank. -/
theorem firmwareCommandsComplete : Obligations.FirmwareCommandsComplete := by
  refine ⟨⟨?stage, ?activate, ?status, ?read, ?write⟩, fun s region may => ⟨if_pos may, fun g named => ?retires⟩⟩
  case stage =>
    rintro s place t u g v len begins rfl rfl region rfl src idle rfl
    show Host.Outcome.next (runCmd s place 0x08 anyKind workFwStage) = _
    rw [runCmd_of_begins begins, workFwStage_of_passed region src idle, stageImage]
    cases imgCheck (fld t.raw 8 1) (fwRead (begun s t.raw) 0xFF (fld t.raw 0x10 8) (fld t.raw 0x18 4)) (fld t.raw 0x18 4)
      (regionFw (begun s t.raw) (fld t.raw 8 1)).counter <;> rfl
  case activate =>
    exact completesAs_of_work (work := workFwActivate) (fun _ _ => rfl) fun s r ⟨region, idle, staged⟩ =>
      workFwActivate_of_staged region idle staged
  case status =>
    refine completesAs_of_work (work := workFwStatus) (fun _ _ => rfl) fun s r region => ?_
    rw [workFwStatus, cmdTry_of_passed (by simpa using region)]
  case read =>
    refine completesAs_of_work (work := workCalRead) (fun _ _ => rfl) fun s r known => ?_
    rw [workCalRead, cmdTry_of_passed (by simpa using known)]
  case write =>
    refine completesAs_of_work (work := workCalWrite) (fun _ _ => rfl) fun s r ⟨mode, known, idle⟩ => ?_
    rw [workCalWrite, cmdTry_of_passed (by simpa using ⟨fun below => known (by omega), mode, by simpa using idle⟩)]
  case retires =>
    refine ⟨{ g with old := false, counter := max g.counter (min (bankOf g g.active).svn 64) }, ?_, rfl, rfl, rfl, rfl⟩
    rw [retireImage_regions, updAt_getElem?_same, named, Option.map_some]

end Sys2Proof.Machine
end

/-! ## Self-test, repair and the label's note (R448 to R450, R526) -/

section
namespace Sys2Proof.Machine

/-- What a run of the self-test makes of the state before it is known whether a unit has been fenced: an old image of the Borer's own region retires with it (R445). -/
def bistRan (o : BistOutcome) (s : State) (raw : Nat) : State :=
  let t := withHealth s (runBist s (fld raw 8 1) (fld raw 9 1) (kindOutcome (fld raw 10 1) o))
  if (regionFw t 4).old then retireImage t 4 else t

/-- A BIST_RUN may run: it names a unit of a class that is tested and a kind of test, nothing uses the unit, and the signature could be stored (R448). -/
structure BistMayRun (o : BistOutcome) (s : State) (raw : Nat) : Prop where
  unit : bistUnit (fld raw 8 1) (fld raw 9 1) = true
  cls : 1 ≤ fld raw 8 1 ∧ fld raw 8 1 ≤ 0x0D ∨ fld raw 8 1 = 0x10
  kind : 1 ≤ fld raw 10 1
  known : fld raw 10 1 ≤ 3
  idle : unitBusy s (fld raw 8 1) (fld raw 9 1) = false
  stored : o.stored = true

/-- A fence that arises while contexts are open closes them, and the command waits for that; any other run completes at once. -/
theorem workBist_of_mayRun {o : BistOutcome} {s : State} {raw : Nat} (may : BistMayRun o s raw) :
    workBist o s raw =
      if (bistRan o s raw).fenced ≠ s.fenced && anyOpen (bistRan o s raw) then
        { st := ((List.range 8).filter (isOpen (bistRan o s raw))).foldl closeBegin (bistRan o s raw), wait := true
          aux := [bistResult (fld raw 10 1) (kindOutcome (fld raw 10 1) o)] }
      else { st := bistRan o s raw, result := bistResult (fld raw 10 1) (kindOutcome (fld raw 10 1) o) } := by
  have kind : (fld raw 10 1 = 0 || 3 < fld raw 10 1) = false := by
    have := may.kind
    have := may.known
    simp
    omega
  have cls : (((1 ≤ fld raw 8 1 && fld raw 8 1 ≤ 0x0D) || fld raw 8 1 = 0x10 : Bool)) = true := by simpa using may.cls
  rw [workBist, cmdTry_of_passed (by simp only [may.unit, may.idle, may.stored, kind, cls]; simp)]
  rfl

/-- Settles O19: each command past its own checks; BIST_RUN by whether it fenced a unit while a context was open. -/
theorem repairCommandsComplete : Obligations.RepairCommandsComplete := by
  refine ⟨fun o u run => ⟨?bist, ?fence⟩, ?mapOut, ?unmap, ?lane, ?label⟩
  case bist =>
    obtain rfl : u = bistRan o := run
    refine completesAs_of_work (work := workBist o) (fun _ _ => rfl) fun s r ⟨unit, cls, kind, known, idle, stored, unfenced⟩ => ?_
    rw [workBist_of_mayRun ⟨unit, cls, kind, known, idle, stored⟩, if_neg]
    rcases unfenced with same | shut
    · simp [same]
    · simp [shut]
  case fence =>
    obtain rfl : u = bistRan o := run
    refine waitsAs_of_work (work := workBist o) (fun _ _ => rfl) fun s r ⟨unit, cls, kind, known, idle, stored, fenced, open_⟩ => ?_
    rw [workBist_of_mayRun ⟨unit, cls, kind, known, idle, stored⟩, if_pos (by simp [fenced, open_])]
  case mapOut =>
    refine completesAs_of_work (work := workMapOut) (fun _ _ => rfl) fun s r ⟨serving, unmapped, budget⟩ => ?_
    rw [workMapOut, cmdTry_of_passed (by simpa using ⟨⟨by simpa using serving, unmapped⟩, budget⟩)]
  case unmap =>
    refine completesAs_of_work (work := workUnmap) (fun _ _ => rfl) fun s r listed => ?_
    rw [workUnmap, if_pos listed]
  case lane =>
    refine completesAs_of_work (work := workLaneSwap) (fun _ _ => rfl) fun s r ⟨port, lane, up, unused, good⟩ => ?_
    rw [workLaneSwap, cmdTry_of_passed (by simpa using ⟨port, lane, ⟨up, unused⟩, good⟩)]
  case label =>
    refine waitsAs_of_work (work := workLabel) (fun _ _ => rfl) fun s r ⟨short, printable⟩ => ?_
    have legal : ((List.range (fld r 8 1)).find? fun k => fld r (0x10 + k) 1 < 0x20 || 0x7E < fld r (0x10 + k) 1) = none := by
      simpa [List.find?_eq_none] using printable
    rw [workLabel, cmdTry_of_passed (by simp [short, legal])]

end Sys2Proof.Machine
end

/-! ## Context and package commands (R452 to R456, R158) -/

section
namespace Sys2Proof.Machine

/-- Settles O20: each command past its own checks. -/
theorem contextCommandsComplete : Obligations.ContextCommandsComplete := by
  refine ⟨⟨?opens, ?close, ?query, ?map⟩, ?submit, ?halted⟩
  case opens =>
    refine completesAs_of_work (work := workOpen) (fun _ _ => rfl) fun s r ⟨free, shut, aligned, src, place, block⟩ => ?_
    rw [workOpen, cmdTry_of_passed (by simpa [blkSize] using ⟨by simpa using free, shut, aligned, src.reach, place, src.whole, block⟩)]
    rfl
  case close =>
    refine waitsAs_of_work (work := workClose) (fun _ _ => rfl) fun s r opened => ?_
    rw [workClose, cmdTry_of_passed (by simpa using opened)]
  case query => exact completesAs_of_work (work := workQuery) (fun _ _ => rfl) fun s r _ => rfl
  case map =>
    rintro news rfl
    refine completesAs_of_work (work := workMap) (fun _ _ => rfl)
      fun s r ⟨some_, fits, opened, first, quiet, src, reserved, legal, covered⟩ => ?_
    rw [workMap, cmdTry_of_passed]
    simpa using ⟨⟨by omega, by omega⟩, fun _ => first, fits, src.reach, ⟨opened, quiet⟩, src.whole, reserved, legal, covered⟩
  case submit =>
    refine completesAs_of_work (work := workSubmit) (fun _ _ => rfl) fun s r ⟨src, opened, room⟩ => ?_
    rw [workSubmit, cmdTry_of_passed (by simpa using ⟨src, opened, room⟩)]
  case halted =>
    intro i action act listed
    have halted : ∀ s r, (ctxOf s (cmdCtx r)).st = .halted → workPkg act s r = { st := act s (cmdCtx r) } := fun s r h => by
      rw [workPkg, cmdTry_of_passed (by simpa using h)]
    simp only [List.mem_cons, Prod.mk.injEq, List.not_mem_nil, or_false] at listed
    obtain ⟨rfl, rfl, rfl⟩ | ⟨rfl, rfl, rfl⟩ | ⟨rfl, rfl, rfl⟩ := listed <;> exact completesAs_of_work (fun _ _ => rfl) halted

end Sys2Proof.Machine
end

/-! ## Tally, ledger, stash and checkpoint commands (R457 to R462) -/

section
namespace Sys2Proof.Machine

theorem tallyArgs_eq_none {raw : Nat} (named : fld raw 8 2 < 4096) (some_ : 1 ≤ fld raw 10 2) (fits : fld raw 8 2 + fld raw 10 2 ≤ 4096) :
    tallyArgs raw = none := by
  simpa [tallyArgs] using ⟨named, by omega, fits⟩

theorem ledgerArgs_eq_none {raw : Nat} (some_ : 1 ≤ fld raw 12 4) (limit : fld raw 12 4 ≤ 65536) (fits : fld raw 8 2 + fld raw 12 4 ≤ 65536) :
    ledgerArgs raw = none := by
  simpa [ledgerArgs] using ⟨⟨by omega, limit⟩, fits⟩

/-- A CKPT_RESTORE whose own checks pass asks another node for the image's header, or restores an image that the context reads (R462). -/
theorem workRestore_of_passed {s : State} {raw : Nat} (named : 1 ≤ rsMask raw) (known : rsMask raw < 16)
    (src : rsRemote raw = false → fwOk s (cmdCtx raw) (rsImage raw) 64 false = true) (opened : isOpen s (cmdCtx raw) = true)
    (quiet : ctxQuiet s (cmdCtx raw) = true) (free : ckptBusy s (cmdCtx raw) = false) :
    workRestore s raw =
      if rsRemote raw then { st := askImage s raw 64, wait := true, aux := [0, 0, 0, 0] } else restoreLocal s raw := by
  have source : (if rsRemote raw then none else srcChk s (cmdCtx raw) (rsImage raw) 64 8) = none := by
    cases h : rsRemote raw <;> simp [h, src]
  rw [workRestore, cmdTry_of_passed]
  simpa [source] using ⟨known, by omega, ⟨opened, quiet⟩, free⟩

/-- Settles O21: each command past its own checks. -/
theorem contextDataCommandsComplete : Obligations.ContextDataCommandsComplete := by
  refine ⟨⟨?tallyRead, ?tallySet, ?ledgerRead, ?ledgerWrite, ?stash⟩, ?save, ?ask, ?restore⟩
  case tallyRead =>
    refine completesAs_of_work (work := workTallyRead) (fun _ _ => rfl) fun s r ⟨named, some_, fits, dst⟩ => ?_
    rw [workTallyRead, cmdTry_of_passed (by simpa using ⟨tallyArgs_eq_none named some_ fits, dst.reach⟩), dstWrite_of_whole dst.whole]
  case tallySet =>
    refine completesAs_of_work (work := workTallySet) (fun _ _ => rfl) fun s r ⟨named, some_, fits, src⟩ => ?_
    rw [workTallySet, cmdTry_of_passed (by simpa using ⟨tallyArgs_eq_none named some_ fits, src.reach, src.whole⟩)]
  case ledgerRead =>
    refine completesAs_of_work (work := workLedgerRead) (fun _ _ => rfl) fun s r ⟨some_, limit, fits, opened, dst, sound⟩ => ?_
    rw [workLedgerRead, cmdTry_of_passed (by simpa using ⟨ledgerArgs_eq_none some_ limit fits, dst.reach, opened, sound⟩),
      dstWrite_of_whole dst.whole]
  case ledgerWrite =>
    refine completesAs_of_work (work := workLedgerWrite) (fun _ _ => rfl)
      fun s r ⟨some_, limit, fits, opened, src, legal, queued, flight⟩ => ?_
    rw [workLedgerWrite, cmdTry_of_passed]
    simpa using ⟨ledgerArgs_eq_none some_ limit fits, src.reach, opened, src.whole, legal, queued, flight⟩
  case stash =>
    refine completesAs_of_work (work := workStashWrite) (fun _ _ => rfl)
      fun s r ⟨some_, fits, opened, src, legal, sound, idle, free⟩ => ?_
    rw [workStashWrite, cmdTry_of_passed]
    simpa using ⟨fun _ => by omega, fun _ => ⟨by omega, fits⟩, src.reach, opened, src.whole, legal, sound, by simpa using idle, free⟩
  case save =>
    rintro s place t u c v begins rfl rfl src rfl form source dest opened queued flight free sound
    show Host.Outcome.next (runCmd s place 0x28 anyKind workSave) = _
    rw [runCmd_of_begins begins, workSave, cmdTry_of_passed]
    simpa using ⟨src.reach, src.whole, form, source, dest, opened, ⟨⟨queued, flight⟩, free⟩, sound⟩
  case ask =>
    refine waitsAs_of_work (work := workRestore) (fun _ _ => rfl) fun s r ⟨named, known, remote, opened, quiet, free⟩ => ?_
    rw [workRestore_of_passed named known (by simp [remote]) opened quiet free, if_pos remote]
  case restore =>
    rintro s place t u begins rfl named known here src opened quiet free
    show Host.Outcome.next (runCmd s place 0x29 anyKind workRestore) = _
    rw [runCmd_of_begins begins, workRestore_of_passed named known (fun _ => src) opened quiet free, if_neg (by simp [here])]

end Sys2Proof.Machine
end

/-! ## Fabric record, route, tunnel and port commands (R463, R464) -/

section
namespace Sys2Proof.Machine

/-- Settles O22: each command past its own checks. -/
theorem fabricCommandsComplete : Obligations.FabricCommandsComplete := by
  refine ⟨?record, ?route, ?tunnelOpen, ?tunnelClose, ?disable, ?enable, ?retrain⟩
  case record =>
    rintro keep rfl
    refine completesAs_of_work (work := workFabRecord) (fun _ _ => rfl) fun s r ⟨least, most, aligned, src, free, legal⟩ => ?_
    rw [workFabRecord, cmdTry_of_passed (by simpa using ⟨⟨⟨least, most⟩, aligned⟩, src.reach, by simpa using free, src.whole, legal⟩)]
    split <;> rfl
  case route =>
    refine completesAs_of_work (work := workFabRoute) (fun _ _ => rfl) fun s r ⟨named, some_, fits, src, legal⟩ => ?_
    rw [workFabRoute, cmdTry_of_passed (by simpa using ⟨named, ⟨by omega, fits⟩, src.reach, src.whole, legal⟩)]
  case tunnelOpen =>
    refine completesAs_of_work (work := workTunOpen) (fun _ _ => rfl) fun s r ⟨named, src, legal, ring, near, shut⟩ => ?_
    rw [workTunOpen, cmdTry_of_passed (by simpa using ⟨named, src.reach, src.whole, legal, ring, near, shut⟩)]
  case tunnelClose =>
    refine completesAs_of_work (work := workTunClose) (fun _ _ => rfl) fun s r ⟨named, opened⟩ => ?_
    rw [workTunClose, cmdTry_of_passed (by simpa using ⟨named, opened⟩)]
  case enable =>
    refine completesAs_of_work (work := workPortEnable) (fun _ _ => rfl) fun s r named => ?_
    rw [workPortEnable, cmdTry_of_passed (by simpa using named)]
  all_goals
    refine completesAs_of_work (work := workFabPort _) (fun _ _ => rfl) fun s r named => ?_
    rw [workFabPort, cmdTry_of_passed (by simpa using named)]

end Sys2Proof.Machine
end

/-! ## Time, trace, log and power commands (R465, R466, R518, R528, R296, R497) -/

section
namespace Sys2Proof.Machine

/-- A LOG_READ that finds records in the log writes them and marks them read. -/
theorem workLogRead_of_found {s : State} {raw k n : Nat} (span : logSpan s.ras (fld raw 8 4) (fld raw 12 2) = (k, n))
    (some_ : 1 ≤ fld raw 12 2) (limit : fld raw 12 2 ≤ 4096) (found : 1 ≤ n)
    (dst : fwOk s (cmdCtx raw) (fld raw 0x10 8) (64 * fld raw 12 2) true = true)
    (whole : badPartly s (fwPieces s (cmdCtx raw) (fld raw 0x10 8) (64 * n)) = none) :
    workLogRead s raw =
      { st := readUpTo (fwWrite s (cmdCtx raw) (fld raw 0x10 8)
          (packBits ((List.range n).map fun i => (smGet 0 s.ras.ring ((k + i - 1) % ringSlots), 512))) (64 * n))
          (max s.ras.highRead (k + n - 1))
        result := packBits [(n, 32), (seqOf (k + n), 32), (if s.ras.n = 0 then 0 else seqOf (oldestRec s.ras), 32)] } := by
  simp only [workLogRead, span]
  rw [cmdTry_of_passed (by simpa using ⟨⟨by omega, limit⟩, dst⟩)]
  simp only [dstWrite_of_whole whole]
  rw [if_pos (by simpa [Nat.one_le_iff_ne_zero, Nat.pos_iff_ne_zero] using found)]
  rfl

/-- Settles O23: each command past its own checks. -/
theorem timeTraceLogPowerCommandsComplete : Obligations.TimeTraceLogPowerCommandsComplete := by
  refine ⟨⟨?timeRead, ?timeConfig, ?config, ?start, ?stop, ?flush⟩, ?log, ?cap, ?retain⟩
  case timeRead =>
    refine completesAs_of_work (work := workTimeRead) (fun _ _ => rfl) fun s r dst => ?_
    rw [workTimeRead, cmdTry_of_passed (by simpa using dst.reach), dstWrite_of_whole dst.whole]
  case timeConfig =>
    refine completesAs_of_work (work := workTimeConfig) (fun _ _ => rfl) fun s r ⟨source, domain, ports⟩ => ?_
    rw [workTimeConfig, cmdTry_of_passed (by simpa using ⟨by omega, source, domain⟩)]
  case config =>
    refine completesAs_of_work (work := workTraceConfig) (fun _ _ => rfl)
      fun s r ⟨aligned, whole, least, most, known, free, reach, near, idle⟩ => ?_
    rw [workTraceConfig, cmdTry_of_passed]
    simpa using ⟨aligned, ⟨⟨whole, least⟩, most⟩, known, reach, near, idle, free⟩
  case start =>
    refine completesAs_of_work (work := workTraceStart) (fun _ _ => rfl) fun s r configured => ?_
    rw [workTraceStart, cmdTry_of_passed (by simpa using configured)]
  case stop =>
    refine completesAs_of_work (work := workTraceStop) (fun _ _ => rfl) fun s r runs => ?_
    rw [workTraceStop, if_neg runs]
  case flush =>
    refine completesAs_of_work (work := workTraceFlush) (fun _ _ => rfl) fun s r runs => ?_
    rw [workTraceFlush, if_pos runs]
  case log =>
    rintro first count rfl rfl
    refine completesAs_of_work (work := workLogRead) (fun _ _ => rfl) fun s r ⟨some_, limit, found, dst, whole⟩ => ?_
    exact workLogRead_of_found rfl some_ limit found dst whole
  case cap =>
    refine waitsAs_of_work (work := workPwrCap) (fun _ _ => rfl) fun s r ⟨least, most⟩ => ?_
    rw [workPwrCap, cmdTry_of_passed (by simpa using ⟨least, most⟩)]
  case retain =>
    refine completesAs_of_work (work := workPwrRetain) (fun _ _ => rfl) fun s r ⟨dies, known, unmapped⟩ => ?_
    rw [workPwrRetain, cmdTry_of_passed (by simpa using ⟨dies, known, by simpa using unmapped⟩)]

end Sys2Proof.Machine
end

/-! ## The mailbox's registers and completions (R426 to R439) -/

section
namespace Sys2Proof.Machine

theorem clearRingLost_enable (s : State) (v : Nat) : (clearRingLost s v).mbx.enable = s.mbx.enable := by
  simp only [clearRingLost]
  split <;> rfl

theorem clearRingLost_taken (s : State) (v : Nat) : (clearRingLost s v).mbx.taken = s.mbx.taken := by
  simp only [clearRingLost]
  split <;> rfl

theorem cmdMayBegin_of_begun {s : State} {i : Nat} {t : Cmd} (taken : s.mbx.taken[i]? = some t) (begun : t.begun = true) :
    cmdMayBegin s i = false := by
  simp [cmdMayBegin, taken, begun]

/-- A command with an outcome is not advanced: it has begun, or its row is the one that begins it. -/
theorem advanceCmd_of_ready {s : State} {i : Nat} {t : Cmd} {r : Nat × Nat × Nat} (taken : s.mbx.taken[i]? = some t)
    (ready : t.ready = some r) (known : t.begun = true ∨ noSuchCmd t.raw = false) : advanceCmd s i t = s := by
  have begins : (noSuchCmd t.raw && cmdMayBegin s i) = false := by
    obtain begun | known := known
    · simp [cmdMayBegin_of_begun taken begun]
    · simp [known]
  simp [advanceCmd, ready, beginUnknown, begins]

theorem finishCmd_of_mayPost {s : State} {i : Nat} {t : Cmd} {r : Nat × Nat × Nat} (taken : s.mbx.taken[i]? = some t)
    (ready : t.ready = some r) (may : mayPost s i t r.1 = true) : finishCmd s i = pumpSq (postCompletion s i t r) := by
  simp [finishCmd, taken, ready, may]

theorem execCommandCompletion_of_taken {s : State} {i : Nat} {t : Cmd} (runs : s.mbx.fwState = 2) (taken : s.mbx.taken[i]? = some t) :
    execCommandCompletion i s = .next (finishCmd (advanceCmd s i t) i) := by
  simp [execCommandCompletion, runs, taken]

/-- Settles O16: each register's write under its guards, and the two ways a completion goes. -/
theorem mailboxRuns : Obligations.MailboxRuns := by
  refine ⟨fun s v on => ⟨?sq, ?cq, ?enable, ?disable, ?irq⟩, ?lost, fun s place t runs taken => ⟨?posts, ?steps⟩⟩
  case sq =>
    intro within
    show execSqDoorbell v s = _
    simp [execSqDoorbell, on, Nat.not_le.2 within]
  case cq =>
    intro within reached
    show execCqDoorbell v s = _
    simp [execCqDoorbell, on, Nat.not_le.2 within, Nat.not_lt.2 reached]
  case enable =>
    intro set off idle
    show execRingEnable v s = _
    simp [execRingEnable, on, set, clearRingLost_enable, off, clearRingLost_taken, idle]
  case disable =>
    intro clear enabled
    show execRingDisable v s = _
    simp [execRingDisable, on, clear, clearRingLost_enable, enabled]
  case irq =>
    show execMbxIrqClear v s = _
    simp [execMbxIrqClear, on]
  case lost =>
    rintro s u enabled checked runs counted room rfl
    show execEventsLost s = _
    simp only [execEventsLost, enabled, checked, runs, counted, room, decide_true, Bool.and_self, if_true]
    split <;> rfl
  case posts =>
    intro r ready known may
    show execCommandCompletion place s = _
    rw [execCommandCompletion_of_taken runs taken, advanceCmd_of_ready taken ready known, finishCmd_of_mayPost taken ready may]
  case steps =>
    intro begun unready
    show execCommandCompletion place s = _
    rw [execCommandCompletion_of_taken runs taken]
    simp [advanceCmd, begun, unready]

/-- An interrupt that is raised has its bit in MBX_IRQ, and leaves the rings and the commands taken. -/
theorem raiseIrq_two (s : State) : (raiseIrq s 2).mbx.irq.getLsbD 2 = true := by
  simp [raiseIrq]

/-- Settles O50: either doorbell's write out of range raises RING_ERR and does nothing else to the mailbox's indices and commands. -/
theorem doorbellsIgnored : Obligations.DoorbellsIgnored := by
  refine fun s v on => ⟨fun out => ⟨raiseIrq s 2, ?sq, raiseIrq_two s, rfl, rfl⟩, fun out => ⟨raiseIrq s 2, ?cq, raiseIrq_two s, rfl, rfl⟩⟩
  case sq =>
    show execSqDoorbell v s = _
    simp [execSqDoorbell, on, out]
  case cq =>
    show execCqDoorbell v s = _
    simp [execCqDoorbell, on, out]

end Sys2Proof.Machine
end

/-! ## EVENTS_LOST with the completion ring outside physical memory (R439) -/

section
namespace Sys2Proof.Machine

/-- A serving module with an event lost, whose empty completion ring of sixteen entries lies at `base`. -/
def lostEventRing (base : Nat) : State :=
  { State.reset with
    mode := .serving
    mbx := { resetMbx with enable := true, checked := true, fwState := 2, cqLog2 := 4, cqBase := base, lost := 1 :: List.replicate 11 0 } }

theorem lostEventRing_inv (base : Nat) : Inv (lostEventRing base) where
  memory := rfl
  contexts := rfl
  commands := Nat.zero_le 64
  apertures := apsOk_resetHif
  stopped off := by simp [lostEventRing] at off
  tray asserted := by simp [lostEventRing, State.reset, resetAoc, nth] at asserted
  tallies := resetHoldsInvariant.tallies
  tables := ⟨rfl, rfl, rfl, rfl⟩

/-- An address above physical memory reads what is there whatever the state. -/
theorem byteAt_of_outside (s : State) {pa : Nat} (outside : spaceTop ≤ pa) : byteAt s pa = (Config.voidByte pa).toNat :=
  if_neg (Nat.not_lt.2 outside)

/-- Refutes O51: nothing bounds the ring's base, and an entry above the 48 bits of a physical address is not kept. Of two rings there, one byte apart, one byte is the fourth of one entry and the fifth of the other, and cannot be both. -/
theorem not_lostEventsCounted : ¬ Obligations.LostEventsCounted := by
  rintro ⟨-, posted⟩
  obtain ⟨t, -, -, -, -, -, context, -⟩ :=
    posted (lostEventRing spaceTop) (lostEventRing_inv _) rfl rfl rfl rfl (by decide) rfl
  obtain ⟨u, -, -, -, -, code, -⟩ :=
    posted (lostEventRing (spaceTop + 1)) (lostEventRing_inv _) rfl rfl rfl rfl (by decide) rfl
  have fourth : byteAt u (spaceTop + 4) = 0x8F := code
  have fifth : byteAt t (spaceTop + 4) = 0xFF := context
  rw [byteAt_of_outside _ (by omega)] at fourth fifth
  omega

end Sys2Proof.Machine
end

/-! ## Fields of byte strings, and frames that carry their CRC -/

section
namespace Sys2Proof.Machine

theorem testBit_fld (x off len i : Nat) : (fld x off len).testBit i = (decide (i < 8 * len) && x.testBit (8 * off + i)) := by
  simp [fld, Nat.testBit_mod_two_pow]

/-- A field is the bits that it covers. -/
theorem fld_congr {x y off len : Nat} (same : ∀ i, 8 * off ≤ i → i < 8 * (off + len) → x.testBit i = y.testBit i) :
    fld x off len = fld y off len := by
  refine Nat.eq_of_testBit_eq fun i => ?_
  rw [testBit_fld, testBit_fld]
  by_cases inside : i < 8 * len
  · rw [same _ (by omega) (by omega)]
  · simp [inside]

theorem testBit_setFld (x off len v i : Nat) : (setFld x off len v).testBit i =
    if 8 * off ≤ i ∧ i < 8 * (off + len) then v.testBit (i - 8 * off) else x.testBit i := by
  have parts : setFld x off len v =
      2 ^ (8 * off) * (2 ^ (8 * len) * (x >>> (8 * (off + len))) + v % 2 ^ (8 * len)) + x % 2 ^ (8 * off) := by
    rw [setFld, Nat.mul_add 8, Nat.pow_add]
    ring
  rw [parts, Nat.testBit_two_pow_mul_add _ (Nat.mod_lt _ (by positivity)), Nat.testBit_two_pow_mul_add _ (Nat.mod_lt _ (by positivity))]
  simp only [Nat.testBit_mod_two_pow, Nat.testBit_shiftRight]
  by_cases below : i < 8 * off
  · simp [below, Nat.not_le.2 below]
  by_cases inside : i - 8 * off < 8 * len
  · simp [below, inside, Nat.not_lt.1 below, show i < 8 * (off + len) by omega]
  · simp [below, inside, show ¬ i < 8 * (off + len) by omega, show 8 * (off + len) + (i - 8 * off - 8 * len) = i by omega]

theorem fld_setFld_same (x off len v : Nat) : fld (setFld x off len v) off len = v % 2 ^ (8 * len) := by
  refine Nat.eq_of_testBit_eq fun i => ?_
  rw [testBit_fld, testBit_setFld, Nat.testBit_mod_two_pow]
  by_cases inside : i < 8 * len
  · simp [inside, show 8 * off + i < 8 * (off + len) by omega]
  · simp [inside]

theorem fld_setFld_disjoint {x off len off' len' v : Nat} (apart : off + len ≤ off' ∨ off' + len' ≤ off) :
    fld (setFld x off' len' v) off len = fld x off len := by
  refine fld_congr fun i lo hi => ?_
  rw [testBit_setFld, if_neg (by omega)]

theorem bytesOf_congr {n x y : Nat} (same : x % 2 ^ (8 * n) = y % 2 ^ (8 * n)) : bytesOf x n = bytesOf y n := by
  induction n generalizing x y with
  | zero => rfl
  | succ n ih =>
    have split : ∀ z : Nat, z % 2 ^ (8 * (n + 1)) = z % 256 + 256 * (z / 256 % 2 ^ (8 * n)) := fun z => by
      rw [show 2 ^ (8 * (n + 1)) = 256 * 2 ^ (8 * n) by rw [Nat.mul_add, Nat.pow_add]; ring, Nat.mod_mul]
    rw [split, split] at same
    simp only [bytesOf]
    rw [show x % 256 = y % 256 by omega, ih (x := x / 256) (y := y / 256) (by omega)]

/-! ### CRC-32C -/

theorem crc32cByte_lt {crc : Nat} (word : crc < 2 ^ 32) (byte : Nat) : crc32cByte crc byte < 2 ^ 32 := by
  have shifts : ∀ (l : List Nat) (c : Nat), c < 2 ^ 32 →
      l.foldl (fun c _ => if c % 2 = 1 then (c >>> 1) ^^^ 0x82F63B78 else c >>> 1) c < 2 ^ 32 := by
    intro l
    induction l with
    | nil => exact fun c h => h
    | cons _ l ih =>
      intro c h
      have half : c >>> 1 < 2 ^ 32 := by rw [Nat.shiftRight_one]; omega
      refine ih _ ?_
      dsimp only
      split
      · exact Nat.xor_lt_two_pow half (by omega)
      · exact half
  exact shifts _ _ (Nat.xor_lt_two_pow word (by omega))

theorem crc32c_lt (bs : List Nat) : crc32c bs < 2 ^ 32 := by
  have folds : ∀ (bs : List Nat) (c : Nat), c < 2 ^ 32 → bs.foldl crc32cByte c < 2 ^ 32 := by
    intro bs
    induction bs with
    | nil => exact fun c h => h
    | cons b bs ih => exact fun c h => ih _ (crc32cByte_lt h b)
  exact Nat.xor_lt_two_pow (folds _ _ (by omega)) (by omega)

/-! ### Frames with their CRC appended -/

theorem withCrc_eq (f n : Nat) : withCrc f n = 2 ^ (8 * n) * crc32c (bytesOf f n) + f % 2 ^ (8 * n) := by
  rw [withCrc]
  ring

theorem fld_withCrc {f n off len : Nat} (inside : off + len ≤ n) : fld (withCrc f n) off len = fld f off len := by
  refine fld_congr fun i lo hi => ?_
  rw [withCrc_eq, Nat.testBit_two_pow_mul_add _ (Nat.mod_lt _ (by positivity)), if_pos (by omega), Nat.testBit_mod_two_pow]
  simp [show i < 8 * n by omega]

theorem fld_withCrc_crc (f n : Nat) : fld (withCrc f n) n 4 = crc32c (bytesOf f n) := by
  rw [fld, withCrc_eq, Nat.shiftRight_eq_div_pow, Nat.mul_add_div (by positivity), Nat.div_eq_of_lt (Nat.mod_lt _ (by positivity)), Nat.add_zero,
    Nat.mod_eq_of_lt (crc32c_lt _)]

theorem bytesOf_withCrc (f n : Nat) : bytesOf (withCrc f n) n = bytesOf f n :=
  bytesOf_congr (by rw [withCrc_eq, Nat.mul_add_mod, Nat.mod_mod])

end Sys2Proof.Machine
end

/-! ## The sideband ring (R390 to R393) -/

section
namespace Sys2Proof.Machine

/-- A frame that keeps a good frame's type and length is good again with its CRC appended. -/
theorem ringGood_withCrc {len f g : Nat} (good : ringGood len f = true) (type : rgType g = rgType f) (length : rgLen g = rgLen f) :
    ringGood (8 + rgLen f + 4) (withCrc g (8 + rgLen f)) = true := by
  simp only [ringGood, Bool.and_eq_true, decide_eq_true_eq] at good ⊢
  obtain ⟨⟨⟨⟨⟨-, short⟩, -⟩, named⟩, known⟩, -⟩ := good
  have len' : rgLen (withCrc g (8 + rgLen f)) = rgLen f := by rw [rgLen, fld_withCrc (by omega), ← rgLen, length]
  have type' : rgType (withCrc g (8 + rgLen f)) = rgType f := by rw [rgType, fld_withCrc (by omega), ← rgType, type]
  rw [len', type', Nat.add_sub_cancel, bytesOf_withCrc, fld_withCrc_crc]
  exact ⟨⟨⟨⟨⟨by omega, short⟩, by omega⟩, named⟩, known⟩, rfl⟩

theorem ringGood_len {len f : Nat} (good : ringGood len f = true) : len = 12 + rgLen f := by
  simp only [ringGood, Bool.and_eq_true, decide_eq_true_eq] at good
  exact good.1.1.1.2

/-- A frame that is forwarded leaves with HOPS one lower. -/
theorem ringForward_of_kept {s : State} {f : Nat} (inserted : s.fab.sbr.inserted = true) (kept : ringRemoves s f = false) :
    ringForward s f = ringOut s (setFld f 1 1 (rgHops f - 1)) (8 + rgLen f) := by
  simp [ringForward, inserted, kept]

/-- A frame that is removed, or that comes to a station outside the ring, leaves the port as it is. -/
theorem ringForward_of_removed {s : State} {f : Nat} (removed : (!s.fab.sbr.inserted || ringRemoves s f) = true) : ringForward s f = s := by
  simp [ringForward, removed]

/-- A state with the ring's receiver locked (R392). -/
def ringLocked (s : State) : State := updSbr s fun r => { r with locked := true }

/-- Any good frame but TIME locks the receiver, and is forwarded unless it numbers a station of the ring. -/
theorem execRingFrameReceive_of_good {s : State} {len f : Nat} (listens : ringListens s = true) (good : ringGood len f = true)
    (type : rgType f ≠ 1) : execRingFrameReceive len f s = .next (
      if rgType f = 3 && s.fab.sbr.inserted && !s.fab.sbr.master && !ringRemoves (ringLocked s) f then
        ringOut (updSbr (ringLocked s) fun r => { r with station := fld f 8 1 })
          (setFld (setFld f 1 1 (rgHops f - 1)) 8 1 ((fld f 8 1 + 1) % 256)) (8 + rgLen f)
      else ringForward (ringLocked s) f) := by
  simp only [execRingFrameReceive, listens, good, type, Bool.not_true, Bool.false_eq_true, if_false]
  exact (apply_ite _ _ _ _).symm

/-- Settles O36: each row under its guards. -/
theorem ringRuns : Obligations.RingRuns := by
  refine fun s => ⟨?receive, ?insert, ?lost, ?alone, fun master => ⟨?window, ?discover⟩⟩
  case receive =>
    rintro len f listens good type u rfl
    refine ⟨fun discover inserted slave kept => ?_, fun other => ?_⟩
    · replace kept : ringRemoves (ringLocked s) f = false := kept
      show execRingFrameReceive len f s = _
      rw [execRingFrameReceive_of_good listens good type]
      exact congrArg _ (if_pos (by simp [discover, inserted, slave, kept]))
    · show execRingFrameReceive len f s = _
      rw [execRingFrameReceive_of_good listens good type]
      exact congrArg _ (if_neg (by simp [other]))
  case insert =>
    intro listens image shut
    show execRingInsert s = _
    simp [execRingInsert, listens, image, shut, relayMoved]
  case lost =>
    intro mode
    exact congrArg _ (if_neg mode)
  case alone =>
    intro mode
    exact congrArg _ (if_pos mode)
  case window =>
    show execInsertWindow s = _
    rw [execInsertWindow, if_pos master]
    rfl
  case discover => exact if_pos master

/-- A forwarded frame, whatever else of it changes beyond its header, leaves good, of the same type, source and length, with HOPS one lower. -/
theorem ringOut_forwards {s : State} {len f g : Nat} (good : ringGood len f = true) (hops : 2 ≤ rgHops f)
    (header : ∀ k, k < 8 → fld g k 1 = fld (setFld f 1 1 (rgHops f - 1)) k 1) :
    ringGood (ringOut s g (8 + rgLen f)).fab.sbr.outLen (ringOut s g (8 + rgLen f)).fab.sbr.outFrame = true ∧
      (ringOut s g (8 + rgLen f)).fab.sbr.outLen = len ∧ rgType (ringOut s g (8 + rgLen f)).fab.sbr.outFrame = rgType f ∧
      rgHops (ringOut s g (8 + rgLen f)).fab.sbr.outFrame = rgHops f - 1 ∧ rgSrc (ringOut s g (8 + rgLen f)).fab.sbr.outFrame = rgSrc f := by
  have kept : ∀ k, k < 8 → k ≠ 1 → fld g k 1 = fld f k 1 := fun k lt ne => by rw [header k lt, fld_setFld_disjoint (by omega)]
  have byte : rgHops f < 2 ^ 8 := Nat.mod_lt _ (by positivity)
  have lowered : fld g 1 1 = rgHops f - 1 := by rw [header 1 (by omega), fld_setFld_same, Nat.mod_eq_of_lt (by omega)]
  refine ⟨ringGood_withCrc good (kept 0 (by omega) (by omega)) (kept 4 (by omega) (by omega)), ?_, ?_, ?_, ?_⟩
  · rw [ringGood_len good]
    show 8 + rgLen f + 4 = 12 + rgLen f
    omega
  · exact (fld_withCrc (by omega)).trans (kept 0 (by omega) (by omega))
  · exact (fld_withCrc (by omega)).trans lowered
  · exact (fld_withCrc (by omega)).trans (kept 2 (by omega) (by omega))

/-- A forwarded frame is a frame of another station with hops left. -/
theorem ringRemoves_eq_false {s : State} {f : Nat} (hops : 2 ≤ rgHops f) (other : rgSrc f ≠ s.fab.sbr.station) : ringRemoves s f = false := by
  simpa [ringRemoves, other] using (by omega : 1 < rgHops f)

/-- Settles O59: a frame in the ring leaves through `ringOut`, whose form decides that it is good. -/
theorem ringFramesForwarded : Obligations.RingFramesForwarded := by
  refine fun s len f listens => ⟨fun bad => ?bad, fun good type => ?good⟩
  case bad =>
    show execRingFrameReceive len f s = _
    simp only [execRingFrameReceive, listens, bad]
    rfl
  case good =>
    refine ⟨_, execRingFrameReceive_of_good listens good type, ?locked, ?removed, ?forwarded⟩
    case locked =>
      dsimp only [ringForward]
      split
      · rfl
      · split <;> rfl
    case removed =>
      intro ends
      have removes : (!s.fab.sbr.inserted || ringRemoves (ringLocked s) f) = true := by
        rcases ends with out | out | ⟨own, numbered⟩
        · simp [ringRemoves, out]
        · simp [out]
        · simp [ringRemoves, ringLocked, updSbr, updFab, own, numbered]
      rw [if_neg, ringForward_of_removed (s := ringLocked s) removes]
      · exact ⟨rfl, rfl⟩
      · obtain out | gone := Bool.or_eq_true_iff.1 removes
        · simp [show s.fab.sbr.inserted = false by simpa using out]
        · simp [gone]
    case forwarded =>
      intro hops inserted other
      split
      · exact ringOut_forwards good hops fun k lt => fld_setFld_disjoint (by omega)
      · rw [ringForward_of_kept (s := ringLocked s) inserted (ringRemoves_eq_false (s := ringLocked s) hops other)]
        exact ringOut_forwards good hops fun _ _ => rfl

/-! ### Time -/

/-- Settles O35: each row under its guards. -/
theorem timeSourcesAct : Obligations.TimeSourcesAct := by
  refine fun s => ⟨?ptp, ?expiry, ?receive, rfl, ?send⟩
  case ptp =>
    intro port d est asym listens
    show execPtpMessageReceive port d est asym s = _
    simp [execPtpMessageReceive, listens]
  case expiry =>
    intro valid
    exact if_pos valid
  case receive =>
    intro len f r listens good type source
    have own : (s.fab.sbr.master && rgSrc f = s.fab.sbr.station) = false := by
      simpa using source
    show execTimeFrameReceive len f r s = _
    simp [execTimeFrameReceive, listens, good, type, own]
  case send =>
    intro master valid
    show execTimeFrameSend s = _
    rw [execTimeFrameSend, if_pos (by simp [master, valid])]

end Sys2Proof.Machine
end

/-! ## Start-up, recovery, Foreman restart and the label (R428, R477, R482, R483, R490) -/

section
namespace Sys2Proof.Machine

/-- Settles O30: each row under its guards. -/
theorem startUpRuns : Obligations.StartUpRuns := by
  refine ⟨fun s o => ⟨fun mode state => ⟨?boots, ?fails⟩, ?recovers, ?restarts⟩, fun s cold on => ⟨?ends, ?begins⟩⟩
  case boots =>
    intro k bank reaches
    show execStartUp o s = _
    simp [execStartUp, mode, state, bank, startImage, reaches]
  case fails =>
    intro none_
    show execStartUp o s = _
    simp [execStartUp, mode, state, none_]
  case recovers =>
    intro v on waits key mode
    show execRecoveryImageLoad v o s = _
    have asks : recovers s v = true := by simp [recovers, waits, key]
    simp only [execRecoveryImageLoad, on, asks, mode]
    cases recoveryCheck s <;> rfl
  case restarts =>
    intro v b0 b1 on key set clear
    show execForemanRestart v b0 b1 s = _
    rw [execForemanRestart, if_pos (by simp [on, key, set, clear])]
  case ends =>
    intro busy
    show execLabelDrawing cold s = _
    simp [execLabelDrawing, on, busy]
  case begins =>
    intro idle pending
    show execLabelDrawing false s = _
    simp [execLabelDrawing, on, idle, pending]

end Sys2Proof.Machine
end

/-! ## Error events and the log (R514 to R518) -/

section
namespace Sys2Proof.Machine

/-- Settles O15: each row under its guards. -/
theorem errorPathRuns : Obligations.ErrorPathRuns := by
  refine fun s => ⟨?event, ?close, ?commit⟩
  case event =>
    rintro cls sev src inst ctx key info e on known rfl
    show execErrorEvent cls sev src inst ctx key info s = _
    simp [execErrorEvent, on, known]
  case close =>
    intro k e entry
    show execCoalesceClose k s = _
    simp only [execCoalesceClose, closeCoal, entry]
  case commit =>
    intro e rest runs kept summed queue
    show execLogCommit s = _
    simp [execLogCommit, runs, kept, summed, queue]

end Sys2Proof.Machine
end

/-! ## Point-to-point operations and collectives (R405 to R424) -/

section
namespace Sys2Proof.Machine

/-- An operation of a fabric engine half with room issues when its head may, and the transactions that wait are sent as far as the limits allow. -/
theorem fabOp_of_mayIssue {s : State} {c : Nat} {half : Fin 2} {aged : Bool} {kind : QOp → Bool} {q : QOp}
    (room : halfLoad s (4 + half) < 16) (may : MayIssue s c ucFabric (4 + half) aged kind q) (body : Body) :
    fabOp s c half aged kind body = pumpTxns (inFlight s c q (body (atUnit s c q) c q)) := by
  rw [fabOp, if_pos room, issueOp_of_mayIssue may]

/-- An operation that passes its checks stays in flight for its packets. -/
theorem goesOn_runPlan_of_passes {u : State} {c : Nat} {p : Plan} {rd wr : List (Nat × Nat)} (passes : Passes u c p rd wr) {eff : State → Result}
    (ok : ∀ v, (eff v).status = 0) : goesOn (runPlan u c p rd wr eff) = { ranOp u c p rd wr eff with ended := false, aux := [0] } := by
  rw [runPlan_of_passes passes]
  exact if_pos (ok _)

/-- Settles O9: each body passes its checks and goes on. -/
theorem pointToPointOpsRun : Obligations.PointToPointOpsRun := by
  refine fun c half aged s q room => ⟨fun may passes => ?write, fun may passes => ?read, fun may passes => ?signal⟩
  case write =>
    show Host.Outcome.next (fabOp s c half aged (isOp 0xB0) bodyCwrite) = _
    rw [fabOp_of_mayIssue room may]
    simp only [bodyCwrite]
    rw [goesOn_runPlan_of_passes passes fun _ => rfl]
  case read =>
    show Host.Outcome.next (fabOp s c half aged (isOp 0xB1) bodyCread) = _
    rw [fabOp_of_mayIssue room may]
    simp only [bodyCread]
    rw [goesOn_runPlan_of_passes passes fun _ => rfl]
    rfl
  case signal =>
    show Host.Outcome.next (fabOp s c half aged (isOp 0xB2) bodyCsignal) = _
    rw [fabOp_of_mayIssue room may]
    simp only [bodyCsignal]
    rw [goesOn_runPlan_of_passes passes fun _ => rfl]

/-! ### Collectives -/

/-- A collective of a known group that passes its checks takes the group's next sequence number and begins (R405). -/
theorem bodyColl_of_passes {u : State} {c : Nat} {q : QOp} (readable : groupReadable u c q.env = true)
    (known : gId (readGroup u c q.env) ≤ 1023)
    (passes : Passes (noteIssue u (halfOf q.inst) c (gId (readGroup u c q.env))) c (collPlan u c (halfOf q.inst) q.opcode q.env)
      (collReads u c q.opcode q.env) []) :
    bodyColl u c q =
      { ranOp (noteIssue u (halfOf q.inst) c (gId (readGroup u c q.env))) c
          (collPlan u c (halfOf q.inst) q.opcode q.env) (collReads u c q.opcode q.env) []
          (fun v => { st := startColl v c q (nextCseq u (halfOf q.inst) c (gId (readGroup u c q.env))) })
        with ended := false, aux := [0],
             acc := { rd := physPieces (noteIssue u (halfOf q.inst) c (gId (readGroup u c q.env))) c (collReads u c q.opcode q.env)
                      wr := physPieces u c (collOuts (mkInst u c q (nextCseq u (halfOf q.inst) c (gId (readGroup u c q.env))))) } } := by
  simp only [bodyColl, readable, known, decide_true, Bool.and_self, if_true]
  rw [runPlan_of_passes passes]
  rfl

theorem collIssue_of_mayIssue {s : State} {c : Nat} {half : Fin 2} {aged : Bool} {kind : QOp → Bool} {q : QOp}
    (room : halfLoad s (4 + half) < 16) (may : MayIssue s c ucFabric (4 + half) aged kind q) :
    collIssue s c half aged kind = collKick (takeHeld (pumpTxns (inFlight s c q (bodyColl (atUnit s c q) c q))) c q.opIndex) := by
  simp only [collIssue, may.head]
  rw [fabOp_of_mayIssue room may]

/-- A row of a collective is the shared issue of its kind. -/
theorem collectiveRow_runs {c : Fin 8} {half : Fin 2} {aged : Bool} {i : Instr} {kind : QOp → Bool}
    (row : (i, kind) ∈ [(Instr.crs c half aged, isOp 0xB3), (Instr.cag c half aged, isOp 0xB4), (Instr.car c half aged, isOp 0xB5),
      (Instr.ca2aDispatch c half aged, fun q => q.opcode = 0xB6 && collOp q.env ≠ 1),
      (Instr.ca2aCombine c half aged, fun q => q.opcode = 0xB6 && collOp q.env = 1),
      (Instr.cpermute c half aged, isOp 0xB7), (Instr.cledger c half aged, isOp 0xB8), (Instr.cdigest c half aged, isOp 0xB9)]) (s : State) :
    exec i s = .next (collIssue s c half aged kind) := by
  simp only [List.mem_cons, Prod.mk.injEq, List.not_mem_nil, or_false] at row
  obtain ⟨rfl, rfl⟩ | ⟨rfl, rfl⟩ | ⟨rfl, rfl⟩ | ⟨rfl, rfl⟩ | ⟨rfl, rfl⟩ | ⟨rfl, rfl⟩ | ⟨rfl, rfl⟩ | ⟨rfl, rfl⟩ := row <;> rfl

/-- Settles O10: every collective's row is the shared issue, whose body passes its checks. -/
theorem collectiveOpsRun : Obligations.CollectiveOpsRun := by
  rintro c half aged s q i kind u row room may rfl readable known passes
  rw [collectiveRow_runs row, collIssue_of_mayIssue room may, bodyColl_of_passes readable known passes]

end Sys2Proof.Machine
end

/-! ## Ports, packets and tunnels (R371 to R403) -/

section
namespace Sys2Proof.Machine

/-! ### Ports -/

/-- Settles O37: each row under its guards. -/
theorem linksRun : Obligations.LinksRun := by
  refine fun s port on => ⟨fun up => ⟨?frame, ?report, ?swap, ?width, ?down⟩, ?init⟩
  case frame =>
    intro fec len f k good type order packet
    show execLinkFrameReceive port fec len f s = _
    simp [execLinkFrameReceive, on, up, good, type, order, packet]
  case report =>
    show execAckReport port s = _
    simp [execAckReport, on, up]
  case swap =>
    intro lane unused spare sound
    show execLaneSwap port lane s = _
    simp [execLaneSwap, on, up, unused, spare, sound]
  case width =>
    intro l other some_
    show execWidthChange port l s = _
    simp [execWidthChange, on, up, other, some_]
  case down =>
    show execPortDown port s = _
    simp [execPortDown, on, up]
  case init =>
    intro peer pp rv l trains some_
    show execPortInit port peer pp rv l s = _
    simp [execPortInit, on, trains, some_]

/-! ### Packets -/

/-- The packet at a place of the receive buffers goes to the row of its type when it is for this node and there is a fabric record. -/
theorem rxOf_of_forMe {s : State} {i : Nat} {r : RxPkt} {ptype : Nat} (there : s.fab.rx[i]? = some r) (mine : forMe s r = true)
    (valid : s.fab.recValid = true) (type : pkType r.pkt = ptype) : rxOf s i ptype = some r := by
  simp [rxOf, there, mine, valid, type]

theorem execPacketForward_of_placed {s : State} {i : Nat} {r : RxPkt} (there : s.fab.rx[i]? = some r) (away : forMe s r = false)
    (valid : s.fab.recValid = true) (hops : 1 ≤ pkHops r.pkt)
    (placed : (placePkt (takeRx s i r) (decide (17 ≤ r.src)) (rxIod r) (setRoute r.pkt (pkFlags r.pkt) (pkHops r.pkt - 1))).isSome = true) :
    execPacketForward i s = .next (fabCount (sendPkt (takeRx s i r) (decide (17 ≤ r.src)) (rxIod r)
      (setRoute r.pkt (pkFlags r.pkt) (pkHops r.pkt - 1))) fcTransit (pkBytes (setRoute r.pkt (pkFlags r.pkt) (pkHops r.pkt - 1)))) := by
  simp only [execPacketForward, there, away, valid, placed, show pkHops r.pkt ≠ 0 by omega, Bool.not_true, Bool.false_eq_true, if_false, if_true]

/-- A WRITE whose context may write its range is done and acknowledged (R380). -/
theorem deliverWrite_of_passes {u v : State} {r : RxPkt} {c : Nat} (job : jobCtx u (pkJob r.pkt) = some c)
    (reach : footOk u c deviceRegions false true [(pkDa r.pkt, pkLen r.pkt)] = true)
    (whole : badPartly u (physPieces u c [(pkDa r.pkt, pkLen r.pkt)]) = none)
    (written : v = noteTraffic (clearBad (wrNum u c (pkDa r.pkt) r.pkt.pay (pkLen r.pkt)) (physPieces u c [(pkDa r.pkt, pkLen r.pkt)])) []
      (physPieces u c [(pkDa r.pkt, pkLen r.pkt)])) :
    deliverWrite u r = sendPkt v true (rxIod r) (answer v r.pkt ackOk) := by
  simp [deliverWrite, job, reach, whole, written]

/-- What an ACK that finds its transaction makes of it. -/
theorem execAck_of_sent {s : State} {i : Nat} {r : RxPkt} {t : Txn} (there : rxOf s i ptAck = some r)
    (sent : ((takeRx s i r).fab.txns.find? fun t => t.sent && t.tag = pkTag r.pkt) = some t) (half : t.half ≠ 2) :
    execAck i s = .next (collKick (
      let v := updFab (takeRx s i r) fun f => { f with txns := dropFirst (fun u => u.tag = t.tag) f.txns }
      if pkAstat r.pkt = ackRefused then
        opFail v t stAddress (refusedDetail (((fabFlight (takeRx s i r) t.ctx t.opIndex).map fun f => f.op.opcode).getD 0))
      else if pkAstat r.pkt = ackNoRoute then opFail v t 0xB0 (txnDetail t)
      else opProgress v t)) := by
  simp only [execAck, there, sent, half, if_false]
  by_cases refused : pkAstat r.pkt = ackRefused
  · simp only [refused, if_true]
    cases fabFlight (takeRx s i r) t.ctx t.opIndex <;> rfl
  by_cases lost : pkAstat r.pkt = ackNoRoute
  · simp only [if_neg refused, if_pos lost]
  · simp only [if_neg refused, if_neg lost]

/-- A COLL packet of a known phase that comes by a way its group allows goes to the collective in flight (R406). -/
theorem execColl_of_inst {s : State} {i c : Nat} {r : RxPkt} {j : CollInst} (there : rxOf s i ptColl = some r)
    (zero : bits (pkDa r.pkt) 12 4 = 0) (known : bits (pkAux r.pkt) 0 4 < 5) (job : jobCtx s (pkJob r.pkt) = some c)
    (path : boundTo s c (bits (pkDa r.pkt) 0 10) = 0 ∨ 16 ≤ r.src ∨ rxIod r = boundTo s c (bits (pkDa r.pkt) 0 10) - 1 ∨ transitOk s = true)
    (flies : (s.fab.insts.find? fun j => j.ctx = c && gId j.group = bits (pkDa r.pkt) 0 10 && j.cseq % 4096 = pkCseq r.pkt) = some j) :
    execColl i s = .next (collKick (collTake (takeRx s i r) j r.pkt)) := by
  have form : (bits (pkDa r.pkt) 12 4 ≠ 0 || 5 ≤ bits (pkAux r.pkt) 0 4 : Bool) = false := by simpa using ⟨zero, known⟩
  have way : (boundTo s c (bits (pkDa r.pkt) 0 10) ≠ 0 && r.src < 16 && rxIod r ≠ boundTo s c (bits (pkDa r.pkt) 0 10) - 1 && !transitOk s : Bool) =
      false := by
    rcases path with unbound | own | same | transit
    · simp [unbound]
    · simp [Nat.not_lt.2 own]
    · simp [same]
    · simp [transit]
  simp only [execColl, there, form, job, way, flies, Bool.false_eq_true, if_false]

/-- Settles O38: each packet's row by its type, each answer's by what it answers. -/
theorem packetsRun : Obligations.PacketsRun := by
  refine ⟨fun s i r there => ⟨?forward, fun mine valid => ⟨?requests, ?response⟩, ?ctrl⟩, fun s => ⟨?ack, ?timeout, ?coll⟩⟩
  case forward => exact execPacketForward_of_placed there
  case requests =>
    rintro c u rfl job
    refine ⟨?write, ?read, ?signal⟩
    case write =>
      intro type reach whole v written
      show execWrite i s = _
      simp only [execWrite, rxOf_of_forMe there mine valid type, deliverWrite_of_passes job reach whole written]
    case read =>
      rintro type reach whole
      show execReadReq i s = _
      simp [execReadReq, rxOf_of_forMe there mine valid type, deliverRead, job, reach, whole]
    case signal =>
      rintro type v rfl
      show execSignal i s = _
      simp [execSignal, rxOf_of_forMe there mine valid type, deliverSignal, job]
  case response =>
    rintro t f u v rfl type request all rfl flight
    show execReadRsp i s = _
    simp only [execReadRsp, rxOf_of_forMe there mine valid type, request, if_neg (Nat.not_lt.2 all)]
    split
    next g found => rw [Option.some.inj (found.symm.trans flight)]; rfl
    next lost => exact nomatch lost.symm.trans flight
  case ctrl =>
    intro mine type
    show execCtrl i s = _
    have found : ctrlOf s i = some r := by simp [ctrlOf, there, mine, type]
    by_cases event : pkAux r.pkt = 1 ∧ 32 ≤ pkLen r.pkt
    · simp [execCtrl, found, event]
    · simp only [execCtrl, found, if_neg event, ← Bool.decide_and, decide_eq_true_eq]
  case ack =>
    rintro i r t u v there valid mine type rfl sent half rfl
    show execAck i s = _
    exact execAck_of_sent (rxOf_of_forMe there mine valid type) sent half
  case timeout =>
    intro g c k node t on sent half
    show execRemoteTimeout (some g) c k node s = _
    simp [execRemoteTimeout, on, sent, half]
  case coll =>
    rintro i c r j u there valid mine type zero known job path flies rfl
    exact execColl_of_inst (rxOf_of_forMe there mine valid type) zero known job path flies

/-! ### Tunnels -/

theorem jouOk_type {s : State} {type len d : Nat} (ok : jouOk s type len d = true) : fld d 3 1 = type := by
  simp only [jouOk, Bool.and_eq_true, decide_eq_true_eq] at ok
  obtain ⟨⟨⟨⟨-, type⟩, -⟩, -⟩, -⟩ := ok
  exact type

/-- Settles O39: each row under its guards. -/
theorem tunnelsRun : Obligations.TunnelsRun := by
  refine fun s on => ⟨?frame, ?data, ?ack, ?probe, fun t up => ⟨?timer, ?resend, ?release, ?down⟩⟩
  case frame =>
    intro port len f domain
    show execEthernetFrameReceive port len f s = _
    simp [execEthernetFrameReceive, on, domain]
  case data =>
    intro port ce len d ps ok split some_ up
    show execJouData port ce len d s = _
    simp [execJouData, on, ok, split, some_, up]
  case ack =>
    intro port len d ok up
    show execJouAck port len d s = _
    simp [execJouAck, on, ok, up]
  case probe =>
    rintro port len d u ok rfl
    show execProbe port len d s = _
    have now : nowUs (if (tunOf s (fld d 4 2)).up then s else updTun s (fld d 4 2) fun u => { clearTunnel u with up := true }) = nowUs s := by
      split <;> rfl
    simp [execProbe, on, ok, jouOk_type ok, now]
  case timer =>
    intro unacked
    show execJouAckTimer t s = _
    simp [execJouAckTimer, on, up, unacked]
  case resend =>
    intro q b g kept due
    have due' : (!b && g.later < 3) = false := by
      rcases due with timeout | passed
      · simp [timeout]
      · simp [Nat.not_lt.2 passed]
    show execJouRetransmit t q b s = _
    simp [execJouRetransmit, on, up, kept, due']
  case release =>
    intro h open_
    show execJouFenceRelease t s = _
    simp [execJouFenceRelease, on, open_]
  case down =>
    show execTunnelDown t s = _
    simp [execTunnelDown, on, up]

end Sys2Proof.Machine
end

/-! ## The mailbox's TALLY_SET and TALLY_READ (R457, R157) -/

section
namespace Sys2Proof.Machine

/-! ### Fields of what memory holds -/

theorem memRd_lt (m : Memory) (a n : Nat) : memRd m a n < 256 ^ n := by
  induction n generalizing a with
  | zero => simp [memRd]
  | succ n ih =>
    have low := (memGet m a).isLt
    have high := ih (a + 1)
    rw [memRd, Nat.pow_succ]
    omega

theorem memRd_add (m : Memory) (a p q : Nat) : memRd m a (p + q) = memRd m a p + 256 ^ p * memRd m (a + p) q := by
  induction p generalizing a with
  | zero => simp [memRd]
  | succ p ih =>
    rw [Nat.succ_add, memRd, memRd, ih, Nat.pow_succ, show a + (p + 1) = a + 1 + p by omega]
    ring

theorem two_pow_eight_mul (n : Nat) : 2 ^ (8 * n) = 256 ^ n := by rw [Nat.pow_mul]

/-- A field of what a range holds is what its own bytes hold. -/
theorem fld_memRd (m : Memory) (a : Nat) {n off len : Nat} (inside : off + len ≤ n) : fld (memRd m a n) off len = memRd m (a + off) len := by
  obtain ⟨rest, rfl⟩ := Nat.exists_eq_add_of_le inside
  rw [fld, Nat.shiftRight_eq_div_pow, two_pow_eight_mul, two_pow_eight_mul, Nat.add_assoc, memRd_add, Nat.add_mul_div_left _ _ (by positivity),
    Nat.div_eq_of_lt (memRd_lt m a off), Nat.zero_add, memRd_add, Nat.add_mul_mod_self_left, Nat.mod_eq_of_lt (memRd_lt m _ len)]

theorem fld_mod_pow (x : Nat) {n off len : Nat} (inside : off + len ≤ n) : fld (x % 256 ^ n) off len = fld x off len := by
  refine fld_congr fun i lo hi => ?_
  rw [← two_pow_eight_mul, Nat.testBit_mod_two_pow]
  simp [show i < 8 * n by omega]

/-- The words that are packed come out again. -/
theorem fld_packBits_word {α : Type} (f : α → Nat) (l : List α) {k : Nat} (hk : k < l.length) :
    fld (packBits (l.map fun x => (f x, 32))) (4 * k) 4 = f l[k] % 2 ^ 32 := by
  induction l generalizing k with
  | nil => simp at hk
  | cons x l ih =>
    cases k with
    | zero => simp [packBits, fld]
    | succ k =>
      have rest : fld (packBits ((x :: l).map fun x => (f x, 32))) (4 * (k + 1)) 4 = fld (packBits (l.map fun x => (f x, 32))) (4 * k) 4 := by
        rw [fld, fld, show 8 * (4 * (k + 1)) = 32 + 8 * (4 * k) by omega, Nat.shiftRight_add, List.map_cons, packBits,
          Nat.shiftRight_eq_div_pow _ 32, Nat.add_mul_div_left _ _ (by positivity), Nat.div_eq_of_lt (Nat.mod_lt _ (by positivity)), Nat.zero_add]
      rw [rest, ih (by simpa using hk), List.getElem_cons_succ]

/-! ### Tallies -/

theorem tallyOf_setTally {s : State} {c : Nat} (wf : TalliesWf s) (hc : c < s.ctxs.length) (t n : Nat) (v : W32) :
    tallyOf (setTally s c t v) c n = if n = t then v else tallyOf s c n := by
  rw [tallyOf, setTally, ctxOf_updCtx_same _ _ hc, smGet_smSet (wf.context hc)]
  rfl

theorem setTallies_succ (s : State) (c first count v : Nat) : setTallies s c first (count + 1) v =
    lowWater (setTallies s c first count v)
      (setTally (setTallies s c first count v) c (first + count) (BitVec.ofNat 32 (fld v (4 * count) 4))) c := by
  simp only [setTallies, List.range_succ, List.foldl_append, List.foldl_cons, List.foldl_nil]

/-- TALLY_SET gives each tally that it names its word, and no other. -/
theorem tallyOf_setTallies {s : State} {c : Nat} (wf : TalliesWf s) (hc : c < s.ctxs.length) (first count v n : Nat) :
    tallyOf (setTallies s c first count v) c n =
      if first ≤ n ∧ n < first + count then BitVec.ofNat 32 (fld v (4 * (n - first)) 4) else tallyOf s c n := by
  induction count with
  | zero => exact (if_neg (by omega)).symm
  | succ count ih =>
    have kept : Kept s (setTallies s c first count v) := setTallies_kept
    rw [setTallies_succ, lowWater_tallies.tallyOf_eq, tallyOf_setTally (kept.tallies wf) (by rwa [kept.contexts]), ih]
    by_cases last : n = first + count
    · simp [last]
    · simp [last, show n < first + (count + 1) ↔ n < first + count by omega]

/-- What a command's completion adds to its work's state leaves every tally as it is. -/
theorem doneOk_tallies {u : State} {place : Nat} {reads : List (Nat × Nat)} {detail result : Nat} :
    SameTallies u (doneOk u place reads detail result) := .after .mbx noteTraffic_still.sameTallies

theorem rdPhys_doneOk (u : State) (place : Nat) (reads : List (Nat × Nat)) (detail result a n : Nat) :
    rdPhys (doneOk u place reads detail result) a n = rdPhys u a n := congrArg (memRd · a n) (noteTraffic_mem u reads [])

theorem begun_still {s : State} {raw : Nat} : Still s (begun s raw) := traceState_still

/-- A tally command past the checks of every command names a context. -/
theorem cmdCtx_lt_of_tally {s : State} {raw : Nat} (op : cmdOp raw = 0x22 ∨ cmdOp raw = 0x23) (passed : cmdChecks s raw = none) :
    cmdCtx raw < 8 := by
  have row : cmdRow raw = some ⟨false, .ctx, [(8, 4), (16, 8)]⟩ := by rcases op with op | op <;> simp only [cmdRow, op]
  simp only [cmdChecks, row, firstSome_eq_none, List.mem_cons, List.not_mem_nil, or_false, forall_eq_or_imp, forall_eq, chk_eq_none] at passed
  obtain ⟨-, -, named, -⟩ := passed
  simpa using named

/-- Words that the Foreman writes to memory are read there one by one. -/
theorem rdPhys_fwWrite_word {u : State} (wf : memWf u.mem = true) (a : Nat) (f : Nat → Nat) {n k : Nat} (hk : k < n) :
    rdPhys (fwWrite u 0xFF a (packBits ((List.range n).map fun j => (f j, 32))) (4 * n)) (a + 4 * k) 4 = f k % 2 ^ 32 := by
  have mem : (fwWrite u 0xFF a (packBits ((List.range n).map fun j => (f j, 32))) (4 * n)).mem =
      memWr u.mem a (packBits ((List.range n).map fun j => (f j, 32))) (4 * n) := by
    simp [fwWrite, wrPhys]
  rw [rdPhys, mem, ← fld_memRd _ _ (n := 4 * n) (by omega), memRd_memWr wf, fld_mod_pow _ (by omega),
    fld_packBits_word f (List.range n) (by simpa using hk), List.getElem_range]

/-- Settles O54: what each command's completion leaves, tally by tally. -/
theorem tallyCommandsAct : Obligations.TallyCommandsAct := by
  refine ⟨fun s place t inv begins named some_ fits src => ?set, fun s place t inv begins named some_ fits dst => ?read⟩
  case set =>
    obtain ⟨⟨-, completes, -⟩, -⟩ := contextDataCommandsComplete
    have wf : TalliesWf (begun s t.raw) := begun_still.kept.tallies inv.tallies
    have there : cmdCtx t.raw < (begun s t.raw).ctxs.length := by
      rw [begun_still.kept.contexts, inv.contexts]
      exact cmdCtx_lt_of_tally (.inr begins.opcode) begins.checks
    refine ⟨_, completes s place t begins ⟨named, some_, fits, src⟩, fun k lt => ?_, fun n outside => ?_⟩
    · rw [doneOk_tallies.tallyOf_eq, tallyOf_setTallies wf there, if_pos (by omega), Nat.add_sub_cancel_left]
      exact Nat.mod_eq_of_lt (Nat.mod_lt _ (by positivity))
    · rw [doneOk_tallies.tallyOf_eq, tallyOf_setTallies wf there, if_neg (by omega), begun_still.sameTallies.tallyOf_eq]
  case read =>
    obtain ⟨⟨completes, -⟩, -⟩ := contextDataCommandsComplete
    refine ⟨_, completes s place t begins ⟨named, some_, fits, dst⟩, fun k lt => ?_⟩
    rw [rdPhys_doneOk, rdPhys_fwWrite_word (begun_still.memory inv.memory) _
      (fun j => (tallyOf (begun s t.raw) (cmdCtx t.raw) (fld t.raw 8 2 + j)).toNat) lt, begun_still.sameTallies.tallyOf_eq,
      Nat.mod_eq_of_lt (BitVec.isLt _)]

end Sys2Proof.Machine
end

/-! ## TRAY_RESET_N holds the module in reset (R472) -/

section
namespace Sys2Proof.Machine

/-- The rows that reset the module, release it, or change what holds it in reset. -/
inductive ResetsModule : Instr → Prop
  | moduleReset (v) : ResetsModule (.moduleReset v)
  | inputUndervolt : ResetsModule .inputUndervolt
  | railFault : ResetsModule .railFault
  | trayResetAssert : ResetsModule .trayResetAssert
  | trayResetDeassert : ResetsModule .trayResetDeassert
  | resetButtonClose : ResetsModule .resetButtonClose
  | moduleResetRelease : ResetsModule .moduleResetRelease
  | mgmtPowerOn (slot valid) : ResetsModule (.mgmtPowerOn slot valid)
  | mgmtPowerLoss : ResetsModule .mgmtPowerLoss

/-- Every other row keeps each part of the invariant, the filtered level of TRAY_RESET_N among them. -/
theorem exec_keeps {i : Instr} {s : State} (h : ¬ ResetsModule i) (inv : Inv s) : Keeps s (exec i s) := by
  cases i with
  | nop => exact execNop_owns.keeps
  | stepAdvance => exact execStepAdvance_owns.keeps
  | tallySet => exact execTallySet_owns.keeps
  | shapeSet => exact execShapeSet_owns.keeps
  | qmm => exact execQmm_owns.keeps
  | qmmBatch => exact execQmmBatch_owns.keeps
  | qdrain => exact execQdrain_owns.keeps
  | qfill => exact execQfill_owns.keeps
  | qzero => exact execQzero_owns.keeps
  | cmv => exact execCmv_owns.keeps
  | ew => exact execEw_owns.keeps
  | act => exact execAct_owns.keeps
  | actBwd => exact execActBwd_owns.keeps
  | norm => exact execNorm_owns.keeps
  | normBwd => exact execNormBwd_owns.keeps
  | smx => exact execSmx_owns.keeps
  | smxBwd => exact execSmxBwd_owns.keeps
  | smxMerge => exact execSmxMerge_owns.keeps
  | red => exact execRed_owns.keeps
  | cvt => exact execCvt_owns.keeps
  | split3 => exact execSplit3_owns.keeps
  | esAcc => exact execEsAcc_owns.keeps
  | esFinal => exact execEsFinal_owns.keeps
  | gather => exact execGather_owns.keeps
  | scatter => exact execScatter_owns.keeps
  | scatterAdd => exact execScatterAdd_owns.keeps
  | adamw => exact execAdamw_owns.keeps
  | cgq => exact execCgq_owns.keeps
  | cgdq => exact execCgdq_owns.keeps
  | cprobe => exact execCprobe_owns.keeps
  | sput => exact execSput_owns.keeps
  | sget => exact execSget_owns.keeps
  | sraise => exact execSraise_owns.keeps
  | sfree => exact execSfree_owns.keeps
  | hcopy => exact execHcopy_owns.keeps
  | hset => exact execHset_owns.keeps
  | cattn => exact execCattn_owns.keeps
  | rappend => exact execRappend_owns.keeps
  | rseqOpen => exact execRseqOpen_owns.keeps
  | rseqClose => exact execRseqClose_owns.keeps
  | rseqPriority => exact execRseqPriority_owns.keeps
  | rseqTruncate => exact execRseqTruncate_owns.keeps
  | rseqEvict => exact execRseqEvict_owns.keeps
  | rseqFetch => exact execRseqFetch_owns.keeps
  | eroute => exact execEroute_owns.keeps
  | compact => exact execCompact_owns.keeps
  | mgate => exact execMgate_owns.keeps
  | cwrite => exact execCwrite_owns.keeps
  | cread => exact execCread_owns.keeps
  | csignal => exact execCsignal_owns.keeps
  | crs => exact execCrs_keeps
  | cag => exact execCag_keeps
  | car => exact execCar_keeps
  | ca2aDispatch => exact execCa2aDispatch_keeps
  | ca2aCombine => exact execCa2aCombine_keeps
  | cpermute => exact execCpermute_keeps
  | cledger => exact execCledger_keeps
  | cdigest => exact execCdigest_keeps
  | tfeed => exact execTfeed_owns.keeps
  | tlive => exact execTlive_owns.keeps
  | tstop => exact execTstop_owns.keeps
  | tstate => exact execTstate_owns.keeps
  | vdec => exact execVdec_owns.keeps
  | venc => exact execVenc_owns.keeps
  | boxdec => exact execBoxdec_owns.keeps
  | boxsel => exact execBoxsel_owns.keeps
  | nms => exact execNms_owns.keeps
  | argmax => exact execArgmax_owns.keeps
  | packageStart => exact execPackageStart_keeps
  | envelopeDispatch => exact execEnvelopeDispatch_owns.keeps
  | waitTimeout => exact execWaitTimeout_owns.keeps
  | operationCompletion => exact execOperationCompletion_keeps
  | hazardRangeRelease => exact execHazardRangeRelease_keeps
  | prefetchSignal => exact execPrefetchSignal_keeps
  | taprootSample => exact execTaprootSample_keeps
  | batchPublish => exact execBatchPublish_keeps
  | liveDatagramReceive => exact execLiveDatagramReceive_keeps
  | liveTick => exact execLiveTick_keeps
  | vccPicture session => exact (execVccPicture_keeps (session := session))
  | imageRetire => exact execImageRetire_keeps
  | sqDoorbell => exact execSqDoorbell_keeps
  | cqDoorbell => exact execCqDoorbell_keeps
  | ringEnable => exact execRingEnable_keeps
  | ringDisable => exact execRingDisable_keeps
  | mbxIrqClear => exact execMbxIrqClear_keeps
  | foremanRestart => exact execForemanRestart_keeps fun off => (inv.stopped off).1
  | recoveryImageLoad => exact execRecoveryImageLoad_keeps fun off => (inv.stopped off).2
  | eventsLost => exact execEventsLost_keeps
  | identify => exact execIdentify_keeps
  | health => exact execHealth_keeps
  | cfgGet => exact execCfgGet_keeps
  | cfgSet => exact execCfgSet_keeps
  | fwStage => exact execFwStage_keeps
  | fwActivate => exact execFwActivate_keeps
  | fwStatus => exact execFwStatus_keeps
  | calRead => exact execCalRead_keeps
  | calWrite => exact execCalWrite_keeps
  | bistRun => exact execBistRun_keeps
  | repairMapOut => exact execRepairMapOut_keeps
  | repairUnmap => exact execRepairUnmap_keeps
  | repairLaneSwap => exact execRepairLaneSwap_keeps
  | labelUpdate => exact execLabelUpdate_keeps
  | ctxOpen => exact execCtxOpen_keeps fun off => (inv.stopped off).2
  | ctxClose => exact execCtxClose_keeps
  | ctxQuery => exact execCtxQuery_keeps
  | ctxMap => exact execCtxMap_keeps
  | pkgSubmit => exact execPkgSubmit_keeps
  | pkgRetry => exact execPkgRetry_keeps
  | pkgSkip => exact execPkgSkip_keeps
  | pkgAbort => exact execPkgAbort_keeps
  | tallyRead => exact execTallyRead_keeps
  | tallySetCmd => exact execTallySetCmd_keeps
  | ledgerRead => exact execLedgerRead_keeps
  | ledgerWrite => exact execLedgerWrite_keeps
  | stashWrite => exact execStashWrite_keeps
  | ckptSave => exact execCkptSave_keeps
  | ckptRestore => exact execCkptRestore_keeps
  | fabRecord => exact execFabRecord_keeps
  | fabRoute => exact execFabRoute_keeps
  | fabTunnelOpen => exact execFabTunnelOpen_keeps
  | fabTunnelClose => exact execFabTunnelClose_keeps
  | fabPortDisable => exact execFabPortDisable_keeps
  | fabPortEnable => exact execFabPortEnable_keeps
  | fabPortRetrain => exact execFabPortRetrain_keeps
  | timeRead => exact execTimeRead_keeps
  | timeConfig => exact execTimeConfig_keeps
  | traceConfig => exact execTraceConfig_keeps
  | traceStart => exact execTraceStart_keeps
  | traceStop => exact execTraceStop_keeps
  | traceFlush => exact execTraceFlush_keeps
  | logRead => exact execLogRead_keeps
  | pwrCap => exact execPwrCap_keeps
  | pwrRetain => exact execPwrRetain_keeps
  | bar2Access => exact execBar2Access_keeps
  | bar2Resize => exact execBar2Resize_keeps
  | timElapsedRead => exact execTimElapsedRead_keeps
  | qryPerfClear => exact execQryPerfClear_keeps
  | clearPeak => exact execClearPeak_keeps
  | cruPerfClear => exact execCruPerfClear_keeps
  | rsPerfClear => exact execRsPerfClear_keeps
  | splPerfClear => exact execSplPerfClear_keeps
  | memPerfClear => exact execMemPerfClear_keeps
  | tapPerfClear => exact execTapPerfClear_keeps
  | vccPerfClear => exact execVccPerfClear_keeps
  | fabPerfClear => exact execFabPerfClear_keeps
  | colPerfClear => exact execColPerfClear_keeps
  | rasFirstClr => exact execRasFirstClr_keeps
  | hwReset => exact execHwReset_keeps
  | registerWrite => exact execRegisterWrite_keeps
  | i2cRegisterRead => exact execI2cRegisterRead_keeps
  | inputLow => exact execInputLow_keeps
  | inputDip => exact execInputDip_keeps
  | startUp => exact execStartUp_keeps
  | perstAssert => exact execPerstAssert_keeps
  | perstRelease => exact execPerstRelease_keeps
  | resetButtonOpen => exact execResetButtonOpen_keeps
  | buttonStuck => exact execButtonStuck_keeps
  | buttonIgnoredClear => exact execButtonIgnoredClear_keeps
  | inputStuck => exact execInputStuck_keeps
  | ppsEdge => exact execPpsEdge_keeps
  | syncEdge => exact execSyncEdge_keeps
  | heartbeatTick => exact execHeartbeatTick_keeps
  | labelDrawing => exact execLabelDrawing_keeps
  | faceJunctionReading => exact execFaceJunctionReading_keeps
  | junctionThrottleStep => exact execJunctionThrottleStep_keeps
  | neighbourThrottleStep => exact execNeighbourThrottleStep_keeps
  | hbmTempReading => exact execHbmTempReading_keeps
  | farTempReport => exact (execFarTempReport_owns (c := 0)).keeps
  | thermAlertRelease => exact execThermAlertRelease_keeps
  | powerSample => exact execPowerSample_keeps
  | capLevelStep => exact execCapLevelStep_keeps
  | domainWake => exact execDomainWake_keeps
  | domainIdlePowerDown => exact execDomainIdlePowerDown_keeps
  | retentionAutoEntry => exact execRetentionAutoEntry_keeps
  | stockpileScrub => exact execStockpileScrub_keeps
  | nearScrub => exact execNearScrub_keeps
  | timeFrameReceive => exact execTimeFrameReceive_keeps
  | timeFrameSend => exact execTimeFrameSend_keeps
  | timeFrameTimeout => exact execTimeFrameTimeout_keeps
  | ptpMessageReceive => exact execPtpMessageReceive_keeps
  | timeHoldoverExpiry => exact execTimeHoldoverExpiry_keeps
  | ringFrameReceive => exact execRingFrameReceive_keeps
  | ringInsert => exact execRingInsert_keeps
  | insertWindow => exact execInsertWindow_keeps
  | discover => exact execDiscover_keeps
  | linkFrameReceive => exact (execLinkFrameReceive_owns (c := 0)).keeps
  | ackReport => exact (execAckReport_owns (c := 0)).keeps
  | laneSwap => exact execLaneSwap_keeps
  | widthChange => exact execWidthChange_keeps
  | portDown => exact execPortDown_keeps
  | portInit => exact execPortInit_keeps
  | packetForward => exact execPacketForward_keeps
  | write => exact execWrite_keeps
  | readReq => exact execReadReq_keeps
  | readRsp => exact execReadRsp_keeps
  | ack => exact execAck_keeps
  | signal => exact execSignal_keeps
  | coll => exact execColl_keeps
  | ctrl => exact execCtrl_keeps
  | remoteTimeout => exact execRemoteTimeout_keeps
  | ethernetFrameReceive => exact (execEthernetFrameReceive_owns (c := 0)).keeps
  | jouData => exact (execJouData_owns (c := 0)).keeps
  | jouAck => exact (execJouAck_owns (c := 0)).keeps
  | probe => exact (execProbe_owns (c := 0)).keeps
  | jouAckTimer => exact (execJouAckTimer_owns (c := 0)).keeps
  | jouRetransmit => exact (execJouRetransmit_owns (c := 0)).keeps
  | jouFenceRelease => exact (execJouFenceRelease_owns (c := 0)).keeps
  | tunnelDown => exact execTunnelDown_keeps
  | errorEvent => exact execErrorEvent_keeps
  | coalesceClose => exact execCoalesceClose_keeps
  | logCommit => exact execLogCommit_keeps
  | commandCompletion => exact execCommandCompletion_keeps
  | pcieLinkUp => exact execPcieLinkUp_keeps
  | pcieLinkDown => exact execPcieLinkDown_keeps
  | liveFrameIncomplete => exact execLiveFrameIncomplete_owns.keeps
  | ringLockLost => exact execRingLockLost_keeps
  | moduleReset | inputUndervolt | railFault | trayResetAssert | trayResetDeassert | resetButtonClose | moduleResetRelease | mgmtPowerOn
  | mgmtPowerLoss => exact absurd (by constructor) h

/-! ### The rows that reset the module -/

/-- From `s` to `t` an asserted TRAY_RESET_N stays asserted. -/
def TrayHeld (s t : State) : Prop := nth false s.aoc.level 0 = true → nth false t.aoc.level 0 = true

theorem Kept.trayHeld {s t : State} (h : Kept s t) : TrayHeld s t := fun asserted => h.level.trans asserted

theorem TrayHeld.assertCause {s t : State} (h : TrayHeld s t) (k : Nat) : TrayHeld s (assertCause t k) := fun asserted => by
  rw [assertCause_eq]
  split
  · exact h asserted
  · exact h asserted

theorem TrayHeld.inputLevel_zero (s : State) : TrayHeld s (inputLevel s 0 true) := by
  intro asserted
  simp only [inputLevel, updAoc]
  cases levels : s.aoc.level with
  | nil => rwa [levels] at asserted
  | cons b r => rfl

/-- A row that does something to the input's level under a guard only. -/
theorem TrayHeld.ite {s t u : State} {p : Prop} [Decidable p] (h : TrayHeld s t)
    (row : (if p then .next t else .next s : Host.Outcome State Fault Refusal) = .next u) : TrayHeld s u := by
  split at row
  · obtain rfl := Host.Outcome.next.inj row
    exact h
  · obtain rfl := Host.Outcome.next.inj row
    exact id

/-- The button's cause is asserted, or it is ignored. -/
theorem execResetButtonClose_trayHeld {s t : State} (row : execResetButtonClose s = .next t) : TrayHeld s t := by
  have closed : TrayHeld s (inputEvent (inputLevel s 2 true) 2 inputSpacing) := (inputEvent_kept.after inputLevel_kept).trayHeld
  simp only [execResetButtonClose] at row
  split at row
  · obtain rfl := Host.Outcome.next.inj row
    exact id
  · obtain rfl := Host.Outcome.next.inj row
    split
    · exact closed
    · exact closed.assertCause _

/-- Of the rows that reset the module, only the input's own deassertion and the power-on that samples it end an asserted TRAY_RESET_N. -/
theorem ResetsModule.trayHeld {i : Instr} {s t : State} (resets : ResetsModule i) (other : i ≠ .trayResetDeassert)
    (sampled : ∀ a b, i ≠ .mgmtPowerOn a b) (inv : Inv s) (row : exec i s = .next t) : TrayHeld s t := by
  have cause (k : Nat) : TrayHeld s (assertCause s k) := .assertCause id k
  cases resets with
  | moduleReset v => exact .ite (cause _) row
  | inputUndervolt => exact .ite (cause _) row
  | railFault => exact .ite (fun asserted => withHealth_kept.trayHeld (cause _ asserted)) row
  | trayResetAssert =>
    exact .ite (TrayHeld.assertCause (fun asserted => inputEvent_kept.trayHeld (TrayHeld.inputLevel_zero s asserted)) _) row
  | trayResetDeassert => exact absurd rfl other
  | resetButtonClose => exact execResetButtonClose_trayHeld row
  | moduleResetRelease =>
    intro asserted
    obtain rfl | ⟨may, -, -⟩ := execModuleResetRelease_cases row
    · exact asserted
    · obtain ⟨-, -, tray, -⟩ := mayRelease_iff.1 may
      exact absurd (inv.tray asserted).1 (by simp [tray])
  | mgmtPowerOn slot valid => exact absurd rfl (sampled slot valid)
  | mgmtPowerLoss =>
    obtain rfl := Host.Outcome.next.inj row
    exact id

/-- No other command and no tick ends an asserted TRAY_RESET_N. -/
theorem step_trayHeld {s t : State} (inv : Inv s) (stepped : step s = .next t) (other : s.pending.head? ≠ some .trayResetDeassert)
    (sampled : ∀ a b, s.pending.head? ≠ some (.mgmtPowerOn a b)) : TrayHeld s t := by
  obtain rfl | ⟨i, rest, front, row⟩ := step_cases stepped
  · exact tick_kept.trayHeld
  · simp only [front, List.head?_cons, ne_eq, Option.some.injEq] at other sampled
    by_cases resets : ResetsModule i
    · exact resets.trayHeld (s := { s with pending := rest }) other sampled (inv.pending rest) row
    · exact (exec_keeps resets (inv.pending rest) t row).trayHeld

/-! ### The stuck timeout -/

theorem stuckEvent_zero_stuck (s : State) : (stuckEvent s 0).aoc.stuck = s.aoc.stuck := by
  simp only [stuckEvent, inputEvent]
  repeat' split
  all_goals rfl

/-- The timeout of an asserted TRAY_RESET_N sets its STUCK bit. -/
theorem execInputStuck_zero_stuck {s t : State} (on : s.aoc.on = true) (asserted : nth false s.aoc.level 0 = true) (six : s.aoc.stuck.length = 6)
    (row : execInputStuck 0 s = .next t) : nth false t.aoc.stuck 0 = true := by
  by_cases already : nth false s.aoc.stuck 0 = true
  · rw [execInputStuck, if_pos (by simp [already])] at row
    obtain rfl := Host.Outcome.next.inj row
    exact already
  · rw [execInputStuck, if_neg (by simp [on, asserted, already])] at row
    obtain rfl := Host.Outcome.next.inj row
    rw [withHealth_aoc_stuck]
    show nth false (stuckEvent _ 0).aoc.stuck 0 = true
    rw [stuckEvent_zero_stuck]
    simp [nth, updAoc, six]

/-- Settles O43: an asserted input is a cause of the reset that holds, and no other command deasserts it. -/
theorem trayResetHolds : Obligations.TrayResetHolds := by
  intro s t inv asserted stepped
  obtain ⟨tray, off⟩ := inv.tray asserted
  refine ⟨off, ?mode, fun other sampled => step_trayHeld inv stepped other sampled asserted, fun front on => ?stuck⟩
  case mode =>
    obtain ⟨-, held⟩ := awayLeftOnlyByReset s t inv stepped
    obtain still | ⟨-, -, released, -⟩ := held off
    · exact still
    · rw [bit_eq_testBit] at tray
      exact absurd tray (by simp [rcTray, released])
  case stuck =>
    obtain ⟨rest, queue⟩ := List.head?_eq_some_iff.1 front
    rw [stepTakesFront.1 s _ rest queue] at stepped
    exact execInputStuck_zero_stuck (s := { s with pending := rest }) on asserted inv.tables.2.2.2 stepped

end Sys2Proof.Machine
end

section
namespace Sys2Proof.Machine

/-! ## Valid capture sets, operation by operation (R515) -/

/-- From `s` to `t` every valid capture set stays as it is. -/
structure Latched (s t : State) : Prop where
  captures : ∀ k, (nth noCapture s.ras.first k).valid = true → nth noCapture t.ras.first k = nth noCapture s.ras.first k

namespace Latched

/-- What leaves the capture sets alone. -/
theorem same {s t : State} (h : t.ras.first = s.ras.first) : Latched s t := ⟨fun k _ => by rw [h]⟩

theorem refl (s : State) : Latched s s := .same rfl

theorem after {s t u : State} (k : Latched t u) (h : Latched s t) : Latched s u where
  captures i valid := by rw [k.captures i (by rw [h.captures i valid, valid]), h.captures i valid]

/-- A change of anything but the error path. -/
theorem own {u : State} {mode : Mode} {relayCause : Nat} {mem : Memory} {sump : SMap AccBits} {sumpBad : List Nat} {ctxs : List Ctx}
    {quarry : QuarryS} {memS : MemS} {cru : Perf} {stash : StashS} {rs spl : Perf} {tap : TapS} {vcc : VccS} {fab : FabS} {time : TimeS}
    {rlb : List (List (Nat × Nat × Nat))} {mbx : MbxS} {trc : TrcS} {aoc : AocS} {pwr : PwrS} {hif : HifS} {flash : FlashS}
    {fenced coresOff : List (Nat × Nat)} {domOn : List Bool} {wakes elapsed : W64} {boot : Nat} {hostUp : Bool} {lastServed : SMap Nat}
    {chiselCmv : Bool} {free : Nat} {pending : List Instr} :
    Latched u { u with
      mode := mode, relayCause := relayCause, mem := mem, sump := sump, sumpBad := sumpBad, ctxs := ctxs, quarry := quarry, memS := memS, cru := cru
      stash := stash, rs := rs, spl := spl, tap := tap, vcc := vcc, fab := fab, time := time, rlb := rlb, mbx := mbx, trc := trc, aoc := aoc
      pwr := pwr, hif := hif, flash := flash, fenced := fenced, coresOff := coresOff, domOn := domOn, wakes := wakes, elapsed := elapsed
      boot := boot, hostUp := hostUp, lastServed := lastServed, chiselCmv := chiselCmv, free := free, pending := pending } := .same rfl

/-- A change of the error path beside its capture sets. -/
theorem ras {s : State} {r : RasS} (h : r.first = s.ras.first) : Latched s { s with ras := r } := .same h

theorem ite {s t u : State} {p : Prop} [Decidable p] (h : Latched s t) (k : Latched s u) : Latched s (if p then t else u) := by
  split
  · exact h
  · exact k

theorem ite_fst {s : State} {α : Type} {a b : State × α} {p : Prop} [Decidable p] (h : Latched s a.1) (k : Latched s b.1) :
    Latched s (if p then a else b).1 := by
  split
  · exact h
  · exact k

theorem foldl {α : Type} {f : State → α → State} (h : ∀ u x, Latched u (f u x)) {s : State} {l : List α} : Latched s (l.foldl f s) := by
  induction l generalizing s with
  | nil => exact refl s
  | cons x r ih => exact ih.after (h s x)

/-- Steps that carry a value beside the state. -/
theorem foldl_fst {α β : Type} {f : State × β → α → State × β} (h : ∀ a x, Latched a.1 (f a x).1) {a : State × β} {l : List α} :
    Latched a.1 (l.foldl f a).1 := by
  induction l generalizing a with
  | nil => exact refl a.1
  | cons x r ih => exact ih.after (h a x)

end Latched

/-- Every state that a row goes on with keeps the valid capture sets. -/
def Latches (s : State) (o : Host.Outcome State Fault Refusal) : Prop := ∀ t, o = .next t → Latched s t

theorem Latches.next {s t : State} (h : Latched s t) : Latches s (.next t) := by
  rintro _ ⟨⟩
  exact h

theorem Latches.ite {s : State} {p : Prop} [Decidable p] {o o' : Host.Outcome State Fault Refusal} (h : Latches s o) (k : Latches s o') :
    Latches s (if p then o else o') := by
  split
  · exact h
  · exact k

theorem updCtx_latched {c : Nat} {s : State} {f : Ctx → Ctx} : Latched s (updCtx s c f) := .own

theorem updMbx_latched {s : State} {f : MbxS → MbxS} : Latched s (updMbx s f) := .own

/-- An event is captured only by its class's set, and only while that is not valid. -/
theorem rasEvent_first (r : RasS) (t : W64) (boot : Nat) (e : ErrEvent) :
    (rasEvent r t boot e).first = if (nth noCapture r.first e.cls).valid then r.first else r.first.set e.cls ⟨true, e, t, boot⟩ := by
  cases h : (nth noCapture r.first e.cls).valid <;> simp [rasEvent, apply_ite RasS.first, h]

theorem rasEvent_keeps {r : RasS} {t : W64} {boot : Nat} {e : ErrEvent} {k : Nat} (valid : (nth noCapture r.first k).valid = true) :
    nth noCapture (rasEvent r t boot e).first k = nth noCapture r.first k := by
  rw [rasEvent_first]
  split
  · rfl
  · rename_i fresh
    have other : e.cls ≠ k := fun same => fresh (same ▸ valid)
    simp [nth, List.getElem?_set_ne other]

/-! ## What the named operations over the state keep -/

theorem setTally_latched {c : Nat} {s : State} {t : Nat} {v : W32} : Latched s (setTally s c t v) := .own

/-! ### Memory -/

theorem wrNum_latched {s : State} {c da v n : Nat} : Latched s (wrNum s c da v n) := .own

theorem applyPuts_latched {s : State} {c : Nat} {ps : List Put} : Latched s (applyPuts s c ps) := .own

theorem wrPhys_latched {s : State} {pa v n : Nat} : Latched s (wrPhys s pa v n) := .own

theorem zeroRange_latched {s : State} {lo hi : Nat} : Latched s (zeroRange s lo hi) := .own

theorem loseRange_latched {s : State} {lo hi : Nat} : Latched s (loseRange s lo hi) := .ite .own (.refl s)

/-! ### Writes that leave for the host (R29) -/

theorem postHost_latched {s : State} {wr : List (Nat × Nat)} : Latched s (postHost s wr) := by
  simp only [postHost]
  split
  · exact .refl s
  · exact .own

theorem wakeStacks_latched {s : State} {ps : List (Nat × Nat)} : Latched s (wakeStacks s ps) := .ite .own (.refl s)

theorem noteTraffic_latched {s : State} {rd wr : List (Nat × Nat)} : Latched s (noteTraffic s rd wr) := by
  have woken : Latched s (postHost (wakeStacks (wakeGroups s (rd ++ wr)) (rd ++ wr)) wr) :=
    postHost_latched.after (wakeStacks_latched.after .own)
  simp only [noteTraffic]
  split
  · exact woken
  · exact .after .own woken

/-! ### Error reporting (R515 to R517) -/

theorem reportError_latched {s : State} {e : ErrEvent} : Latched s (reportError s e) := ⟨fun _ => rasEvent_keeps⟩

theorem drawFree_latched {s : State} : Latched s (drawFree s).2 := .own

theorem countUe_latched {s : State} {pa ctx : Nat} : Latched s (countUe s pa ctx) := reportError_latched.after .own

/-! ## The basic operations: accumulators, ledger, sequencer -/

theorem addTally_latched {s : State} {c t : Nat} {n : Nat} : Latched s (addTally s c t n) := .own

theorem losePieces_latched {s : State} {ps : List (Nat × Nat)} : Latched s (losePieces s ps) := .foldl fun _ _ => loseRange_latched

theorem setShapeWord_latched {s : State} {c i v : Nat} : Latched s (setShapeWord s c i v) := .own

theorem loseCtx_latched {s : State} {c : Nat} {ivs : List (Nat × Nat)} : Latched s (loseCtx s c ivs) := losePieces_latched

theorem clearBad_latched {s : State} {ps : List (Nat × Nat)} : Latched s (clearBad s ps) := .own

theorem raiseIrq_latched {s : State} {b : Nat} : Latched s (raiseIrq s b) := .own

theorem loseRings_latched {s : State} : Latched s (loseRings s) :=
  .ite (raiseIrq_latched.after .own) (.refl s)

theorem postEntry_latched {s : State} {tag status code ctx detail result : Nat} : Latched s (postEntry s tag status code ctx detail result) :=
  .ite loseRings_latched (.after .own (wrPhys_latched.after noteTraffic_latched))

theorem postEvent_latched {s : State} {code ctx detail result : Nat} : Latched s (postEvent s code ctx detail result) := by
  have counted (u : State) : Latched u { u with mbx := { u.mbx with lost := updAt u.mbx.lost (code - 0x80) (· + 1) } } :=
    .own
  simp only [postEvent]
  split
  · exact .refl s
  · split
    · split
      · exact raiseIrq_latched.after postEntry_latched
      · exact (counted _).after postEntry_latched
    · exact counted s

theorem traceWrite_latched {s : State} {rec : Nat} : Latched s (traceWrite s rec) := .after .own (wrPhys_latched.after noteTraffic_latched)

theorem tracePut_latched {s : State} {rec : Nat} : Latched s (tracePut s rec) := .ite traceWrite_latched (.ite (.ite .own .own) (.refl _))

theorem traceEvent_latched {s : State} {src type ctx payload : Nat} : Latched s (traceEvent s src type ctx payload) := .ite tracePut_latched (.refl _)

theorem traceState_latched {s : State} {src ctx : Nat} : Latched s (traceState s src ctx) := .ite (traceEvent_latched.after drawFree_latched) (.refl _)

theorem renewSump_latched {s : State} {hit : Nat → Bool} : Latched s (renewSump s hit) := .own

theorem loseKeys_latched {s : State} {ks : List Nat} : Latched s (loseKeys s ks) := .own

theorem loseSump_latched {s : State} {r : SumpRegion} : Latched s (loseSump s r) := .own

theorem loseSumps_latched {s : State} {rs : List SumpRegion} : Latched s (loseSumps s rs) := .foldl fun _ _ => loseSump_latched

theorem zeroSlots_latched {s : State} {first count : Nat} : Latched s (zeroSlots s first count) := .own

theorem ledgerDrop_latched {s : State} {p : Nat × LedgerLine} : Latched s (ledgerDrop s p) :=
  .after updCtx_latched (wrNum_latched.after noteTraffic_latched)

theorem ledgerEvict_latched {s : State} : Latched s (ledgerEvict s) := by
  simp only [ledgerEvict]
  split
  · exact .refl _
  · split
    · exact ledgerDrop_latched.after drawFree_latched
    · exact drawFree_latched

theorem ledgerPut_latched {s : State} {c slot e : Nat} : Latched s (ledgerPut s c slot e) :=
  .after updCtx_latched (.ite (.refl _) ledgerEvict_latched)

theorem ledgerWriteBack_latched {s : State} {c : Nat} : Latched s (ledgerWriteBack s c) :=
  .after updCtx_latched (.after (.foldl fun _ _ => wrNum_latched) noteTraffic_latched)

theorem ledgerTouch_latched {s : State} {c slot : Nat} : Latched s (ledgerTouch s c slot) := by
  simp only [ledgerTouch]
  refine ledgerPut_latched.after ?_
  split
  · exact wrNum_latched.after (noteTraffic_latched.after noteTraffic_latched)
  · exact noteTraffic_latched

theorem ledgerFold_latched {s : State} {c : Nat} {d : Desc} {t : OutStat} : Latched s (ledgerFold s c d t) := .ite ledgerPut_latched (.refl _)

theorem narrowWith_latched {s : State} {c : Nat} {env : RoundEnv} {d : Desc} {ext : List Nat} {f : List Nat → FVal} :
    Latched s (narrowWith s c env d ext f).1 :=
  ledgerFold_latched.after applyPuts_latched

theorem narrowOut_latched {s : State} {c : Nat} {d : Desc} {ext : List Nat} {f : List Nat → FVal} : Latched s (narrowOut s c d ext f).1 :=
  narrowWith_latched

theorem applySignal_latched {s : State} {c x : Nat} : Latched s (applySignal s c x) := .ite addTally_latched (.refl _)

theorem applySignals_latched {s : State} {c e : Nat} : Latched s (applySignals s c e) := applySignal_latched.after applySignal_latched

theorem reject_latched {s : State} {status detail : Nat} : Latched s (reject s status detail).st := .own

theorem loseOutputs_latched {s : State} {a : Access} : Latched s (loseOutputs s a) := loseSumps_latched.after losePieces_latched

theorem race_latched {s : State} {f g : Access} : Latched s (race s f g) :=
  loseSumps_latched.after (losePieces_latched.after (.after (.ite loseOutputs_latched (.refl _)) (.ite loseOutputs_latched (.refl _))))

theorem settleRaces_latched {s : State} {c : Nat} {f : Flight} : Latched s (settleRaces s c f) := .foldl fun _ _ => race_latched

theorem putFlight_latched {s : State} {c : Nat} {f : Flight} : Latched s (putFlight s c f) := .after updCtx_latched settleRaces_latched

/-- A unit's body keeps the valid capture sets. -/
def LatchingBody (b : Body) : Prop := ∀ u d q, Latched u (b u d q).st

theorem issueWith_latched {body : Body} {s : State} {c : Nat} {q : QOp} (h : LatchingBody body) : Latched s (issueWith body s c q) :=
  putFlight_latched.after ((h _ c q).after (traceEvent_latched.after .own))

theorem issueOp_latched {s : State} {c cls inst : Nat} {aged : Bool} {kind : QOp → Bool} {body : Body} (h : LatchingBody body) :
    Latched s (issueOp s c cls inst aged kind body) := by
  unfold issueOp
  split
  · split
    · exact issueWith_latched h
    · exact .refl s
  · exact .refl s

theorem writeRecord_latched {s : State} {c : Nat} {p : Pkg} {q : QOp} {cls status : Nat} {flags : NumFlags} {detail : Nat} {tIssue : W64} :
    Latched s (writeRecord s c p q cls status flags detail tIssue) :=
  .ite (.refl _) (wrNum_latched.after noteTraffic_latched)

theorem endPkg_latched {s : State} {c : Nat} {p : Pkg} {outcome st : Nat} : Latched s (endPkg s c p outcome st) := by
  unfold endPkg
  exact postEvent_latched.after updCtx_latched

theorem tryEndPkg_latched {s : State} {c : Nat} : Latched s (tryEndPkg s c) := by
  simp only [tryEndPkg]
  split
  · exact .refl _
  · exact .ite endPkg_latched (.refl _)

theorem haltPkg_latched {s : State} {c : Nat} {q : QOp} {status : Nat} : Latched s (haltPkg s c q status) :=
  .after (.ite postEvent_latched (.refl _)) (traceState_latched.after updCtx_latched)

theorem pkgAbort_latched {s : State} {c : Nat} {all : Bool} : Latched s (pkgAbort s c all) := by
  simp only [pkgAbort]
  split
  · exact .refl _
  · exact tryEndPkg_latched.after (.after updCtx_latched (.foldl fun _ _ => writeRecord_latched))

theorem completeOp_latched {s : State} {c : Nat} {f : Flight} {afterSignal : State → State} (h : ∀ u, Latched u (afterSignal u)) :
    Latched s (completeOp s c f afterSignal) := by
  simp only [completeOp]
  split
  · exact updCtx_latched
  · refine .after (.ite pkgAbort_latched tryEndPkg_latched) (.after (.ite haltPkg_latched (.refl _)) (.after (.ite postEvent_latched (.refl _)) ?_))
    refine traceEvent_latched.after (.after updCtx_latched (.after (.ite writeRecord_latched (.refl _)) ?_))
    exact .ite ((h _).after applySignals_latched) (.refl s)

theorem noteFetch_latched {s : State} {c e : Nat} : Latched s (noteFetch s c e) := by
  simp only [noteFetch]
  split
  · exact .refl _
  · exact noteTraffic_latched

theorem advanceDispatch_latched {s : State} {c e : Nat} : Latched s (advanceDispatch s c e) := .after updCtx_latched noteFetch_latched

theorem endAtOnce_latched {s : State} {c : Nat} {q : QOp} {cls status detail : Nat} : Latched s (endAtOnce s c q cls status detail) := .own

theorem rejectEnv_latched {s : State} {c e status detail : Nat} : Latched s (rejectEnv s c e status detail) :=
  endAtOnce_latched.after advanceDispatch_latched

theorem pkgSkip_latched {s : State} {c : Nat} {afterSignal : State → State} (h : ∀ u, Latched u (afterSignal u)) : Latched s (pkgSkip s c afterSignal) :=
  tryEndPkg_latched.after (.after updCtx_latched (.foldl fun _ _ => (h _).after applySignals_latched))

theorem noteRefetch_latched {s : State} {c : Nat} {p : Pkg} {fs : List FailedOp} : Latched s (noteRefetch s c p fs) := noteTraffic_latched

theorem retryEnd_latched {s : State} {c : Nat} {p : Pkg} {f : FailedOp} : Latched s (retryEnd s c p f) := by
  simp only [retryEnd]
  split
  · exact .refl _
  · exact endAtOnce_latched.after (.ite countUe_latched (.refl _))

theorem pkgRetry_latched {s : State} {c : Nat} : Latched s (pkgRetry s c) := by
  simp only [pkgRetry]
  split
  · exact updCtx_latched
  · split
    · exact .after updCtx_latched
        (.after (.foldl fun _ _ => retryEnd_latched) (.after updCtx_latched (noteRefetch_latched.after updCtx_latched)))
    · exact .after (.foldl fun _ _ => retryEnd_latched) (.after updCtx_latched (noteRefetch_latched.after updCtx_latched))

/-! ## Plans, the Dressing, the Crusher -/

theorem scrambleOverlap_latched {s : State} {c : Nat} {p : Plan} : Latched s (scrambleOverlap s c p) := losePieces_latched

theorem touchAll_latched {s : State} {c : Nat} {recs : List Rec} : Latched s (touchAll s c recs) := .foldl fun _ _ => .ite ledgerTouch_latched (.refl _)

theorem memFault_latched {s : State} {c : Nat} {line : Nat} {outs rp wp : List (Nat × Nat)} : Latched s (memFault s c line outs rp wp).st :=
  countUe_latched.after (losePieces_latched.after noteTraffic_latched)

theorem runAfter_latched {s : State} {c : Nat} {p : Plan} {reads writes : List (Nat × Nat)} {eff : State → Result}
    (h : ∀ u, Latched u (eff u).st) : Latched s (runAfter s c p reads writes eff).st := by
  simp only [runAfter]
  split
  · exact memFault_latched
  · split
    · exact memFault_latched
    · exact scrambleOverlap_latched.after (noteTraffic_latched.after (clearBad_latched.after ((h _).after touchAll_latched)))

theorem runPlan_latched {s : State} {c : Nat} {p : Plan} {reads writes : List (Nat × Nat)} {eff : State → Result}
    (h : ∀ u, Latched u (eff u).st) : Latched s (runPlan s c p reads writes eff).st := by
  unfold runPlan
  split
  · exact .refl s
  · exact runAfter_latched h

theorem runRecs_latched {s : State} {c : Nat} {p : Plan} {eff : State → Result} (h : ∀ u, Latched u (eff u).st) :
    Latched s (runRecs s c p eff).st :=
  runPlan_latched h

theorem emitOuts_latched {s : State} {c : Nat} {fl : NumFlags} {outs : List OutVal} : Latched s (emitOuts s c fl outs).st := by
  simp only [emitOuts]
  refine Latched.foldl_fst (a := (s, fl)) fun _ _ => ?_
  exact narrowOut_latched

theorem drBody_latching {mk : State → Nat → Nat → Plan} {eff : State → Nat → Nat → Result} (h : ∀ u c e, Latched u (eff u c e).st) :
    LatchingBody (drBody mk eff) :=
  fun _ c q => runRecs_latched fun u => h u c q.env

theorem dressOp_latched {c face : Nat} {aged : Bool} {opcode : Nat} {body : Body} {s : State} (h : LatchingBody body) :
    Latched s (dressOp c face aged opcode body s) :=
  issueOp_latched h

theorem ewEff_latched {s : State} {c e : Nat} : Latched s (ewEff s c e).st := emitOuts_latched

theorem bodyEw_latching : LatchingBody bodyEw := drBody_latching fun _ _ _ => ewEff_latched

theorem actEff_latched {s : State} {c e : Nat} : Latched s (actEff s c e).st := emitOuts_latched

theorem bodyAct_latching : LatchingBody bodyAct := drBody_latching fun _ _ _ => actEff_latched

theorem actBwdEff_latched {s : State} {c e : Nat} : Latched s (actBwdEff s c e).st := emitOuts_latched

theorem bodyActBwd_latching : LatchingBody bodyActBwd := drBody_latching fun _ _ _ => actBwdEff_latched

theorem normEff_latched {s : State} {c e : Nat} : Latched s (normEff s c e).st := emitOuts_latched

theorem bodyNorm_latching : LatchingBody bodyNorm := drBody_latching fun _ _ _ => normEff_latched

theorem normBwdEff_latched {s : State} {c e : Nat} : Latched s (normBwdEff s c e).st := emitOuts_latched

theorem bodyNormBwd_latching : LatchingBody bodyNormBwd := drBody_latching fun _ _ _ => normBwdEff_latched

theorem smxEff_latched {s : State} {c e : Nat} : Latched s (smxEff s c e).st := by
  simp only [smxEff]
  split
  · exact narrowOut_latched.after emitOuts_latched
  · exact emitOuts_latched

theorem bodySmx_latching : LatchingBody bodySmx := drBody_latching fun _ _ _ => smxEff_latched

theorem smxBwdEff_latched {s : State} {c e : Nat} : Latched s (smxBwdEff s c e).st := emitOuts_latched

theorem bodySmxBwd_latching : LatchingBody bodySmxBwd := drBody_latching fun _ _ _ => smxBwdEff_latched

theorem smxMergeEff_latched {s : State} {c e : Nat} : Latched s (smxMergeEff s c e).st := emitOuts_latched

theorem bodySmxMerge_latching : LatchingBody bodySmxMerge := drBody_latching fun _ _ _ => smxMergeEff_latched

theorem redEff_latched {s : State} {c e : Nat} : Latched s (redEff s c e).st := emitOuts_latched

theorem bodyRed_latching : LatchingBody bodyRed := drBody_latching fun _ _ _ => redEff_latched

theorem cvtEff_latched {s : State} {c e : Nat} : Latched s (cvtEff s c e).st := emitOuts_latched

theorem bodyCvt_latching : LatchingBody bodyCvt := drBody_latching fun _ _ _ => cvtEff_latched

theorem split3Eff_latched {s : State} {c e : Nat} : Latched s (split3Eff s c e).st := emitOuts_latched

theorem bodySplit3_latching : LatchingBody bodySplit3 := drBody_latching fun _ _ _ => split3Eff_latched

theorem esAccumulate_latched {s : State} {c : Nat} {acc : Desc} {gext : List Nat} {set : Bool} {g : List Nat → FVal} :
    Latched s (esAccumulate s c acc gext set g).1 :=
  ledgerFold_latched.after applyPuts_latched

theorem esAccEff_latched {s : State} {c e : Nat} : Latched s (esAccEff s c e).st := esAccumulate_latched

theorem bodyEsAcc_latching : LatchingBody bodyEsAcc := drBody_latching fun _ _ _ => esAccEff_latched

theorem esFinalEff_latched {s : State} {c e : Nat} : Latched s (esFinalEff s c e).st := emitOuts_latched

theorem bodyEsFinal_latching : LatchingBody bodyEsFinal := drBody_latching fun _ _ _ => esFinalEff_latched

theorem gatherEff_latched {s : State} {c e : Nat} : Latched s (gatherEff s c e).st := by
  rw [gatherEff, idxStatus_st]
  exact applyPuts_latched

theorem bodyGather_latching : LatchingBody bodyGather := drBody_latching fun _ _ _ => gatherEff_latched

theorem scatterEff_latched {s : State} {c e : Nat} : Latched s (scatterEff s c e).st := by
  rw [scatterEff, idxStatus_st]
  exact applyPuts_latched

theorem scatterBody_latching {mk : State → Nat → Nat → Plan} {reads : Bool} {eff : State → Nat → Nat → Result}
    (h : ∀ u c e, Latched u (eff u c e).st) : LatchingBody (scatterBody mk reads eff) :=
  fun _ c q => runPlan_latched fun u => h u c q.env

theorem bodyScatter_latching : LatchingBody bodyScatter := scatterBody_latching fun _ _ _ => scatterEff_latched

theorem scatterAddEff_latched {s : State} {c e : Nat} : Latched s (scatterAddEff s c e).st := by
  simp only [scatterAddEff]
  split
  · rw [idxStatus_st]
    exact ledgerFold_latched.after applyPuts_latched
  · rw [idxStatus_st]
    exact ledgerFold_latched.after applyPuts_latched

theorem bodyScatterAdd_latching : LatchingBody bodyScatterAdd := scatterBody_latching fun _ _ _ => scatterAddEff_latched

theorem adamwEff_latched {s : State} {c e : Nat} : Latched s (adamwEff s c e).st := emitOuts_latched

theorem bodyAdamw_latching : LatchingBody bodyAdamw := drBody_latching fun _ _ _ => adamwEff_latched

theorem cruAdd_latched {s : State} {face k n : Nat} : Latched s (cruAdd s face k n) := .ite .own (.refl _)

theorem packOut_latched {s : State} {c : Nat} {face : FaceOf} {d : Desc} {ext : List Nat} {f : List Nat → FVal} :
    Latched s (packOut s c face d ext f).1 :=
  .after (.foldl fun _ _ => cruAdd_latched.after cruAdd_latched) (ledgerFold_latched.after applyPuts_latched)

theorem countExpand_latched {s : State} {face : FaceOf} {d : Desc} {ext : List Nat} : Latched s (countExpand s face d ext) :=
  .foldl fun _ _ => cruAdd_latched

theorem expandOut_latched {s : State} {c : Nat} {face : FaceOf} {src dst : Desc} {ext : List Nat} : Latched s (expandOut s c face src dst ext).1 :=
  countExpand_latched.after narrowOut_latched

theorem cgqEff_latched {s : State} {c face e : Nat} : Latched s (cgqEff s c face e).st := by
  simp only [cgqEff]
  split
  · exact narrowOut_latched.after packOut_latched
  · simp only
    exact packOut_latched

theorem bodyCgq_latching : LatchingBody bodyCgq := fun _ _ _ => runRecs_latched fun _ => cgqEff_latched

theorem cgdqEff_latched {s : State} {c face e : Nat} : Latched s (cgdqEff s c face e).st := by
  simp only [cgdqEff]
  split
  · exact narrowOut_latched.after countExpand_latched
  · exact narrowOut_latched.after countExpand_latched
  · exact esAccumulate_latched.after countExpand_latched

theorem bodyCgdq_latching : LatchingBody bodyCgdq := fun _ _ _ => runRecs_latched fun _ => cgdqEff_latched

theorem cprobeEff_latched {s : State} {c face e : Nat} : Latched s (cprobeEff s c face e).st :=
  narrowOut_latched.after (cruAdd_latched.after (cruAdd_latched.after cruAdd_latched))

theorem bodyCprobe_latching : LatchingBody bodyCprobe := fun _ _ _ => runRecs_latched fun _ => cprobeEff_latched

/-! ## The Quarry and its Drain -/

theorem zeroK_latched {s : State} {a : MatArgs} : Latched s (zeroK s a) := .ite (.refl _) (renewSump_latched.after .own)

theorem enterArray_latched {s : State} {c : Nat} : Latched s (enterArray s c) := .own

theorem countKeep_latched {s : State} {flag kept : Bool} : Latched s (countKeep s flag kept) := .ite (.refl _) (.ite .own .own)

theorem matrixRun_latched {s : State} {a : MatArgs} : Latched s (matrixRun s a).st := by
  have renewed (u : State) (m : SMap AccBits) (hit : Nat → Bool) :
      Latched u (if a.accumulate then { u with sump := m } else renewSump { u with sump := m } hit) :=
    .ite .own (renewSump_latched.after .own)
  simp only [matrixRun]
  split
  · exact renewed ..
  · exact .after .own (renewed ..)

theorem matrixStep_latched {s : State} {a : MatArgs} : Latched s (matrixStep s a).1.st := by
  simp only [matrixStep]
  split
  · exact loseSump_latched.after matrixRun_latched
  · exact matrixRun_latched

theorem qmmEffect_latched {s : State} {c : Nat} {q : QOp} : Latched s (qmmEffect s c q).st := by
  simp only [qmmEffect]
  split
  · exact zeroK_latched.after (.ite (.refl s) enterArray_latched)
  · refine matrixStep_latched.after ?_
    split
    · exact .refl s
    · exact countKeep_latched.after enterArray_latched

theorem bodyQmm_latching : LatchingBody bodyQmm := by
  intro s c q
  simp only [bodyQmm]
  split
  · exact .refl s
  · simp only
    exact runAfter_latched fun _ => qmmEffect_latched

theorem batchStep_latched {c : Nat} {acc : BatchAcc} {x : BatchEntry × MatArgs} : Latched acc.st (batchStep c acc x).st := by
  simp only [batchStep]
  split
  · exact .refl _
  · split
    · exact zeroK_latched.after enterArray_latched
    · exact matrixStep_latched.after (countKeep_latched.after enterArray_latched)

theorem batchSteps_latched {c : Nat} {l : List (BatchEntry × MatArgs)} {acc : BatchAcc} : Latched acc.st (l.foldl (batchStep c) acc).st := by
  induction l generalizing acc with
  | nil => exact .refl _
  | cons x r ih => exact ih.after batchStep_latched

theorem batchEffect_latched {s : State} {c : Nat} {q : QOp} : Latched s (batchEffect s c q).st := by
  simp only [batchEffect]
  exact batchSteps_latched (acc := ⟨s, {}, false, {}, false⟩)

theorem bodyQmmBatch_latching : LatchingBody bodyQmmBatch := fun _ _ _ => runPlan_latched fun _ => batchEffect_latched

theorem countDrain_latched {s : State} {d : Desc} {rows : Nat} : Latched s (countDrain s d rows) := .ite (.refl _) .own

theorem drainEffect_latched {s : State} {c : Nat} {q : QOp} : Latched s (drainEffect s c q).st := by
  simp only [drainEffect]
  split
  · exact loseSump_latched.after loseCtx_latched
  · exact countDrain_latched.after narrowWith_latched

theorem bodyQdrain_latching : LatchingBody bodyQdrain := fun _ _ _ => runRecs_latched fun _ => drainEffect_latched

theorem fillEffect_latched {s : State} {c : Nat} {q : QOp} : Latched s (fillEffect s c q).st := renewSump_latched.after (countDrain_latched.after .own)

theorem bodyQfill_latching : LatchingBody bodyQfill := fun _ _ _ => runRecs_latched fun _ => fillEffect_latched

theorem bodyQzero_latching : LatchingBody bodyQzero := fun _ _ _ => runRecs_latched fun _ => zeroSlots_latched

/-! ## The Hauler -/

theorem encodeTensor_latched {s : State} {c : Nat} {face : Nat → Nat} {f : Fmt} {base : Nat} {bs : List Nat} :
    Latched s (encodeTensor s c face f base bs).1 := by
  simp only [encodeTensor]
  refine Latched.foldl_fst (a := (s, 0)) fun a g => ?_
  have written (da : Nat) (l : List Nat) : Latched a.1 (cruAdd (wrBytes a.1 c da l) (face g.2) cruSegs 1) := cruAdd_latched.after .own
  split
  · exact cruAdd_latched.after (written ..)
  · split
    · exact cruAdd_latched.after (written ..)
    · exact written ..

theorem unlosslessOut_latched {s : State} {c : Nat} {face : Nat → Nat} {base : Nat} {d : Desc} {ext : List Nat} {out : List (Nat × Nat)} :
    Latched s (unlosslessOut s c face base d ext out).st := by
  unfold unlosslessOut
  split
  · exact cruAdd_latched.after loseCtx_latched
  · exact applyPuts_latched

theorem copyEff_latched {s : State} {c die e : Nat} {ext : List Nat} : Latched s (copyEff s c die e ext).st := by
  simp only [copyEff]
  split
  · split
    · exact loseKeys_latched.after loseCtx_latched
    · exact applyPuts_latched
  · split
    · simp only
      exact expandOut_latched
    · simp only
      exact packOut_latched
    · exact unlosslessOut_latched
    · exact encodeTensor_latched
    · exact applyPuts_latched
    · exact applyPuts_latched

theorem copyBegin_latched {s : State} {c die e : Nat} {ext : List Nat} : Latched s (copyBegin s c die e ext).st := runAfter_latched fun _ => copyEff_latched

theorem setBegin_latched {s : State} {c e : Nat} {ext : List Nat} : Latched s (setBegin s c e ext).st := by
  unfold setBegin
  exact runAfter_latched fun _ => applyPuts_latched

theorem haulOrHold_latched {s : State} {c : Nat} {q : QOp} {ext : List Nat} {acc : Access} {begin_ : State → List Nat → Result}
    (h : ∀ u x, Latched u (begin_ u x).st) : Latched s (haulOrHold s c q ext acc begin_).st := by
  simp only [haulOrHold]
  split
  · exact .refl s
  · exact h s ext

theorem bodyHcopy_latching : LatchingBody bodyHcopy := by
  intro s c q
  simp only [bodyHcopy]
  split
  · exact reject_latched
  · exact haulOrHold_latched fun _ _ => copyBegin_latched

theorem bodyHset_latching : LatchingBody bodyHset := by
  intro s c q
  simp only [bodyHset]
  split
  · exact reject_latched
  · exact haulOrHold_latched fun _ _ => setBegin_latched

theorem beginHeld_latched {s : State} {c : Nat} {f : Flight} : Latched s (beginHeld s c f) := by
  unfold beginHeld
  refine .after updCtx_latched (.after (.ite loseOutputs_latched (.refl _)) ?_)
  split
  · exact copyBegin_latched
  · exact setBegin_latched

/-! ## Power levels -/

theorem levelChange_latched {before : State} {cause : Nat} {s : State} : Latched s (levelChange before cause s) := by
  simp only [levelChange]
  split
  · exact .refl s
  · exact postEvent_latched.after (traceState_latched.after .own)

theorem updPwr_latched {s : State} {f : PwrS → PwrS} : Latched s (updPwr s f) := .own

theorem driveAlert_latched {s : State} : Latched s (driveAlert s) := .ite updPwr_latched (.refl _)

theorem irqUpdate_latched {s : State} : Latched s (irqUpdate s) := .ite updMbx_latched (.ite updMbx_latched (.refl _))

theorem fwStateChg_latched {s : State} : Latched s (fwStateChg s) := .own

theorem setFwState_latched {s : State} {v : Nat} : Latched s (setFwState s v) := .ite (.refl s) (fwStateChg_latched.after updMbx_latched)

theorem updLabel_latched {s : State} {f : LabelS → LabelS} : Latched s (updLabel s f) := .own

theorem requestLabel_latched {s : State} : Latched s (requestLabel s) := .own

theorem withHealth_latched {before s : State} : Latched s (withHealth before s) := .ite (.refl _) requestLabel_latched

theorem setMode_latched {s : State} {m : Mode} {cause : Nat} : Latched s (setMode s m cause) :=
  .ite (.refl s) (withHealth_latched.after (postEvent_latched.after (fwStateChg_latched.after .own)))

theorem fwWrite_latched {s : State} {ctx a v n : Nat} : Latched s (fwWrite s ctx a v n) :=
  .after (.ite wrPhys_latched wrNum_latched) (noteTraffic_latched.after clearBad_latched)

theorem fwLose_latched {s : State} {ctx a n : Nat} : Latched s (fwLose s ctx a n) := .ite loseRange_latched loseCtx_latched

theorem cmdFail_latched {s : State} {status detail : Nat} : Latched s (cmdFail s status detail).st := .own

theorem cmdTry_latched {s : State} {checks : List (Option (Nat × Nat))} {work : State → CmdOut} (h : ∀ u, Latched u (work u).st) :
    Latched s (cmdTry s checks work).st := by
  unfold cmdTry
  split
  · exact .refl s
  · exact h s

theorem dstWrite_latched {s : State} {ctx a v n result : Nat} : Latched s (dstWrite s ctx a v n result).st := by
  simp only [dstWrite]
  split
  · exact fwLose_latched.after countUe_latched
  · exact fwWrite_latched

theorem noteCmd_latched {s : State} {raw : Nat} {r : CmdOut} (h : Latched s r.st) : Latched s (noteCmd s raw r).st := by
  unfold noteCmd
  split
  · exact noteTraffic_latched.after h
  · exact h

theorem cmdRecord_latched {s : State} {i : Nat} {r : CmdOut} (h : Latched s r.st) : Latched s (cmdRecord i r) := .after .own h

theorem runCmd_latched {s : State} {i op : Nat} {kind : Nat → Bool} {work : State → Nat → CmdOut} (h : ∀ u raw, Latched u (work u raw).st) :
    Latched s (runCmd s i op kind work) := by
  unfold runCmd
  split
  · exact .refl s
  · rename_i t _
    split
    · have traced : Latched s (traceState s 40 (cmdCtx t.raw)) := traceState_latched
      refine cmdRecord_latched (.after ?_ traced)
      split
      · exact .refl _
      · exact noteCmd_latched (h _ _)
    · exact .refl s

theorem takeCmds_latched {k : Nat} {s : State} : Latched s (takeCmds k s) := by
  induction k generalizing s with
  | zero => exact .refl s
  | succ k ih =>
    simp only [takeCmds]
    split
    · split
      · exact loseRings_latched
      · exact ih.after (.after .own (noteTraffic_latched (rd := [(s.mbx.sqBase + 64 * s.mbx.sqHead, 64)]) (wr := [])))
    · exact .refl s

theorem pumpSq_latched {s : State} : Latched s (pumpSq s) := takeCmds_latched

theorem actOnEnable_latched {s : State} : Latched s (actOnEnable s) :=
  .ite (.refl _) (.ite (pumpSq_latched.after (.after (.foldl fun _ _ => postEvent_latched) updMbx_latched)) (raiseIrq_latched.after updMbx_latched))

theorem foremanServes_latched {s : State} : Latched s (foremanServes s) := pumpSq_latched.after actOnEnable_latched

theorem clearRingLost_latched {s : State} {v : Nat} : Latched s (clearRingLost s v) := .ite updMbx_latched (.refl _)

theorem execRingEnable_latches {value : BitVec 64} {s : State} : Latches s (execRingEnable value s) :=
  .ite (.next (.refl _)) (.ite (.next clearRingLost_latched) (.next (actOnEnable_latched.after (.after updMbx_latched clearRingLost_latched))))

theorem execRingDisable_latches {value : BitVec 64} {s : State} : Latches s (execRingDisable value s) := by
  simp only [execRingDisable]
  split
  · exact .next (.refl s)
  · split
    · exact .next (updMbx_latched.after clearRingLost_latched)
    · exact .next (updMbx_latched.after clearRingLost_latched)

theorem execEventsLost_latches {s : State} : Latches s (execEventsLost s) := by
  simp only [execEventsLost]
  split
  · split
    · exact .next (raiseIrq_latched.after (updMbx_latched.after postEntry_latched))
    · exact .next postEntry_latched
  · exact .next (.refl s)

theorem postCompletion_latched {s : State} {i : Nat} {t : Cmd} {r : Nat × Nat × Nat} : Latched s (postCompletion s i t r) := by
  simp only [postCompletion]
  split
  · exact updMbx_latched
  · exact .after (.ite raiseIrq_latched (.refl _)) (updMbx_latched.after postEntry_latched)

/-! ## The mailbox and the link -/

theorem updFab_latched {s : State} {f : FabS → FabS} : Latched s (updFab s f) := .own

theorem fabCount_latched {s : State} {i n : Nat} : Latched s (fabCount s i n) := .own

theorem logErr_latched {s : State} {cls sev src ctx key : Nat} : Latched s (logErr s cls sev src ctx key) := reportError_latched.after .own

theorem updPort_latched {s : State} {p : Nat} {f : Port → Port} : Latched s (updPort s p f) := .own

theorem updTun_latched {s : State} {t : Nat} {f : Tunnel → Tunnel} : Latched s (updTun s t f) := .own

theorem pushRx_latched {s : State} {src vc : Nat} {k : Pkt} : Latched s (pushRx s src vc k) := .own

theorem placePkt_latched {s t : State} {own : Bool} {from_ : Nat} {k : Pkt} (h : placePkt s own from_ k = some t) : Latched s t := by
  unfold placePkt at h
  split at h
  · cases h
    exact pushRx_latched
  · split at h
    · cases h
      exact updPort_latched
    · simp only at h
      split at h
      · cases h
        exact updTun_latched
      · cases h
    · cases h

theorem countDrop_latched {s : State} {k : Pkt} : Latched s (countDrop s k) := logErr_latched.after fabCount_latched

theorem sendQuiet_latched {s : State} {own : Bool} {from_ : Nat} {k : Pkt} : Latched s (sendQuiet s own from_ k) := by
  unfold sendQuiet
  cases placed : placePkt s own from_ k with
  | none => exact countDrop_latched
  | some t => exact placePkt_latched placed

theorem pumpTunnel_latched {n : Nat} {s : State} {t : Nat} : Latched s (pumpTunnel n s t) := by
  induction n generalizing s with
  | zero => exact .refl s
  | succ n ih =>
    simp only [pumpTunnel]
    split
    · exact .refl s
    · split
      · exact ih.after (.after (.ite sendQuiet_latched (.refl _)) (fabCount_latched.after updTun_latched))
      · exact .refl s

theorem pumpTun_latched {s : State} {t : Nat} : Latched s (pumpTun s t) := pumpTunnel_latched

theorem pumpTuns_latched {s : State} : Latched s (pumpTuns s) := .foldl fun _ _ => .ite (.refl _) pumpTun_latched

theorem sendPkt_latched {s : State} {own : Bool} {from_ : Nat} {k : Pkt} : Latched s (sendPkt s own from_ k) := by
  unfold sendPkt
  split
  · rename_i placed
    exact pumpTuns_latched.after (placePkt_latched placed)
  · exact .after (.ite sendQuiet_latched (.refl _)) countDrop_latched

theorem freeRx_latched {s : State} {r : RxPkt} : Latched s (freeRx s r) := .ite updPort_latched (.refl _)

theorem execLinkFrameReceive_latches {port : Fin 16} {fec len frame : Nat} {s0 : State} :
    Latches s0 (execLinkFrameReceive port fec len frame s0) := by
  simp only [execLinkFrameReceive]
  split
  · exact .next (.refl _)
  · split
    · exact .next (updPort_latched.after fabCount_latched)
    · split
      · split
        · exact .next
            (pushRx_latched.after
              (updPort_latched.after (.after (.ite fabCount_latched (.refl _)) (updPort_latched.after fabCount_latched))))
        · exact .next
            (fabCount_latched.after
              (updPort_latched.after
                (updPort_latched.after (.after (.ite fabCount_latched (.refl _)) (updPort_latched.after fabCount_latched)))))
      · exact .next (updPort_latched.after (.after (.ite fabCount_latched (.refl _)) (updPort_latched.after fabCount_latched)))

theorem laneEvent_latched {s : State} {sev port lane : Nat} : Latched s (laneEvent s sev port lane) := logErr_latched

theorem portDown_latched {s : State} {port st : Nat} : Latched s (portDown s port st) :=
  .after (.foldl fun _ _ => sendPkt_latched) (laneEvent_latched.after updPort_latched)

theorem laneSwapped_latched {s : State} {port lane : Nat} : Latched s (laneSwapped s port lane) :=
  logErr_latched.after (laneEvent_latched.after fabCount_latched)

theorem execWidthChange_latches {port : Fin 16} {lanes : BitVec 5} {s : State} : Latches s (execWidthChange port lanes s) :=
  .ite
    (.ite (.next updPort_latched)
      (.ite (.next (withHealth_latched.after (portDown_latched.after (fabCount_latched.after updPort_latched))))
        (.next (withHealth_latched.after (laneEvent_latched.after (updPort_latched.after (fabCount_latched.after updPort_latched)))))))
    (.next (.refl _))

theorem execPortInit_latches {port : Fin 16} {peer : BitVec 15} {peerPort : Fin 16} {recordValid : Bool} {lanes : BitVec 5} {s : State} :
    Latches s (execPortInit port peer peerPort recordValid lanes s) :=
  .ite (.next (.refl _)) (.ite (.next (withHealth_latched.after updPort_latched)) (.ite (.next updPort_latched) (.next (.refl _))))

theorem takeRx_latched {s : State} {i : Nat} {r : RxPkt} : Latched s (takeRx s i r) := freeRx_latched.after updFab_latched

theorem execPacketForward_latches {i : Nat} {s : State} : Latches s (execPacketForward i s) := by
  simp only [execPacketForward]
  split
  · exact .next (.refl _)
  · exact .ite (.next (.refl _))
      (.ite (.next (fabCount_latched.after takeRx_latched))
        (.ite (.next (.after (.ite sendQuiet_latched (.refl _)) (countDrop_latched.after takeRx_latched)))
          (.next (.after (.ite fabCount_latched (.refl _)) (sendPkt_latched.after takeRx_latched)))))

/-! ## The link's packets and the stash -/

theorem putHandle_latched {s : State} {c h e : Nat} : Latched s (putHandle s c h e) := .own

theorem markGranules_latched {s : State} {c : Nat} {own : Bool} {gs : List Nat} : Latched s (markGranules s c own gs) := .foldl fun _ _ => wrNum_latched

theorem countHeld_latched {s : State} {c k : Nat} {add sub : Nat} : Latched s (countHeld s c k add sub) := .own

theorem takeRange_latched {s : State} {c k off size : Nat} : Latched s (takeRange s c k off size) := countHeld_latched.after markGranules_latched

theorem giveRange_latched {s : State} {c k off size : Nat} : Latched s (giveRange s c k off size) := countHeld_latched.after markGranules_latched

theorem releaseHandle_latched {s : State} {c e : Nat} : Latched s (releaseHandle s c e) := by
  simp only [releaseHandle]
  split
  · exact .refl _
  · exact .ite (.refl _) (.after (.ite giveRange_latched (.refl _)) giveRange_latched)

theorem countRecomp_latched {s : State} {c : Nat} : Latched s (countRecomp s c) := .own

theorem countThrottle_latched {s : State} {c : Nat} {pools : List Nat} : Latched s (countThrottle s c pools) := .ite .own (.refl _)

theorem storeForm_latched {s : State} {c : Nat} {d : Desc} {comp : Nat} {ext : List Nat} {base : Nat} :
    Latched s (storeForm s c d comp ext base).1 := by
  simp only [storeForm]
  split
  · simp only
    exact encodeTensor_latched
  · split
    · simp only
      exact applyPuts_latched
    · simp only
      exact packOut_latched

theorem restoreForm_latched {s : State} {c : Nat} {d : Desc} {e base : Nat} {ext : List Nat} : Latched s (restoreForm s c d e base ext).st := by
  simp only [restoreForm]
  split
  · exact unlosslessOut_latched
  · split
    · exact applyPuts_latched
    · split
      · exact applyPuts_latched
      · exact expandOut_latched

theorem putState_latched {s : State} {c h v : Nat} : Latched s (putState s c h v) := .own

theorem putMove_latched {s : State} {c env e : Nat} {ext : List Nat} : Latched s (putMove s c env e ext).st :=
  wrNum_latched.after (countThrottle_latched.after storeForm_latched)

theorem getMove_latched {s : State} {c env e : Nat} {ext : List Nat} : Latched s (getMove s c env e ext).st := by
  simp only [getMove]
  split
  · exact applyPuts_latched
  · exact countThrottle_latched.after restoreForm_latched

theorem raiseMove_latched {s : State} {c e : Nat} : Latched s (raiseMove s c e).st := countThrottle_latched.after applyPuts_latched

theorem stashEff_latched {s : State} {c op env e : Nat} {ext : List Nat} : Latched s (stashEff s c op env e ext).st := by
  simp only [stashEff]
  split
  · exact putMove_latched
  · split
    · exact getMove_latched
    · exact raiseMove_latched

theorem stashMove_latched {s : State} {c op env e : Nat} {ext : List Nat} : Latched s (stashMove s c op env e ext).st :=
  runAfter_latched fun _ => stashEff_latched

theorem freeHandle_latched {s : State} {c h e : Nat} : Latched s (freeHandle s c h e) := putState_latched.after releaseHandle_latched

theorem stashApply_latched {s : State} {c op env e : Nat} {ext : List Nat} : Latched s (stashApply s c op env e ext) := by
  simp only [stashApply]
  split
  · refine putHandle_latched.after ?_
    split
    · exact takeRange_latched
    · exact .refl s
  · exact .ite (.after (.ite freeHandle_latched (.refl _)) (.ite countRecomp_latched (.refl _))) (putState_latched.after takeRange_latched)

theorem stashUndo_latched {s : State} {c : Nat} {later : List Flight} {op env e : Nat} : Latched s (stashUndo s c later op env e) := by
  simp only [stashUndo]
  split
  · exact .refl _
  · split
    · exact freeHandle_latched
    · split
      · exact putState_latched.after giveRange_latched
      · split
        · refine putState_latched.after (.after (.ite takeRange_latched (.refl _)) ?_)
          split
          · exact takeRange_latched
          · exact .refl s
        · exact .refl _

theorem stashEnd_latched {s : State} {r m : Result} {c op env e : Nat} (h : Latched s m.st) : Latched s (stashEnd r m c op env e).st := by
  simp only [stashEnd]
  split
  · exact stashUndo_latched.after h
  · exact h

theorem stashGo_latched {s s1 : State} {c op env e : Nat} {ext : List Nat} : Latched s1 (stashGo s c op env e ext s1).st := by
  simp only [stashGo]
  split
  · exact .refl s1
  · split
    · exact stashEnd_latched stashMove_latched
    · exact .refl s1

theorem stashBody_latching {op : Nat} : LatchingBody (stashBody op) := by
  intro s c q
  simp only [stashBody]
  split
  · exact reject_latched
  · exact stashGo_latched.after stashApply_latched

theorem stashBegin_latched {s : State} {c : Nat} {f : Flight} : Latched s (stashBegin s c f) :=
  .ite
    (.after updCtx_latched
      (.after (.ite stashUndo_latched (.refl _)) (.after (.ite loseOutputs_latched (.refl _)) stashMove_latched)))
    updCtx_latched

theorem stashKick_latched {s : State} : Latched s (stashKick s) := by
  unfold stashKick
  exact .foldl fun _ _ => .foldl fun _ _ => .ite stashBegin_latched (.refl _)

theorem stashOp_latched {c : Nat} {aged : Bool} {opcode : Nat} {body : Body} {s : State} (h : LatchingBody body) :
    Latched s (stashOp c aged opcode body s) :=
  issueOp_latched h

theorem bodySfree_latching : LatchingBody bodySfree := by
  intro s c q
  simp only [bodySfree]
  split
  · exact reject_latched
  · exact stashGo_latched.after (.foldl fun _ _ => freeHandle_latched)

theorem execHazardRangeRelease_latches {c : Fin 8} {die : Fin 6} {engine : Fin 8} {s : State} : Latches s (execHazardRangeRelease c die engine s) := by
  simp only [execHazardRangeRelease]
  split
  · exact .next (.refl _)
  · exact .ite (.next (stashKick_latched.after beginHeld_latched)) (.next (.refl _))

theorem stashCtl_latched {s : State} {clear : Bool} {mask : Nat} : Latched s (stashCtl s clear mask) := .own

/-! ## The stash's operations, streams and the Taproot -/

theorem updFeed_latched {s : State} {c id : Nat} {g : Feed → Feed} : Latched s (updFeed s c id g) := .own

theorem tapAdd_latched {s : State} {k n : Nat} : Latched s (tapAdd s k n) := .own

theorem lowWaterOne_latched {before : State} {s : State} {f : Feed} : Latched s (lowWaterOne before s f) :=
  .ite (.refl _) (.ite updFeed_latched (.ite (postEvent_latched.after (tapAdd_latched.after updFeed_latched)) (.refl _)))

theorem lowWater_latched {before s : State} {c : Nat} : Latched s (lowWater before s c) := .foldl fun _ _ => lowWaterOne_latched

theorem stopFeed_latched {s : State} {c id st : Nat} : Latched s (stopFeed s c id st) := .own

theorem haltFeed_latched {s : State} {c id status da : Nat} : Latched s (haltFeed s c id status da) := postEvent_latched.after stopFeed_latched

theorem faultFeed_latched {s : State} {c id status da : Nat} : Latched s (faultFeed s c id status da) :=
  haltFeed_latched.after (.ite countUe_latched (reportError_latched.after drawFree_latched))

theorem feedTouch_latched {s : State} {c : Nat} {reads writes : List (Nat × Nat)} : Latched s (feedTouch s c reads writes) :=
  noteTraffic_latched.after clearBad_latched

theorem useWork_latched {s : State} {f : Feed} {j need : Nat} : Latched s (useWork s f j need) := loseCtx_latched.after feedTouch_latched

theorem rejectRecord_latched {s : State} {f : Feed} {sample pos epoch reason detail : Nat} :
    Latched s (rejectRecord s f sample pos epoch reason detail) :=
  tapAdd_latched.after (updFeed_latched.after (feedTouch_latched.after wrNum_latched))

theorem rejectWith_latched {s : State} {f : Feed} {sample pos epoch reason detail : Nat} {goOn : State → State} (h : ∀ u, Latched u (goOn u)) :
    Latched s (rejectWith s f sample pos epoch reason detail goOn) := by
  simp only [rejectWith]
  split
  · exact faultFeed_latched
  · split
    · refine postEvent_latched.after (reportError_latched.after (drawFree_latched.after (drawFree_latched.after ?_)))
      exact stopFeed_latched.after rejectRecord_latched
    · exact (h _).after rejectRecord_latched

theorem rejectSample_latched {s : State} {f : Feed} {sample pos epoch reason detail info : Nat} {zeros : List Put} :
    Latched s (rejectSample s f sample pos epoch reason detail info zeros) :=
  rejectWith_latched fun _ => updFeed_latched.after applyPuts_latched

theorem publishBatch_latched {s : State} {f : Feed} {slots : List (Bool × Nat)} {epoch first tTick : Nat} :
    Latched s (publishBatch s f slots epoch first tTick) :=
  lowWater_latched.after
    (updFeed_latched.after
      (addTally_latched.after
        (tapAdd_latched.after
          (.after (.ite setShapeWord_latched (.refl _))
            (wrNum_latched.after (wrNum_latched.after (wrNum_latched.after feedTouch_latched)))))))

theorem execBatchPublish_latches {c : Fin 8} {feed : Fin 4} {s : State} : Latches s (execBatchPublish c feed s) := by
  simp only [execBatchPublish]
  split
  · exact .next (.refl _)
  · split
    · split
      · exact .next faultFeed_latched
      · exact .next (.after (.ite stopFeed_latched (.refl _)) publishBatch_latched)
    · exact .next (.refl _)

theorem fillCache_latched {s : State} {f : Feed} {sample cont bytes len : Nat} : Latched s (fillCache s f sample cont bytes len) :=
  .ite (.refl _) (wrNum_latched.after (applyPuts_latched.after (wrNum_latched.after wrNum_latched)))

theorem countDecode_latched {s : State} {pics samples damaged : Nat} {cores : List Nat} : Latched s (countDecode s pics samples damaged cores) := .own

theorem placeSample_latched {s : State} {f : Feed} {i : IndexEntry} {hit : Bool} {k j q : Nat} : Latched s (placeSample s f i hit k j q).1 := by
  have decoded (u : State) (m n o p : Nat) (l : List Nat) : Latched u (if hit then u else tapAdd (countDecode u m n o l) 2 p) :=
    .ite (.refl u) (tapAdd_latched.after countDecode_latched)
  simp only [placeSample]
  refine .ite_fst (.ite fillCache_latched (.refl s)) (.ite_fst (decoded ..) ?_)
  exact .after (.ite fillCache_latched (.refl _)) (decoded ..)

theorem doSample_latched {s : State} {f : Feed} {k j q : Nat} : Latched s (doSample s f k j q).1 := by
  have counted (n : Nat) : Latched s (if fbCache f = 0 then s else tapAdd s n 1) := .ite (.refl s) tapAdd_latched
  simp only [doSample]
  split
  · exact .refl s
  · refine .ite_fst (.refl s) (.ite_fst (.refl s) (.ite_fst (.refl s) ?_))
    split
    · exact .refl s
    · split
      · exact .refl s
      · refine .ite_fst (counted _) ?_
        generalize (if (decide (fbCache f ≠ 0) && cacheHit s f (posSample f q)) = true then none else badTouched s _ : Option Nat) = bad
        cases bad with
        | some l => exact countUe_latched.after (counted _)
        | none => exact placeSample_latched.after (useWork_latched.after (feedTouch_latched.after (counted _)))

theorem endSample_latched {s : State} {f : Feed} {q : Nat} {r : SampleEnd} : Latched s (endSample s f q r) := by
  simp only [endSample]
  split
  · exact faultFeed_latched
  · exact rejectSample_latched
  · exact updFeed_latched.after applyPuts_latched

theorem execTaprootSample_latches {c : Fin 8} {feed : Fin 4} {s : State} : Latches s (execTaprootSample c feed s) := by
  simp only [execTaprootSample]
  split
  · exact .next (.refl _)
  · split
    · split
      · exact .next (faultFeed_latched.after .own)
      · exact .next (endSample_latched.after (doSample_latched.after (feedTouch_latched.after .own)))
    · exact .next (.refl _)

/-! ## Fabric services -/

theorem updTxn_latched {s : State} {tag : Nat} {f : Txn → Txn} : Latched s (updTxn s tag f) := .own

theorem pumpTxns_latched {s : State} : Latched s (pumpTxns s) := by
  refine Latched.foldl_fst (a := (s, [])) fun a t => ?_
  dsimp only
  refine .ite_fst (.refl _) (.ite_fst (.ite (.refl _) (fabCount_latched.after updTxn_latched)) (.ite_fst (.refl _) ?_))
  exact sendPkt_latched.after updTxn_latched

theorem addTxn_latched {s : State} {half c i : Nat} {a : PkArgs} : Latched s (addTxn s half c i a) := .own

theorem addTxns_latched {s : State} {half c i : Nat} {l : List PkArgs} : Latched s (addTxns s half c i l) := .foldl fun _ _ => addTxn_latched

theorem dropTxns_latched {s : State} {c i : Nat} : Latched s (dropTxns s c i) := .own

theorem fabOp_latched {s : State} {c : Nat} {half : Fin 2} {aged : Bool} {kind : QOp → Bool} {body : Body} (h : LatchingBody body) :
    Latched s (fabOp s c half aged kind body) :=
  .ite (pumpTxns_latched.after (issueOp_latched h)) (.refl s)

theorem bodyCwrite_latching : LatchingBody bodyCwrite := by
  intro s c q
  simp only [bodyCwrite, goesOn_st]
  exact runPlan_latched fun _ => (Latched.own).after addTxns_latched

theorem bodyCread_latching : LatchingBody bodyCread := by
  intro s c q
  simp only [bodyCread]
  split
  · rw [goesOn_st]
    exact runPlan_latched fun _ => addTxns_latched
  · simp only [goesOn_st]
    exact runPlan_latched fun _ => addTxns_latched

theorem bodyCsignal_latching : LatchingBody bodyCsignal := by
  intro s c q
  simp only [bodyCsignal, goesOn_st]
  exact runPlan_latched fun _ => addTxn_latched

theorem updFlight_latched {s : State} {c i : Nat} {g : Flight → Flight} : Latched s (updFlight s c i g) := .own

theorem endRaced_latched {s : State} {c i : Nat} : Latched s (endRaced s c i) := by
  simp only [endRaced]
  split
  · exact .ite loseOutputs_latched (.refl _)
  · exact .refl _

theorem endFab_latched {s : State} {c i status detail : Nat} {flags : NumFlags} : Latched s (endFab s c i status detail flags) :=
  updFlight_latched.after (dropTxns_latched.after endRaced_latched)

theorem p2pFail_latched {s : State} {c : Nat} {f : Flight} {status detail : Nat} : Latched s (p2pFail s c f status detail) :=
  endFab_latched.after (.ite loseCtx_latched (.refl _))

theorem readFinish_latched {s : State} {c : Nat} {f : Flight} : Latched s (readFinish s c f) :=
  endFab_latched.after (runAfter_latched fun _ => applyPuts_latched)

theorem p2pProgress_latched {s : State} {c : Nat} {f : Flight} : Latched s (p2pProgress s c f) :=
  .ite (.refl _) (.ite (updFlight_latched.after addTxn_latched) (.ite readFinish_latched endFab_latched))

theorem refuse_latched {s : State} {r : RxPkt} : Latched s (refuse s r) := sendPkt_latched.after reportError_latched

theorem deliverWrite_latched {s : State} {r : RxPkt} : Latched s (deliverWrite s r) := by
  simp only [deliverWrite]
  split
  · exact refuse_latched
  · split
    · exact refuse_latched
    · split
      · exact refuse_latched.after countUe_latched
      · exact sendPkt_latched.after (noteTraffic_latched.after (clearBad_latched.after wrNum_latched))

theorem deliverRead_latched {s : State} {r : RxPkt} : Latched s (deliverRead s r) := by
  simp only [deliverRead]
  split
  · exact refuse_latched
  · split
    · exact refuse_latched
    · split
      · exact refuse_latched.after countUe_latched
      · exact .after (.foldl fun _ _ => sendPkt_latched) noteTraffic_latched

theorem deliverSignal_latched {s : State} {r : RxPkt} : Latched s (deliverSignal s r) := by
  simp only [deliverSignal]
  split
  · exact refuse_latched
  · exact sendPkt_latched.after (lowWater_latched.after addTally_latched)

theorem execWrite_latches {i : Nat} {s : State} : Latches s (execWrite i s) := by
  simp only [execWrite]
  split
  · exact .next (deliverWrite_latched.after takeRx_latched)
  · exact .next (.refl _)

theorem execReadReq_latches {i : Nat} {s : State} : Latches s (execReadReq i s) := by
  simp only [execReadReq]
  split
  · exact .next (deliverRead_latched.after takeRx_latched)
  · exact .next (.refl _)

theorem execSignal_latches {i : Nat} {s : State} : Latches s (execSignal i s) := by
  simp only [execSignal]
  split
  · exact .next (deliverSignal_latched.after takeRx_latched)
  · exact .next (.refl _)

theorem execReadRsp_latches {i : Nat} {s : State} : Latches s (execReadRsp i s) := by
  simp only [execReadRsp]
  split
  · exact .next (.refl _)
  · split
    · exact .next takeRx_latched
    · split
      · exact .next (updTxn_latched.after (updFab_latched.after takeRx_latched))
      · split
        · exact .next (pumpTxns_latched.after (p2pProgress_latched.after (updFab_latched.after (updFab_latched.after takeRx_latched))))
        · exact .next (pumpTxns_latched.after (updFab_latched.after (updFab_latched.after takeRx_latched)))

/-! ## Collectives, tunnels -/

theorem colCount_latched {s : State} {i n : Nat} : Latched s (colCount s i n) := .own

theorem sendColl_latched {s : State} {i : CollInst} {k : Pkt} : Latched s (sendColl s i k) := sendPkt_latched

theorem updInst_latched {s : State} {i : CollInst} {f : CollInst → CollInst} : Latched s (updInst s i f) := .own

theorem giveReady_latched {s : State} {i : CollInst} : Latched s (giveReady s i) :=
  .foldl fun _ _ => .ite (.refl _) (.foldl fun _ _ => .ite (sendColl_latched.after updInst_latched) (.refl _))

theorem giveSums_latched {s : State} {i : CollInst} : Latched s (giveSums s i) :=
  .ite (.refl _) (.foldl fun _ _ => .ite (sendColl_latched.after updInst_latched) (.refl _))

theorem giveCounts_latched {s : State} {i : CollInst} : Latched s (giveCounts s i) :=
  .ite (.refl _) (.foldl fun _ _ => .ite (sendColl_latched.after updInst_latched) (.refl _))

theorem givePieces_latched {s : State} {i : CollInst} : Latched s (givePieces s i) :=
  .foldl
    fun _ _ =>
      .foldl
        fun _ _ =>
          .foldl
            fun _ _ => .after (.ite colCount_latched (.refl _)) (colCount_latched.after (updInst_latched.after (.foldl fun _ _ => sendColl_latched)))

theorem sendAborts_latched {s : State} {i : CollInst} {ranks : List Nat} {status node : Nat} : Latched s (sendAborts s i ranks status node) :=
  .foldl fun _ _ => colCount_latched.after sendColl_latched

theorem dropInst_latched {s : State} {i : CollInst} : Latched s (dropInst s i) := .own

theorem collFail_latched {s : State} {i : CollInst} {status detail node : Nat} : Latched s (collFail s i status detail node) :=
  endFab_latched.after (dropInst_latched.after (loseCtx_latched.after (.after (.ite colCount_latched (.refl _)) sendAborts_latched)))

theorem collEnd_latched {s : State} {i : CollInst} {status detail : Nat} {flags : NumFlags} : Latched s (collEnd s i status detail flags) :=
  endFab_latched.after dropInst_latched

theorem jouDiscard_latched {s : State} {port : Nat} : Latched s (jouDiscard s port) := .own

theorem sendJouAck_latched {s : State} {t : Nat} : Latched s (sendJouAck s t) := .own

theorem addGateTxn_latched {s : State} {t dg : Nat} {k : Pkt} : Latched s (addGateTxn s t dg k) := .own

theorem injectPkt_latched {s : State} {t dg : Nat} {k : Pkt} : Latched s (injectPkt s t dg k) :=
  .ite addGateTxn_latched (.ite updTun_latched (.ite pushRx_latched sendPkt_latched))

theorem takeDatagram_latched {s : State} {t seq : Nat} {ce : Bool} {len tsval : Nat} {ps : List Pkt} : Latched s (takeDatagram s t seq ce len tsval ps) :=
  .after (.ite sendJouAck_latched (.refl _))
    (pumpTxns_latched.after (.after (.ite (.foldl fun _ _ => .ite injectPkt_latched fabCount_latched) (.refl _)) (fabCount_latched.after updTun_latched)))

theorem execJouData_latches {port : Fin 2} {ce : Bool} {len data : Nat} {s : State} : Latches s (execJouData port ce len data s) := by
  simp only [execJouData]
  split
  · exact .next (.refl _)
  · split
    · exact .next jouDiscard_latched
    · exact .ite (.next jouDiscard_latched) (.next takeDatagram_latched)

theorem execJouFenceRelease_latches {tun : Fin 64} {s : State} : Latches s (execJouFenceRelease tun s) := by
  simp only [execJouFenceRelease]
  split
  · exact .next (.refl _)
  · split
    · exact .next (.refl _)
    · exact .next (pumpTxns_latched.after (addGateTxn_latched.after updTun_latched))

theorem remoteError_latched {s : State} {t origSrc origTag status dst da : Nat} : Latched s (remoteError s t origSrc origTag status dst da) :=
  pumpTun_latched.after updTun_latched

theorem gatewayFail_latched {s : State} {x : Txn} {status : Nat} : Latched s (gatewayFail s x status) :=
  .after (.ite (.refl _) (.after (.foldl fun _ _ => remoteError_latched) updTun_latched)) (remoteError_latched.after logErr_latched)

theorem gatewayAnswer_latched {s : State} {x : Txn} {status : Nat} : Latched s (gatewayAnswer s x status) :=
  .after (.ite (.refl _) gatewayFail_latched) updFab_latched

theorem execJouRetransmit_latches {tun : Fin 64} {seq : BitVec 32} {timeout : Bool} {s : State} :
    Latches s (execJouRetransmit tun seq timeout s) := by
  simp only [execJouRetransmit]
  split
  · exact .next (.refl _)
  · exact .ite (.next (.refl _)) (.next (updTun_latched.after (fabCount_latched.after fabCount_latched)))

theorem tunnelDown_latched {s : State} {t : Nat} : Latched s (tunnelDown s t) :=
  .after (.foldl fun _ _ => sendPkt_latched) (updFab_latched.after updTun_latched)

theorem execProbe_latches {port : Fin 2} {len data : Nat} {s : State} : Latches s (execProbe port len data s) :=
  .ite (.next (.refl _))
    (.ite (.next jouDiscard_latched)
      (.ite (.next (updTun_latched.after (.ite (.refl _) updTun_latched))) (.next (.ite (.refl _) updTun_latched))))

/-! ## Operations on the fabric -/

theorem addInst_latched {s : State} {i : CollInst} : Latched s (addInst s i) := loseCtx_latched.after updFab_latched

theorem touchLedger_latched {s : State} {c e : Nat} : Latched s (touchLedger s c e) := .foldl fun _ _ => ledgerTouch_latched

theorem foldSummary_latched {s : State} {i : CollInst} : Latched s (foldSummary s i) := .ite ledgerPut_latched (.refl _)

theorem crsEff_latched {s : State} {i : CollInst} : Latched s (crsEff s i).st := by
  simp only [crsEff]
  split
  · exact applyPuts_latched.after foldSummary_latched
  · exact applyPuts_latched.after (.after (.ite (.refl _) ledgerFold_latched) foldSummary_latched)

theorem carEff_latched {s : State} {i : CollInst} : Latched s (carEff s i).st := applyPuts_latched.after foldSummary_latched

theorem cagEff_latched {s : State} {i : CollInst} : Latched s (cagEff s i).st := by
  simp only [cagEff]
  split
  · exact applyPuts_latched
  · exact applyPuts_latched

theorem digestEff_latched {s : State} {i : CollInst} : Latched s (digestEff s i).st := by
  simp only [digestEff]
  split
  · exact applyPuts_latched
  · exact applyPuts_latched

theorem cledgerEff_latched {s : State} {i : CollInst} : Latched s (cledgerEff s i).st := .foldl fun _ _ => ledgerPut_latched

theorem a2aEff_latched {s : State} {i : CollInst} : Latched s (a2aEff s i).st := by
  simp only [a2aEff]
  split
  · exact applyPuts_latched
  · exact .after (.ite (.foldl fun _ _ => setShapeWord_latched) (.refl _)) (applyPuts_latched.after (applyPuts_latched.after applyPuts_latched))

theorem collEff_latched {s : State} {i : CollInst} : Latched s (collEff s i).st := by
  simp only [collEff]
  split
  · exact crsEff_latched
  · exact cagEff_latched
  · exact carEff_latched
  · exact a2aEff_latched
  · exact cledgerEff_latched
  · exact digestEff_latched

theorem carMiddle_latched {s : State} {i : CollInst} : Latched s (carMiddle s i) :=
  .ite updInst_latched (updInst_latched.after (.ite (.refl _) ledgerFold_latched))

theorem collFinish_latched {s : State} {i : CollInst} : Latched s (collFinish s i) :=
  .ite carMiddle_latched (.ite (.after (.ite collFail_latched collEnd_latched) (runAfter_latched fun _ => collEff_latched)) (.refl _))

theorem sendToken_latched {s : State} {i : CollInst} {no : Nat} : Latched s (sendToken s i no) := sendColl_latched.after updInst_latched

theorem stageRound_latched {s t : State} {i : CollInst} {r : Nat} (h : stageRound s i r = .inl t) : Latched s t := by
  simp only [stageRound] at h
  split at h
  · cases h
  · cases h
    exact updInst_latched

theorem writeRound_latched {s : State} {i : CollInst} : Latched s (writeRound s i) :=
  .foldl fun _ _ => .ite (noteTraffic_latched.after wrNum_latched) addTxn_latched

theorem permStep_latched {s : State} {i : CollInst} : Latched s (permStep s i) := by
  simp only [permStep]
  split
  · exact collEnd_latched
  · split
    · split
      · split
        · rename_i staged
          exact (stageRound_latched staged)
        · exact collFail_latched.after countUe_latched
      · exact .ite (.refl s) updInst_latched
    · split
      · exact .foldl fun _ _ => sendToken_latched
      · split
        · exact updInst_latched.after (.ite writeRound_latched (.refl s))
        · exact .refl s

theorem collPass_latched {s : State} {c op : Nat} : Latched s (collPass s c op) := by
  have again {u v : State} {f : State → CollInst → State} (h : ∀ v i, Latched v (f v i)) (k : Latched u v) :
      Latched u (match instOf v c op with
        | some i => f v i
        | none => v) := by
    split
    · exact (h _ _).after k
    · exact k
  simp only [collPass]
  split
  · exact .refl s
  · split
    · exact .refl s
    · split
      · exact permStep_latched
      · exact again (fun _ _ => collFinish_latched) (again (fun _ _ => givePieces_latched) (again (fun _ _ => giveCounts_latched)
          (again (fun _ _ => giveSums_latched) giveReady_latched)))

theorem collPump_latched {s : State} {c op : Nat} : Latched s (collPump s c op) := .foldl fun _ _ => collPass_latched

theorem collKick_latched {s : State} : Latched s (collKick s) := pumpTxns_latched.after (.foldl fun _ _ => collPump_latched)

theorem collTake_latched {s : State} {i : CollInst} {k : Pkt} : Latched s (collTake s i k) := by
  simp only [collTake]
  split
  · exact collFail_latched
  · split
    · exact collFail_latched
    · split
      · exact .refl _
      · exact .ite (.ite updInst_latched (colCount_latched.after updInst_latched))
          (.ite updInst_latched (.ite updInst_latched updInst_latched))

theorem takeHeld_latched {s : State} {c op : Nat} : Latched s (takeHeld s c op) := by
  simp only [takeHeld]
  split
  · exact .refl _
  · refine .after (.foldl fun _ _ => ?_) updFab_latched
    split
    · exact collTake_latched
    · exact .refl _

theorem bodyColl_latching : LatchingBody bodyColl := by
  intro s c q
  have ran (p : Plan) (reads : List (Nat × Nat)) (n : Nat) (u : State) : Latched u (runPlan u c p reads [] fun s =>
      { st := addInst (if q.opcode = 0xB8 then touchLedger s c q.env else s) (mkInst (if q.opcode = 0xB8 then touchLedger s c q.env else s) c q n) }).st :=
    runPlan_latched fun _ => addInst_latched.after (.ite touchLedger_latched (.refl _))
  have noted (p : Bool) (h g : Nat) : Latched s (if p then noteIssue s h c g else s) := .ite .own (.refl s)
  simp only [bodyColl]
  rw [apply_ite Result.st, apply_ite Result.st, goesOn_st]
  dsimp only
  exact .ite (.ite (sendAborts_latched.after ((ran ..).after (noted ..))) ((ran ..).after (noted ..))) ((ran ..).after (noted ..))

theorem collIssue_latched {s : State} {c : Nat} {half : Fin 2} {aged : Bool} {kind : QOp → Bool} : Latched s (collIssue s c half aged kind) := by
  simp only [collIssue]
  split
  · exact .refl _
  · exact collKick_latched.after (takeHeld_latched.after ((fabOp_latched bodyColl_latching)))

theorem holdColl_latched {s : State} {c id : Nat} {k : Pkt} : Latched s (holdColl s c id k) := .ite updFab_latched fabCount_latched

theorem execColl_latches {i : Nat} {s : State} : Latches s (execColl i s) := by
  simp only [execColl]
  split
  · exact .next (.refl _)
  · split
    · exact .next (fabCount_latched.after takeRx_latched)
    · split
      · exact .next takeRx_latched
      · split
        · exact .next (countDrop_latched.after takeRx_latched)
        · split
          · exact .next (collKick_latched.after (collTake_latched.after takeRx_latched))
          · exact .ite (.next (holdColl_latched.after takeRx_latched)) (.next takeRx_latched)

theorem opFail_latched {s : State} {t : Txn} {status detail : Nat} : Latched s (opFail s t status detail) := by
  simp only [opFail]
  split
  · exact .own
  · split
    · exact dropTxns_latched
    · split
      · exact p2pFail_latched
      · split
        · exact collFail_latched
        · exact endFab_latched

theorem opProgress_latched {s : State} {t : Txn} : Latched s (opProgress s t) := by
  simp only [opProgress]
  split
  · exact .refl _
  · exact .ite p2pProgress_latched (.refl _)

theorem execAck_latches {i : Nat} {s : State} : Latches s (execAck i s) := by
  simp only [execAck]
  split
  · exact .next (.refl _)
  · split
    · exact .next takeRx_latched
    · exact .ite (.next (collKick_latched.after (gatewayAnswer_latched.after takeRx_latched)))
        (.ite (.next (collKick_latched.after (opFail_latched.after (updFab_latched.after takeRx_latched))))
          (.ite (.next (collKick_latched.after (opFail_latched.after (updFab_latched.after takeRx_latched))))
            (.next (collKick_latched.after (opProgress_latched.after (updFab_latched.after takeRx_latched))))))

theorem execRemoteTimeout_latches {tag : Option Nat} {c : Fin 8} {opIndex : Nat} {node : BitVec 15} {s : State} :
    Latches s (execRemoteTimeout tag c opIndex node s) := by
  simp only [execRemoteTimeout]
  split
  · exact .next (.refl _)
  · split
    · split
      · exact .next (.refl _)
      · exact .ite (.next (collKick_latched.after gatewayAnswer_latched)) (.next (collKick_latched.after opFail_latched))
    · split
      · exact .next (.refl _)
      · exact .ite (.next (collKick_latched.after collFail_latched)) (.next (.refl _))

theorem pfSignal_latched {s : State} {c : Nat} {f : Flight} : Latched s (pfSignal s c f) :=
  .ite (updFlight_latched.after (lowWater_latched.after addTally_latched)) (.refl _)

theorem execPrefetchSignal_latches {c : Fin 8} {opIndex : Nat} {s : State} : Latches s (execPrefetchSignal c opIndex s) := by
  simp only [execPrefetchSignal]
  split
  · exact .next (.refl _)
  · exact .next pfSignal_latched

theorem fabClose_latched {s : State} {c : Nat} : Latched s (fabClose s c) := by
  unfold fabClose
  exact updFab_latched.after (.foldl fun _ _ => sendAborts_latched)

/-! ## Domains, the ring store, codec sessions, feeds -/

theorem traceOwn_latched {s : State} {src type payload : Nat} : Latched s (traceOwn s src type payload) := tracePut_latched

theorem traceSuspend_latched {s : State} {d : Nat} : Latched s (traceSuspend s d) := .ite (.after .own traceOwn_latched) (.refl _)

theorem traceDrain_latched {s : State} : Latched s (traceDrain s) := .after (.foldl fun _ _ => traceWrite_latched) .own

theorem traceResume_latched {s : State} : Latched s (traceResume s) := .ite (traceDrain_latched.after (traceWrite_latched.after .own)) (.refl _)

theorem clearPlane_latched {s : State} {plane : Nat} : Latched s (clearPlane s plane) := .own

theorem setSelfRef_latched {s : State} {v : Bool} : Latched s (setSelfRef s v) := .own

theorem domLoses_latched {s : State} {d : Nat} : Latched s (domLoses s d) := by
  have stack (lo hi i : Nat) :
      Latched s { loseRange s lo hi with memS := { s.memS with stackTemp := s.memS.stackTemp.set i 0xFF, selfRef := false } } :=
    .after (t := loseRange s lo hi) .own loseRange_latched
  simp only [domLoses]
  split
  · split
    · exact .after .own clearPlane_latched
    · exact .after .own clearPlane_latched
    · exact loseRange_latched
    · exact stack ..
    · exact stack ..
    · exact .refl s
  · split
    · exact loseRange_latched
    · exact loseRange_latched
    · exact .own
    · exact .refl s

theorem domFall_latched {s : State} {d : Nat} : Latched s (domFall s d) :=
  .ite (.refl _) (.after .own (domLoses_latched.after (traceSuspend_latched.after (.ite traceOwn_latched (.refl _)))))

theorem domRise_latched {s : State} {d : Nat} : Latched s (domRise s d) :=
  .ite (.refl _) (traceResume_latched.after (.after (.ite traceOwn_latched (.refl _)) .own))

theorem putDir_latched {s : State} {c n e : Nat} : Latched s (putDir s c n e) := .own

theorem updRing_latched {s : State} {c : Nat} {f : RingUse → RingUse} : Latched s (updRing s c f) := .own

theorem indexCtx_latched {s : State} {c da count : Nat} : Latched s (indexCtx s c da count) := by
  simp only [indexCtx]
  refine .foldl fun u p => ?_
  split
  · exact .own
  · exact .refl u

theorem pushFree_latched {s : State} {c first depth v : Nat} : Latched s (pushFree s c first depth v) := .own

theorem popFrame_latched {s : State} {c : Nat} : Latched s (popFrame s c).2 := by
  simp only [popFrame]
  split
  · simp only
    exact updRing_latched
  · simp only
    exact updRing_latched

theorem popTable_latched {s : State} {c : Nat} : Latched s (popTable s c).2 := by
  simp only [popTable]
  split
  · simp only
    exact updRing_latched
  · simp only
    exact updRing_latched

theorem allocPage_latched {s : State} {c slot key : Nat} : Latched s (allocPage s c slot key) := by
  have filled {u : State} {a b v w n m : Nat} (h : Latched s u) : Latched s (wrNum (wrNum (popFrame u c).2 c a v n) c b w m) :=
    wrNum_latched.after (wrNum_latched.after (popFrame_latched.after h))
  simp only [allocPage]
  split
  · exact filled (.refl s)
  · exact filled (wrNum_latched.after (wrNum_latched.after popTable_latched))

theorem freePage_latched {s : State} {c slot key : Nat} : Latched s (freePage s c slot key) := by
  simp only [freePage]
  split
  · exact .refl _
  · exact .after (.ite (.refl _) (wrNum_latched.after (pushFree_latched.after updRing_latched)))
      (wrNum_latched.after (pushFree_latched.after updRing_latched))

theorem freePages_latched {s : State} {c slot lo hi : Nat} : Latched s (freePages s c slot lo hi) := .foldl fun _ _ => freePage_latched

theorem ringRollback_latched {s : State} {c : Nat} {aux : List Nat} : Latched s (ringRollback s c aux) := .foldl fun _ _ => freePages_latched

theorem takeSlot_latched {s : State} {c : Nat} : Latched s (takeSlot s c).2 := .own

theorem giveSlot_latched {s : State} {c slot : Nat} : Latched s (giveSlot s c slot) := .own

theorem rlbDropSeq_latched {s : State} {c slot : Nat} : Latched s (rlbDropSeq s c slot) := .own

theorem copyCtx_latched {s : State} {c src dst n : Nat} : Latched s (copyCtx s c src dst n) := .own

theorem swapOut_latched {s : State} {c n : Nat} {fail : Bool} : Latched s (swapOut s c n fail).1 := by
  simp only [swapOut]
  split
  · exact .after .own (drawFree_latched.after loseCtx_latched)
  · split
    · exact countUe_latched.after (.after .own (drawFree_latched.after loseCtx_latched))
    · refine .after .own (putDir_latched.after (rlbDropSeq_latched.after (giveSlot_latched.after (freePages_latched.after ?_))))
      exact .after (.foldl fun _ _ => copyCtx_latched) (wrNum_latched.after noteTraffic_latched)

theorem swapIn_latched {s : State} {c n : Nat} {fail : Bool} : Latched s (swapIn s c n fail).1 := by
  simp only [swapIn]
  split
  · exact .after .own drawFree_latched
  · split
    · exact .own
    · exact .after .own
        (putDir_latched.after
          (clearBad_latched.after
            (noteTraffic_latched.after
              (.after (.foldl fun _ _ => copyCtx_latched) (.after (.foldl fun _ _ => allocPage_latched) takeSlot_latched)))))

theorem runSwaps_latched {s : State} {c : Nat} {fail : Option Nat} {l : List ((Bool × Nat) × Nat)} : Latched s (runSwaps s c fail l).1 := by
  induction l generalizing s with
  | nil => exact .refl s
  | cons x r ih =>
    obtain ⟨⟨out, n⟩, i⟩ := x
    have swapped : Latched s (if out then swapOut s c n (fail = some i) else swapIn s c n (fail = some i)).1 := by
      split
      · exact swapOut_latched
      · exact swapIn_latched
    simp only [runSwaps]
    split
    · exact swapped
    · exact ih.after (.after (.ite (Latched.own) (.refl _)) swapped)

theorem makeResident_latched {s : State} {c : Nat} {need : RingNeed} {fail : Option Nat} : Latched s (makeResident s c need fail).1 := runSwaps_latched

theorem grantOne_latched {enc : Bool} {s : State} : Latched s (grantOne enc s) := by
  simp only [grantOne]
  split
  · exact .refl _
  · exact .ite (.refl _) .own

theorem vccGrant_latched {s : State} : Latched s (vccGrant s) := .after (.foldl fun _ _ => grantOne_latched) (.foldl fun _ _ => grantOne_latched)

theorem vccOpen_latched {s : State} {w : VccSession} : Latched s (vccOpen s w) := .own

theorem openStreamSessions_latched {s : State} {c id : Nat} {streams : List LiveStream} : Latched s (openStreamSessions s c id streams) :=
  .foldl fun _ _ => vccOpen_latched

theorem startFeed_latched {s : State} {c e : Nat} {live : Bool} : Latched s (startFeed s c e live) := openStreamSessions_latched.after .own

theorem bodyFeed_latching {live : Bool} : LatchingBody (bodyFeed live) := by
  intro s c q
  simp only [bodyFeed]
  split
  · exact reject_latched
  · split
    · exact countUe_latched.after noteTraffic_latched
    · exact startFeed_latched.after noteTraffic_latched

theorem tapOp_latched {c : Nat} {aged : Bool} {opcode : Nat} {body : Body} {s : State} (h : LatchingBody body) : Latched s (tapOp c aged opcode body s) :=
  issueOp_latched h

theorem bodyTstop_latching : LatchingBody bodyTstop := by
  intro s c q
  simp only [bodyTstop]
  split
  · exact reject_latched
  · split
    · exact reject_latched
    · split
      · exact .refl _
      · split
        · exact .refl _
        · split
          · exact stopFeed_latched
          · exact updFeed_latched

theorem bodyTstate_latching : LatchingBody bodyTstate := by
  intro s c q
  simp only [bodyTstate]
  split
  · exact reject_latched
  · split
    · exact reject_latched
    · split
      · exact reject_latched
      · exact noteTraffic_latched.after (clearBad_latched.after wrNum_latched)

theorem updStream_latched {s : State} {c id j : Nat} {g : LiveStream → LiveStream} : Latched s (updStream s c id j g) := .own

theorem rejectLive_latched {s : State} {f : Feed} {source reason detail : Nat} : Latched s (rejectLive s f source reason detail) :=
  rejectWith_latched fun _ => .refl _

theorem frameComplete_latched {s : State} {f : Feed} {j : Nat} {fr : LiveFrame} : Latched s (frameComplete s f j fr) := by
  simp only [frameComplete]
  split
  · exact tapAdd_latched.after updStream_latched
  · split
    · exact updStream_latched
    · split
      · exact rejectLive_latched.after updStream_latched
      · exact .after (.ite tapAdd_latched (.refl _)) (updStream_latched.after updStream_latched)

theorem frameEnter_latched {s : State} {f : Feed} {j : Nat} {fr : LiveFrame} : Latched s (frameEnter s f j fr) :=
  .ite updStream_latched (.ite tapAdd_latched (updStream_latched.after (tapAdd_latched.after updStream_latched)))

theorem frameFragment_latched {s : State} {f : Feed} {j len data : Nat} : Latched s (frameFragment s f j len data) := by
  simp only [frameFragment]
  split
  · exact .refl _
  · split
    · exact .ite (.refl _) (.ite frameComplete_latched updStream_latched)
    · exact .ite tapAdd_latched (.ite tapAdd_latched (.ite frameComplete_latched frameEnter_latched))

theorem execLiveDatagramReceive_latches {port : Fin 2} {udpPort : BitVec 16} {len data : Nat} {s : State} :
    Latches s (execLiveDatagramReceive port udpPort len data s) := by
  simp only [execLiveDatagramReceive]
  split
  · exact .next (.refl _)
  · split
    · exact .next tapAdd_latched
    · split
      · exact .next tapAdd_latched
      · exact .ite (.next tapAdd_latched) (.next (vccGrant_latched.after frameFragment_latched))

theorem execLiveFrameIncomplete_latches {c : Fin 8} {feed : Fin 4} {stream : Fin 32} {frame : BitVec 32} {s : State} :
    Latches s (execLiveFrameIncomplete c feed stream frame s) := by
  simp only [execLiveFrameIncomplete]
  split
  · exact .next (.refl _)
  · split
    · exact .next (.refl _)
    · exact .next (tapAdd_latched.after updStream_latched)

theorem decodeLive_latched {s : State} {f : Feed} {j : Nat} : Latched s (decodeLive s f j) := by
  simp only [decodeLive]
  split
  · exact .refl _
  · split
    · exact rejectLive_latched.after updStream_latched
    · split
      · exact faultFeed_latched
      · exact .after (.ite (rejectLive_latched.after updStream_latched) updStream_latched) (countDecode_latched.after useWork_latched)

theorem tickSlot_latched {tk j : Nat} {s : State} {f : Feed} : Latched s (tickSlot tk j s f) := by
  simp only [tickSlot]
  split
  · exact tapAdd_latched.after (updFeed_latched.after applyPuts_latched)
  · exact .ite (tapAdd_latched.after (updFeed_latched.after applyPuts_latched)) (updFeed_latched.after applyPuts_latched)

theorem dropStale_latched {s : State} {f : Feed} {moment : Nat} : Latched s (dropStale s f moment) := .own

theorem tickStep_latched {c id tk : Nat} {s : State} {j : Nat} : Latched s (tickStep c id tk s j) := by
  simp only [tickStep]
  split
  · exact .ite tickSlot_latched (.refl _)
  · exact .refl _

theorem execLiveTick_latches {c : Fin 8} {feed : Fin 4} {s : State} : Latches s (execLiveTick c feed s) := by
  simp only [execLiveTick]
  split
  · exact .next (.refl _)
  · split
    · exact .next (.refl _)
    · split
      · exact .next updFeed_latched
      · split
        · exact .next (updFeed_latched.after tapAdd_latched)
        · split
          · exact .next faultFeed_latched
          · split
            · exact .ite
                (.next
                  (updFeed_latched.after
                    (publishBatch_latched.after (.after (.foldl fun _ _ => tickStep_latched) (dropStale_latched.after feedTouch_latched)))))
                (.next (.after (.foldl fun _ _ => tickStep_latched) (dropStale_latched.after feedTouch_latched)))
            · exact .next (.after (.foldl fun _ _ => tickStep_latched) (dropStale_latched.after feedTouch_latched))

/-! ## Relay-only, and the commands on contexts -/

theorem withdrawPkg_latched {s : State} {c : Nat} {p : Pkg} : Latched s (withdrawPkg s c p) := postEvent_latched

theorem abortCtx_latched {s : State} {c : Nat} : Latched s (abortCtx s c) :=
  pkgAbort_latched.after (.after (.foldl fun _ _ => withdrawPkg_latched) updCtx_latched)

theorem stopFeeds_latched {s : State} {c : Nat} : Latched s (stopFeeds s c) := .foldl fun _ _ => stopFeed_latched

theorem abortColls_latched {s : State} {c : Nat} : Latched s (abortColls s c) := by
  unfold abortColls
  exact updFab_latched.after (.foldl fun _ _ => collFail_latched)

theorem closeBegin_latched {s : State} {c : Nat} : Latched s (closeBegin s c) := abortColls_latched.after (stopFeeds_latched.after abortCtx_latched)

theorem dropCtx_latched {s : State} {c : Nat} : Latched s (dropCtx s c) := by
  have gone (u : State) : Latched u (zeroSlots (rlbDrop (fabClose u c) fun e => e.1 = c) (ctxOf s c).sumpFirst (ctxOf s c).sumpCount) :=
    zeroSlots_latched.after (.after .own fabClose_latched)
  exact .after .own (gone s)

theorem afterClose_latched {s : State} : Latched s (afterClose s) := by
  simp only [afterClose]
  split
  · exact .refl s
  · split
    · exact .after (.foldl fun _ _ => domFall_latched) (setSelfRef_latched.after setMode_latched)
    · exact .foldl fun _ _ => domFall_latched

theorem closeEnd_latched {s : State} {c : Nat} : Latched s (closeEnd s c) := afterClose_latched.after (dropCtx_latched.after ledgerWriteBack_latched)

theorem closeNow_latched {s : State} {c : Nat} : Latched s (closeNow s c) := closeEnd_latched.after (.after updCtx_latched closeBegin_latched)

theorem abandonAll_latched {s : State} : Latched s (abandonAll s) :=
  .after (.foldl fun _ _ => postEvent_latched) (.foldl fun _ _ => dropCtx_latched.after abortColls_latched)

theorem closeTunnels_latched {s : State} : Latched s (closeTunnels s) := .foldl fun _ _ => updTun_latched.after tunnelDown_latched

theorem relayEnter_latched {s : State} {cause : Nat} : Latched s (relayEnter s cause) := by
  have fallen (u : State) : Latched u (relayOffDomains.foldl domFall (closeTunnels (abandonAll u))) :=
    .after (.foldl fun _ _ => domFall_latched) (closeTunnels_latched.after abandonAll_latched)
  have cleaned (u : State) (l : List BadRange) : Latched u { u with memS := { u.memS with bad := l } } := .own
  have redrawn (u : State) : Latched u (requestLabel { updMbx (loseRings u) fun m => { m with taken := m.taken.map relayCmd } with
      ras := closeAllCoal 32 (updMbx (loseRings u) fun m => { m with taken := m.taken.map relayCmd }).ras }) :=
    requestLabel_latched.after (.after (.ras (closeAllCoal_first ..)) (updMbx_latched.after loseRings_latched))
  simp only [relayEnter]
  split
  · exact (redrawn _).after (setMode_latched.after ((cleaned ..).after ((fallen _).after .own)))
  · exact .ite .own (.refl s)

theorem zeroCtx_latched {s : State} {c a n : Nat} : Latched s (zeroCtx s c a n) := .foldl fun _ _ => clearBad_latched.after zeroRange_latched

theorem openTables_latched {s : State} {n : Nat} : Latched s (openTables s n) :=
  .after (.ite (.refl _) (indexCtx_latched.after (indexCtx_latched.after (zeroCtx_latched.after zeroCtx_latched)))) (.ite (.refl _) zeroCtx_latched)

theorem openCtx_latched {s : State} {n b : Nat} : Latched s (openCtx s n b) := by
  have opened (st : StashS) : Latched s (planeDomains.foldl domRise (openTables { s with ctxs := s.ctxs.set n (openedCtx s b), stash := st } n)) :=
    .after (.foldl fun _ _ => domRise_latched) (openTables_latched.after .own)
  exact setMode_latched.after (setSelfRef_latched.after (.after (.ite (.refl _) (.foldl fun _ _ => domRise_latched)) (opened _)))

theorem workOpen_latched {s : State} {raw : Nat} : Latched s (workOpen s raw).st := by
  simp only [workOpen]
  refine cmdTry_latched fun u => ?_
  simp only
  exact openCtx_latched

theorem workClose_latched {s : State} {raw : Nat} : Latched s (workClose s raw).st := cmdTry_latched fun _ => closeBegin_latched

theorem workMap_latched {s : State} {raw : Nat} : Latched s (workMap s raw).st := cmdTry_latched fun _ => updCtx_latched

theorem workSubmit_latched {s : State} {raw : Nat} : Latched s (workSubmit s raw).st := cmdTry_latched fun _ => updCtx_latched

theorem workPkg_latched {act : State → Nat → State} {s : State} {raw : Nat} (h : ∀ u c, Latched u (act u c)) : Latched s (workPkg act s raw).st :=
  cmdTry_latched fun u => h u _

theorem skipPkg_latched {s : State} {c : Nat} : Latched s (skipPkg s c) := pkgSkip_latched fun _ => lowWater_latched

theorem workTallyRead_latched {s : State} {raw : Nat} : Latched s (workTallyRead s raw).st := cmdTry_latched fun _ => dstWrite_latched

theorem setTallies_latched {s : State} {c first count v : Nat} : Latched s (setTallies s c first count v) :=
  .foldl fun _ _ => lowWater_latched.after setTally_latched

theorem workTallySet_latched {s : State} {raw : Nat} : Latched s (workTallySet s raw).st := cmdTry_latched fun _ => setTallies_latched

theorem workLedgerRead_latched {s : State} {raw : Nat} : Latched s (workLedgerRead s raw).st := cmdTry_latched fun _ => dstWrite_latched

theorem ledgerStore_latched {s : State} {c first count v : Nat} : Latched s (ledgerStore s c first count v) :=
  fwWrite_latched.after updCtx_latched

theorem workLedgerWrite_latched {s : State} {raw : Nat} : Latched s (workLedgerWrite s raw).st := cmdTry_latched fun _ => ledgerStore_latched

theorem workStashWrite_latched {s : State} {raw : Nat} : Latched s (workStashWrite s raw).st :=
  cmdTry_latched fun _ => .foldl fun _ _ => .own

/-! ## Error events and records -/

theorem repairEvent_latched {s : State} {kind item : Nat} : Latched s (repairEvent s kind item) := logErr_latched

theorem markSuspect_latched {s : State} {ch : Nat} : Latched s (markSuspect s ch) := .ite (.refl _) (repairEvent_latched.after .own)

theorem noteUeRow_latched {s : State} {line : Nat} : Latched s (noteUeRow s line) := .after (.ite markSuspect_latched (.refl _)) .own

theorem noteCeLine_latched {s : State} {line : Nat} : Latched s (noteCeLine s line) := .after (.ite markSuspect_latched (.refl _)) .own

theorem noteSpBit_latched {s : State} {line bitNo : Nat} : Latched s (noteSpBit s line bitNo) :=
  .ite (.ite (.refl _) (repairEvent_latched.after .own)) .own

theorem undoOne_latched {later : List Flight} {s : State} {u : Nat × Nat × Nat} : Latched s (undoOne later s u) := .ite (.refl _) wrPhys_latched

theorem failFabric_latched {s : State} {c : Nat} {f : Flight} {status detail : Nat} : Latched s (failFabric s c f status detail) := by
  simp only [failFabric]
  split
  · split
    · exact collFail_latched
    · exact dropTxns_latched
  · exact .refl _

theorem failFlight_latched {s : State} {c : Nat} {f : Flight} {status detail : Nat} : Latched s (failFlight s c f status detail) :=
  .after updCtx_latched
    (.after (.ite stashUndo_latched (.refl _))
      (.after (.ite ringRollback_latched (.refl _))
        (.after (.foldl fun _ _ => undoOne_latched) (loseOutputs_latched.after failFabric_latched))))

theorem endReader_latched {s : State} {c : Nat} {b : BadRange} : Latched s (endReader s c b) := by
  simp only [endReader]
  split
  · exact .refl _
  · split
    · exact failFlight_latched
    · split
      · exact haltFeed_latched
      · exact .refl _

theorem farFlight_latched {s : State} {c : Nat} {f : Flight} : Latched s (farFlight s c f) := by
  simp only [farFlight]
  split
  · exact .ite failFlight_latched (.refl _)
  · exact .refl _

theorem withdrawFar_latched {s : State} : Latched s (withdrawFar s) := by
  have withdrawn (u : State) : Latched u { u with memS := { u.memS with farWithdrawn := true } } := .own
  simp only [withdrawFar]
  split
  · exact .refl s
  · exact (withdrawn _).after (.foldl fun _ _ => .foldl fun _ _ => farFlight_latched)

theorem addBad_latched {s : State} {b : BadRange} : Latched s (addBad s b) := .ite (.refl _) .own

theorem arrayFault_latched {s : State} : Latched s (arrayFault s) := by
  simp only [arrayFault]
  split
  · exact .refl _
  · exact failFlight_latched

theorem sumpError_latched {s : State} {key : Nat} : Latched s (sumpError s key) := by
  simp only [sumpError]
  split
  · exact .refl _
  · exact .after (.foldl fun _ _ => .foldl fun _ _ => .ite failFlight_latched (.refl _)) (.after .own drawFree_latched)

theorem eventEffect_latched {s : State} {e : ErrEvent} : Latched s (eventEffect s e) :=
  .ite (.ite (noteSpBit_latched.after .own) (endReader_latched.after (addBad_latched.after .own)))
    (.ite
      (.ite (noteCeLine_latched.after .own)
        (noteUeRow_latched.after (endReader_latched.after (addBad_latched.after .own))))
      (.ite (.ite .own (.ite (.ite (endReader_latched.after .own) (.refl _)) withdrawFar_latched))
        (.ite (.ite (.ite .own (.ite sumpError_latched (.refl _))) (.ite arrayFault_latched (.refl _))) (.refl _))))

theorem execErrorEvent_latches {cls : Fin 16} {sev : Fin 4} {src inst ctx : BitVec 8} {key : BitVec 64} {info : BitVec 128} {s : State} :
    Latches s (execErrorEvent cls sev src inst ctx key info s) :=
  .ite (.next (.refl _)) (.next (withHealth_latched.after (.after (.ite relayEnter_latched (.refl _)) (reportError_latched.after eventEffect_latched))))

theorem errorLogged_latched {s : State} {cls seq : Nat} : Latched s (errorLogged s cls seq) := .ite (postEvent_latched.after (.ras rfl)) (.refl _)

theorem commitEvent_latched {s : State} {e : Coal} : Latched s (commitEvent s e) := by
  have committed (r : RasS) (t n p c q : Nat) (h : r.first = s.ras.first) :
      Latched s (errorLogged (traceEvent { s with ras := r } t n p c) e.ev.cls q) :=
    errorLogged_latched.after (traceEvent_latched.after (.ras h))
  simp only [commitEvent]
  refine .after (.ite requestLabel_latched (.refl _)) (committed _ _ _ _ _ _ ?_)
  split
  · simp
  · simp

theorem execLogCommit_latches {s : State} : Latches s (execLogCommit s) := by
  simp only [execLogCommit]
  split
  · exact .next (.refl s)
  · split
    · exact .next (.ras (by simp))
    · split
      · exact .next (.ras (by simp))
      · split
        · exact .next (.refl s)
        · exact .next (withHealth_latched.after (commitEvent_latched.after (.ras rfl)))

theorem workIdentify_latched {s : State} {raw : Nat} : Latched s (workIdentify s raw).st := cmdTry_latched fun _ => dstWrite_latched

/-! ## Administration, boxes, the Canopy, the Chisel -/

theorem workHealth_latched {s : State} {raw : Nat} : Latched s (workHealth s raw).st := cmdTry_latched fun _ => dstWrite_latched

theorem workCfgGet_latched {s : State} {raw : Nat} : Latched s (workCfgGet s raw).st := by
  simp only [workCfgGet]
  split
  · exact cmdFail_latched
  · exact .refl _

theorem setInterleave_latched {s : State} {global : Bool} : Latched s (setInterleave s global) := .ite (.refl _) (loseRange_latched.after .own)

theorem workCfgSet_latched {s : State} {raw : Nat} : Latched s (workCfgSet s raw).st := by
  simp only [workCfgSet]
  split
  · refine cmdTry_latched fun _ => ?_
    simp only
    exact setInterleave_latched
  · split
    · refine cmdTry_latched fun _ => ?_
      simp only
      exact updMbx_latched
    · split
      · refine cmdTry_latched fun _ => ?_
        simp only
        exact updMbx_latched
      · exact cmdFail_latched

theorem workLogRead_latched {s : State} {raw : Nat} : Latched s (workLogRead s raw).st := by
  have noted (u : State) (n : Nat) : Latched u { u with ras := { u.ras with highRead := n } } := .ras rfl
  simp only [workLogRead]
  refine cmdTry_latched fun _ => ?_
  rw [apply_ite CmdOut.st]
  exact .ite ((noted _ _).after dstWrite_latched) dstWrite_latched

theorem workPwrCap_latched {s : State} {raw : Nat} : Latched s (workPwrCap s raw).st := by
  unfold workPwrCap
  refine cmdTry_latched fun _ => ?_
  simp only
  exact updPwr_latched

theorem setGroup_latched {s : State} {st g : Nat} : Latched s (setGroup s st g) := by
  have put : Latched s { s with memS := { s.memS with ret := s.memS.ret.set g st } } := .own
  simp only [setGroup]
  split
  · exact .refl s
  · split
    · exact clearBad_latched.after (zeroRange_latched.after put)
    · exact .after (.ite loseRange_latched (.refl _)) put

theorem workPwrRetain_latched {s : State} {raw : Nat} : Latched s (workPwrRetain s raw).st :=
  cmdTry_latched fun _ => traceState_latched.after (.foldl fun _ _ => setGroup_latched)

theorem bdCount_latched {s : State} {c e n : Nat} : Latched s (bdCount s c e n) := .ite setShapeWord_latched (.refl _)

theorem bdBodyOf_latching {mk : State → Nat → Nat → Plan} {outs : State → Nat → Nat → List (Nat × Nat)} {eff : State → Nat → Nat → Result}
    (h : ∀ u c e, Latched u (eff u c e).st) : LatchingBody (bdBodyOf mk outs eff) := by
  intro u c q
  simp only [bdBodyOf]
  split
  · split
    · exact bdCount_latched
    · exact reject_latched
  · exact runAfter_latched fun _ => h ..

theorem bdBody_latching {mk : State → Nat → Nat → Plan} {eff : State → Nat → Nat → Result} (h : ∀ u c e, Latched u (eff u c e).st) :
    LatchingBody (bdBody mk eff) :=
  bdBodyOf_latching h

theorem bdOp_latched {c face : Nat} {aged : Bool} {opcode : Nat} {body : Body} {s : State} (h : LatchingBody body) :
    Latched s (bdOp c face aged opcode body s) :=
  issueOp_latched h

theorem bodyBoxdec_latching : LatchingBody bodyBoxdec := bdBody_latching fun _ _ _ => .own

theorem boxselEff_latched {s : State} {c e : Nat} : Latched s (boxselEff s c e).st := bdCount_latched.after applyPuts_latched

theorem bodyBoxsel_latching : LatchingBody bodyBoxsel := bdBodyOf_latching fun _ _ _ => boxselEff_latched

theorem nmsEff_latched {s : State} {c e : Nat} : Latched s (nmsEff s c e).st := bdCount_latched.after applyPuts_latched

theorem bodyNms_latching : LatchingBody bodyNms := bdBodyOf_latching fun _ _ _ => nmsEff_latched

theorem bodyArgmax_latching : LatchingBody bodyArgmax := bdBody_latching fun _ _ _ => .own

theorem swapDetail_latched {s : State} {l : List Nat} {x : Nat × Nat} : Latched s (swapDetail s l x).1 := by
  simp only [swapDetail]
  split
  · exact .refl s
  · split
    · exact .refl s
    · exact drawFree_latched

theorem listOp_latched {s : State} {c : Nat} {p : Plan} {l : List Nat} {t : Nat} {zero : Bool} {swapFail : Option Nat} {run : State → Result}
    (h : ∀ u, Latched u (run u).st) : Latched s (listOp s c p l t zero swapFail run).st := by
  simp only [listOp]
  split
  · exact reject_latched
  · split
    · exact reject_latched
    · have resident : Latched s (makeResident s c (needOf s c l t) swapFail).1 := makeResident_latched
      split
      · rename_i s1 x eq
        rw [eq] at resident
        exact swapDetail_latched.after resident
      · rename_i s1 eq
        rw [eq] at resident
        exact (h _).after (.after (.foldl fun _ _ => .own) resident)

theorem countPages_latched {s : State} {c : Nat} {g : RingCfg} {plan : List (Task × List Nat × List Nat × Bool)} : Latched s (countPages s c g plan) :=
  .after .own (drawFree_latched.after (.foldl fun _ _ => .foldl fun _ _ => .own))

theorem cattnRun_latched {p : Plan} {s : State} {c e : Nat} {l : List Nat} : Latched s (cattnRun p s c e l).st := by
  unfold cattnRun
  exact runAfter_latched fun _ => .ite (narrowOut_latched.after (narrowOut_latched.after countPages_latched)) (narrowOut_latched.after countPages_latched)

theorem bodyCattn_latching {swapFail : Option Nat} : LatchingBody (bodyCattn swapFail) := by
  unfold bodyCattn
  exact fun _ _ _ => listOp_latched fun _ => cattnRun_latched

theorem canopyOp_latched {c : Nat} {aged : Bool} {kind : QOp → Bool} {body : Body} {s : State} (h : LatchingBody body) :
    Latched s (canopyOp c aged kind body s) :=
  issueOp_latched h

theorem writeSummary_latched {s : State} {c : Nat} {g : RingCfg} {f h : Nat} : Latched s (writeSummary s c g f h) := .own

/-- Steps over what an append has done so far. -/
theorem foldl_append_latched {α : Type} {f : Append → α → Append} (h : ∀ a x, Latched a.st (f a x).st) {a : Append} {l : List α} :
    Latched a.st (l.foldl f a).st := by
  induction l generalizing a with
  | nil => exact .refl a.st
  | cons x r ih => exact ih.after (h a x)

theorem storeRow_latched {s : State} {c : Nat} {g : RingCfg} {d : Desc} {exp : Int} {idx : Nat → List Nat} {da : Nat} {a : Append} :
    Latched a.st (storeRow s c g d exp idx da a).st := .own

theorem appendPage_latched {s : State} {c e : Nat} {g : RingCfg} {slot b start t0 n lp grp : Nat} {a : Append} :
    Latched a.st (appendPage s c e g slot b start t0 n lp grp a).st := by
  simp only [appendPage]
  refine .after (foldl_append_latched fun u h => ?_) ?_
  · have rows (v : State) (l : List Nat) (fl : NumFlags) (bad : Nat) (f : Append → Nat → Append) (stored : ∀ a t, Latched a.st (f a t).st) :
        Latched v (l.foldl f ⟨v, fl, bad⟩).st :=
      foldl_append_latched (a := ⟨v, fl, bad⟩) stored
    have begun (p : Bool) (da v : Nat) : Latched u.st (if p then u.st else wrNum u.st c da v 3) := .ite (.refl _) wrNum_latched
    split
    · exact writeSummary_latched.after ((rows _ _ _ _ _ fun _ _ => storeRow_latched.after storeRow_latched).after (begun ..))
    · exact (rows _ _ _ _ _ fun _ _ => storeRow_latched.after storeRow_latched).after (begun ..)
  · split
    · exact allocPage_latched
    · exact .refl _

theorem appendEntry_latched {s : State} {c e : Nat} {g : RingCfg} {slot b start t : Nat} {a : Append} :
    Latched a.st (appendEntry s c e g slot b start t a).st :=
  foldl_append_latched fun _ _ => foldl_append_latched fun _ _ => appendPage_latched

theorem rappendRun_latched {p : Plan} {s : State} {c e : Nat} {l : List Nat} {t : Nat} : Latched s (rappendRun p s c e l t).st := by
  simp only [rappendRun]
  refine runAfter_latched fun u => ?_
  have appended (f : Append → Nat × Nat → Append) (h : ∀ a x, Latched a.st (f a x).st) :
      Latched u (l.zipIdx.foldl f ⟨u, {}, 0⟩).st :=
    foldl_append_latched (a := ⟨u, {}, 0⟩) h
  have lengths (st : State) (f : State → Nat → State) (h : ∀ v n, Latched v (f v n)) : Latched st (l.dedup.foldl f st) := .foldl h
  split
  · exact countUe_latched.after noteTraffic_latched
  · simp only
    refine .after .own (noteTraffic_latched.after (clearBad_latched.after ?_))
    exact (lengths _ _ fun _ _ => putDir_latched).after (appended _ fun _ _ => appendEntry_latched)

theorem bodyRappend_latching {swapFail : Option Nat} : LatchingBody (bodyRappend swapFail) := fun _ _ _ => listOp_latched fun _ => rappendRun_latched

theorem rseqBody_latching {swapFail : Option Nat} {eff : State → Nat → Nat → Result} (h : ∀ u c e, Latched u (eff u c e).st) :
    LatchingBody (rseqBody swapFail eff) := by
  intro u c q
  simp only [rseqBody]
  split
  · exact reject_latched
  · have resident : Latched u (makeResident u c (rqNeed u c q.env) swapFail).1 := makeResident_latched
    split
    · rename_i s1 x eq
      rw [eq] at resident
      exact swapDetail_latched.after resident
    · rename_i s1 eq
      rw [eq] at resident
      exact (h ..).after resident

theorem rseqOpen_latched {s : State} {c e : Nat} : Latched s (rseqOpen s c e).st := putDir_latched.after (wrNum_latched.after takeSlot_latched)

theorem rseqClose_latched {s : State} {c e : Nat} : Latched s (rseqClose s c e).st :=
  putDir_latched.after (.ite (rlbDropSeq_latched.after (giveSlot_latched.after freePages_latched)) (.refl _))

theorem rseqTruncate_latched {s : State} {c e : Nat} : Latched s (rseqTruncate s c e).st :=
  putDir_latched.after
    (.after (.ite (.refl _) (.foldl fun _ _ => .foldl fun _ _ => wrNum_latched)) (rlbDropSeq_latched.after freePages_latched))

theorem rseqEvict_latched {swapFail : Option Nat} {s : State} {c e : Nat} : Latched s (rseqEvict swapFail s c e).st := by
  simp only [rseqEvict]
  split
  · have out : Latched s (swapOut s c (rqSeq e) (swapFail = some 0)).1 := swapOut_latched
    split
    · rename_i s1 x eq
      rwa [eq] at out
    · rename_i s1 eq
      rwa [eq] at out
  · exact .refl s

theorem cmvEffect_latched {s : State} {c : Nat} {q : QOp} : Latched s (cmvEffect s c q).st := narrowOut_latched

theorem bodyCmv_latching : LatchingBody bodyCmv := fun _ _ _ => runPlan_latched fun _ => cmvEffect_latched

/-! ## Checkpoints, firmware, calibration -/

theorem saveCopies_latched {m : Nat} {s : State} {c v img total k : Nat} : Latched s (saveCopies m s c v img total k).st := by
  induction m generalizing s k with
  | zero => exact .refl s
  | succ m ih =>
    simp only [saveCopies]
    split
    · exact .refl s
    · split
      · exact pumpTxns_latched.after addTxns_latched
      · split
        · exact loseCtx_latched.after countUe_latched
        · exact ih.after fwWrite_latched

theorem saveStep_latched {s : State} {t : Cmd} : Latched s (saveStep s t).st := by
  simp only [saveStep]
  split
  · exact .refl _
  · split
    · exact .refl _
    · exact saveCopies_latched

theorem workSave_latched {s : State} {raw : Nat} : Latched s (workSave s raw).st :=
  cmdTry_latched fun _ => saveCopies_latched.after (noteTraffic_latched.after ledgerWriteBack_latched)

theorem seqResidentIn_latched {img : Nat} {c : Nat} {s : State} {o : Nat} : Latched s (seqResidentIn img c s o) :=
  putDir_latched.after
    (drawFree_latched.after (.after (.foldl fun _ _ => wrNum_latched) (.after (.foldl fun _ _ => allocPage_latched) takeSlot_latched)))

theorem restoreLedger_latched {s : State} {c img : Nat} : Latched s (restoreLedger s c img) :=
  .after (.foldl fun _ _ => ledgerStore_latched.after wrNum_latched) drawFree_latched

theorem restoreApply_latched {s : State} {raw img : Nat} : Latched s (restoreApply s raw img).st :=
  .after (.ite (fwWrite_latched.after (setTallies_latched.after updCtx_latched)) (.refl _))
    (.after (.ite restoreLedger_latched (.refl _))
      (.after (.foldl fun _ _ => .own)
        (.after (.foldl fun _ _ => seqResidentIn_latched)
          (.after (.ite (.foldl fun _ _ => fwWrite_latched) (.refl _)) (.ite (.refl _) noteTraffic_latched)))))

theorem restoreImage_latched {s : State} {raw img : Nat} : Latched s (restoreImage s raw img).st := by
  simp only [restoreImage]
  split
  · exact cmdFail_latched
  · refine cmdTry_latched fun _ => ?_
    split
    · exact loseCtx_latched.after countUe_latched
    · exact restoreApply_latched

theorem askImage_latched {s : State} {raw n : Nat} : Latched s (askImage s raw n) := pumpTxns_latched.after addTxns_latched

theorem restoreStep_latched {s : State} {t : Cmd} : Latched s (restoreStep s t).st := by
  simp only [restoreStep]
  split
  · exact dropTxns_latched
  · split
    · exact .refl _
    · split
      · split
        · exact askImage_latched.after dropTxns_latched
        · exact cmdFail_latched.after dropTxns_latched
      · exact restoreImage_latched.after dropTxns_latched

theorem restoreLocal_latched {s : State} {raw : Nat} : Latched s (restoreLocal s raw).st := by
  simp only [restoreLocal]
  split
  · exact cmdFail_latched
  · refine cmdTry_latched fun _ => ?_
    split
    · exact cmdFail_latched
    · split
      · exact cmdFail_latched
      · exact restoreImage_latched.after noteTraffic_latched

theorem workRestore_latched {s : State} {raw : Nat} : Latched s (workRestore s raw).st := by
  refine cmdTry_latched fun _ => ?_
  split
  · exact askImage_latched
  · exact restoreLocal_latched

theorem updRegion_latched {s : State} {r : Nat} {f : FwRegion → FwRegion} : Latched s (updRegion s r f) := .own

theorem stageImage_latched {s : State} {r img len : Nat} : Latched s (stageImage s r img len).st := by
  simp only [stageImage]
  split
  · exact logErr_latched.after updRegion_latched
  · exact updRegion_latched

theorem workFwStage_latched {s : State} {raw : Nat} : Latched s (workFwStage s raw).st := cmdTry_latched fun _ => stageImage_latched

theorem mapFeeds_latched {s : State} {g : Feed → Feed} : Latched s (mapFeeds s g) := .own

theorem keepOld_latched {s : State} {r : Nat} : Latched s (keepOld s r) := by
  have marked (u : State) (c : Nat) : Latched u (updCtx u c fun x => { x with flight := x.flight.map markOld }) := updCtx_latched
  simp only [keepOld]
  split
  · exact mapFeeds_latched.after (.foldl marked)
  · exact .ite mapFeeds_latched (.refl s)

theorem activateImage_latched {s : State} {r : Nat} : Latched s (activateImage s r) :=
  .after (.ite .own (.refl _)) (keepOld_latched.after updRegion_latched)

theorem workFwActivate_latched {s : State} {raw : Nat} : Latched s (workFwActivate s raw).st := cmdTry_latched fun _ => activateImage_latched

theorem workFwStatus_latched {s : State} {raw : Nat} : Latched s (workFwStatus s raw).st := cmdTry_latched fun _ => .refl _

theorem retireImage_latched {s : State} {r : Nat} : Latched s (retireImage s r) := .after (.ite .own (.refl _)) updRegion_latched

theorem workCalRead_latched {s : State} {raw : Nat} : Latched s (workCalRead s raw).st := cmdTry_latched fun _ => .refl _

theorem workCalWrite_latched {s : State} {raw : Nat} : Latched s (workCalWrite s raw).st := by
  unfold workCalWrite
  refine cmdTry_latched fun _ => ?_
  simp only
  exact .own

/-! ## Self-test, repair, the label, fabric commands -/

theorem unitReset_latched {s : State} {cls inst : Nat} : Latched s (unitReset s cls inst) := by
  simp only [unitReset]
  split
  · exact .own
  · exact .own
  · exact .own
  · exact .own
  · exact .own
  · exact .own
  · exact .own
  · exact .own
  · exact clearBad_latched.after (clearPlane_latched.after (clearPlane_latched.after zeroRange_latched))
  · exact .refl _

theorem loseFace_latched {s : State} {f : Nat} : Latched s (loseFace s f) := relayEnter_latched.after updPwr_latched

theorem columnFail_latched {s : State} {p col : Nat} : Latched s (columnFail s p col) :=
  .ite (.ite .own (.ite loseFace_latched (repairEvent_latched.after .own))) (.ite (.refl _) loseFace_latched)

theorem rowFail_latched {s : State} {line : Nat} : Latched s (rowFail s line) :=
  .ite (.refl _)
    (.after (.ite loseFace_latched (.refl _))
      (repairEvent_latched.after (.after (.ite (.refl _) .own) .own)))

theorem fenceUnit_latched {s : State} {cls inst : Nat} : Latched s (fenceUnit s cls inst) :=
  .ite (.refl _) (.after (.foldl fun _ _ => domFall_latched) (logErr_latched.after .own))

theorem coreFail_latched {s : State} {cls inst : Nat} : Latched s (coreFail s cls inst) :=
  .ite (.refl _) (.after (.ite fenceUnit_latched (repairEvent_latched.after logErr_latched)) .own)

theorem bistFail_latched {s : State} {cls inst : Nat} {o : BistOutcome} : Latched s (bistFail s cls inst o) :=
  .ite (.after (.ite fenceUnit_latched (.refl _)) (.after (.foldl fun _ _ => columnFail_latched) logErr_latched))
    (.ite (.after (.ite loseFace_latched (.refl _)) (.after (.foldl fun _ _ => rowFail_latched) logErr_latched))
      (.ite (loseFace_latched.after logErr_latched) (.after (.ite coreFail_latched fenceUnit_latched) logErr_latched)))

theorem bistPass_latched {s : State} {cls inst : Nat} : Latched s (bistPass s cls inst) :=
  .ite (repairEvent_latched.after .own) (.refl _)

theorem runBist_latched {s : State} {cls inst : Nat} {o : BistOutcome} : Latched s (runBist s cls inst o) :=
  .after (.ite (.refl _) (.foldl fun _ _ => domFall_latched))
    (.after (.ite bistFail_latched bistPass_latched) (unitReset_latched.after (.foldl fun _ _ => domRise_latched)))

theorem workBist_latched {o : BistOutcome} {s : State} {raw : Nat} : Latched s (workBist o s raw).st := by
  have closed (u : State) (l : List Nat) : Latched u (l.foldl closeBegin u) := .foldl fun _ _ => closeBegin_latched
  have retired (u : State) : Latched u (if (regionFw u 4).old then retireImage u 4 else u) := .ite retireImage_latched (.refl u)
  simp only [workBist]
  refine cmdTry_latched fun u => ?_
  rw [apply_ite CmdOut.st]
  have run (cls inst : Nat) (o : BistOutcome) := (retired (withHealth u (runBist u cls inst o))).after (withHealth_latched.after runBist_latched)
  exact .ite ((closed _ _).after (run ..)) (run ..)

theorem mapOut_latched {s : State} {ch : Nat} : Latched s (mapOut s ch) := repairEvent_latched.after .own

theorem workMapOut_latched {s : State} {raw : Nat} : Latched s (workMapOut s raw).st := cmdTry_latched fun _ => withHealth_latched.after mapOut_latched

theorem workUnmap_latched {s : State} {raw : Nat} : Latched s (workUnmap s raw).st := by
  simp only [workUnmap]
  split
  · exact withHealth_latched.after (repairEvent_latched.after .own)
  · exact .refl _

theorem workLaneSwap_latched {s : State} {raw : Nat} : Latched s (workLaneSwap s raw).st :=
  cmdTry_latched fun _ => withHealth_latched.after (laneSwapped_latched.after updPort_latched)

theorem workLabel_latched {s : State} {raw : Nat} : Latched s (workLabel s raw).st := cmdTry_latched fun _ => requestLabel_latched.after updLabel_latched

theorem beginDrawing_latched {s : State} : Latched s (beginDrawing s) := .own

theorem endDrawing_latched {s : State} : Latched s (endDrawing s) := by
  have step (u : State) (n : Nat) : Latched u { u with aoc := { u.aoc with lastStep := n } } := .own
  simp only [endDrawing]
  exact .ite ((step _ _).after (updLabel_latched.after updMbx_latched)) (updLabel_latched.after updMbx_latched)

theorem applyRecord_latched {s : State} {r : Nat} : Latched s (applyRecord s r) := .own

theorem workFabRecord_latched {s : State} {raw : Nat} : Latched s (workFabRecord s raw).st := by
  refine cmdTry_latched fun _ => ?_
  split
  · exact .own
  · exact requestLabel_latched.after (applyRecord_latched.after .own)

theorem workFabRoute_latched {s : State} {raw : Nat} : Latched s (workFabRoute s raw).st := by
  unfold workFabRoute
  refine cmdTry_latched fun _ => ?_
  simp only
  exact updFab_latched

theorem workTunOpen_latched {s : State} {raw : Nat} : Latched s (workTunOpen s raw).st := cmdTry_latched fun _ => updTun_latched

theorem workTunClose_latched {s : State} {raw : Nat} : Latched s (workTunClose s raw).st :=
  cmdTry_latched fun _ => updTun_latched.after tunnelDown_latched

theorem stopPort_latched {s : State} {p st : Nat} : Latched s (stopPort s p st) := .ite portDown_latched updPort_latched

theorem workFabPort_latched {st : Nat} {s : State} {raw : Nat} : Latched s (workFabPort st s raw).st :=
  cmdTry_latched fun _ => withHealth_latched.after stopPort_latched

theorem workPortEnable_latched {s : State} {raw : Nat} : Latched s (workPortEnable s raw).st := cmdTry_latched fun _ => .ite (.refl _) updPort_latched

/-! ## Tracing, completion, control operations, time -/

theorem updTrc_latched {s : State} {f : TrcS → TrcS} : Latched s (updTrc s f) := .own

theorem workTraceConfig_latched {s : State} {raw : Nat} : Latched s (workTraceConfig s raw).st := by
  unfold workTraceConfig
  refine cmdTry_latched fun _ => ?_
  simp only
  exact updTrc_latched

theorem traceStart_latched {s : State} : Latched s (traceStart s) := traceOwn_latched.after (updTrc_latched.after domRise_latched)

theorem workTraceStart_latched {s : State} {_raw : Nat} : Latched s (workTraceStart s _raw).st := cmdTry_latched fun _ => traceStart_latched

theorem traceStop_latched {s : State} : Latched s (traceStop s) :=
  domFall_latched.after (updTrc_latched.after (.ite (traceOwn_latched.after traceDrain_latched) updTrc_latched))

theorem workTraceStop_latched {s : State} {_raw : Nat} : Latched s (workTraceStop s _raw).st := .ite (.refl _) traceStop_latched

theorem workTraceFlush_latched {s : State} {_raw : Nat} : Latched s (workTraceFlush s _raw).st := .ite traceDrain_latched (.refl _)

theorem finishOp_latched {s : State} {c : Nat} {f : Flight} : Latched s (finishOp s c f) := by
  unfold finishOp
  exact .after (completeOp_latched fun _ => lowWater_latched) pfSignal_latched

theorem execOperationCompletion_latches {c : Fin 8} {opIndex : Nat} {s : State} : Latches s (execOperationCompletion c opIndex s) := by
  simp only [execOperationCompletion]
  split
  · exact .next (.refl _)
  · exact .next (stashKick_latched.after finishOp_latched)

theorem closeStep_latched {s : State} {t : Cmd} : Latched s (closeStep s t).st := by
  simp only [closeStep]
  split
  · simp only
    exact closeEnd_latched
  · simp only
    exact .refl _

theorem bistStep_latched {s : State} {t : Cmd} : Latched s (bistStep s t).st := by
  simp only [bistStep]
  split
  · exact .foldl fun _ _ => closeEnd_latched
  · exact .refl _

theorem cmdStep_latched {s : State} {t : Cmd} : Latched s (cmdStep s t).st := by
  simp only [cmdStep]
  split
  · exact closeStep_latched
  · split
    · exact bistStep_latched
    · split
      · exact saveStep_latched
      · split
        · exact restoreStep_latched
        · simp only
          exact .refl _

theorem beginUnknown_latched {s : State} {i : Nat} {t : Cmd} : Latched s (beginUnknown s i t) := by
  unfold beginUnknown
  split
  · split
    · exact cmdRecord_latched cmdFail_latched
    · exact .refl s
  · exact .refl s

theorem advanceCmd_latched {s : State} {i : Nat} {t : Cmd} : Latched s (advanceCmd s i t) := .ite (cmdRecord_latched cmdStep_latched) beginUnknown_latched

theorem finishCmd_latched {s : State} {i : Nat} : Latched s (finishCmd s i) := by
  simp only [finishCmd]
  split
  · exact .refl _
  · split
    · exact .refl _
    · exact .ite (pumpSq_latched.after postCompletion_latched) (.refl _)

theorem execCommandCompletion_latches {place : Nat} {s : State} : Latches s (execCommandCompletion place s) := by
  simp only [execCommandCompletion]
  split
  · exact .next (.refl _)
  · split
    · exact .next (.refl _)
    · exact .next (finishCmd_latched.after advanceCmd_latched)

theorem controlDone_latched {s : State} {c e : Nat} {status detail : Nat} : Latched s (controlDone s c e status detail) :=
  endAtOnce_latched.after advanceDispatch_latched

theorem execNop_latches {c : Fin 8} {s : State} : Latches s (execNop c s) := by
  simp only [execNop]
  split
  · exact .next (.refl _)
  · split
    · exact .next controlDone_latched
    · exact .next controlDone_latched

theorem execStepAdvance_latches {c : Fin 8} {s : State} : Latches s (execStepAdvance c s) := by
  simp only [execStepAdvance]
  split
  · exact .next (.refl _)
  · split
    · split
      · exact .next controlDone_latched
      · exact .next (controlDone_latched.after (traceState_latched.after (.after updCtx_latched ledgerWriteBack_latched)))
    · exact .next (.refl _)

theorem execTallySet_latches {c : Fin 8} {s : State} : Latches s (execTallySet c s) := by
  simp only [execTallySet]
  split
  · exact .next (.refl _)
  · split
    · exact .next controlDone_latched
    · exact .ite (.next controlDone_latched) (.next (controlDone_latched.after (.foldl fun _ _ => setTally_latched)))

theorem execShapeSet_latches {c : Fin 8} {s : State} : Latches s (execShapeSet c s) := by
  simp only [execShapeSet]
  split
  · exact .next (.refl _)
  · split
    · exact .next controlDone_latched
    · split
      · exact .next controlDone_latched
      · split
        · exact .next (controlDone_latched.after countUe_latched)
        · exact .next (controlDone_latched.after (.foldl fun _ _ => setShapeWord_latched))

theorem execPackageStart_latches {c : Fin 8} {s : State} : Latches s (execPackageStart c s) := by
  simp only [execPackageStart]
  split
  · exact .next (.refl _)
  · exact .ite (.ite (.next (.after updCtx_latched noteTraffic_latched)) (.next (endPkg_latched.after noteTraffic_latched)))
      (.next (.refl _))

theorem execEnvelopeDispatch_latches {c : Fin 8} {s : State} : Latches s (execEnvelopeDispatch c s) := by
  simp only [execEnvelopeDispatch]
  split
  · exact .next (.refl _)
  · split
    · exact .next (.refl _)
    · split
      · exact .next (rejectEnv_latched.after countUe_latched)
      · split
        · exact .next rejectEnv_latched
        · exact .ite (.next (.refl _))
            (.ite (.next (traceState_latched.after (advanceDispatch_latched.after updCtx_latched))) (.next (.refl _)))

theorem execWaitTimeout_latches {c : Fin 8} {cls : Fin 14} {inst : Nat} {s : State} : Latches s (execWaitTimeout c cls inst s) := by
  simp only [execWaitTimeout]
  refine .ite (.next (.refl s)) (.ite ?_ ?_)
  · split
    · exact .next (.refl s)
    · exact .ite (.next controlDone_latched) (.next (.refl s))
  · split
    · exact .next (.refl s)
    · exact .ite (.next (endAtOnce_latched.after updCtx_latched)) (.next (.refl s))

theorem updTime_latched {s : State} {f : TimeS → TimeS} : Latched s (updTime s f) := .own

theorem timeChanged_latched {before s : State} : Latched s (timeChanged before s) := .ite (.refl _) postEvent_latched

theorem chooseSource_latched {s : State} : Latched s (chooseSource s) := .own

theorem takeEstimate_latched {s : State} {src : Nat} {est : W64} {errNs : Nat} : Latched s (takeEstimate s src est errNs) := .ite .own (.refl _)

theorem workTimeRead_latched {s : State} {raw : Nat} : Latched s (workTimeRead s raw).st := cmdTry_latched fun _ => dstWrite_latched

theorem workTimeConfig_latched {s : State} {raw : Nat} : Latched s (workTimeConfig s raw).st :=
  cmdTry_latched fun _ => timeChanged_latched.after (chooseSource_latched.after updTime_latched)

theorem execPtpMessageReceive_latches {port : Fin 2} {domain : BitVec 8} {estimate : BitVec 64} {asymmetry : Nat} {s : State} :
    Latches s (execPtpMessageReceive port domain estimate asymmetry s) :=
  .ite (.next (.refl _)) (.next (timeChanged_latched.after (takeEstimate_latched.after (chooseSource_latched.after updTime_latched))))

theorem updAoc_latched {s : State} {f : AocS → AocS} : Latched s (updAoc s f) := .own

theorem countEvent_latched {s : State} {n : Nat} : Latched s (countEvent s n) := .own

theorem countDropped_latched {s : State} {n : Nat} : Latched s (countDropped s n) := .own

theorem unstick_latched {s : State} {n : Nat} {level : Bool} : Latched s (unstick s n level) :=
  withHealth_latched.after updAoc_latched

theorem execPpsEdge_latches {s : State} : Latches s (execPpsEdge s) := by
  have edges (u : State) (l : List Nat) : Latched u (updAoc u fun a => { a with ppsEdges := l }) := updAoc_latched
  simp only [execPpsEdge]
  split
  · exact .next (.refl s)
  · split
    · exact .next (.after .own updAoc_latched)
    · split
      · exact .next (countDropped_latched.after updAoc_latched)
      · have counted : Latched s (countEvent (unstick s 3 true) 3) := countEvent_latched.after unstick_latched
        exact .next (.ite (updTime_latched.after ((edges _ _).after counted)) ((edges _ _).after counted))

/-! ## The sideband ring -/

theorem updSbr_latched {s : State} {f : SbrS → SbrS} : Latched s (updSbr s f) := .own

theorem ringOut_latched {s : State} {f len : Nat} : Latched s (ringOut s f len) := .own

theorem ringOriginate_latched {s : State} {type len payload : Nat} : Latched s (ringOriginate s type len payload) := .own

theorem ringForward_latched {s : State} {f : Nat} : Latched s (ringForward s f) := .ite (.refl _) ringOut_latched

theorem ringBad_latched {s : State} : Latched s (ringBad s) := .own

theorem execRingFrameReceive_latches {len frame : Nat} {s : State} : Latches s (execRingFrameReceive len frame s) :=
  .ite (.next (.refl _))
    (.ite (.next ringBad_latched)
      (.ite (.next (.refl _))
        (.ite (.next (ringOut_latched.after (updSbr_latched.after updSbr_latched)))
          (.next (ringForward_latched.after updSbr_latched)))))

theorem closeRelays_latched {s : State} : Latched s (closeRelays s) := .ite updSbr_latched (.refl _)

theorem timeForward_latched {s : State} {f residence : Nat} : Latched s (timeForward s f residence) := ringForward_latched

theorem takeTimeFrame_latched {s : State} {f residence : Nat} : Latched s (takeTimeFrame s f residence) :=
  timeForward_latched.after
    (timeChanged_latched.after
      (takeEstimate_latched.after (chooseSource_latched.after (updSbr_latched.after (fabCount_latched.after drawFree_latched)))))

theorem postRemoteError_latched {s : State} {pay : Nat} : Latched s (postRemoteError s pay) := by
  unfold postRemoteError
  exact postEvent_latched.after drawFree_latched

theorem execCtrl_latches {i : Nat} {s : State} : Latches s (execCtrl i s) := by
  simp only [execCtrl]
  split
  · exact .next (.refl _)
  · exact .ite (.next (postRemoteError_latched.after takeRx_latched)) (.next takeRx_latched)

/-! ## Inputs and the PCIe link -/

theorem dropButton_latched {s : State} : Latched s (dropCause s rcButton) := .own

theorem inputEvent_latched {s : State} {n spacing : Nat} : Latched s (inputEvent s n spacing) := by
  simp only [inputEvent]
  split
  · exact .ite countDropped_latched countEvent_latched
  · exact countEvent_latched

theorem inputLevel_latched {s : State} {n : Nat} {v : Bool} : Latched s (inputLevel s n v) := .own

theorem stuckError_latched {s : State} {n : Nat} : Latched s (stuckError s n) := logErr_latched

theorem execButtonStuck_latches {s : State} : Latches s (execButtonStuck s) := by
  have stuck : Latched s (updAoc s fun a => { a with buttonStuck := true, buttonIgnored := true, stuck := a.stuck.set 2 true }) :=
    updAoc_latched
  exact .ite (.next (withHealth_latched.after (stuckError_latched.after (inputEvent_latched.after (dropButton_latched.after stuck))))) (.next (.refl s))

theorem stuckEvent_latched {s : State} {n : Nat} : Latched s (stuckEvent s n) :=
  .ite (.after updAoc_latched countEvent_latched) (.ite countDropped_latched inputEvent_latched)

theorem execInputStuck_latches {n : Fin 6} {s : State} : Latches s (execInputStuck n s) := by
  have stuck : Latched s (updAoc s fun a => { a with stuck := a.stuck.set n true }) := updAoc_latched
  simp only [execInputStuck]
  exact .ite (.next (.refl s)) (.next (withHealth_latched.after (stuckError_latched.after (stuckEvent_latched.after stuck))))

theorem execSyncEdge_latches {s : State} : Latches s (execSyncEdge s) := by
  have stamped (u : State) : Latched u (updAoc u fun a => { a with syncStamp := s.elapsed }) := updAoc_latched
  simp only [execSyncEdge]
  exact .ite (.next (.refl s)) (.next (.ite (countDropped_latched.after unstick_latched) ((stamped _).after (countEvent_latched.after unstick_latched))))

theorem hostFlight_latched {s : State} {c : Nat} {f : Flight} : Latched s (hostFlight s c f) := by
  simp only [hostFlight]
  split
  · exact .ite failFlight_latched (.refl _)
  · exact .refl _

theorem endHostFlights_latched {s : State} {c : Nat} : Latched s (endHostFlights s c) := .foldl fun _ _ => hostFlight_latched

theorem linkDown_latched {s : State} : Latched s (linkDown s) :=
  .ite (.refl _) (loseRings_latched.after (.after (.foldl fun _ _ => endHostFlights_latched) (.after .own traceSuspend_latched)))

theorem abandonCmds_latched {s : State} : Latched s (abandonCmds s) := .own

theorem execPerstAssert_latches {s : State} : Latches s (execPerstAssert s) := by
  simp only [execPerstAssert]
  refine .ite (.next (.refl s)) (.next (.after .own (abandonCmds_latched.after (linkDown_latched.after ?_))))
  exact .after updAoc_latched (inputEvent_latched.after inputLevel_latched)

theorem execPerstRelease_latches {s : State} : Latches s (execPerstRelease s) := by
  have released : Latched s { s with hif := { s.hif with perst := false } } := .own
  exact .ite (.next (unstick_latched.after released)) (.next (.refl s))

/-! ## Start-up, recovery and restart -/

theorem bootBank_latched {s : State} {k : Nat} : Latched s (bootBank s k) :=
  .after (.ite (.refl _) (logErr_latched.after (.after .own updRegion_latched))) .own

theorem reachStep_latched {s : State} {n : Nat} : Latched s (reachStep s n) := .own

theorem bootFails_latched {s : State} : Latched s (bootFails s) := by
  unfold bootFails
  exact requestLabel_latched.after (clearBad_latched.after (zeroRange_latched.after (domRise_latched.after setFwState_latched)))

theorem replayRecord_latched {s : State} {rec : Nat} : Latched s (replayRecord s rec) := by
  have put (last : Nat) (seen : Bool) : Latched s { s with ras := { putRecord (countOverwritten s.ras) (setFld rec 3 1 (fld rec 3 1 ||| 2)) with
      lastFault := last, sevSeen := seen } } :=
    .ras (by simp)
  exact errorLogged_latched.after (put ..)

theorem replayLog_latched {s : State} : Latched s (replayLog s) := .foldl fun _ _ => replayRecord_latched

theorem applyCal_latched {s : State} : Latched s (applyCal s) := by
  simp only [applyCal]
  split
  · exact updPwr_latched
  · exact logErr_latched.after (drawFree_latched.after updPwr_latched)

theorem startLabel_latched {s : State} {cold : Bool} : Latched s (startLabel s cold) := .after (.ite (.refl _) beginDrawing_latched) requestLabel_latched

theorem step6_latched {s : State} {cold : Bool} : Latched s (step6 s cold) :=
  reachStep_latched.after (.after (.foldl fun _ _ => domRise_latched) (startLabel_latched.after (applyCal_latched.after replayLog_latched)))

theorem startBist_latched {s : State} {b : Fin 17 × Fin 16 × BistOutcome} : Latched s (startBist s b) := .ite bistFail_latched (.refl _)

theorem spareRows_latched {s : State} : Latched s (spareRows s) := .foldl fun _ _ => .ite (loseFace_latched.after logErr_latched) (.refl _)

theorem step7_latched {s : State} {bist : List (Fin 17 × Fin 16 × BistOutcome)} : Latched s (step7 s bist) :=
  reachStep_latched.after
    (.after (.foldl fun _ _ => domFall_latched)
      (spareRows_latched.after (.after (.foldl fun _ _ => startBist_latched) (.after (.foldl fun _ _ => domRise_latched) .own))))

theorem logChannel_latched {s : State} {ch : Nat} : Latched s (logChannel s ch) := reportError_latched.after drawFree_latched

theorem startMapOut_latched {s : State} {ch : Nat} : Latched s (startMapOut s ch) :=
  .ite (.refl _)
    (.ite (relayEnter_latched.after logChannel_latched)
      (.after (.ite (.refl _) (repairEvent_latched.after .own)) .own))

theorem startFar_latched {s : State} {fails : Bool} : Latched s (startFar s fails) := .ite (logErr_latched.after withdrawFar_latched) (.refl _)

theorem startRowRepair_latched {s : State} {row : Nat} : Latched s (startRowRepair s row) :=
  .ite (.refl _) (.after (.ite .own startMapOut_latched) .own)

theorem step8_latched {s : State} {dead : List (Fin 256)} {rows : List (BitVec 29)} {farFail : Bool} : Latched s (step8 s dead rows farFail) :=
  reachStep_latched.after
    (.after .own
      (zeroRange_latched.after
        (zeroRange_latched.after
          (loseRange_latched.after
            (startFar_latched.after
              (.after (.foldl fun _ _ => domRise_latched) (.after (.foldl fun _ _ => startMapOut_latched) (.foldl fun _ _ => startRowRepair_latched))))))))

theorem step9_latched {s : State} : Latched s (step9 s) :=
  reachStep_latched.after (.after (.foldl fun _ _ => domRise_latched) (.after .own (.ite applyRecord_latched (.refl _))))

theorem foremanUp_latched {s : State} : Latched s (foremanUp s) := by
  have shown : Latched s (updMbx { s with vcc := { s.vcc with version := activeVersion s 1 } } fun m => { m with iface := 1 }) :=
    .own
  have booted (v : State) : Latched v { v with flash := { v.flash with failedBoots := 0 } } := .own
  simp only [foremanUp]
  exact setFwState_latched.after ((booted _).after (.after (.ite retireImage_latched (.refl _)) shown))

theorem startMode_latched {s : State} : Latched s (startMode s) := by
  simp only [startMode]
  refine .ite (setMode_latched.after setSelfRef_latched) (setMode_latched.after ?_)
  exact .after (.foldl fun _ _ => domFall_latched) (.ras (by simp))

theorem step10_latched {s : State} : Latched s (step10 s) :=
  foremanServes_latched.after (reachStep_latched.after (startMode_latched.after (foremanUp_latched.after domRise_latched)))

theorem startRest_latched {s : State} {o : StartOutcome} : Latched s (startRest s o) :=
  step10_latched.after (step9_latched.after (step8_latched.after (step7_latched.after step6_latched)))

theorem startImage_latched {s : State} {o : StartOutcome} : Latched s (startImage s o) := by
  have failed (v : State) (n : Nat) : Latched v { v with flash := { v.flash with failedBoots := n } } := .own
  exact .ite (startRest_latched.after setFwState_latched) ((failed _ _).after setFwState_latched)

theorem execStartUp_latches {outcome : StartOutcome} {s : State} : Latches s (execStartUp outcome s) := by
  simp only [execStartUp]
  split
  · exact .next (.refl s)
  · split
    · exact .next (withHealth_latched.after (bootFails_latched.after reachStep_latched))
    · exact .next (withHealth_latched.after (startImage_latched.after (bootBank_latched.after reachStep_latched)))

theorem setScratch_latched {s : State} {n : Nat} {v : W64} : Latched s (setScratch s n v) := .own

theorem execRecoveryImageLoad_latches {value : BitVec 64} {outcome : StartOutcome} {s : State} :
    Latches s (execRecoveryImageLoad value outcome s) := by
  have installed : Latched s (setScratch (installRecovery s) 1 0) := setScratch_latched.after .own
  simp only [execRecoveryImageLoad]
  refine .ite (.next (.refl s)) (.ite (.next setScratch_latched) ?_)
  split
  · exact .next (setScratch_latched.after setScratch_latched)
  · refine .next (withHealth_latched.after (.ite (startImage_latched.after installed) ?_))
    exact foremanServes_latched.after (foremanUp_latched.after (setFwState_latched.after installed))

theorem restartCloses_latched {s : State} : Latched s (restartCloses s) := by
  unfold restartCloses
  exact .after updMbx_latched (.foldl fun _ _ => closeNow_latched)

theorem restartBoot_latched {s : State} {bad0 bad1 : Bool} : Latched s (restartBoot s bad0 bad1) := by
  simp only [restartBoot]
  refine .ite setFwState_latched ?_
  split
  · exact setFwState_latched.after setFwState_latched
  · exact foremanServes_latched.after (foremanUp_latched.after (setFwState_latched.after (bootBank_latched.after setFwState_latched)))

theorem logRestart_latched {s : State} : Latched s (logRestart s) := logErr_latched.after drawFree_latched

theorem execForemanRestart_latches {value : BitVec 64} {badBank0 badBank1 : Bool} {s : State} :
    Latches s (execForemanRestart value badBank0 badBank1 s) :=
  .ite (.next (withHealth_latched.after (logRestart_latched.after (restartBoot_latched.after (restartCloses_latched.after abandonCmds_latched)))))
    (.next (.refl s))

/-! ## Heat, power, retention, and the codec's decoder -/

theorem thermalNote_latched {s : State} {key : Nat} : Latched s (thermalNote s key) := logErr_latched.after drawFree_latched

theorem thermalEmergency_latched {s : State} {key : Nat} : Latched s (thermalEmergency s key) := relayEnter_latched.after (logErr_latched.after updPwr_latched)

theorem junctionTrip_latched {s : State} {f : Nat} : Latched s (junctionTrip s f) :=
  relayEnter_latched.after (logErr_latched.after (updPwr_latched.after (.foldl fun _ _ => domFall_latched)))

theorem actOnJunction_latched {s : State} {f : Nat} {t : Int} : Latched s (actOnJunction s f t) :=
  .after (.ite junctionTrip_latched (.refl _))
    (.after (.ite thermalEmergency_latched (.refl _))
      (.after (.ite thermalNote_latched (.refl _)) (driveAlert_latched.after (levelChange_latched.after .own))))

theorem execFaceJunctionReading_latches {face : Fin 4} {sensors : List Int} {s : State} : Latches s (execFaceJunctionReading face sensors s) := by
  simp only [execFaceJunctionReading]
  split
  · exact .next (.refl _)
  · split
    · exact .next (withHealth_latched.after (levelChange_latched.after (updPwr_latched.after (.ite thermalNote_latched (.refl _)))))
    · exact .next (withHealth_latched.after (driveAlert_latched.after (actOnJunction_latched.after (.ite thermalNote_latched (.refl _)))))

theorem execNeighbourThrottleStep_latches {face : Fin 4} {s : State} : Latches s (execNeighbourThrottleStep face s) :=
  .ite (.next (.refl _))
    (.ite (.next (levelChange_latched.after updPwr_latched))
      (.ite (.next (.refl _)) (.next (levelChange_latched.after (updPwr_latched.after drawFree_latched)))))

theorem execHbmTempReading_latches {stack : Fin 8} {reading : Int} {s : State} : Latches s (execHbmTempReading stack reading s) :=
  .ite (.next (.refl _))
    (.next
      (withHealth_latched.after
        (driveAlert_latched.after
          (.after (.ite thermalEmergency_latched (.refl _))
            (.after (.ite thermalNote_latched (.refl _))
              (driveAlert_latched.after (levelChange_latched.after (.after .own drawFree_latched))))))))

theorem inputHigh_latched {s : State} {vin : Nat} : Latched s (inputHigh s vin) := by
  simp only [inputHigh]
  split
  · exact updPwr_latched
  · split
    · exact updPwr_latched
    · exact .ite (.refl _) (logErr_latched.after (drawFree_latched.after updPwr_latched))

theorem scrubCorrected_latched {s : State} {cls line info : Nat} : Latched s (scrubCorrected s cls line info) :=
  reportError_latched.after eventEffect_latched

theorem execStockpileScrub_latches {line : Fin 16777216} {corrected : Option (Fin 576)} {s : State} :
    Latches s (execStockpileScrub line corrected s) := by
  simp only [execStockpileScrub]
  split
  · exact .next (.refl _)
  · refine .next (withHealth_latched.after ?_)
    split
    · exact scrubCorrected_latched.after (.after (.ite countUe_latched (.refl _)) noteTraffic_latched)
    · exact .after (.ite countUe_latched (.refl _)) noteTraffic_latched

theorem execNearScrub_latches {line : Fin 6442450944} {corrected : Bool} {s : State} : Latches s (execNearScrub line corrected s) :=
  .ite (.next (.refl _))
    (.next
      (withHealth_latched.after
        (.ite
          (scrubCorrected_latched.after
            (drawFree_latched.after (.after (.ite (noteUeRow_latched.after countUe_latched) (.refl _)) noteTraffic_latched)))
          (.after (.ite (noteUeRow_latched.after countUe_latched) (.refl _)) noteTraffic_latched))))

theorem vccAdd_latched {s : State} {k n : Nat} : Latched s (vccAdd s k n) := .own

theorem putCount_latched {s : State} {c sw v : Nat} : Latched s (putCount s c sw v) := .ite setShapeWord_latched (.refl _)

theorem vccOp_latched {c : Nat} {aged : Bool} {opcode : Nat} {body : Body} {s : State} (h : LatchingBody body) : Latched s (vccOp c aged opcode body s) :=
  vccGrant_latched.after (issueOp_latched h)

theorem inPictures_latched {s : State} {c : Nat} {q : QOp} {p : VccProgress} {r : Result} (h : Latched s r.st) :
    Latched s (inPictures c q p r).st :=
  .ite h (vccOpen_latched.after h)

theorem vdecEff_latched {s : State} {c e bytes len : Nat} {h : StreamHead} {p : VdecPick} : Latched s (vdecEff s c e bytes len h p).st :=
  vccAdd_latched.after (putCount_latched.after applyPuts_latched)

theorem bodyVdec_latching : LatchingBody bodyVdec := by
  intro s c q
  have ran (p : Plan) (reads writes : List (Nat × Nat)) (e bytes len : Nat) (h : StreamHead) (k : VdecPick) :
      Latched s (runAfter s c p reads writes fun s => vdecEff s c e bytes len h k).st :=
    runAfter_latched fun _ => vdecEff_latched
  simp only [bodyVdec]
  split
  · exact reject_latched
  · split
    · exact reject_latched.after (.ite vccAdd_latched (.refl s))
    · rw [apply_ite Result.st]
      exact .ite (ran ..) (inPictures_latched (ran ..))

theorem opPicture_latched {s : State} {c i : Nat} : Latched s (opPicture s c i) := by
  simp only [opPicture]
  split
  · exact .refl _
  · exact .after updCtx_latched (.ite (vccAdd_latched.after vccAdd_latched) (vccAdd_latched.after vccAdd_latched))

theorem sessPicture_latched {s : State} {w : VccSession} : Latched s (sessPicture s w) := by
  simp only [sessPicture]
  split
  · split
    · exact decodeLive_latched
    · exact .refl _
  · exact opPicture_latched

theorem execVccPicture_latches {session : VccSession} {s : State} : Latches s (execVccPicture session s) := by
  have run (t : State) (e : VccEntry) : Latched t (vccGrant (sessPicture (endGrant t e) session)) :=
    vccGrant_latched.after (sessPicture_latched.after .own)
  delta execVccPicture
  extract_lets t
  have granted : Latched s t := vccGrant_latched
  clear_value t
  split
  · exact .ite (.next ((run t _).after granted)) (.next (.refl s))
  · exact .next (.refl s)

/-! ## Registers and BAR2 -/

theorem mbxWrite_latched {s : State} {o v : Nat} : Latched s (mbxWrite s o v) := by
  simp only [mbxWrite]
  split
  · exact .ite (.refl _) updMbx_latched
  · exact .ite (.refl _) updMbx_latched
  · exact irqUpdate_latched.after updMbx_latched
  · exact setScratch_latched
  · exact setScratch_latched
  · exact setScratch_latched
  · exact .refl _

theorem feedWrite_latched {s : State} {c m v : Nat} : Latched s (feedWrite s c m v) := .ite mapFeeds_latched (.refl _)

theorem unitWrite_latched {s : State} {o v : Nat} : Latched s (unitWrite s o v) := by
  simp only [unitWrite]
  split
  · exact .own
  · exact stashCtl_latched
  · exact .own
  · exact .own
  · exact .own
  · exact .own
  · exact .own
  · exact .own
  · exact updFab_latched
  · exact updFab_latched
  · exact .ite updAoc_latched (.refl s)
  · exact .ite feedWrite_latched (.refl s)

theorem execRegisterWrite_latches {offset : BitVec 24} {value : BitVec 64} {s : State} : Latches s (execRegisterWrite offset value s) :=
  .ite (.next (.refl _)) (.ite (.next mbxWrite_latched) (.ite (.next .own) (.ite (.next .own) (.next unitWrite_latched))))

theorem readBack_latched {s : State} {status data : Nat} : Latched s (readBack s status data) := .own

theorem bar2Ur_latched {s : State} {write : Bool} : Latched s (bar2Ur s write) := .ite (.refl _) readBack_latched

theorem bar2Refuse_latched {s : State} {write : Bool} {da : Nat} : Latched s (bar2Refuse s write da) := bar2Ur_latched.after logErr_latched

theorem bar2Read_latched {s : State} {da n : Nat} : Latched s (bar2Read s da n) := by
  simp only [bar2Read]
  split
  · exact readBack_latched.after (drawFree_latched.after (countUe_latched.after noteTraffic_latched))
  · exact readBack_latched.after (drawFree_latched.after noteTraffic_latched)

theorem bar2Write_latched {s : State} {da n data : Nat} : Latched s (bar2Write s da n data) := by
  simp only [bar2Write]
  split
  · exact logErr_latched.after (.after .own noteTraffic_latched)
  · exact .after .own (wrPhys_latched.after (noteTraffic_latched.after clearBad_latched))

theorem windowPut_latched {s : State} {a b : Nat} : Latched s (windowPut s a b) := .ite (.refl _) .own

theorem bar2Window_latched {s : State} {write : Bool} {da n data : Nat} : Latched s (bar2Window s write da n data) :=
  .ite (renewSump_latched.after (.foldl fun _ _ => windowPut_latched)) (.ite (readBack_latched.after drawFree_latched) readBack_latched)

theorem bar2Dark_latched {s : State} {write : Bool} {da n : Nat} : Latched s (bar2Dark s write da n) :=
  .ite (.refl _) (.after (.ite readBack_latched readBack_latched) drawFree_latched)

theorem bar2Go_latched {s : State} {r : Region} {write : Bool} {da n data : Nat} : Latched s (bar2Go s r write da n data) :=
  .ite bar2Dark_latched (.ite (.ite bar2Window_latched bar2Refuse_latched) (.ite bar2Refuse_latched (.ite bar2Write_latched bar2Read_latched)))

theorem execBar2Access_latches {write : Bool} {addr len data : Nat} {s : State} : Latches s (execBar2Access write addr len data s) := by
  simp only [execBar2Access]
  split
  · exact .next (.refl _)
  · split
    · exact .next bar2Ur_latched
    · split
      · exact .next bar2Refuse_latched
      · exact .next (withHealth_latched.after bar2Go_latched)

/-! ## The Splitter -/

theorem putWords_latched {s : State} {c : Nat} {ws : List (Nat × Nat)} : Latched s (putWords s c ws) := .foldl fun _ _ => setShapeWord_latched

theorem splRun_latched {s : State} {c : Nat} {p : Plan} {writes : List (Nat × Nat)} {zeros : List Nat} {eff : State → SplitOut} :
    Latched s (splRun s c p writes zeros eff).st := by
  simp only [splRun]
  split
  · split
    · exact putWords_latched
    · exact reject_latched
  · exact runAfter_latched fun _ => .after .own (putWords_latched.after applyPuts_latched)

theorem splitOp_latched {c face : Nat} {aged : Bool} {opcode : Nat} {body : Body} {s : State} (h : LatchingBody body) :
    Latched s (splitOp c face aged opcode body s) :=
  issueOp_latched h

theorem bodyEroute_latching : LatchingBody bodyEroute := fun _ _ _ => splRun_latched

theorem bodyCompact_latching : LatchingBody bodyCompact := fun _ _ _ => splRun_latched

theorem bodyMgate_latching : LatchingBody bodyMgate := fun _ _ _ => splRun_latched

/-! ## The codec's encoder -/

theorem vencEff_latched {s : State} {c e : Nat} : Latched s (vencEff s c e).st := by
  have stream (u : State) (n : Nat) (f : State × Nat → EncPic × Nat × Nat → State × Nat) (l : List (EncPic × Nat × Nat))
      (h : ∀ a x, Latched a.1 (f a x).1) : Latched u (l.foldl f (u, n)).1 :=
    .foldl_fst (a := (u, n)) h
  simp only [vencEff]
  refine vccAdd_latched.after (putCount_latched.after (applyPuts_latched.after (.after (stream _ _ _ _ fun _ _ => wrNum_latched) ?_)))
  exact .ite (.refl s) wrNum_latched

theorem bodyVenc_latching : LatchingBody bodyVenc := by
  intro s c q
  have ran (p : Plan) (reads writes : List (Nat × Nat)) : Latched s (runAfter s c p reads writes fun s => vencEff s c q.env).st :=
    runAfter_latched fun _ => vencEff_latched
  simp only [bodyVenc]
  split
  · exact reject_latched
  · rw [apply_ite Result.st]
    exact .ite (ran ..) (inPictures_latched (ran ..))

/-! ## The clock -/

theorem slewTick_latched {s : State} : Latched s (slewTick s) := .ite (.refl _) updTime_latched

theorem waitTick_latched {s : State} : Latched s (waitTick s) := .ite (.refl _) updFab_latched

theorem idleTick_latched {s : State} : Latched s (idleTick s) := .ite (.refl _) .own

theorem tick_latched {s : State} : Latched s (tick s) :=
  .ite (idleTick_latched.after (waitTick_latched.after (slewTick_latched.after .own))) (.refl _)

/-! ## Rows that reset the module -/

theorem resetModule_latched {s : State} : Latched s (resetModule s) := .same rfl

theorem assertCause_latched {s : State} {k : Nat} : Latched s (assertCause s k) := .ite .own (resetModule_latched.after .own)

theorem execResetButtonClose_latches {s : State} : Latches s (execResetButtonClose s) := by
  have closed : Latched s (inputEvent (inputLevel s 2 true) 2 inputSpacing) := inputEvent_latched.after inputLevel_latched
  exact .ite (.next (.refl s)) (.next (.ite closed (assertCause_latched.after closed)))

theorem execModuleResetRelease_latches {s : State} : Latches s (execModuleResetRelease s) :=
  .ite (.next (withHealth_latched.after (fwStateChg_latched.after (domRise_latched.after (domRise_latched.after (.after .own updAoc_latched))))))
    (.next (.refl s))

/-! ## Capture sets (R515) -/

/-- No row clears a capture set but a write of RAS_FIRST_CLR and a power-on of the management island. -/
theorem exec_latches {i : Instr} {s : State} (cleared : ∀ v, i ≠ .rasFirstClr v) (cold : ∀ a b, i ≠ .mgmtPowerOn a b) : Latches s (exec i s) := by
  cases i with
  | nop => exact execNop_latches
  | stepAdvance => exact execStepAdvance_latches
  | tallySet => exact execTallySet_latches
  | shapeSet => exact execShapeSet_latches
  | qmm => exact .next (issueOp_latched bodyQmm_latching)
  | qmmBatch => exact .next (issueOp_latched bodyQmmBatch_latching)
  | qdrain => exact .next (issueOp_latched bodyQdrain_latching)
  | qfill => exact .next (issueOp_latched bodyQfill_latching)
  | qzero => exact .next (issueOp_latched bodyQzero_latching)
  | cmv => exact .next (issueOp_latched bodyCmv_latching)
  | ew => exact .next (dressOp_latched bodyEw_latching)
  | act => exact .next (dressOp_latched bodyAct_latching)
  | actBwd => exact .next (dressOp_latched bodyActBwd_latching)
  | norm => exact .next (dressOp_latched bodyNorm_latching)
  | normBwd => exact .next (dressOp_latched bodyNormBwd_latching)
  | smx => exact .next (dressOp_latched bodySmx_latching)
  | smxBwd => exact .next (dressOp_latched bodySmxBwd_latching)
  | smxMerge => exact .next (dressOp_latched bodySmxMerge_latching)
  | red => exact .next (dressOp_latched bodyRed_latching)
  | cvt => exact .next (dressOp_latched bodyCvt_latching)
  | split3 => exact .next (dressOp_latched bodySplit3_latching)
  | esAcc => exact .next (dressOp_latched bodyEsAcc_latching)
  | esFinal => exact .next (dressOp_latched bodyEsFinal_latching)
  | gather => exact .next (dressOp_latched bodyGather_latching)
  | scatter => exact .next (dressOp_latched bodyScatter_latching)
  | scatterAdd => exact .next (dressOp_latched bodyScatterAdd_latching)
  | adamw => exact .next (dressOp_latched bodyAdamw_latching)
  | cgq => exact .next (issueOp_latched bodyCgq_latching)
  | cgdq => exact .next (issueOp_latched bodyCgdq_latching)
  | cprobe => exact .next (issueOp_latched bodyCprobe_latching)
  | sput => exact .next (stashOp_latched stashBody_latching)
  | sget => exact .next (stashOp_latched stashBody_latching)
  | sraise => exact .next (stashOp_latched stashBody_latching)
  | sfree => exact .next (stashOp_latched bodySfree_latching)
  | hcopy => exact .next (issueOp_latched bodyHcopy_latching)
  | hset => exact .next (issueOp_latched bodyHset_latching)
  | cattn => exact .next (canopyOp_latched bodyCattn_latching)
  | rappend => exact .next (canopyOp_latched bodyRappend_latching)
  | rseqOpen => exact .next (canopyOp_latched (rseqBody_latching fun _ _ _ => rseqOpen_latched))
  | rseqClose => exact .next (canopyOp_latched (rseqBody_latching fun _ _ _ => rseqClose_latched))
  | rseqPriority => exact .next (canopyOp_latched (rseqBody_latching fun _ _ _ => .own))
  | rseqTruncate => exact .next (canopyOp_latched (rseqBody_latching fun _ _ _ => rseqTruncate_latched))
  | rseqEvict => exact .next (canopyOp_latched (rseqBody_latching fun _ _ _ => rseqEvict_latched))
  | rseqFetch => exact .next (canopyOp_latched (rseqBody_latching fun _ _ _ => .own))
  | eroute => exact .next (splitOp_latched bodyEroute_latching)
  | compact => exact .next (splitOp_latched bodyCompact_latching)
  | mgate => exact .next (splitOp_latched bodyMgate_latching)
  | cwrite => exact .next (fabOp_latched bodyCwrite_latching)
  | cread => exact .next (fabOp_latched bodyCread_latching)
  | csignal => exact .next (fabOp_latched bodyCsignal_latching)
  | crs => exact .next collIssue_latched
  | cag => exact .next collIssue_latched
  | car => exact .next collIssue_latched
  | ca2aDispatch => exact .next collIssue_latched
  | ca2aCombine => exact .next collIssue_latched
  | cpermute => exact .next collIssue_latched
  | cledger => exact .next collIssue_latched
  | cdigest => exact .next collIssue_latched
  | tfeed => exact .next (tapOp_latched bodyFeed_latching)
  | tlive => exact .next (tapOp_latched bodyFeed_latching)
  | tstop => exact .next (tapOp_latched bodyTstop_latching)
  | tstate => exact .next (tapOp_latched bodyTstate_latching)
  | vdec => exact .next (vccOp_latched bodyVdec_latching)
  | venc => exact .next (vccOp_latched bodyVenc_latching)
  | boxdec => exact .next (bdOp_latched bodyBoxdec_latching)
  | boxsel => exact .next (bdOp_latched bodyBoxsel_latching)
  | nms => exact .next (bdOp_latched bodyNms_latching)
  | argmax => exact .next (bdOp_latched bodyArgmax_latching)
  | packageStart => exact execPackageStart_latches
  | envelopeDispatch => exact execEnvelopeDispatch_latches
  | waitTimeout => exact execWaitTimeout_latches
  | operationCompletion => exact execOperationCompletion_latches
  | hazardRangeRelease => exact execHazardRangeRelease_latches
  | prefetchSignal => exact execPrefetchSignal_latches
  | taprootSample => exact execTaprootSample_latches
  | batchPublish => exact execBatchPublish_latches
  | liveDatagramReceive => exact execLiveDatagramReceive_latches
  | liveTick => exact execLiveTick_latches
  | vccPicture session => exact execVccPicture_latches (session := session)
  | imageRetire => exact .ite (.next retireImage_latched) (.next (.refl _))
  | sqDoorbell => exact .ite (.next (.refl _)) (.ite (.next raiseIrq_latched) (.next (pumpSq_latched.after updMbx_latched)))
  | cqDoorbell => exact .ite (.next (.refl _)) (.ite (.next raiseIrq_latched) (.next (pumpSq_latched.after updMbx_latched)))
  | ringEnable => exact execRingEnable_latches
  | ringDisable => exact execRingDisable_latches
  | mbxIrqClear => exact .ite (.next (.refl _)) (.next (irqUpdate_latched.after updMbx_latched))
  | foremanRestart => exact execForemanRestart_latches
  | recoveryImageLoad => exact execRecoveryImageLoad_latches
  | eventsLost => exact execEventsLost_latches
  | identify => exact .next (runCmd_latched fun _ _ => workIdentify_latched)
  | health => exact .next (runCmd_latched fun _ _ => workHealth_latched)
  | cfgGet => exact .next (runCmd_latched fun _ _ => workCfgGet_latched)
  | cfgSet => exact .next (runCmd_latched fun _ _ => workCfgSet_latched)
  | fwStage => exact .next (runCmd_latched fun _ _ => workFwStage_latched)
  | fwActivate => exact .next (runCmd_latched fun _ _ => workFwActivate_latched)
  | fwStatus => exact .next (runCmd_latched fun _ _ => workFwStatus_latched)
  | calRead => exact .next (runCmd_latched fun _ _ => workCalRead_latched)
  | calWrite => exact .next (runCmd_latched fun _ _ => workCalWrite_latched)
  | bistRun => exact .next (runCmd_latched fun _ _ => workBist_latched)
  | repairMapOut => exact .next (runCmd_latched fun _ _ => workMapOut_latched)
  | repairUnmap => exact .next (runCmd_latched fun _ _ => workUnmap_latched)
  | repairLaneSwap => exact .next (runCmd_latched fun _ _ => workLaneSwap_latched)
  | labelUpdate => exact .next (runCmd_latched fun _ _ => workLabel_latched)
  | ctxOpen => exact .next (runCmd_latched fun _ _ => workOpen_latched)
  | ctxClose => exact .next (runCmd_latched fun _ _ => workClose_latched)
  | ctxQuery => exact .next (runCmd_latched fun _ _ => .own)
  | ctxMap => exact .next (runCmd_latched fun _ _ => workMap_latched)
  | pkgSubmit => exact .next (runCmd_latched fun _ _ => workSubmit_latched)
  | pkgRetry => exact .next (runCmd_latched fun _ _ => workPkg_latched fun _ _ => pkgRetry_latched)
  | pkgSkip => exact .next (runCmd_latched fun _ _ => workPkg_latched fun _ _ => skipPkg_latched)
  | pkgAbort => exact .next (runCmd_latched fun _ _ => workPkg_latched fun _ _ => pkgAbort_latched)
  | tallyRead => exact .next (runCmd_latched fun _ _ => workTallyRead_latched)
  | tallySetCmd => exact .next (runCmd_latched fun _ _ => workTallySet_latched)
  | ledgerRead => exact .next (runCmd_latched fun _ _ => workLedgerRead_latched)
  | ledgerWrite => exact .next (runCmd_latched fun _ _ => workLedgerWrite_latched)
  | stashWrite => exact .next (runCmd_latched fun _ _ => workStashWrite_latched)
  | ckptSave => exact .next (runCmd_latched fun _ _ => workSave_latched)
  | ckptRestore => exact .next (runCmd_latched fun _ _ => workRestore_latched)
  | fabRecord => exact .next (runCmd_latched fun _ _ => workFabRecord_latched)
  | fabRoute => exact .next (runCmd_latched fun _ _ => workFabRoute_latched)
  | fabTunnelOpen => exact .next (runCmd_latched fun _ _ => workTunOpen_latched)
  | fabTunnelClose => exact .next (runCmd_latched fun _ _ => workTunClose_latched)
  | fabPortDisable => exact .next (runCmd_latched fun _ _ => workFabPort_latched)
  | fabPortEnable => exact .next (runCmd_latched fun _ _ => workPortEnable_latched)
  | fabPortRetrain => exact .next (runCmd_latched fun _ _ => workFabPort_latched)
  | timeRead => exact .next (runCmd_latched fun _ _ => workTimeRead_latched)
  | timeConfig => exact .next (runCmd_latched fun _ _ => workTimeConfig_latched)
  | traceConfig => exact .next (runCmd_latched fun _ _ => workTraceConfig_latched)
  | traceStart => exact .next (runCmd_latched fun _ _ => workTraceStart_latched)
  | traceStop => exact .next (runCmd_latched fun _ _ => workTraceStop_latched)
  | traceFlush => exact .next (runCmd_latched fun _ _ => workTraceFlush_latched)
  | logRead => exact .next (runCmd_latched fun _ _ => workLogRead_latched)
  | pwrCap => exact .next (runCmd_latched fun _ _ => workPwrCap_latched)
  | pwrRetain => exact .next (runCmd_latched fun _ _ => workPwrRetain_latched)
  | bar2Access => exact execBar2Access_latches
  | bar2Resize => exact .ite (.next .own) (.next (.refl s))
  | timElapsedRead => exact .ite (.next (.refl _)) (.next (.after .own updTime_latched))
  | qryPerfClear => exact .ite (.next .own) (.next (.refl _))
  | clearPeak => exact .ite (.next stashCtl_latched) (.next (.refl _))
  | cruPerfClear => exact .ite (.next .own) (.next (.refl _))
  | rsPerfClear => exact .ite (.next .own) (.next (.refl _))
  | splPerfClear => exact .ite (.next .own) (.next (.refl _))
  | memPerfClear => exact .ite (.next .own) (.next (.refl _))
  | tapPerfClear => exact .ite (.next .own) (.next (.refl _))
  | vccPerfClear => exact .ite (.next .own) (.next (.refl _))
  | fabPerfClear => exact .ite (.next updFab_latched) (.next (.refl _))
  | colPerfClear => exact .ite (.next updFab_latched) (.next (.refl _))
  | hwReset => exact .ite (.next (.refl _)) (.next (.ras rfl))
  | registerWrite => exact execRegisterWrite_latches
  | i2cRegisterRead => exact .ite (.next (.refl s)) (.next (.after .own (countEvent_latched.after (countEvent_latched.after unstick_latched))))
  | inputLow => exact .ite (.next (.refl _)) (.next (withHealth_latched.after (relayEnter_latched.after logErr_latched)))
  | inputDip => exact .next (.refl _)
  | startUp => exact execStartUp_latches
  | perstAssert => exact execPerstAssert_latches
  | perstRelease => exact execPerstRelease_latches
  | resetButtonOpen => exact .ite (.next (dropButton_latched.after unstick_latched)) (.next (.refl s))
  | buttonStuck => exact execButtonStuck_latches
  | buttonIgnoredClear => exact .ite (.next updAoc_latched) (.next (.refl _))
  | inputStuck => exact execInputStuck_latches
  | ppsEdge => exact execPpsEdge_latches
  | syncEdge => exact execSyncEdge_latches
  | heartbeatTick => exact .ite (.next updMbx_latched) (.next (.refl _))
  | labelDrawing => exact .ite (.next (.refl _)) (.ite (.next endDrawing_latched) (.ite (.next beginDrawing_latched) (.next (.refl _))))
  | faceJunctionReading => exact execFaceJunctionReading_latches
  | junctionThrottleStep => exact .ite (.next (.refl _)) (.next (levelChange_latched.after updPwr_latched))
  | neighbourThrottleStep => exact execNeighbourThrottleStep_latches
  | hbmTempReading => exact execHbmTempReading_latches
  | farTempReport => exact .ite (.next (.refl _)) (.next .own)
  | thermAlertRelease => exact .ite (.next (.refl _)) (.next updPwr_latched)
  | powerSample => exact .ite (.next (.refl s)) (.next (updMbx_latched.after (updPwr_latched.after inputHigh_latched)))
  | capLevelStep => exact .ite (.next (.refl _)) (.next (levelChange_latched.after updPwr_latched))
  | domainWake => exact .ite (.next domRise_latched) (.next (.refl _))
  | domainIdlePowerDown => exact .ite (.next domFall_latched) (.next (.refl _))
  | retentionAutoEntry => exact .ite (.next .own) (.next (.refl s))
  | stockpileScrub => exact execStockpileScrub_latches
  | nearScrub => exact execNearScrub_latches
  | timeFrameReceive => exact .ite (.next (.refl _)) (.ite (.next ringBad_latched) (.ite (.next (.refl _)) (.next takeTimeFrame_latched)))
  | timeFrameSend => exact .ite (.next (ringOriginate_latched.after updSbr_latched)) (.next (.refl _))
  | timeFrameTimeout => exact .next (timeChanged_latched.after (chooseSource_latched.after updSbr_latched))
  | ptpMessageReceive => exact execPtpMessageReceive_latches
  | timeHoldoverExpiry => exact .ite (.next (timeChanged_latched.after (chooseSource_latched.after .own))) (.next (.refl _))
  | ringFrameReceive => exact execRingFrameReceive_latches
  | ringInsert => exact .ite (.next updSbr_latched) (.next (.refl _))
  | insertWindow => exact .ite (.next (ringOriginate_latched.after drawFree_latched)) (.next (.refl _))
  | discover => exact .ite (.next ringOriginate_latched) (.next (.refl _))
  | linkFrameReceive => exact execLinkFrameReceive_latches
  | ackReport => exact .ite (.next updPort_latched) (.next (.refl _))
  | laneSwap => exact .ite (.next (withHealth_latched.after (laneSwapped_latched.after updPort_latched))) (.next (.refl _))
  | widthChange => exact execWidthChange_latches
  | portDown => exact .ite (.next (withHealth_latched.after portDown_latched)) (.next (.refl _))
  | portInit => exact execPortInit_latches
  | packetForward => exact execPacketForward_latches
  | write => exact execWrite_latches
  | readReq => exact execReadReq_latches
  | readRsp => exact execReadRsp_latches
  | ack => exact execAck_latches
  | signal => exact execSignal_latches
  | coll => exact execColl_latches
  | ctrl => exact execCtrl_latches
  | remoteTimeout => exact execRemoteTimeout_latches
  | ethernetFrameReceive => exact .ite (.next updFab_latched) (.next (.refl _))
  | jouData => exact execJouData_latches
  | jouAck => exact .ite (.next (.refl _)) (.ite (.next jouDiscard_latched) (.ite (.next (.refl _)) (.next (pumpTun_latched.after updTun_latched))))
  | probe => exact execProbe_latches
  | jouAckTimer => exact .ite (.next sendJouAck_latched) (.next (.refl _))
  | jouRetransmit => exact execJouRetransmit_latches
  | jouFenceRelease => exact execJouFenceRelease_latches
  | tunnelDown => exact .ite (.next (postEvent_latched.after (logErr_latched.after (fabCount_latched.after tunnelDown_latched)))) (.next (.refl _))
  | errorEvent => exact execErrorEvent_latches
  | coalesceClose => exact .next (.ras (closeCoal_first ..))
  | logCommit => exact execLogCommit_latches
  | commandCompletion => exact execCommandCompletion_latches
  | pcieLinkUp => exact .ite (.next (traceResume_latched.after .own)) (.next (.refl _))
  | pcieLinkDown => exact .next linkDown_latched
  | liveFrameIncomplete => exact execLiveFrameIncomplete_latches
  | ringLockLost => exact .next (.after (.ite closeRelays_latched (.refl _)) updSbr_latched)
  | moduleReset => exact .ite (.next assertCause_latched) (.next (.refl s))
  | inputUndervolt => exact .ite (.next assertCause_latched) (.next (.refl s))
  | railFault => exact .ite (.next (withHealth_latched.after assertCause_latched)) (.next (.refl s))
  | trayResetAssert => exact .ite (.next (assertCause_latched.after (inputEvent_latched.after inputLevel_latched))) (.next (.refl s))
  | trayResetDeassert => exact .ite (.next (updAoc_latched.after unstick_latched)) (.next (.refl s))
  | resetButtonClose => exact execResetButtonClose_latches
  | moduleResetRelease => exact execModuleResetRelease_latches
  | mgmtPowerLoss => exact .next (.after .own resetModule_latched)
  | rasFirstClr v => exact absurd rfl (cleared v)
  | mgmtPowerOn slot valid => exact absurd rfl (cold slot valid)

/-- A write of RAS_FIRST_CLR clears the sets whose bit is 1 and leaves the others. -/
theorem execRasFirstClr_first {v : BitVec 64} {s : State} (on : barOn s = true) :
    ∃ t, execRasFirstClr v s = .next t ∧
      ∀ k, nth noCapture t.ras.first k = if v.getLsbD k then noCapture else nth noCapture s.ras.first k := by
  refine ⟨_, if_neg (by simp [on]), fun k => ?_⟩
  cases listed : s.ras.first[k]? <;> simp [nth, listed]

theorem execRasFirstClr_captures {v : BitVec 64} {s t : State} {k : Nat} (unset : v.getLsbD k = false) (row : execRasFirstClr v s = .next t) :
    nth noCapture t.ras.first k = nth noCapture s.ras.first k := by
  cases on : barOn s with
  | false =>
    obtain rfl := Host.Outcome.next.inj ((if_pos (by simp [on])).symm.trans row)
    rfl
  | true =>
    obtain ⟨u, cleared, sets⟩ := execRasFirstClr_first (v := v) on
    obtain rfl := Host.Outcome.next.inj (cleared.symm.trans row)
    simp [sets k, unset]

/-- No step changes a valid capture set but a clear that names it and a power-on of the management island. -/
theorem step_captures {s t : State} {k : Nat} (stepped : step s = .next t) (valid : (nth noCapture s.ras.first k).valid = true)
    (uncleared : ∀ v : BitVec 64, s.pending.head? = some (.rasFirstClr v) → v.getLsbD k = false)
    (warm : ∀ a b, s.pending.head? ≠ some (.mgmtPowerOn a b)) : nth noCapture t.ras.first k = nth noCapture s.ras.first k := by
  obtain rfl | ⟨i, rest, front, row⟩ := step_cases stepped
  · exact tick_latched.captures k valid
  · simp only [front, List.head?_cons, ne_eq, Option.some.injEq] at uncleared warm
    by_cases clears : ∃ v, i = .rasFirstClr v
    · obtain ⟨v, rfl⟩ := clears
      exact execRasFirstClr_captures (s := { s with pending := rest }) (uncleared v rfl) row
    · exact (exec_latches (fun v named => clears ⟨v, named⟩) warm t row).captures k valid

theorem coldReset_first_invalid (s : State) (slot k : Nat) (slotValid : Bool) :
    (nth noCapture (coldReset s slot slotValid).ras.first k).valid = false := by
  show (nth noCapture (List.replicate 16 noCapture) k).valid = false
  rw [nth, List.getD_eq_getElem?_getD, List.getElem?_getD_replicate_default_eq]
  rfl

/-- Settles O44. -/
theorem captureSetsHold : Obligations.CaptureSetsHold := by
  refine ⟨fun s e inv class16 => ⟨fun fresh => ?first, rasEvent_keeps, fun k other => ?others⟩, fun s t k => step_captures, fun s v on => ?cleared,
    fun s a => ⟨_, rfl, fun k => coldReset_first_invalid s a.toNat k true⟩⟩
  case first =>
    obtain ⟨-, sixteen, -, -⟩ := inv.tables
    show nth noCapture (rasEvent s.ras s.elapsed s.boot e).first e.cls = _
    rw [rasEvent_first, if_neg (by simp [fresh])]
    simp [nth, sixteen, class16]
  case others =>
    show nth noCapture (rasEvent s.ras s.elapsed s.boot e).first k = _
    rw [rasEvent_first]
    split
    · rfl
    · simp [nth, List.getElem?_set_ne (Ne.symm other)]
  case cleared =>
    obtain ⟨t, row, sets⟩ := execRasFirstClr_first (v := v) on
    exact ⟨t, row, fun k named => by rw [sets k, if_pos named]; rfl⟩

end Sys2Proof.Machine
end
